-- ==== Sys2Proof/Word.lean ====
section
/-! DEFINITION. The words of the part and the data that travels in commands: statuses, packets, votes, tree nodes and the like, each a plain record named as the spec names it. -/

namespace Sys2Proof

/-- A byte of storage. -/
abbrev Byte := BitVec 8

/-- A 64-bit word: a register (R13), a parameter register, a hall address (R38). -/
abbrev Word := BitVec 64

/-- A stored 16-bit floating-point code (Table 2.2). -/
abbrev Half := BitVec 16

/-- The two grades (R1). -/
inductive Grade where
  | psn8128
  | psn8112
deriving DecidableEq, Repr, Inhabited

/-- Completion statuses (Table 5.5, R17). -/
inductive Status where
  | ok | widened | nonfinite | replacing | defaultRow
  | engineAbsent | formatAbsent | stalemate | badSignature | halted | aborted
deriving DecidableEq, Repr, Inhabited

/-- Code of a status (Table 5.5). -/
def Status.code : Status → Nat
  | .ok => 0x00 | .widened => 0x01 | .nonfinite => 0x02 | .replacing => 0x03 | .defaultRow => 0x04
  | .engineAbsent => 0x10 | .formatAbsent => 0x11 | .stalemate => 0x12 | .badSignature => 0x13
  | .halted => 0x14 | .aborted => 0x15

/-- Who gives a queue or release command (R173, R174, R438). -/
inductive Sender where
  | host
  | supervisor
deriving DecidableEq, Repr, Inhabited

/-- Where a RESOLVE comes from: an entry of a CME queue, or a member that passes it to the leader with the step, KEEP and ABORTSTEP (R294). -/
inductive Resolver where
  | entry (q : Nat)
  | member (part step keep : Nat) (abortStep : Bool)
deriving DecidableEq, Repr, Inhabited

/-- A number x = (−1)^neg × m × 2^e, an infinity or a NaN: the exact value of a code (R50 to R56). -/
inductive Val where
  | nan
  | inf (neg : Bool)
  | fin (neg : Bool) (m : Nat) (e : Int)
deriving DecidableEq, Repr, Inhabited

/-- A node of a reduction tree on its way to a SUC, its values in the format code `fmt`, U16w or U16n (R197). -/
structure Node where
  group : Nat
  addr : Nat
  lrow : Nat
  level : Nat
  pos : Nat
  vals : List Half
  fmt : Nat
deriving DecidableEq, Repr, Inhabited

/-- Where an atomic comes from, in the order of R31 and R377: the CME, an LKE queue (die, queue), an FXE queue, or another part (part number, source flow). -/
inductive AtomicSource where
  | cme
  | lke (die queue : Nat)
  | fxe (queue : Nat)
  | remote (part flow : Nat)
deriving DecidableEq, Repr, Inhabited

/-- An atomic request at the home SUC (R194): the hall address, the OP and TYPE codes of Table 6.5, the operand and the compare value. -/
structure AtomicReq where
  addr : Word
  op : Nat
  type : Nat
  value : Word
  compare : Word
  source : AtomicSource
deriving DecidableEq, Repr, Inhabited

/-- The reply of a home to a remote lookup run (R236): the partial row, or of a gather the row's codes; a refusal; or, `out`, that the home is in Hove-to or its copy serves no lookup, so that the next copy is asked (R291, R378). -/
structure RunReply where
  ok : Bool
  out : Bool
  row : List Half
deriving DecidableEq, Repr, Inhabited

/-- A remote lookup run as the home receives it (R236). `items` holds each position's row index and weight and its pos value. -/
structure RunRequest where
  part : Nat
  table : Nat
  epoch : Nat
  tensor : Nat
  outIndex : Nat
  items : List (Nat × Half × Nat)
deriving DecidableEq, Repr, Inhabited

/-- A scatter leaf or node as its home receives it (R253, R254): the sending part, for a leaf of this part its LKE die, queue and entry, the table, the version epoch pinned, the row, its tree node, how many leaves the node combines, and the step that it contributes to (R320). -/
structure Leaf where
  part : Nat
  queue : Option (Nat × Nat × Nat)
  table : Nat
  epoch : Nat
  row : Nat
  gid : Nat
  level : Nat
  pos : Nat
  vals : List Half
  count : Nat
  step : Nat := 0
deriving DecidableEq, Repr, Inhabited

/-- What the remote homes of a SCATTER answered: that all of them that are not in Hove-to took their leaves, and which are in Hove-to (R255, R378). -/
structure LeafAcks where
  all : Bool
  hove : List Nat
deriving DecidableEq, Repr, Inhabited

/-- One unit entry of a vote record (Table 8.5). -/
structure VoteUnit where
  table : Nat
  shard : Nat
  dense : Bool
  copy : Nat
  count : Nat
  digest : BitVec 128
deriving DecidableEq, Repr, Inhabited

/-- A layer entry (Table 9.6). -/
structure Layer where
  layer : Nat
  localSq : Nat
  globalSq : Nat
  elems : Nat
  zeros : Nat
  lparts : Nat
  flags : Nat
deriving DecidableEq, Repr, Inhabited

/-- A vote record (Table 8.5). -/
structure Vote where
  step : Nat
  part : Nat
  abort : Bool
  flags : Nat
  units : List VoteUnit
deriving DecidableEq, Repr, Inhabited

/-- A message up the gather tree: the vote records of the sender and of members below it, with the sums of their layer entries (R315, R384). -/
structure VoteMsg where
  votes : List Vote
  layers : List Layer
deriving DecidableEq, Repr, Inhabited

/-- A UCLOSE as the CME carries it out: its queue, and whether the copies of the digest unit disagreed (R281). -/
structure Closing where
  queue : Nat
  mismatch : Bool
deriving DecidableEq, Repr, Inhabited

/-- A request for votes: the leader that asks, and its step (R283, R285). -/
structure VoteRequest where
  part : Nat
  step : Nat
deriving DecidableEq, Repr, Inhabited

/-- Outcomes of a decision (Table 8.6a). -/
inductive Outcome where
  | commit | skip | abort | freeze | resolved
deriving DecidableEq, Repr, Inhabited

/-- Code of an outcome (Table 8.6a). -/
def Outcome.code : Outcome → Nat
  | .commit => 1 | .skip => 2 | .abort => 3 | .freeze => 4 | .resolved => 5

/-- Commands that a hall-wide vote decides (R262, R297, R369, R460 to R463): `hove` writes FLAGS[0] of a member entry (R367), and `jstart` names the parts of the job's shard map and of its spare list (R461). -/
inductive HallCmd where
  | tflip (table version : Nat)
  | toffline (table : Nat)
  | tonline (table version : Nat)
  | join (part role site : Nat) (id : Word)
  | leave (part : Nat)
  | role (part role : Nat)
  | lost (part : Nat)
  | hove (part : Nat) (flag : Bool)
  | phase (gen : Bool) (seg : Nat)
  | jstart (parts spares : List Nat)
  | jobStop
  | jobUpdate
deriving DecidableEq, Repr, Inhabited

/-- A decision of a step as it travels to the members (R284 to R287, R303, R315, R316, R319, R386): `kept` lists each unit with the digest that commits; `runs` are the becalmed runs after the decision. -/
structure Decision where
  step : Nat
  outcome : Outcome
  flags : Nat
  leader : Nat
  members : Nat
  minority : Nat
  tick : Nat
  votes : BitVec 128
  kept : List VoteUnit
  late : Nat
  dropped : Nat
  layers : List Layer
  runs : List (Nat × Nat)
  deadline : Nat
  lost : List (Nat × Option Nat)
  misses : List Nat
  hall : List HallCmd
deriving DecidableEq, Repr, Inhabited

/-- A decision as it reaches a part: a proposal that the leader sends its committee, or final (R285). -/
structure DecisionMsg where
  final : Bool
  decision : Decision
deriving DecidableEq, Repr, Inhabited

/-- An IEEE 1588 Announce message of a source (R359): what it says of its grandmaster and of the steps to it, and its Announce interval in ticks. -/
structure Announce where
  priority1 : Nat
  clockClass : Nat
  accuracy : Nat
  variance : Nat
  priority2 : Nat
  identity : Nat
  steps : Nat
  interval : Nat
deriving DecidableEq, Repr, Inhabited

/-- What a hall-wide vote was about: the part that issued the command, the command, and the hall tick of the decision (R262). -/
structure HallVote where
  part : Nat
  cmd : HallCmd
  tick : Nat
deriving DecidableEq, Repr, Inhabited

/-- Naelo packet types (Table 10.3). -/
inductive PktType where
  | data | ack | status | handshake | beacon | probe
deriving DecidableEq, Repr, Inhabited

/-- A Naelo packet (Table 10.3) with its payload in the clear; of a received one `sealOk` says whether the GCM tag or signature verifies, and `ce` whether the frame carries a CE mark. -/
structure Pkt where
  ver : Nat
  type : Option PktType
  first : Bool
  last : Bool
  retx : Bool
  cls : Nat
  dstFlow : Nat
  dstPart : Nat
  srcPart : Nat
  srcFlow : Nat
  path : Nat
  key : Nat
  feeder : Bool
  psn : Nat
  ackPsn : Nat
  win : Nat
  msg : Nat
  offset : Nat
  ts : Nat
  txc : Nat
  len : Nat
  payload : List Byte
  sealOk : Bool
  ce : Bool
deriving DecidableEq, Repr, Inhabited

/-- What a frame carries behind the MAC header and the tag, as the classifier of Table 10.6 reads it: ARP or neighbour discovery with the address asked for, a PTP message, a Naelo packet, or something that is dropped for a reason. -/
inductive FrameBody where
  | arp (target : Nat)
  | neighbour (target : Nat)
  | ptp (message : List Byte)
  | naelo (pkt : Pkt)
  | drop (reason : Nat)
deriving DecidableEq, Repr, Inhabited

/-- A received Ethernet frame (R332, R353): its bytes from the destination MAC address up to the FCS, and what the port's hardware says of it: that the PCS marked it bad or its FCS is wrong, the codewords of it that the PCS corrected and could not correct, the most symbol errors in one of them, the classes whose receive buffer it takes past three quarters, and for a signed packet that its signature verifies. -/
structure Frame where
  port : Nat
  bad : Bool
  corrected : Nat
  uncorrectable : Nat
  symbols : Nat
  full : List Nat
  signed : Bool
  bytes : List Byte
deriving DecidableEq, Repr, Inhabited

/-- A handshake message with the facts its checks need (Table 15.8, R483): `sigOk` is the verdict of its own signature; the other facts are read from its bytes. -/
structure Handshake where
  peer : Nat
  feeder : Bool
  sid : Word
  sigOk : Bool
  confirm : BitVec 256
  bytes : List Byte
deriving DecidableEq, Repr, Inhabited

/-- The verdict on an image that rests on sections whose byte layout the spec does not give: they pass what their chapters ask of them beside what the part reads of them (R445; log entry 4). -/
structure ImageVerdict where
  sectionsOk : Bool
deriving DecidableEq, Repr, Inhabited

/-- How a remote operation comes back to its requester (Table 11.4): performed, with the bytes it returns; refused or aborted at the home; answered STATUS HOVE_TO; or ended by a FAILED flow. -/
inductive RemoteReply where
  | ok (data : List Byte)
  | refused
  | hoveTo
  | failed
deriving DecidableEq, Repr, Inhabited

/-- A LOADED marker (R461, R463): the image digest, whether the image updates a running job, and the parts of its shard map and of its spare list. -/
structure LoadedMark where
  digest : BitVec 128
  update : Bool
  parts : List Nat
  spares : List Nat
deriving DecidableEq, Repr, Inhabited

/-- A PROMOTED marker (R387, R388): the shards restored, each with its E_k, and, as the leader passes it on, the tick at which it recorded them. -/
structure PromotedMark where
  shards : List (Nat × Nat)
  tick : Nat
deriving DecidableEq, Repr, Inhabited

/-- A logical shard that a spare restores (Table 11.5): the records of its checkpoint and of its ward, each in the layout of Table 8.8; none where READY copies at other members gave its rows. -/
structure RestoredShard where
  shard : Nat
  records : List (List Byte)
deriving DecidableEq, Repr, Inhabited

/-- An entry into Hove-to: its cause (Table 13.6), and for MONITOR whether one copy of the monitor passes its self-check (R425). -/
structure HoveCause where
  cause : Nat
  healthy : Bool := true
deriving DecidableEq, Repr, Inhabited

/-- A remote request as its home receives it (R375 to R377): a read of `len` bytes, a write with its optional notify (die, flag, increment, naming queue), or an atomic with OP, TYPE, operand and compare value. -/
inductive RemoteKind where
  | read (len : Nat)
  | write (data : List Byte) (note : Option (Nat × Nat × Nat × Nat))
  | atomic (op type : Nat) (value compare : Word)
deriving DecidableEq, Repr, Inhabited

/-- A remote request with its source part, source flow and hall address (R378). -/
structure RemoteReq where
  part : Nat
  flow : Nat
  addr : Word
  kind : RemoteKind
deriving DecidableEq, Repr, Inhabited

/-- The request on which a SUC's duplicated units mismatched (R203): that of an entry in execution, an atomic of another requester or of another part, a node that a die's LKE sent, the CAS or GADD of a leaf, the close of a Keeper table's window, or none that is still there. -/
inductive SucVictim where
  | entry (id : Nat)
  | atomic (req : AtomicReq)
  | remote (req : RemoteReq)
  | node (die : Nat) (n : Node)
  | leaf (l : Leaf)
  | window (table : Nat)
  | nothing
deriving DecidableEq, Repr, Inhabited

/-- An integer atomic that a SUC has received in the tick in progress (R31, R377): of an LKE or FXE entry in execution as (queue, entry), of a requester outside this part's queues, of another part, or on behalf of a leaf: one that arrives, one that waited for its group until a tick, or a stale one that enters a group that closes (R255, R322). -/
inductive Arrival where
  | entry (q id : Nat)
  | outside (req : AtomicReq)
  | remote (req : RemoteReq)
  | leaf (l : Leaf)
  | again (l : Leaf) (due : Nat)
  | stale (gid : Nat) (l : Leaf)
deriving DecidableEq, Repr, Inhabited

/-- A node of a collective's tree as it arrives at the chunk's owner or delegate: TENSOR, epoch or generation round, the logical shard that owns the chunk, the node, and the chunk's values (R379 to R381); with `gather`, the chunk of an ALLGATHER as its owner sends it (R382). -/
structure TreeNode where
  tensor : Nat
  epoch : Nat
  chunk : Nat
  level : Nat
  pos : Nat
  vals : List Half
  gather : Bool := false
deriving DecidableEq, Repr, Inhabited

/-- One reading of the sensors (R542): junction temperature, the eight stack temperatures, P12V power and voltage. -/
structure Reading where
  tj : Nat
  stackTemps : List Nat
  watts : Nat
  mv : Nat
deriving DecidableEq, Repr, Inhabited

/-- The two transports that carry SPDM (R488, R489). -/
inductive Transport where
  | doe
  | mctp
deriving DecidableEq, Repr, Inhabited

/-- Findings of the self-qualification (R457): failed cores by global index, failed HBM channels as (stack, channel), and whether a Ledger copy, a package link or a port group failed. -/
structure Findings where
  cores : List Nat
  channels : List (Nat × Nat)
  other : Bool
deriving DecidableEq, Repr, Inhabited

/-- A measurement of a physical self-test: it produced the reference signature and every injected error made its checker fire (R110, R142, R418). -/
abbrev TestPass := Bool

end Sys2Proof
end

