-- ==== Sys2Proof/Syntax.lean ====
section
/-! DEFINITION. The commands of the part: one constructor per row of the spec's table of operations and events. Operands are what the row's sender supplies: the queue an entry runs on, a register offset and value, a packet, or the outcome of something physical (a test that passed, a margin measured, a reply that came back). `q` is a setter code of Table 5.3, `core` a global core index of R21, `die` 0 to 7. -/

namespace Sys2Proof

/-- One command per row of the table, in the table's order. -/
inductive Instr where
  -- Matrix engine
  | mmul (q : Nat)
  | mtest (q : Nat) (pass : TestPass)
  | residueMismatch (core pass : Nat)
  | residueRetryEnd (core : Nat) (ok : Bool)
  -- Vector engine; `bad` lists the groups whose check mismatched and whether the recompute passed (R140)
  | eprog (q : Nat) (bad : List (Nat × Bool))
  | cvt (q : Nat) (bad : List (Nat × Bool))
  | drun (q : Nat) (mismatch : Bool)
  | vtest (q : Nat) (pass : TestPass)
  | vxeModeChange (core : Nat)
  -- Common, control and DMA entries
  | nop (q : Nat)
  | replay (q : Nat)
  | pset (q : Nat)
  | jump (q : Nat)
  | endEntry (q : Nat)
  | flagadd (q : Nat)
  | pcopy (q : Nat)
  | copy (q : Nat)
  | fill (q : Nat)
  -- Life of an entry and queue commands
  | entryStart (q : Nat)
  | entryCompletion (q id : Nat)
  | ringEntryTake (q : Nat)
  | go (q : Nat) (who : Sender)
  | resume (q : Nat) (who : Sender)
  | retry (q : Nat) (who : Sender)
  | abortEntry (q : Nat) (who : Sender)
  | stop (q : Nat) (who : Sender)
  | stalemateScan
  | stalemateHold
  | paramWrite (q m : Nat) (value : Word)
  | ringRegisterWrite (off : Nat) (value : Word)
  -- Lookup engine
  | lookup (q : Nat) (replies : List RunReply)
  | scatter (q : Nat) (acked : LeafAcks) (stale : Bool)
  | hrefresh (q : Nat)
  | migrationFlip (done faulted : List Nat)
  | atomic (q : Nat)
  | gopen (q : Nat)
  | gclose (q : Nat) (mismatch : Option Nat)
  | gadd (die : Nat) (node : Node)
  | sucAtomic (req : AtomicReq)
  | sucMismatch (die : Nat) (again : Bool) (victim : SucVictim)
  | sucTest (die : Nat) (pass : TestPass)
  | remoteRunRequest (run : RunRequest)
  | leafArrival (leaf : Leaf)
  | leafGroupWaitExpiry
  | keeperApply
  -- Table replacement
  | tstage (q : Nat)
  | tflip (q : Nat)
  | toffline (q : Nat)
  | tonline (q : Nat)
  | oldVersionRelease (part table version : Nat)
  -- The step
  | uopen (q : Nat)
  | uclose (c : Closing)
  | vote (q : Nat)
  | voteReceive (m : VoteMsg)
  | voteLimitExpiry
  | decisionFinal (part : Nat)
  | decisionReceive (d : DecisionMsg)
  | unitApplyDone
  | leaderTakeover (held : Option Decision)
  | minorityRefetch (slot : Nat) (step : Nat) (rows : List (Nat × List (List Byte)))
  | resolve (by_ : Resolver)
  | freezeLimitExpiry
  | unitResolution (slot : Nat) (committee : Option (Option Outcome))
  | exportShard (q : Nat)
  | phase (q : Nat)
  | phaseSwitch
  | sentMarkerSend
  | sentReceive (part step : Nat)
  | tempoDeadline
  | lateSetReceive (step : Nat) (late stale : List Nat)
  -- Remote operations, collectives, intake, flows
  | rread (q : Nat) (reply : RemoteReply)
  | rwrite (q : Nat) (reply : RemoteReply)
  | ratomic (q : Nat) (reply : RemoteReply)
  | remoteRequest (req : RemoteReq)
  | redscat (q : Nat) (arrivals : List TreeNode)
  | allgather (q : Nat) (chunks : List TreeNode)
  | collectiveTimeout (q id : Nat)
  | pull (q : Nat) (reply : Option RemoteReply)
  | pullLimitExpiry (q id : Nat)
  | flowctlOpen (q : Nat)
  | flowctlClose (q : Nat)
  | flowctlReset (q : Nat)
  | mchangeJoin (q : Nat)
  | mchangeLeave (q : Nat)
  | mchangeRole (q : Nat)
  -- The hall
  | hallVoteDecision (v : HallVote) (accepted : Bool)
  | hallChangeEffect
  | memberHeartbeat
  | memberLostTimeout (part : Nat)
  | partPromotionRestore (ok : Bool) (shards : List RestoredShard) (rows : List (Nat × List Byte))
  | promotedReceive (part : Nat) (mark : PromotedMark)
  | resignReceive (part : Nat)
  -- Naelo packets and timers
  | dataReceive (p : Pkt)
  | ackReceive (p : Pkt)
  | statusReceive (p : Pkt)
  | probeReceive (p : Pkt)
  | frameReceive (f : Frame)
  | ackDelayExpiry (flow : Nat)
  | rtoExpiry (flow psn : Nat)
  | pathHoldExpiry (flow path : Nat)
  -- Ports
  | arpRequest (port target : Nat)
  | neighbourSolicitation (port target : Nat)
  | gatewayResolve (port : Nat) (mac : Option Nat)
  | pfcFrame (port classes : Nat)
  | portLinkDown (port : Nat)
  | portLinkUp (port lanes : Nat)
  | portGroupFault (group : Nat)
  -- Sessions
  | helloReceive (h : Handshake)
  | replyReceive (h : Handshake)
  | finishReceive (h : Handshake)
  | handshakeTimeout (peer : Nat) (feeder : Bool)
  | rekey (peer : Nat) (feeder : Bool) (ok : Bool)
  | sessionTxcLimit (peer : Nat) (feeder : Bool)
  | beaconSend (port : Nat)
  -- Time
  | ptpSync (source : Nat) (offset : Int) (twoStep : Bool)
  | ptpFollowUp (source : Nat) (offset : Int)
  | ptpDelayResp (source : Nat) (delay : Int)
  | ptpAnnounce (source : Nat) (message : Announce)
  | ptpDelayReqSend (source : Nat)
  | ptpHoldoverEntry
  | ppsEdge (error : Int)
  | tick
  | aonRefclkLoss
  -- Sleep and sideband
  | lullEntry (core : Nat)
  | deepLullEntry (core : Nat)
  | coreWake (core : Nat)
  | perstNAssert (ticks : Nat)
  | perstNDeassert
  | holdNLow (ticks : Nat)
  | holdTakeEffect
  | holdNHigh (ticks : Nat)
  | holdLimitExpiry
  | sidebandChatter (input transitions : Nat)
  | sidebandAutoUnmask (input : Nat)
  | sbUnmask (mask : Nat)
  -- Safety
  | rotatingSelfTest (core : Nat) (pass : TestPass)
  | coreRecoveryTestEnd (core : Nat) (pass : TestPass)
  | spareTestEnd (die : Nat) (pass : TestPass)
  | promotionComplete (die : Nat)
  | hoveToEntry (cause : HoveCause)
  | hoveEnter
  | hoveRelease (who : Sender) (cmeTest : TestPass)
  | errRecordUnlock
  | errRingReadAdvance (read : Nat)
  | staleRecordUnlock
  | linkFlitCrcFail (link : Nat) (replayOk : Bool)
  | linkRetrainEnd (link : Nat) (pass : TestPass)
  | ledgerRebuild (copy : Nat)
  -- Memory care
  | patrolRead (die memory : Nat)
  | selfRefreshPatrolExit (die : Nat)
  | retune (die channel : Nat)
  | retuneEnd (die channel margin : Nat)
  | ceLimitExceeded (die channel : Nat)
  | channelDead (die channel : Nat)
  | evacuationDone (die : Nat)
  | retrainVerifyEnd (die : Nat) (pass : TestPass)
  | copyBackDone (die : Nat)
  -- Power and clocks; `a` and `b` are the verdicts on the images of slots A and B, `failed` lists cores whose start-up test failed
  | throttleReading (r : Reading)
  | thermalTrip
  | p12vLoss
  | railFault (rail : Nat)
  | p12vRestore (a b : Option ImageVerdict) (failed : List Nat)
  | p12vAbsentAtBoot
  | p3v3AonLoss
  | ethRefclkMissing (iod : Nat)
  | pcieRefclkMissing
  -- Start; `reply` is what RREAD from the job image area of a peer returned (R460)
  | powerOnReset (a b : Option ImageVerdict) (failed : List Nat)
  | hallContact (answer : Option Nat)
  | hallFound
  | qualify (found : Findings)
  | cfgWrite (slot : Nat) (v : ImageVerdict)
  | cfgErase (slot : Nat)
  | jobLoad (v : ImageVerdict) (reply : RemoteReply)
  | loadedReceive (part : Nat) (mark : LoadedMark)
  | jstart
  | jstartTimeout
  | jobStop
  | jobUpdate (v : ImageVerdict) (reply : RemoteReply)
  | jobUpdateApply
  | activate (slot : Nat) (v : ImageVerdict)
  | configLiveApply
  | retrain (arg : Nat)
  | retireChan (arg : Nat)
  | readapt (arg : Nat)
  | groupOff (arg : Nat)
  | groupOn (arg : Nat)
  | promote (arg : Nat)
  | retest (arg : Nat) (pass : TestPass)
  | liveOpStart
  -- Host rings and BARs
  | hringTailSample
  | hringNop (ring : Nat)
  | hringQcmd (ring : Nat)
  | hringFlagadd (ring : Nat)
  | hringParam (ring : Nat)
  | hringJob (ring : Nat) (v : ImageVerdict)
  | hringLive (ring : Nat) (v : ImageVerdict) (pass : TestPass)
  | hringResume (ring : Nat)
  | hringRetry (ring : Nat)
  | hringStop (ring : Nat)
  | memBarRead (x len : Nat)
  | memBarWrite (x : Nat) (data : List Byte)
  | hostWinWrite (value : Word)
  | ledgerWinWrite (value : Word)
  | ledgerWindowRead (x : Nat)
  | ledgerWindowWrite (x : Nat) (value : Word)
  | regBarBadAccess (off : Nat)
  | registerWrite (off : Nat) (value : Word)
  | rcCounterRead (off : Nat)
  | interruptClaim (target : Nat)
  | interruptEoi (target : Nat)
  | pendingClear (source : Nat)
  | msixMessage (vector : Nat)
  | msixUnmask (vector : Nat)  -- 256: the function mask clears, or MSI-X is enabled
  -- SPDM and IDE
  | getVersion (t : Transport)
  | getCapabilities (t : Transport)
  | negotiateAlgorithms (t : Transport) (acceptable : Bool)
  | getDigests (t : Transport)
  | getCertificate (t : Transport) (offset len : Nat)
  | challenge (t : Transport) (nonce : BitVec 256)
  | getMeasurements (t : Transport) (block : Nat) (nonce : BitVec 256)
  | kemx (t : Transport) (encapKey : List Byte)
  | pskExchange (t : Transport) (context : List Byte)
  | pskFinish (t : Transport) (macOk : Bool)
  | keyUpdate (t : Transport)
  | heartbeat (t : Transport)
  | endSession (t : Transport)
  | ideKm (t : Transport) (go : Bool)
  | ideIntegrityFail
  -- Debug and test access
  | newChal
  | dbgSubmit (sigOk : Bool)
  | dbgClose
  | fullDebugOpen
  | trstNAssert
  | idcode
  | samplePreload (pins : Nat)
  | extest (boundary : Nat)
  | clamp
  | highz
  | bypass
  | jtagChallenge
  | token (bytes : List Byte) (sigOk : Bool)
  | dbgstatus
  | muxsel (value : Word)
  | ijtag (bits : List Bool)
  | bistctl (value : Word)
  | tmSelWrite (value : Word)
  | bistStart
  | bistSessionEnd (kind target : Nat) (ok : Bool)
  -- Further events
  | flowOpenTimeout (q id : Nat)
  | heartbeatReceive (part : Nat) (hove : Bool)
  | voteRequestReceive (r : VoteRequest)
  | hallVoteRequestReceive (part : Nat) (cmd : HallCmd)
  | portGroupRecoveryEnd (group : Nat) (ok : Bool)
  | slotProgrammingEnd
  | pcieRefclkReturn
deriving DecidableEq, Repr, Inhabited

end Sys2Proof
end

