-- ==== Sys2Proof/Decode.lean ====
section
/-! DEFINITION. Commands spelled by table words. The spec's table of operations gives no row any bits: a command comes from outside with its operands, and entries of lists are read by the meanings themselves (Machine/Operands.lean). -/

namespace Sys2Proof

/-- The command that a word of the table spells: none, since no row gives bits. -/
def decodeTableWord (_nbits _w : Nat) : Option Instr := none

end Sys2Proof
end

