-- ==== Sys2Proof/Machine/Numbers.lean ====
section
/-! DEFINITION. Numbers: formats and their codes, exact values and exact arithmetic on them, comparison, the Eddy generator, stochastic rounding with its overflow and vanish events, and the encoding of scalars and blocks. -/

namespace Sys2Proof

/-- Data formats (Table 2.1). -/
inductive Fmt where
  | u16w | u16n | u8s | u4s | i32 | i64 | u32
deriving DecidableEq, Repr, Inhabited

/-- Format of a 4-bit code; the reserved codes name none (R47). -/
def Fmt.ofCode : Nat → Option Fmt
  | 0 => some .u16w | 1 => some .u16n | 2 => some .u8s | 3 => some .u4s
  | 8 => some .i32 | 9 => some .i64 | 10 => some .u32 | _ => none

/-- Code of a format (Table 2.1). -/
def Fmt.code : Fmt → Nat
  | .u16w => 0 | .u16n => 1 | .u8s => 2 | .u4s => 3 | .i32 => 8 | .i64 => 9 | .u32 => 10

/-- Elements that share one offset byte; 1 for a format without blocks (Table 2.2). -/
def Fmt.block : Fmt → Nat
  | .u8s => 32 | .u4s => 16 | _ => 1

/-- Bits of one element in the element plane (R59). -/
def Fmt.bits : Fmt → Nat
  | .u16w | .u16n => 16 | .u8s => 8 | .u4s => 4 | .i32 | .u32 => 32 | .i64 => 64

/-- Fraction bits m of a floating-point format (Table 2.2). -/
def Fmt.frac : Fmt → Nat
  | .u16w => 8 | .u16n => 9 | .u8s => 4 | .u4s => 1 | _ => 0

/-- Exponent bias b (Table 2.2). -/
def Fmt.bias : Fmt → Int
  | .u16w => 63 | .u16n => 31 | .u8s => 3 | .u4s => 1 | _ => 0

/-- Largest finite magnitude code (Table 2.3). -/
def Fmt.maxCode : Fmt → Nat
  | .u16w => 0x7EFF | .u16n => 0x7FFD | .u8s => 0x6F | .u4s => 0x5 | _ => 0

/-- Magnitude code of infinity (Table 2.3). -/
def Fmt.infCode : Fmt → Nat
  | .u16w => 0x7F00 | .u16n => 0x7FFE | .u8s => 0x70 | .u4s => 0x6 | _ => 0

/-- Canonical NaN (Table 2.3). -/
def Fmt.nanCode : Fmt → Nat
  | .u16w => 0x7F80 | .u16n => 0x7FFF | .u8s => 0x7F | .u4s => 0x7 | _ => 0

/-- Sign bit of an element code. -/
def Fmt.signBit (f : Fmt) : Nat := 2 ^ (f.bits - 1)

/-- Value of a magnitude code by the binade rule of R50, all-ones exponents included, at block offset `o`. -/
def Fmt.magnitude (f : Fmt) (neg : Bool) (c : Nat) (o : Int) : Val :=
  let e := c / 2 ^ f.frac
  let x := c % 2 ^ f.frac
  if e = 0 then .fin neg x (1 - f.bias - f.frac + o)
  else .fin neg (2 ^ f.frac + x) (e - f.bias - f.frac + o)

/-- Two's-complement reading of an offset byte (R57). -/
def offsetOf (b : Nat) : Int := if b < 128 then b else (b : Int) - 256

/-- Value of an element code in a block with offset byte `o` (0 for U16w and U16n), and whether the code is reserved (R50 to R55); in a U4s block at the reserved offset every element read counts (log entry 113). -/
def Fmt.decode (f : Fmt) (c o : Nat) : Val × Bool :=
  let neg := decide (f.signBit ≤ c)
  let mag := c % f.signBit
  match f with
  | .u16w => (if mag < 0x7F00 then f.magnitude neg mag 0 else if mag = 0x7F00 then .inf neg else .nan, false)
  | .u16n => (if mag < 0x7FFE then f.magnitude neg mag 0 else if mag = 0x7FFE then .inf neg else .nan, false)
  | .u8s =>
    if o = 0x80 then (if mag = 0x70 then .inf neg else .nan, false)
    else if 0x70 ≤ mag then (.nan, true) else (f.magnitude neg mag (offsetOf o), false)
  | .u4s =>
    if o = 0x80 then (.nan, true)
    else (if mag < 6 then f.magnitude neg mag (offsetOf o) else if mag = 6 then .inf neg else .nan, false)
  | _ => (.fin false c 0, false)

/-- The value is an infinity or a NaN. -/
def Val.nonfinite : Val → Bool
  | .fin _ _ _ => false
  | _ => true

/-- Signed integer at exponent `e0` at or below the value's exponent. -/
def Val.scaled (neg : Bool) (m : Nat) (e e0 : Int) : Int :=
  (if neg then -1 else 1) * ((m * 2 ^ (e - e0).toNat : Nat) : Int)

/-- Exact sum; an exact zero is +0 unless both addends are −0 (R61). -/
def Val.add : Val → Val → Val
  | .nan, _ => .nan
  | _, .nan => .nan
  | .inf a, .inf b => if a = b then .inf a else .nan
  | .inf a, .fin _ _ _ => .inf a
  | .fin _ _ _, .inf b => .inf b
  | .fin a m e, .fin b n f =>
    let e0 := min e f
    let z := Val.scaled a m e e0 + Val.scaled b n f e0
    if z = 0 then .fin (a && b && decide (m = 0) && decide (n = 0)) 0 0
    else .fin (decide (z < 0)) z.natAbs e0

/-- Negation. -/
def Val.neg : Val → Val
  | .nan => .nan
  | .inf a => .inf !a
  | .fin a m e => .fin (!a) m e

/-- Magnitude. -/
def Val.abs : Val → Val
  | .nan => .nan
  | .inf _ => .inf false
  | .fin _ m e => .fin false m e

/-- Exact difference. -/
def Val.sub (x y : Val) : Val := x.add y.neg

/-- Exact product; zero times infinity is invalid (R61). -/
def Val.mul : Val → Val → Val
  | .nan, _ => .nan
  | _, .nan => .nan
  | .inf a, .inf b => .inf (a != b)
  | .inf a, .fin b n _ => if n = 0 then .nan else .inf (a != b)
  | .fin a m _, .inf b => if m = 0 then .nan else .inf (a != b)
  | .fin a m e, .fin b n f => .fin (a != b) (m * n) (e + f)

/-- Exact sum of a list, with −0 for the empty sum so that R61 holds for every list. -/
def Val.sum (l : List Val) : Val := l.foldl Val.add (.fin true 0 0)

/-- +0. -/
def Val.zero : Val := .fin false 0 0

/-- Order of two values that are not NaN: negative, zero or positive difference (R60). -/
def Val.order : Val → Val → Option Ordering
  | .nan, _ => none
  | _, .nan => none
  | .inf a, .inf b => some (if a = b then .eq else if a then .lt else .gt)
  | .inf a, .fin _ _ _ => some (if a then .lt else .gt)
  | .fin _ _ _, .inf b => some (if b then .gt else .lt)
  | .fin a m e, .fin b n f =>
    let e0 := min e f
    some (compare (Val.scaled a m e e0) (Val.scaled b n f e0))

/-- Equal-to and less-than; NaN is unordered (R60). -/
def Val.eqv (x y : Val) : Bool := x.order y = some .eq

@[inherit_doc Val.eqv] def Val.ltv (x y : Val) : Bool := x.order y = some .lt

/-- IEEE 754-2019 minimum and maximum, with −0 below +0 (R60). -/
def Val.minimum (x y : Val) : Val :=
  match x.order y with
  | none => .nan
  | some .lt => x
  | some .gt => y
  | some .eq => match x with | .fin true _ _ => x | .inf true => x | _ => y

@[inherit_doc Val.minimum] def Val.maximum (x y : Val) : Val :=
  match x.order y with
  | none => .nan
  | some .lt => y
  | some .gt => x
  | some .eq => match x with | .fin true _ _ => y | .inf true => y | _ => x

/-- Floor of the base-2 logarithm of a non-zero finite magnitude. -/
def Val.exponent (m : Nat) (e : Int) : Int := Nat.log2 m + e

/-! ### The Eddy generator (R74, R75) -/

/-- One of the six rounds of R75 on the four words of the state. -/
def eddyRound (k w : Nat → BitVec 16) (j : Nat) (x : BitVec 16 × BitVec 16 × BitVec 16 × BitVec 16) :
    BitVec 16 × BitVec 16 × BitVec 16 × BitVec 16 :=
  let (x0, x1, x2, x3) := x
  let a := k (j % 4) ^^^ w (j % 4) ^^^ BitVec.ofNat 16 j
  let b := k ((j + 2) % 4) ^^^ w ((j + 1) % 4) ^^^ (BitVec.ofNat 16 j <<< 8)
  let y0 := (x0.rotateRight 7 + x1) ^^^ a
  let y1 := x1.rotateLeft 2 ^^^ y0
  let y2 := (x2.rotateRight 7 + x3) ^^^ b
  let y3 := x3.rotateLeft 2 ^^^ y2
  (y0, y3, y2, y1)

/-- Six rounds. -/
def eddyRounds (k w : Nat → BitVec 16) (x : BitVec 16 × BitVec 16 × BitVec 16 × BitVec 16) :
    BitVec 16 × BitVec 16 × BitVec 16 × BitVec 16 :=
  (List.range 6).foldl (fun x j => eddyRound k w j x) x

/-- Word n of 16 bits of a wider word, counted from the top of a `w`-bit word. -/
def word16 (v w n : Nat) : BitVec 16 := BitVec.ofNat 16 (v / 2 ^ (w - 16 * (n + 1)))

/-- The five inputs of a rounding (R74): seed, step epoch, tensor ID, element index, site code and node word. -/
structure Site where
  seed : Nat
  step : Nat
  tensor : Nat
  index : Nat
  code : Nat
  node : Nat := 0
deriving DecidableEq, Repr, Inhabited

/-- The eight bits of a rounding (R75). -/
def eddy (s : Site) : Nat :=
  let k : Nat → BitVec 16 := fun i => word16 s.seed 64 i
  let w : Nat → BitVec 16 := fun i =>
    match i with
    | 0 => word16 s.tensor 32 0
    | 1 => word16 s.tensor 32 1
    | 2 => word16 s.step 64 0 ^^^ word16 s.step 64 2
    | _ => word16 s.step 64 1 ^^^ word16 s.step 64 3
  let x := eddyRounds k w (word16 s.index 48 0, word16 s.index 48 1, word16 s.index 48 2, BitVec.ofNat 16 s.code)
  let y :=
    if s.node % 2 ^ 48 = 0 then x
    else eddyRounds k w (x.1 ^^^ word16 s.node 48 0, x.2.1 ^^^ word16 s.node 48 1, x.2.2.1 ^^^ word16 s.node 48 2, x.2.2.2)
  ((y.1 ^^^ y.2.2.1) >>> 8).toNat

/-- Node word of level L and position p of a reduction tree (R77). -/
def nodeWord (level pos : Nat) : Nat := 2 ^ 47 + level * 2 ^ 40 + pos

/-- Node word of an LKE pooling step (R77). -/
def poolWord (pos : Nat) : Nat := 2 ^ 46 + pos

/-! ### Rounding (R62 to R66) -/

/-- A rounded element: its code, and whether it overflowed or vanished. -/
structure Rounded where
  code : Nat
  ovf : Bool := false
  van : Bool := false
deriving DecidableEq, Repr, Inhabited

/-- Magnitude code of m × 2^e rounded with bits r; codes past the largest finite one continue the binades (R62, R64, R65). -/
def Fmt.roundMag (f : Fmt) (m : Nat) (e : Int) (r : Nat) : Nat :=
  let emin := 1 - f.bias
  let ulp := max (Val.exponent m e) emin - f.frac
  let num := m * 2 ^ (e - ulp).toNat
  let den := 2 ^ (ulp - e).toNat
  let q := num / den
  let rem := num % den
  let t := 256 * rem / den
  let up := if rem ≠ 0 ∧ 256 ≤ t + r then 1 else 0
  let base := if Val.exponent m e < emin then q else ((Val.exponent m e - emin + 1) * (2 ^ f.frac : Nat) : Int).toNat + q - 2 ^ f.frac
  base + up

/-- A value rounded to an element of a format at offset 0, with bits r (R62 to R67). -/
def Fmt.round (f : Fmt) (v : Val) (r : Nat) : Rounded :=
  match v with
  | .nan => ⟨f.nanCode, false, false⟩
  | .inf neg => ⟨(if neg then f.signBit else 0) + f.infCode, false, false⟩
  | .fin neg m e =>
    let sign := if neg then f.signBit else 0
    if m = 0 then ⟨sign, false, false⟩
    else
      let c := f.roundMag m e r
      if f.maxCode < c then ⟨sign + f.infCode, true, false⟩ else ⟨sign + c, false, decide (c = 0)⟩

/-- A value divided by 2^off. -/
def Val.shift (v : Val) (off : Int) : Val :=
  match v with
  | .fin neg m e => .fin neg m (e - off)
  | x => x

/-- An encoded run of elements: codes, offset bytes in block order, overflows and vanishes. -/
structure Encoded where
  codes : List Nat
  offsets : List Nat := []
  ovf : Nat := 0
  van : Nat := 0
deriving DecidableEq, Repr, Inhabited

/-- Largest binary exponent among the finite non-zero values. -/
def topExponent (v : List Val) : Option Int :=
  v.foldl (fun a x =>
    match x with
    | .fin _ m e => if m = 0 then a else some (match a with | none => Val.exponent m e | some b => max b (Val.exponent m e))
    | _ => a) none

/-- Offset byte of an offset from −128 to 127. -/
def offsetByte (o : Int) : Nat := (o % 256).toNat

/-- Block with an infinity or NaN in U8s (R70). -/
def nonfiniteBlock (v : List Val) : Encoded where
  codes := v.map fun x => match x with | .inf false => 0x70 | .inf true => 0xF0 | _ => 0x7F
  offsets := [0x80]

/-- Block whose offset would pass 127 (R70). -/
def overflowBlock (f : Fmt) (v : List (Val × Nat)) : Encoded :=
  let q := v.map fun x => f.round (x.1.shift 127) x.2
  match f with
  | .u8s =>
    { codes := q.map fun x => if x.ovf then x.code else 0x7F
      offsets := [0x80]
      ovf := v.length }
  | _ =>
    { codes := q.map (·.code)
      offsets := [127]
      ovf := (q.filter (·.ovf)).length
      van := (q.filter (·.van)).length }

/-- The encoder of one block, each element with its bits (R69). -/
def encodeBlock (f : Fmt) (v : List (Val × Nat)) : Encoded :=
  if f = .u8s ∧ v.any (·.1.nonfinite) then nonfiniteBlock (v.map (·.1))
  else
    let emax : Int := match f with | .u8s => 3 | _ => 1
    let off0 := match topExponent (v.map (·.1)) with | none => 0 | some e => max (e - emax) (-127)
    let at_ (off : Int) := v.map fun x => f.round (x.1.shift off) x.2
    if 127 < off0 then overflowBlock f v
    else
      let off := if (at_ off0).any (·.ovf) then off0 + 1 else off0
      if 127 < off then overflowBlock f v
      else
        let q := at_ off
        { codes := q.map (·.code), offsets := [offsetByte off], ovf := (q.filter (·.ovf)).length, van := (q.filter (·.van)).length }

/-- Joins the encodings of consecutive runs. -/
def Encoded.append (a b : Encoded) : Encoded := ⟨a.codes ++ b.codes, a.offsets ++ b.offsets, a.ovf + b.ovf, a.van + b.van⟩

/-- Cuts a list into runs of n, the last one shorter; `fuel` bounds the number of runs. -/
def chunksOf {α : Type} (n : Nat) : Nat → List α → List (List α)
  | 0, _ => []
  | _ + 1, [] => []
  | k + 1, l => l.take n :: chunksOf n k (l.drop n)

/-- A logical row of values encoded to a format, each value with its bits; the last block is padded with +0 (R58). -/
def encodeRow (f : Fmt) (v : List (Val × Nat)) : Encoded :=
  match f with
  | .u8s | .u4s =>
    (chunksOf f.block v.length v).foldl
      (fun a c => a.append (encodeBlock f (c ++ List.replicate (f.block - c.length) (Val.zero, 0)))) ⟨[], [], 0, 0⟩
  | _ =>
    let q := v.map fun x => f.round x.1 x.2
    { codes := q.map (·.code), ovf := (q.filter (·.ovf)).length, van := (q.filter (·.van)).length }

/-- Truncation of a value toward zero. -/
def truncInt (neg : Bool) (m : Nat) (e : Int) : Int :=
  let n : Nat := if 0 ≤ e then m * 2 ^ e.toNat else m / 2 ^ (-e).toNat
  if neg then -n else n

/-- Range of an integer format. -/
def Fmt.range : Fmt → Int × Int
  | .i32 => (-(2 ^ 31), 2 ^ 31 - 1)
  | .i64 => (-(2 ^ 63), 2 ^ 63 - 1)
  | _ => (0, 2 ^ 32 - 1)

/-- Conversion of a floating-point value to an integer format, and whether it counts a format fault (R71); the range is judged after truncation (log entry 114). -/
def Val.toInt (v : Val) (f : Fmt) : Int × Bool :=
  let (lo, hi) := f.range
  match v with
  | .nan => (0, true)
  | .inf neg => (if neg then lo else hi, true)
  | .fin neg m e =>
    let n := truncInt neg m e
    if n < lo then (lo, true) else if hi < n then (hi, true) else (n, false)

/-- An integer as a value. -/
def Val.ofInt (n : Int) : Val := .fin (decide (n < 0)) n.natAbs 0

/-- Value of a stored 16-bit code of U16w or U16n. -/
def Half.val (f : Fmt) (h : Half) : Val := (f.decode h.toNat 0).1

/-- Bits [15:0] of a 16-bit element hold an infinity or a NaN. -/
def Half.nonfinite (f : Fmt) (h : Half) : Bool := (Half.val f h).nonfinite

/-! ### Exact functions truncated toward zero to 24 significand bits (R126) -/

/-- q × 2^e with all but the top 24 bits of q dropped. -/
def trunc24 (neg : Bool) (q : Nat) (e : Int) : Val :=
  let d := Nat.log2 q - 23
  .fin neg (q / 2 ^ d) (e + d)

/-- 1 / a. -/
def Val.recip : Val → Val
  | .nan => .nan
  | .inf neg => .fin neg 0 0
  | .fin neg m e =>
    if m = 0 then .inf neg
    else
      let k := Nat.log2 m + 24
      trunc24 neg (2 ^ k / m) (-(k : Int) - e)

/-- √a. -/
def Val.sqrt : Val → Val
  | .nan => .nan
  | .inf neg => if neg then .nan else .inf false
  | .fin neg m e =>
    if m = 0 then .fin neg 0 0
    else if neg then .nan
    else
      let odd : Nat := (e % 2).toNat
      trunc24 false (Nat.sqrt (m * 2 ^ (60 + odd))) ((e - odd) / 2 - 30)

/-- 1 / √a. -/
def Val.rsqrt : Val → Val
  | .nan => .nan
  | .inf neg => if neg then .nan else .fin false 0 0
  | .fin neg m e =>
    if m = 0 then .inf neg
    else if neg then .nan
    else
      let odd : Nat := (e % 2).toNat
      let k := Nat.log2 m + 60
      trunc24 false (Nat.sqrt (2 ^ (2 * k) / (m * 2 ^ odd))) (-(k : Int) - (e - odd) / 2)

/-- 2^(j / 2^k), for 0 ≤ j < 2^k, as a multiple of 2^-23 rounded down: the product of the roots 2^(1/2), 2^(1/4), … that the bits of j name, each carried to 192 fraction bits. -/
def exp2Frac (j k : Nat) : Nat :=
  ((List.range k).foldl (fun (a : Nat × Nat) i =>
    let r := Nat.sqrt (a.2 * 2 ^ 192)
    (if j / 2 ^ (k - 1 - i) % 2 = 1 then a.1 * r / 2 ^ 192 else a.1, r)) (2 ^ 192, 2 ^ 193)).1 / 2 ^ 169

/-- An exponent held within ±4,096, beyond which every format of Table 2.1 overflows or vanishes alike. -/
def heldExponent (e : Int) : Int := max (-4096) (min 4096 e)

/-- 2^a. -/
def Val.exp2 : Val → Val
  | .nan => .nan
  | .inf neg => if neg then .fin false 0 0 else .inf false
  | .fin neg m e =>
    if 0 ≤ e then .fin false 1 (heldExponent ((if neg then -1 else 1) * ((m * 2 ^ (min 4096 e.toNat) : Nat) : Int)))
    else
      let k := (-e).toNat
      let a : Int := (if neg then -1 else 1) * (m : Int)
      .fin false (exp2Frac (a % (2 ^ k : Nat)).toNat k) (heldExponent (a / (2 ^ k : Nat) - 23))

/-- The first `n` fraction bits of log2 x, for 1 ≤ x < 2 with 192 fraction bits, by repeated squaring. -/
def log2Frac : Nat → Nat → Nat → Nat
  | 0, _, q => q
  | n + 1, x, q =>
    let y := x * x / 2 ^ 192
    if 2 ^ 193 ≤ y then log2Frac n (y / 2) (2 * q + 1) else log2Frac n y (2 * q)

/-- Floor of 2^64 × log2 (m × 2^e). -/
def log2Floor (m : Nat) (e : Int) : Int := (Nat.log2 m + e) * (2 ^ 64 : Nat) + log2Frac 64 (m * 2 ^ 192 / 2 ^ Nat.log2 m) 0

/-- log2 a. -/
def Val.log2 : Val → Val
  | .nan => .nan
  | .inf neg => if neg then .nan else .inf false
  | .fin neg m e =>
    if m = 0 then .inf true
    else if neg then .nan
    else if 2 ^ Nat.log2 m = m then .ofInt (Val.exponent m e)
    else
      let f := log2Floor m e
      if 0 ≤ f then trunc24 false f.toNat (-64) else trunc24 true (-f - 1).toNat (-64)

/-- Largest integer value not above a. -/
def Val.floor : Val → Val
  | .fin neg m e =>
    if m = 0 then .fin neg 0 0
    else if 0 ≤ e then .fin neg m e
    else
      let a : Int := (if neg then -1 else 1) * (m : Int)
      .ofInt (a / (2 ^ (-e).toNat : Nat))
  | x => x

/-- a × 2^t with t = b truncated toward zero and held within −255 to 255 (Table 4.6). -/
def Val.scaleBy (a b : Val) : Val :=
  match b with
  | .nan => .nan
  | .inf neg => a.shift (if neg then 255 else -255)
  | .fin neg m e => a.shift (-(max (-255) (min 255 (truncInt neg m e))))

/-! ### Pairwise trees (R92, R131, R197) -/

/-- One level of a tree over nodes at rising positions: siblings combine, a node without its sibling is carried. -/
def treeLevel {α : Type} (f : Nat → α → α → α) : List (Nat × α) → List (Nat × α)
  | (p, a) :: (q, b) :: l =>
    if p % 2 = 0 ∧ q = p + 1 then (p / 2, f (p / 2) a b) :: treeLevel f l
    else (p / 2, a) :: treeLevel f ((q, b) :: l)
  | [(p, a)] => [(p / 2, a)]
  | [] => []
termination_by l => l.length

/-- The tree over nodes of level `level`: `f` forms node (level, position) from its children; the root, if there are nodes. -/
def tree {α : Type} (f : Nat → Nat → α → α → α) : Nat → Nat → List (Nat × α) → Option α
  | _, _, [] => none
  | _, _, [(_, a)] => some a
  | 0, _, (_, a) :: _ => some a
  | k + 1, level, l => tree f k (level + 1) (treeLevel (f (level + 1)) l)

/-- Counts of roundings, overflows and vanishes into one format. -/
structure Tally where
  rounds : Nat := 0
  ovf : Nat := 0
  van : Nat := 0
deriving DecidableEq, Repr, Inhabited

/-- Sum of two counts. -/
def Tally.add (a b : Tally) : Tally := ⟨a.rounds + b.rounds, a.ovf + b.ovf, a.van + b.van⟩

/-- Count of one rounding. -/
def Rounded.tally (r : Rounded) : Tally := ⟨1, if r.ovf then 1 else 0, if r.van then 1 else 0⟩

/-- Count of an encoded run of `n` elements. -/
def Encoded.tally (e : Encoded) (n : Nat) : Tally := ⟨n, e.ovf, e.van⟩

/-- A U16w value on its way through a tree, with the counts of the roundings that formed it. -/
structure Partial where
  code : Nat
  tally : Tally := {}
deriving DecidableEq, Repr, Inhabited

/-- Value of a U16w partial. -/
def Partial.val (p : Partial) : Val := (Fmt.u16w.decode p.code 0).1

/-- A value rounded to U16w at a site. -/
def roundPartial (v : Val) (site : Site) : Partial :=
  let r := Fmt.u16w.round v (eddy site)
  ⟨r.code, r.tally⟩

/-- The exact sum of two partials, rounded once to U16w at a site. -/
def addPartials (a b : Partial) (site : Site) : Partial :=
  let p := roundPartial (a.val.add b.val) site
  ⟨p.code, (a.tally.add b.tally).add p.tally⟩

/-- The sum tree of R92 and R131: each node rounded at the site with its own node word. -/
def sumTree (site : Site) (level : Nat) (l : List (Nat × Partial)) : Option Partial :=
  tree (fun lev p a b => addPartials a b { site with node := nodeWord lev p }) 64 level l

end Sys2Proof
end

