-- ==== Sys2Proof/Config.lean ====
section
/-! DEFINITION. What the spec leaves to the implementation or to an outside standard: free values and functions with no body, so that no proof can rest on one, and the fixed numbers of the part. -/

namespace Sys2Proof.Config

/-- The k-th value that the spec leaves open; read at the counter `State.free` and never constrained (log entry 1). -/
opaque freeValue : Nat → BitVec 64

/-- The 256 bits that the SVD random number generator gives at its k-th draw (R470, R492); the generator is a physical source (log entry 1). -/
opaque random : Nat → BitVec 256

/-- Falcon-1024 verification: key digest, message, signature bytes (R472 to R474); defined outside the spec (log entry 2). -/
opaque falconVerify : BitVec 256 → List Byte → List Byte → Bool

/-- Falcon-1024 signature by the attestation key of the boot whose measurements are given (R470) (log entry 2). -/
opaque falconSign : List (BitVec 256) → List Byte → List Byte

/-- ML-KEM-1024 encapsulation to a key with fresh randomness: ciphertext and shared secret (R482, R484, R489) (log entry 2). -/
opaque kemEncap : List Byte → BitVec 256 → List Byte × BitVec 256

/-- ML-KEM-1024 encapsulation key made from a secret seed, and decapsulation with that seed (R482, R484) (log entry 2). -/
opaque kemKey : BitVec 256 → List Byte
@[inherit_doc kemKey] opaque kemDecap : BitVec 256 → List Byte → BitVec 256

/-- Falcon-1024 signature by the device identity key, and its certificate (R470, R472) (log entry 2). -/
opaque dikSign : List Byte → List Byte
@[inherit_doc dikSign] opaque dikCert : List Byte

/-- The device unique secret (R469) (log entry 2). -/
opaque deviceSecret : BitVec 256

/-- Digest of this part's device identity key (R471) (log entry 2). -/
opaque dikDigest : BitVec 256

/-- DEVICE of this part: the first 128 bits of that digest (R471). -/
def deviceId : BitVec 128 := dikDigest.extractLsb' 0 128

/-- Factory MAC address of a port position, held in the SVD (R456) (log entry 1). -/
opaque factoryMac : Nat → BitVec 48

/-- Digest of the boot ROM, extended into MEAS_0 (Table 15.6) (log entry 2). -/
opaque bootRomDigest : BitVec 256

/-- The certificate chain of SPDM slot 0, whose alias certificate binds the measurements of the boot (R470, R471, R488) (log entry 2). -/
opaque certChain : List (BitVec 256) → List Byte

/-- Digest of Maeline's root public key, held by the boot ROM (R469) (log entry 2). -/
opaque rootKey : BitVec 256

/-- Plaintext of a 16-byte block of HBM whose stored ciphertext has bits altered: byte offset of the block in HBM space, the plaintext, the altered bits; XTS-AES-256 is defined outside the spec (R487; log entry 111). -/
opaque xtsAltered : Nat → BitVec 128 → BitVec 128 → BitVec 128

/-- AES-256-GCM under a key and a 96-bit nonce, over additional data and a text: the sealed text with its 16-byte tag behind it, and the opened one, none where the tag does not verify; defined outside the spec (R340; log entry 2). -/
opaque gcmSeal : BitVec 256 → BitVec 96 → List Byte → List Byte → List Byte
@[inherit_doc gcmSeal] opaque gcmOpen : BitVec 256 → BitVec 96 → List Byte → List Byte → Option (List Byte)

/-- IP address of a member or feeder as the running images give it; the spec does not place it (R334, R356; log entry 4). -/
opaque peerAddress : List Byte → Nat → Bool → Nat

/-- Destination MAC address of a port whose gateway has not been resolved yet; the spec names none (R336; log entry 136). -/
opaque unresolvedMac : Nat → BitVec 48

/-- Bytes of a decision and of a hall-wide vote as they travel in the reserved class; the spec gives no layout (R285, R337; log entry 132). -/
opaque decisionBytes : Decision → List Byte
@[inherit_doc decisionBytes] opaque hallBytes : HallCmd → List Byte

/-- Bytes of the reserved class's other messages, by kind, step, and the parts that they name; the spec gives no layout (R337; log entry 132). -/
opaque markerBytes : Nat → Nat → List Nat → List Nat → List Byte

/-- Bytes of a request to a home or a feeder, and of its reply, on a flow; the spec gives no layout (R357, R375; log entry 132). -/
opaque requestBytes : RemoteReq → List Byte
@[inherit_doc requestBytes] opaque treeBytes : TreeNode → List Byte
@[inherit_doc requestBytes] opaque pullBytes : Nat → Word → List Byte

/-- The first bytes of a message on a flow are those of a request, not of a reply; the spec gives no layout (R355; log entry 132). -/
opaque isRequest : List Byte → Bool

/-- Bytes that a REDSCAT's buffer PB of pending nodes takes, by its address; the spec gives no size (R381; log entry 161). -/
opaque pendingRoom : Nat → Nat

/-- The configured PTP source that sent a PTP message, read from the image's port layout section and the message (R359) (log entry 4). -/
opaque ptpSource : List Byte → List Byte → Option Nat

/-- Bytes of a message where a word of its source cannot be read, by address; the spec says nothing of them (R344; log entry 1). -/
opaque payloadUnread : Nat → BitVec 8

/-- What a reader takes from a Ledger word that neither copy gives, by word, while the part goes to Hove-to (Table 1.5; log entry 112). -/
opaque ledgerUnread : Nat → BitVec 64

/-- The operations of direct-channel groups 0x00 to 0x47 (Table 4.8). -/
inductive DirectOp where
  | add | sub | mulLo | mulHi | min | max | shl | shr | sar | rotl | rotr | and | or | xor
  | cmpEq | cmpLt | select | addImm
  | fadd | fsub | fmul | ffma | fmin | fmax | fcmpEq | fcmpLt
  | cvt (src : Nat)
  | broadcast | permute | rsum
  | load | loadGather | store | storeScatter | tileLoad | tileStore
  | reserved
deriving DecidableEq, Repr, Inhabited

/-- Which operation of its group an opcode below 0x48 names. Table 4.8 lists the operations of each group but no codes, so the assignment is free (log entry 3); the model applies it only when the operation lies in the group of the code. -/
opaque directOp : Nat → DirectOp

/-- A direct-channel shift by the type's width or more: type code, value and amount; Table 4.8 states no result there (log entry 3). -/
opaque shiftBeyond : Nat → BitVec 64 → BitVec 64 → BitVec 64

/-- Sections of an image whose byte layout the spec does not give, read by type: the part's hall list as (part number, identity digest, founder) (Table 14.4, type 0x0002) (log entry 4). -/
opaque hallList : List Byte → List (Nat × BitVec 128 × Bool)

/-- Hall part number and site of a configuration image (type 0x0002) (log entry 4). -/
opaque hallIdentity : List Byte → Nat × Nat

/-- ROLE, JOB_SRC, peer and job image SRAM area of the role section (type 0x0004, R455) (log entry 4). -/
opaque roleSection : List Byte → Nat × Nat × Nat × Nat

/-- Port layout (type 0x0003): per position PORT_p_CFG, MAC, the two address words and the two gateway words (log entry 4). -/
opaque portLayout : List Byte → List (Nat × Word × Word × Word × Word × Word × Word)

/-- PTP sources that a configuration image lists in its port layout (type 0x0003) (log entry 4). -/
opaque ptpSources : List Byte → Nat

/-- Port position of each PTP source that a configuration image lists (type 0x0003) (log entry 4). -/
opaque ptpPort : List Byte → Nat → Nat

/-- Feeder list (type 0x0006): feeder index and identity digest (R356) (log entry 4). -/
opaque feeders : List Byte → List (Nat × BitVec 128)

/-- Directory entries that an image carries (types 0x0007 and 0x0106): table ID and its 64 bytes (log entry 4). -/
opaque imageTables : List Byte → List (Nat × List Byte)

/-- Score segments of a job image (type 0x0101): segment set, core position, the four queue regions (BASE, SIZE, START), parameter registers, entries and digest (R160) (log entry 4). -/
opaque scoreSegments : List Byte →
  List (Nat × Nat × List (Nat × Nat × Nat) × List (Nat × Nat × Word) × List (BitVec 256) × BitVec 128)

/-- Layout section of a job image (type 0x0103): S, LSPAN, seed, shard map, spare list (R267, R270, R372) (log entry 4). -/
opaque jobLayout : List Byte → Nat × Nat × Word × List (Nat × Nat) × List Nat

/-- Flows a job opens (type 0x0104): flow, peer, class, paths; and those that it binds to collectives (R379, R460) (log entry 4). -/
opaque jobFlows : List Byte → List (Nat × Nat × Nat × Nat)
@[inherit_doc jobFlows] opaque collectiveFlows : List Byte → List Nat

/-- Journal and ward areas of a job image (type 0x0106): CASTLE_JRNL and SHIP_AREA values, and each table's companions (R272, R280) (log entry 4). -/
opaque jobAreas : List Byte → Word × Word × List (Nat × List Nat)

/-- Companion tables bound to a table by the running job image (R272, R280) (log entry 4). -/
opaque companions : List Byte → Nat → List Nat

/-- A dense shard of the running job image by dense group and logical shard of copy 0: the logical shard that holds each copy, its first logical parameter, its parameters, its state tensors' hall addresses in job-image order, and their format code (R272, R280, R296) (log entry 4). -/
opaque denseShard : List Byte → Nat → Nat → List Nat × Nat × Nat × List Nat × Nat

/-- A hall address of this part lies in a state tensor of a dense shard of a job image (R272) (log entry 4). -/
opaque denseState : List Byte → Nat → Bool

/-- The seed, learning rate and eps of a configuration image's Keeper section (R257) (log entry 4). -/
opaque keeperSection : List Byte → Word × Half × Half

/-- Tensor ID of a table's Keeper group and of its applies; R257 names none (log entry 15). -/
opaque keeperTensor : List Byte → Nat → Nat

/-- TENSOR of a reduction group that is open at the homes of a SCATTER and not on the requester (R198, R254); no field of the SCATTER gives it (log entry 4). -/
opaque groupTensor : List Byte → Nat → Nat

/-- A dense shard's units by the logical shard that holds their copy: dense group and logical shard of copy 0 (R272, R387; log entry 4). -/
opaque denseUnits : List Byte → Nat → List (Nat × Nat)

/-- The feeder and the storage stream from which a job image has a spare read checkpoints (R387; log entry 4). -/
opaque ckptStream : List Byte → Nat × Nat

/-- Shard map entries that a Keeper's configuration image supplies for its logical shards, as (logical shard, part) (R372; log entry 4). -/
opaque keeperShards : List Byte → List (Nat × Nat)

/-- The verdict on the sections of a job image that a part loads on its own as it reaches its role: what ImageVerdict tells of an image that a command brings (R445, R455; log entry 92). -/
opaque sectionsPass : List Byte → Bool

/-- The words of the step header, commit records and hall areas that a member's message gives the part that asked for them, as (Ledger offset, bytes); none where the message is no such answer (R367, R439; log entry 107). -/
opaque ledgerAreas : List Byte → Option (List (Nat × List Byte))

/-- Watch entries of a job image (type 0x0105): index, RANGE and CFG values (R313) (log entry 4). -/
opaque watchEntries : List Byte → List (Nat × Word × Word)

/-- The compute die to which a CME queue is bound by its configuration (R150) (log entry 4). -/
opaque cmeDie : List Byte → Nat → Nat

/-- The phase segment sets of a job image hold this set (type 0x0107, R297) (log entry 4). -/
opaque hasSegment : List Byte → Nat → Bool

end Sys2Proof.Config

namespace Sys2Proof

/-- Whole storage banks of the model: the spaces of Table 1.6, the second Ledger copy, tile registers, Score memory and the two flashes. -/
inductive Bank where
  | hbm | sram | suc | ledgerE | ledgerW | tile | score | flashA | flashB
deriving DecidableEq, Repr, Inhabited

/-- Number of a bank; spaces 0x0 to 0x3 keep their space number. -/
def Bank.num : Bank → Nat
  | .hbm => 0 | .sram => 1 | .suc => 2 | .ledgerE => 3 | .ledgerW => 4 | .tile => 5 | .score => 6
  | .flashA => 7 | .flashB => 8

/-- Bytes a bank holds (Tables 1.6, 1.2, 14.1): HBM 372 GiB with the 12 GiB of reserve above them, SRAM 32 GiB, SUC by die stride, Ledger 256 MiB a copy, 32 tiles of 8 KiB and 64 KiB of Score for each of 136 cores, and at most 4 Gb a flash. -/
def Bank.size : Bank → Nat
  | .hbm => 0x6000000000
  | .sram => 0x800000000
  | .suc => 0x40000000
  | .ledgerE => 0x10000000
  | .ledgerW => 0x10000000
  | .tile => 136 * 0x40000
  | .score => 136 * 0x10000
  | .flashA => 0x20000000
  | .flashB => 0x20000000

end Sys2Proof
end

