-- ==== Sys2Proof/Machine/RegMap.lean ====
section
/-! DEFINITION. The register map of the part: every register that a chapter gives (R13, R556), its place in the register BAR, and its fields with access type (Table 0.3) and reset value. The rows follow the spec's field maps in order; a field whose value the configuration or job image writes is marked `jobLoader`. -/

namespace Sys2Proof.Machine

/-- Access types of Table 0.3 (R14). `jobLoader` is an RO field that the job loader writes (R447). -/
inductive Acc where
  | ro | rw | w1c | w1s | rc | rwl | jobLoader
deriving DecidableEq, Repr

/-- One field of a field map: its lowest bit, its width, its access type, and its reset value on PSN-8128 and on PSN-8112 (R17). -/
structure RField where
  lo : Nat
  w : Nat
  acc : Acc
  reset : Nat
  reset12 : Nat
deriving DecidableEq, Repr

/-- Where the instances of a register lie in the register BAR. -/
inductive Shape where
  | one (base : Nat)
  | arr (base stride n : Nat)
  | arr2 (base stride n stride2 n2 : Nat)
  | core (base : Nat)
  | coreArr (base n : Nat)
  | die (base : Nat)
  | dieArr (base n : Nat)
  | iod (base : Nat)
  | iodArr (base n : Nat)
  | port (base : Nat)
  | portArr (base n : Nat)
  | flow
  | fxe (base : Nat)
  | queue (base : Nat)
  | queueArr (base n : Nat)
  | ring
  | ringHead
deriving DecidableEq, Repr

/-- The names of the registers, one for each field map of the spec. -/
inductive RegName where
  | mxeStatus
  | mxeWiden
  | mxeResidue
  | mxeFaults
  | vxeStatus
  | vxeMode
  | vxeCheck
  | vxeFaults
  | mxeOvfN
  | mxeVanN
  | vxeOvfN
  | vxeVanN
  | idleN
  | queueQCtrl
  | queueQStatus
  | queueQWait
  | queueQRegion
  | queueQCring
  | queueQCseq
  | queueQParamM
  | lkeRingN
  | lkeHeadN
  | featId
  | featGrade
  | featCores
  | featEngines
  | featFormats
  | featMxe
  | featVxeLanes
  | featHbm
  | featPorts
  | staleCtrl
  | staleStatus
  | staleMemberN
  | sucCfg
  | sucStatus
  | sucNum
  | hbmCfg
  | hbmStatus
  | lkeCfg
  | lkeStatus
  | lkeDefaults
  | lkeReplace
  | lkeTraffic
  | lkeNum
  | lkeMigrate
  | lkeGmap
  | eccCountM
  | scrubM
  | hbmChanN
  | stepEpoch
  | stepStatus
  | commitCtrl
  | castleJrnl
  | castleStatus
  | voteCount
  | digestStatus
  | numCtrl
  | numLs
  | numStatus
  | numRing
  | numMirror
  | numWlog
  | numWseq
  | becalmCtrl
  | becalmStatus
  | tempoCtrl
  | tempoStatus
  | tempoCount
  | numWatchNRange
  | numWatchNCfg
  | naeloCfg
  | naeloStatus
  | naeloTimers
  | ccCfg
  | ledgerEcc
  | fxeStatus
  | fxeNum
  | classNCfg
  | ptpCfg
  | ptpStatus
  | hallStatus
  | hallCtrl
  | shipCtrl
  | shipArea
  | shipStatus
  | hallCkpt
  | portPCfg
  | portPStatus
  | portPFec
  | portPFrames
  | portPMac
  | portPIpN
  | portPGwN
  | portPDropN
  | flowFStatus
  | fxeBindN
  | tickCount
  | tickStatus
  | pwrCtrl
  | pwrStatus
  | sbCtrl
  | sbStatus
  | sbCountI
  | corePwrD
  | errlog0
  | errlog1
  | errlog2
  | errlog3
  | errsecN0
  | errsecN1
  | errsecN2
  | errsecN3
  | errStatus
  | errCtrl
  | errCountS
  | errOverflow
  | errRing
  | safeCtrl
  | hoveCtrl
  | hoveStatus
  | recovJ
  | stestStatus
  | bootStatus
  | cfgCtrl
  | cfgSrc
  | liveCtrl
  | liveStatus
  | jobCtrl
  | jobStatus
  | cfgSlotN
  | secCtrl
  | secStatus
  | fuseStatus
  | sessCount
  | mlog
  | dbgCtrl
  | dbgStatus
  | dbgToken
  | dbgChalM
  | measNM
  | intcSrcN
  | intcTgtTCtrl
  | intcTgtTClaim
  | intcTgtTEoi
  | intcPendK
  | msixEvt
  | msixAddrV
  | msixDataV
  | msixPbaK
  | hostWin
  | hostLink
  | hostErr
  | hringNCfg
  | hringNCtrl
  | hringNStatus
  | pkgCtrl
  | pkgStatus
  | pkgCount
  | railStatus
  | tmSel
  | tmStatus
  | tmBistCtrl
  | tmBistStatus
  | ledgerWin
deriving DecidableEq, Repr, Inhabited

/-- Register names, part 0. -/
def RegName.all0 : List RegName := [.mxeStatus, .mxeWiden, .mxeResidue, .mxeFaults, .vxeStatus, .vxeMode, .vxeCheck, .vxeFaults, .mxeOvfN, .mxeVanN, .vxeOvfN, .vxeVanN, .idleN, .queueQCtrl, .queueQStatus, .queueQWait, .queueQRegion, .queueQCring, .queueQCseq, .queueQParamM]

/-- Register names, part 1. -/
def RegName.all1 : List RegName := [.lkeRingN, .lkeHeadN, .featId, .featGrade, .featCores, .featEngines, .featFormats, .featMxe, .featVxeLanes, .featHbm, .featPorts, .staleCtrl, .staleStatus, .staleMemberN, .sucCfg, .sucStatus, .sucNum, .hbmCfg, .hbmStatus, .lkeCfg]

/-- Register names, part 2. -/
def RegName.all2 : List RegName := [.lkeStatus, .lkeDefaults, .lkeReplace, .lkeTraffic, .lkeNum, .lkeMigrate, .lkeGmap, .eccCountM, .scrubM, .hbmChanN, .stepEpoch, .stepStatus, .commitCtrl, .castleJrnl, .castleStatus, .voteCount, .digestStatus, .numCtrl, .numLs, .numStatus]

/-- Register names, part 3. -/
def RegName.all3 : List RegName := [.numRing, .numMirror, .numWlog, .numWseq, .becalmCtrl, .becalmStatus, .tempoCtrl, .tempoStatus, .tempoCount, .numWatchNRange, .numWatchNCfg, .naeloCfg, .naeloStatus, .naeloTimers, .ccCfg, .ledgerEcc, .fxeStatus, .fxeNum, .classNCfg, .ptpCfg]

/-- Register names, part 4. -/
def RegName.all4 : List RegName := [.ptpStatus, .hallStatus, .hallCtrl, .shipCtrl, .shipArea, .shipStatus, .hallCkpt, .portPCfg, .portPStatus, .portPFec, .portPFrames, .portPMac, .portPIpN, .portPGwN, .portPDropN, .flowFStatus, .fxeBindN, .tickCount, .tickStatus, .pwrCtrl]

/-- Register names, part 5. -/
def RegName.all5 : List RegName := [.pwrStatus, .sbCtrl, .sbStatus, .sbCountI, .corePwrD, .errlog0, .errlog1, .errlog2, .errlog3, .errsecN0, .errsecN1, .errsecN2, .errsecN3, .errStatus, .errCtrl, .errCountS, .errOverflow, .errRing, .safeCtrl, .hoveCtrl]

/-- Register names, part 6. -/
def RegName.all6 : List RegName := [.hoveStatus, .recovJ, .stestStatus, .bootStatus, .cfgCtrl, .cfgSrc, .liveCtrl, .liveStatus, .jobCtrl, .jobStatus, .cfgSlotN, .secCtrl, .secStatus, .fuseStatus, .sessCount, .mlog, .dbgCtrl, .dbgStatus, .dbgToken, .dbgChalM]

/-- Register names, part 7. -/
def RegName.all7 : List RegName := [.measNM, .intcSrcN, .intcTgtTCtrl, .intcTgtTClaim, .intcTgtTEoi, .intcPendK, .msixEvt, .msixAddrV, .msixDataV, .msixPbaK, .hostWin, .hostLink, .hostErr, .hringNCfg, .hringNCtrl, .hringNStatus, .pkgCtrl, .pkgStatus, .pkgCount, .railStatus]

/-- Register names, part 8. -/
def RegName.all8 : List RegName := [.tmSel, .tmStatus, .tmBistCtrl, .tmBistStatus, .ledgerWin]

/-- Every register name, in order. -/
def RegName.all : List RegName :=
  List.flatten [RegName.all0, RegName.all1, RegName.all2, RegName.all3, RegName.all4, RegName.all5, RegName.all6, RegName.all7, RegName.all8]

/-- The place of each register (Tables 3.8, 4.9, 5.13, 5.17, 6.12, 7.11, 8.11, 9.8, 10.10, 11.7, 12.6, 13.9, 14.10, 15.10, 16.7, 18.8, 19.5 and R183, R560). -/
def RegName.shape : RegName → Shape
  | .mxeStatus => .core 0x8000
  | .mxeWiden => .core 0x8008
  | .mxeResidue => .core 0x8010
  | .mxeFaults => .core 0x8018
  | .vxeStatus => .core 0xA000
  | .vxeMode => .core 0xA008
  | .vxeCheck => .core 0xA010
  | .vxeFaults => .core 0xA018
  | .mxeOvfN => .coreArr 0x8020 4
  | .mxeVanN => .coreArr 0x8040 4
  | .vxeOvfN => .coreArr 0xA020 4
  | .vxeVanN => .coreArr 0xA040 4
  | .idleN => .coreArr 0xC000 16
  | .queueQCtrl => .queue 0x0
  | .queueQStatus => .queue 0x8
  | .queueQWait => .queue 0x10
  | .queueQRegion => .queue 0x18
  | .queueQCring => .queue 0x20
  | .queueQCseq => .queue 0x28
  | .queueQParamM => .queueArr 0x200 64
  | .lkeRingN => .ring
  | .lkeHeadN => .ringHead
  | .featId => .one 0x0
  | .featGrade => .one 0x8
  | .featCores => .one 0x10
  | .featEngines => .one 0x18
  | .featFormats => .one 0x20
  | .featMxe => .one 0x28
  | .featVxeLanes => .one 0x30
  | .featHbm => .one 0x38
  | .featPorts => .one 0x40
  | .staleCtrl => .one 0x40C000
  | .staleStatus => .one 0x40C008
  | .staleMemberN => .arr 0x40C040 8 16
  | .sucCfg => .die 0x340000
  | .sucStatus => .die 0x340008
  | .sucNum => .die 0x340010
  | .hbmCfg => .die 0x380000
  | .hbmStatus => .die 0x380008
  | .lkeCfg => .die 0x300000
  | .lkeStatus => .die 0x300008
  | .lkeDefaults => .die 0x300010
  | .lkeReplace => .die 0x300018
  | .lkeTraffic => .die 0x300020
  | .lkeNum => .die 0x300028
  | .lkeMigrate => .die 0x300030
  | .lkeGmap => .die 0x300038
  | .eccCountM => .dieArr 0x380020 3
  | .scrubM => .dieArr 0x380040 3
  | .hbmChanN => .dieArr 0x380100 32
  | .stepEpoch => .one 0x600000
  | .stepStatus => .one 0x600008
  | .commitCtrl => .one 0x600010
  | .castleJrnl => .one 0x600018
  | .castleStatus => .one 0x600020
  | .voteCount => .one 0x600028
  | .digestStatus => .one 0x600030
  | .numCtrl => .one 0x602000
  | .numLs => .one 0x602008
  | .numStatus => .one 0x602010
  | .numRing => .one 0x602018
  | .numMirror => .one 0x602020
  | .numWlog => .one 0x602028
  | .numWseq => .one 0x602030
  | .becalmCtrl => .one 0x602038
  | .becalmStatus => .one 0x602040
  | .tempoCtrl => .one 0x602048
  | .tempoStatus => .one 0x602050
  | .tempoCount => .one 0x602058
  | .numWatchNRange => .arr 0x604000 16 256
  | .numWatchNCfg => .arr 0x604008 16 256
  | .naeloCfg => .iod 0x0
  | .naeloStatus => .iod 0x8
  | .naeloTimers => .iod 0x10
  | .ccCfg => .iod 0x18
  | .ledgerEcc => .iod 0x20
  | .fxeStatus => .iod 0x100000
  | .fxeNum => .iod 0x100008
  | .classNCfg => .iodArr 0x100 8
  | .ptpCfg => .one 0x80F000
  | .ptpStatus => .one 0x80F008
  | .hallStatus => .one 0x900010
  | .hallCtrl => .one 0x900018
  | .shipCtrl => .one 0x900020
  | .shipArea => .one 0x900028
  | .shipStatus => .one 0x900030
  | .hallCkpt => .one 0x900038
  | .portPCfg => .port 0x0
  | .portPStatus => .port 0x8
  | .portPFec => .port 0x10
  | .portPFrames => .port 0x18
  | .portPMac => .port 0x20
  | .portPIpN => .portArr 0x28 2
  | .portPGwN => .portArr 0x38 2
  | .portPDropN => .portArr 0x100 16
  | .flowFStatus => .flow
  | .fxeBindN => .fxe 0x100300
  | .tickCount => .one 0x100000
  | .tickStatus => .one 0x100008
  | .pwrCtrl => .one 0x100010
  | .pwrStatus => .one 0x100018
  | .sbCtrl => .one 0x100020
  | .sbStatus => .one 0x100028
  | .sbCountI => .arr 0x100030 8 3
  | .corePwrD => .arr 0x100100 8 8
  | .errlog0 => .one 0x400100
  | .errlog1 => .one 0x400108
  | .errlog2 => .one 0x400110
  | .errlog3 => .one 0x400118
  | .errsecN0 => .arr 0x400200 0x20 8
  | .errsecN1 => .arr 0x400208 0x20 8
  | .errsecN2 => .arr 0x400210 0x20 8
  | .errsecN3 => .arr 0x400218 0x20 8
  | .errStatus => .one 0x400000
  | .errCtrl => .one 0x400008
  | .errCountS => .arr 0x400010 8 5
  | .errOverflow => .one 0x400040
  | .errRing => .one 0x400048
  | .safeCtrl => .one 0x401000
  | .hoveCtrl => .one 0x401008
  | .hoveStatus => .one 0x401010
  | .recovJ => .arr 0x401018 8 2
  | .stestStatus => .one 0x401028
  | .bootStatus => .one 0x1000
  | .cfgCtrl => .one 0x1018
  | .cfgSrc => .one 0x1020
  | .liveCtrl => .one 0x1028
  | .liveStatus => .one 0x1030
  | .jobCtrl => .one 0x1038
  | .jobStatus => .one 0x1040
  | .cfgSlotN => .arr 0x1008 8 2
  | .secCtrl => .one 0x500000
  | .secStatus => .one 0x500008
  | .fuseStatus => .one 0x500010
  | .sessCount => .one 0x500018
  | .mlog => .one 0x500020
  | .dbgCtrl => .one 0x500028
  | .dbgStatus => .one 0x500030
  | .dbgToken => .one 0x500038
  | .dbgChalM => .arr 0x500040 8 4
  | .measNM => .arr2 0x500100 0x20 8 8 4
  | .intcSrcN => .arr 0x200000 8 1024
  | .intcTgtTCtrl => .arr 0x204000 0x20 139
  | .intcTgtTClaim => .arr 0x204008 0x20 139
  | .intcTgtTEoi => .arr 0x204010 0x20 139
  | .intcPendK => .arr 0x206000 8 16
  | .msixEvt => .one 0x207000
  | .msixAddrV => .arr 0x208000 16 256
  | .msixDataV => .arr 0x208008 16 256
  | .msixPbaK => .arr 0x209000 8 4
  | .hostWin => .one 0x300000
  | .hostLink => .one 0x300008
  | .hostErr => .one 0x300010
  | .hringNCfg => .arr 0x301000 0x20 64
  | .hringNCtrl => .arr 0x301008 0x20 64
  | .hringNStatus => .arr 0x301010 0x20 64
  | .pkgCtrl => .one 0x100200
  | .pkgStatus => .one 0x100208
  | .pkgCount => .one 0x100210
  | .railStatus => .one 0x100218
  | .tmSel => .one 0x3800000
  | .tmStatus => .one 0x3800008
  | .tmBistCtrl => .one 0x3800010
  | .tmBistStatus => .one 0x3800018
  | .ledgerWin => .one 0x600F00

/-- The fields of each register; bits that no row names are reserved and read as zero (R16). -/
def RegName.fields : RegName → List RField
  | .mxeStatus => [⟨12, 4, .ro, 0, 0⟩, ⟨8, 4, .ro, 0, 0⟩, ⟨2, 1, .ro, 0, 0⟩, ⟨1, 1, .ro, 0, 0⟩, ⟨0, 1, .ro, 0, 0⟩]
  | .mxeWiden => [⟨32, 32, .rc, 0, 0⟩, ⟨0, 32, .rc, 0, 0⟩]
  | .mxeResidue => [⟨32, 32, .rc, 0, 0⟩, ⟨16, 16, .rc, 0, 0⟩, ⟨0, 16, .ro, 0, 0⟩]
  | .mxeFaults => [⟨32, 32, .rc, 0, 0⟩, ⟨0, 32, .rc, 0, 0⟩]
  | .vxeStatus => [⟨4, 1, .ro, 0, 0⟩, ⟨3, 1, .ro, 0, 0⟩, ⟨2, 1, .ro, 0, 0⟩, ⟨1, 1, .ro, 0, 0⟩, ⟨0, 1, .ro, 0, 0⟩]
  | .vxeMode => [⟨32, 30, .ro, 0, 0⟩, ⟨8, 2, .ro, 1, 1⟩, ⟨0, 1, .ro, 1, 1⟩]
  | .vxeCheck => [⟨32, 32, .rc, 0, 0⟩, ⟨16, 16, .rc, 0, 0⟩, ⟨0, 16, .ro, 0, 0⟩]
  | .vxeFaults => [⟨48, 16, .rc, 0, 0⟩, ⟨32, 16, .rc, 0, 0⟩, ⟨16, 16, .rc, 0, 0⟩, ⟨0, 16, .rc, 0, 0⟩]
  | .mxeOvfN => [⟨0, 64, .rc, 0, 0⟩]
  | .mxeVanN => [⟨0, 64, .rc, 0, 0⟩]
  | .vxeOvfN => [⟨0, 64, .rc, 0, 0⟩]
  | .vxeVanN => [⟨0, 64, .rc, 0, 0⟩]
  | .idleN => [⟨0, 64, .rc, 0, 0⟩]
  | .queueQCtrl => [⟨4, 1, .w1s, 0, 0⟩, ⟨3, 1, .w1s, 0, 0⟩, ⟨2, 1, .w1s, 0, 0⟩, ⟨1, 1, .w1s, 0, 0⟩, ⟨0, 1, .w1s, 0, 0⟩]
  | .queueQStatus => [⟨48, 16, .ro, 0, 0⟩, ⟨37, 11, .ro, 0, 0⟩, ⟨24, 8, .ro, 0, 0⟩, ⟨16, 8, .rc, 0, 0⟩, ⟨3, 1, .ro, 0, 0⟩, ⟨0, 3, .ro, 0, 0⟩]
  | .queueQWait => [⟨48, 16, .ro, 0, 0⟩, ⟨32, 16, .ro, 0, 0⟩, ⟨21, 11, .ro, 0, 0⟩, ⟨4, 12, .ro, 0, 0⟩, ⟨0, 1, .ro, 0, 0⟩]
  | .queueQRegion => [⟨32, 11, .jobLoader, 0, 0⟩, ⟨16, 12, .jobLoader, 0, 0⟩, ⟨0, 11, .jobLoader, 0, 0⟩]
  | .queueQCring => [⟨63, 1, .rw, 0, 0⟩, ⟨52, 4, .rw, 0, 0⟩, ⟨0, 44, .rw, 0, 0⟩]
  | .queueQCseq => [⟨0, 32, .ro, 0, 0⟩]
  | .queueQParamM => [⟨0, 64, .rw, 0, 0⟩]
  | .lkeRingN => [⟨63, 1, .rw, 0, 0⟩, ⟨59, 4, .rw, 0, 0⟩, ⟨47, 12, .rw, 0, 0⟩, ⟨0, 44, .rw, 0, 0⟩]
  | .lkeHeadN => [⟨0, 16, .ro, 0, 0⟩]
  | .featId => [⟨48, 4, .ro, 1, 1⟩, ⟨32, 16, .ro, 33064, 33042⟩, ⟨16, 16, .ro, 1, 1⟩, ⟨0, 11, .ro, 679, 679⟩]
  | .featGrade => [⟨8, 16, .ro, 256, 192⟩, ⟨0, 8, .ro, 0, 1⟩]
  | .featCores => [⟨48, 8, .ro, 255, 255⟩, ⟨32, 16, .ro, 65535, 16383⟩, ⟨24, 8, .ro, 128, 112⟩, ⟨16, 8, .ro, 8, 8⟩, ⟨8, 8, .ro, 1, 1⟩, ⟨0, 8, .ro, 16, 14⟩]
  | .featEngines => [⟨48, 8, .ro, 64, 64⟩, ⟨32, 16, .ro, 2048, 2048⟩, ⟨28, 4, .ro, 4, 4⟩, ⟨24, 4, .ro, 4, 4⟩, ⟨16, 8, .ro, 64, 64⟩, ⟨8, 8, .ro, 8, 8⟩, ⟨0, 8, .ro, 255, 255⟩]
  | .featFormats => [⟨24, 4, .ro, 3, 3⟩, ⟨20, 4, .ro, 3, 3⟩, ⟨16, 4, .ro, 3, 3⟩, ⟨12, 4, .ro, 15, 15⟩, ⟨8, 4, .ro, 15, 15⟩, ⟨4, 4, .ro, 15, 7⟩, ⟨0, 4, .ro, 15, 7⟩]
  | .featMxe => [⟨48, 8, .ro, 36, 36⟩, ⟨40, 8, .ro, 64, 64⟩, ⟨32, 8, .ro, 16, 16⟩, ⟨24, 8, .ro, 192, 192⟩, ⟨16, 8, .ro, 28, 28⟩, ⟨8, 8, .ro, 15, 15⟩]
  | .featVxeLanes => [⟨48, 8, .ro, 128, 128⟩, ⟨40, 8, .ro, 12, 12⟩, ⟨32, 8, .ro, 32, 32⟩, ⟨24, 8, .ro, 2, 2⟩, ⟨16, 8, .ro, 30, 30⟩, ⟨0, 16, .ro, 512, 512⟩]
  | .featHbm => [⟨40, 12, .ro, 372, 372⟩, ⟨28, 12, .ro, 384, 384⟩, ⟨20, 8, .ro, 48, 48⟩, ⟨16, 4, .ro, 8, 8⟩, ⟨8, 8, .ro, 32, 32⟩, ⟨4, 4, .ro, 8, 8⟩, ⟨0, 2, .ro, 3, 3⟩]
  | .featPorts => [⟨40, 8, .ro, 32, 24⟩, ⟨32, 8, .ro, 255, 119⟩, ⟨0, 32, .ro, 4294967295, 268374015⟩]
  | .staleCtrl => [⟨32, 2, .rwl, 0, 0⟩, ⟨0, 20, .rwl, 1000, 1000⟩]
  | .staleStatus => [⟨32, 32, .rc, 0, 0⟩, ⟨16, 10, .ro, 0, 0⟩, ⟨1, 1, .ro, 0, 0⟩, ⟨0, 1, .w1c, 0, 0⟩]
  | .staleMemberN => [⟨32, 11, .ro, 0, 0⟩, ⟨16, 16, .ro, 0, 0⟩, ⟨0, 11, .ro, 0, 0⟩]
  | .sucCfg => [⟨0, 4, .rwl, 4, 4⟩]
  | .sucStatus => [⟨32, 32, .rc, 0, 0⟩, ⟨16, 7, .ro, 0, 0⟩, ⟨0, 16, .rc, 0, 0⟩]
  | .sucNum => [⟨32, 32, .rc, 0, 0⟩, ⟨0, 32, .rc, 0, 0⟩]
  | .hbmCfg => [⟨32, 16, .rwl, 64, 64⟩, ⟨8, 1, .rwl, 0, 0⟩, ⟨0, 4, .rwl, 0, 0⟩]
  | .hbmStatus => [⟨32, 8, .ro, 0, 0⟩, ⟨16, 2, .ro, 0, 0⟩, ⟨8, 5, .ro, 0, 0⟩, ⟨3, 1, .ro, 0, 0⟩, ⟨2, 1, .ro, 0, 0⟩, ⟨1, 1, .ro, 0, 0⟩, ⟨0, 1, .ro, 0, 0⟩]
  | .lkeCfg => [⟨48, 16, .rwl, 1000, 1000⟩, ⟨32, 16, .rwl, 2000, 2000⟩, ⟨0, 24, .rwl, 0, 0⟩]
  | .lkeStatus => [⟨32, 8, .ro, 0, 0⟩, ⟨0, 17, .ro, 0, 0⟩]
  | .lkeDefaults => [⟨32, 32, .rc, 0, 0⟩, ⟨0, 32, .rc, 0, 0⟩]
  | .lkeReplace => [⟨32, 32, .rc, 0, 0⟩, ⟨0, 32, .rc, 0, 0⟩]
  | .lkeTraffic => [⟨32, 32, .rc, 0, 0⟩, ⟨0, 32, .rc, 0, 0⟩]
  | .lkeNum => [⟨32, 32, .rc, 0, 0⟩, ⟨0, 32, .rc, 0, 0⟩]
  | .lkeMigrate => [⟨32, 32, .rc, 0, 0⟩, ⟨16, 16, .rc, 0, 0⟩, ⟨0, 16, .rc, 0, 0⟩]
  | .lkeGmap => [⟨32, 32, .rc, 0, 0⟩, ⟨0, 32, .rc, 0, 0⟩]
  | .eccCountM => [⟨32, 32, .rc, 0, 0⟩, ⟨16, 16, .rc, 0, 0⟩, ⟨0, 16, .rc, 0, 0⟩]
  | .scrubM => [⟨32, 32, .rc, 0, 0⟩, ⟨0, 16, .ro, 0, 0⟩]
  | .hbmChanN => [⟨48, 16, .rc, 0, 0⟩, ⟨32, 16, .ro, 0, 0⟩, ⟨8, 8, .ro, 0, 0⟩, ⟨0, 3, .ro, 0, 0⟩]
  | .stepEpoch => [⟨0, 64, .ro, 0, 0⟩]
  | .stepStatus => [⟨48, 16, .ro, 0, 0⟩, ⟨36, 4, .ro, 0, 0⟩, ⟨32, 1, .ro, 0, 0⟩, ⟨16, 8, .ro, 0, 0⟩, ⟨0, 3, .ro, 0, 0⟩]
  | .commitCtrl => [⟨48, 16, .rwl, 10000, 10000⟩, ⟨32, 16, .rwl, 60, 60⟩, ⟨0, 2, .rwl, 0, 0⟩]
  | .castleJrnl => [⟨48, 16, .jobLoader, 0, 0⟩, ⟨0, 44, .jobLoader, 0, 0⟩]
  | .castleStatus => [⟨32, 32, .rc, 0, 0⟩, ⟨16, 16, .rc, 0, 0⟩, ⟨0, 16, .rc, 0, 0⟩]
  | .voteCount => [⟨32, 32, .rc, 0, 0⟩, ⟨16, 16, .rc, 0, 0⟩, ⟨8, 8, .rc, 0, 0⟩, ⟨0, 8, .rc, 0, 0⟩]
  | .digestStatus => [⟨32, 32, .rc, 0, 0⟩, ⟨0, 32, .rc, 0, 0⟩]
  | .numCtrl => [⟨48, 16, .jobLoader, 1024, 1024⟩, ⟨40, 8, .jobLoader, 16, 16⟩, ⟨32, 1, .jobLoader, 0, 0⟩]
  | .numLs => [⟨48, 16, .ro, 0, 0⟩, ⟨40, 8, .ro, 16, 16⟩, ⟨16, 16, .rc, 0, 0⟩, ⟨0, 16, .rc, 0, 0⟩]
  | .numStatus => [⟨32, 32, .rc, 0, 0⟩, ⟨16, 16, .ro, 0, 0⟩, ⟨8, 8, .rc, 0, 0⟩, ⟨1, 4, .ro, 0, 0⟩, ⟨0, 1, .ro, 0, 0⟩]
  | .numRing => [⟨63, 1, .rw, 0, 0⟩, ⟨52, 4, .rw, 0, 0⟩, ⟨0, 44, .rw, 0, 0⟩]
  | .numMirror => [⟨63, 1, .jobLoader, 0, 0⟩, ⟨48, 12, .jobLoader, 0, 0⟩, ⟨0, 44, .jobLoader, 0, 0⟩]
  | .numWlog => [⟨63, 1, .rw, 0, 0⟩, ⟨52, 4, .rw, 0, 0⟩, ⟨0, 44, .rw, 0, 0⟩]
  | .numWseq => [⟨0, 64, .ro, 0, 0⟩]
  | .becalmCtrl => [⟨48, 16, .jobLoader, 64, 64⟩, ⟨24, 20, .jobLoader, 999000, 999000⟩, ⟨0, 1, .jobLoader, 1, 1⟩]
  | .becalmStatus => [⟨32, 32, .rc, 0, 0⟩, ⟨8, 8, .ro, 0, 0⟩, ⟨0, 1, .ro, 0, 0⟩]
  | .tempoCtrl => [⟨32, 32, .jobLoader, 1000000, 1000000⟩, ⟨28, 4, .jobLoader, 10, 10⟩, ⟨24, 4, .jobLoader, 3, 3⟩, ⟨16, 8, .jobLoader, 64, 64⟩, ⟨0, 1, .jobLoader, 0, 0⟩]
  | .tempoStatus => [⟨32, 32, .ro, 0, 0⟩, ⟨16, 8, .ro, 0, 0⟩, ⟨0, 4, .ro, 0, 0⟩]
  | .tempoCount => [⟨32, 32, .rc, 0, 0⟩, ⟨16, 16, .rc, 0, 0⟩, ⟨0, 16, .rc, 0, 0⟩]
  | .numWatchNRange => [⟨32, 32, .jobLoader, 0, 0⟩, ⟨0, 32, .jobLoader, 0, 0⟩]
  | .numWatchNCfg => [⟨48, 16, .jobLoader, 0, 0⟩, ⟨32, 16, .jobLoader, 0, 0⟩, ⟨24, 8, .jobLoader, 0, 0⟩, ⟨8, 8, .jobLoader, 0, 0⟩, ⟨1, 1, .jobLoader, 0, 0⟩, ⟨0, 1, .jobLoader, 0, 0⟩]
  | .naeloCfg => [⟨48, 16, .rwl, 50080, 50080⟩, ⟨40, 2, .rwl, 3, 3⟩, ⟨16, 13, .rwl, 1024, 1024⟩]
  | .naeloStatus => [⟨32, 32, .rc, 0, 0⟩, ⟨0, 13, .ro, 0, 0⟩]
  | .naeloTimers => [⟨48, 16, .rwl, 16, 16⟩, ⟨32, 16, .rwl, 16000, 16000⟩, ⟨28, 4, .rwl, 12, 12⟩, ⟨16, 12, .rwl, 1000, 1000⟩, ⟨0, 16, .rwl, 100, 100⟩]
  | .ccCfg => [⟨48, 16, .rwl, 64, 64⟩, ⟨32, 16, .rwl, 64, 64⟩]
  | .ledgerEcc => [⟨32, 32, .rc, 0, 0⟩, ⟨16, 16, .rc, 0, 0⟩, ⟨0, 16, .rc, 0, 0⟩]
  | .fxeStatus => [⟨32, 32, .rc, 0, 0⟩, ⟨16, 16, .rc, 0, 0⟩, ⟨0, 16, .rc, 0, 0⟩]
  | .fxeNum => [⟨32, 32, .rc, 0, 0⟩, ⟨0, 32, .rc, 0, 0⟩]
  | .classNCfg => [⟨10, 6, .rwl, 0, 0⟩, ⟨0, 8, .rwl, 1, 1⟩]
  | .ptpCfg => [⟨56, 8, .rwl, 0, 0⟩, ⟨52, 4, .rwl, 0, 0⟩, ⟨51, 1, .rwl, 0, 0⟩]
  | .ptpStatus => [⟨61, 3, .ro, 0, 0⟩, ⟨56, 5, .ro, 0, 0⟩, ⟨54, 2, .ro, 0, 0⟩, ⟨32, 16, .rc, 0, 0⟩, ⟨0, 32, .ro, 0, 0⟩]
  | .hallStatus => [⟨48, 16, .ro, 0, 0⟩, ⟨32, 16, .ro, 0, 0⟩, ⟨24, 8, .ro, 0, 0⟩, ⟨20, 4, .ro, 3, 3⟩, ⟨0, 16, .ro, 0, 0⟩]
  | .hallCtrl => [⟨56, 8, .rwl, 10, 10⟩, ⟨52, 4, .rwl, 3, 3⟩]
  | .shipCtrl => [⟨48, 16, .jobLoader, 0, 0⟩, ⟨44, 4, .jobLoader, 6, 6⟩]
  | .shipArea => [⟨48, 16, .jobLoader, 0, 0⟩, ⟨0, 44, .jobLoader, 0, 0⟩]
  | .shipStatus => [⟨32, 32, .ro, 0, 0⟩, ⟨16, 16, .rc, 0, 0⟩, ⟨0, 16, .rc, 0, 0⟩]
  | .hallCkpt => [⟨0, 64, .rw, 0, 0⟩]
  | .portPCfg => [⟨40, 16, .rwl, 9216, 9216⟩, ⟨32, 8, .rwl, 0, 0⟩, ⟨30, 2, .rwl, 0, 0⟩, ⟨27, 3, .rwl, 0, 0⟩, ⟨26, 1, .rwl, 1, 1⟩, ⟨25, 1, .rwl, 0, 0⟩, ⟨24, 1, .rwl, 0, 0⟩, ⟨12, 12, .rwl, 0, 0⟩, ⟨0, 12, .rwl, 0, 0⟩]
  | .portPStatus => [⟨48, 8, .rc, 0, 0⟩, ⟨24, 8, .ro, 0, 0⟩, ⟨4, 1, .ro, 0, 0⟩, ⟨1, 3, .ro, 0, 0⟩, ⟨0, 1, .ro, 0, 0⟩]
  | .portPFec => [⟨32, 32, .rc, 0, 0⟩, ⟨16, 16, .rc, 0, 0⟩, ⟨0, 16, .rc, 0, 0⟩]
  | .portPFrames => [⟨32, 32, .rc, 0, 0⟩, ⟨0, 32, .rc, 0, 0⟩]
  | .portPMac => [⟨0, 48, .ro, 0, 0⟩]
  | .portPIpN => [⟨0, 64, .ro, 0, 0⟩]
  | .portPGwN => [⟨0, 64, .ro, 0, 0⟩]
  | .portPDropN => [⟨0, 64, .rc, 0, 0⟩]
  | .flowFStatus => [⟨61, 3, .ro, 0, 0⟩, ⟨60, 1, .ro, 0, 0⟩, ⟨57, 3, .ro, 0, 0⟩, ⟨52, 5, .ro, 0, 0⟩, ⟨32, 16, .ro, 0, 0⟩, ⟨16, 16, .ro, 0, 0⟩, ⟨0, 16, .rc, 0, 0⟩]
  | .fxeBindN => [⟨0, 3, .rwl, 0, 0⟩]
  | .tickCount => [⟨0, 64, .ro, 0, 0⟩]
  | .tickStatus => [⟨16, 16, .ro, 0, 0⟩, ⟨2, 1, .ro, 0, 0⟩, ⟨1, 1, .w1c, 0, 0⟩, ⟨0, 1, .ro, 0, 0⟩]
  | .pwrCtrl => [⟨48, 16, .rwl, 1000, 1000⟩, ⟨32, 16, .rwl, 64, 64⟩, ⟨1, 1, .rwl, 1, 1⟩, ⟨0, 1, .rwl, 1, 1⟩]
  | .pwrStatus => [⟨32, 32, .rc, 0, 0⟩, ⟨16, 8, .ro, 0, 0⟩, ⟨8, 8, .ro, 0, 0⟩, ⟨0, 2, .ro, 0, 0⟩]
  | .sbCtrl => [⟨32, 32, .rwl, 10000, 10000⟩, ⟨30, 2, .rwl, 0, 0⟩, ⟨3, 1, .rwl, 1, 1⟩, ⟨0, 3, .w1s, 0, 0⟩]
  | .sbStatus => [⟨17, 1, .ro, 0, 0⟩, ⟨16, 1, .ro, 0, 0⟩, ⟨8, 3, .ro, 0, 0⟩, ⟨0, 3, .ro, 0, 0⟩]
  | .sbCountI => [⟨32, 32, .rc, 0, 0⟩, ⟨16, 16, .rc, 0, 0⟩, ⟨0, 8, .ro, 0, 0⟩]
  | .corePwrD => [⟨0, 34, .ro, 0, 0⟩]
  | .errlog0 => [⟨48, 16, .ro, 0, 0⟩, ⟨44, 4, .ro, 0, 0⟩, ⟨32, 12, .ro, 0, 0⟩, ⟨22, 10, .ro, 0, 0⟩, ⟨8, 8, .ro, 0, 0⟩, ⟨0, 8, .ro, 0, 0⟩]
  | .errlog1 => [⟨0, 64, .ro, 0, 0⟩]
  | .errlog2 => [⟨0, 64, .ro, 0, 0⟩]
  | .errlog3 => [⟨32, 32, .ro, 0, 0⟩, ⟨24, 8, .ro, 0, 0⟩]
  | .errsecN0 => [⟨48, 16, .ro, 0, 0⟩, ⟨44, 4, .ro, 0, 0⟩, ⟨32, 12, .ro, 0, 0⟩, ⟨22, 10, .ro, 0, 0⟩, ⟨8, 8, .ro, 0, 0⟩, ⟨0, 8, .ro, 0, 0⟩]
  | .errsecN1 => [⟨0, 64, .ro, 0, 0⟩]
  | .errsecN2 => [⟨0, 64, .ro, 0, 0⟩]
  | .errsecN3 => [⟨32, 32, .ro, 0, 0⟩, ⟨24, 8, .ro, 0, 0⟩]
  | .errStatus => [⟨4, 4, .ro, 0, 0⟩, ⟨0, 1, .w1c, 0, 0⟩]
  | .errCtrl => [⟨16, 4, .rwl, 15, 15⟩, ⟨12, 4, .rwl, 13, 13⟩, ⟨8, 4, .rwl, 12, 12⟩, ⟨4, 4, .rwl, 10, 10⟩, ⟨0, 4, .rwl, 4, 4⟩]
  | .errCountS => [⟨0, 64, .ro, 0, 0⟩]
  | .errOverflow => [⟨0, 64, .ro, 0, 0⟩]
  | .errRing => [⟨32, 32, .ro, 0, 0⟩, ⟨0, 32, .rw, 0, 0⟩]
  | .safeCtrl => [⟨48, 16, .rwl, 500, 500⟩, ⟨40, 8, .rwl, 24, 24⟩, ⟨0, 11, .rwl, 0, 0⟩]
  | .hoveCtrl => [⟨1, 1, .w1s, 0, 0⟩, ⟨0, 1, .w1s, 0, 0⟩]
  | .hoveStatus => [⟨48, 16, .rc, 0, 0⟩, ⟨32, 16, .rc, 0, 0⟩, ⟨21, 1, .ro, 0, 0⟩, ⟨20, 1, .ro, 0, 0⟩, ⟨0, 11, .ro, 0, 0⟩]
  | .recovJ => [⟨32, 32, .ro, 0, 0⟩, ⟨12, 1, .ro, 0, 0⟩, ⟨0, 12, .ro, 0, 0⟩]
  | .stestStatus => [⟨32, 32, .rc, 0, 0⟩, ⟨16, 16, .rc, 0, 0⟩, ⟨8, 8, .ro, 0, 0⟩, ⟨0, 8, .ro, 0, 0⟩]
  | .bootStatus => [⟨32, 32, .ro, 0, 0⟩, ⟨16, 4, .ro, 0, 0⟩, ⟨10, 2, .ro, 0, 0⟩, ⟨9, 1, .ro, 0, 0⟩, ⟨8, 1, .ro, 0, 0⟩, ⟨0, 3, .ro, 0, 0⟩]
  | .cfgCtrl => [⟨24, 8, .ro, 0, 0⟩, ⟨16, 1, .ro, 0, 0⟩, ⟨8, 1, .rw, 0, 0⟩, ⟨1, 1, .w1s, 0, 0⟩, ⟨0, 1, .w1s, 0, 0⟩]
  | .cfgSrc => [⟨48, 16, .rw, 0, 0⟩, ⟨0, 44, .rw, 0, 0⟩]
  | .liveCtrl => [⟨32, 32, .rw, 0, 0⟩, ⟨8, 8, .rw, 0, 0⟩, ⟨0, 1, .w1s, 0, 0⟩]
  | .liveStatus => [⟨48, 16, .rc, 0, 0⟩, ⟨24, 8, .ro, 0, 0⟩, ⟨20, 4, .ro, 0, 0⟩, ⟨8, 8, .ro, 0, 0⟩, ⟨0, 2, .ro, 0, 0⟩]
  | .jobCtrl => [⟨32, 16, .rw, 0, 0⟩, ⟨30, 2, .rw, 0, 0⟩, ⟨2, 1, .w1s, 0, 0⟩, ⟨1, 1, .w1s, 0, 0⟩, ⟨0, 1, .w1s, 0, 0⟩]
  | .jobStatus => [⟨32, 32, .ro, 0, 0⟩, ⟨24, 8, .ro, 0, 0⟩, ⟨8, 16, .ro, 0, 0⟩, ⟨0, 3, .ro, 0, 0⟩]
  | .cfgSlotN => [⟨32, 32, .ro, 0, 0⟩, ⟨0, 4, .ro, 0, 0⟩]
  | .secCtrl => [⟨32, 32, .rwl, 3600, 3600⟩, ⟨0, 1, .rwl, 0, 0⟩]
  | .secStatus => [⟨38, 13, .ro, 0, 0⟩, ⟨1, 1, .ro, 0, 0⟩, ⟨0, 1, .ro, 0, 0⟩]
  | .fuseStatus => [⟨16, 1, .ro, 0, 0⟩, ⟨8, 3, .ro, 0, 0⟩, ⟨0, 7, .ro, 0, 0⟩]
  | .sessCount => [⟨32, 32, .rc, 0, 0⟩, ⟨16, 16, .rc, 0, 0⟩, ⟨0, 16, .rc, 0, 0⟩]
  | .mlog => [⟨44, 10, .ro, 0, 0⟩, ⟨0, 44, .ro, 65536, 65536⟩]
  | .dbgCtrl => [⟨2, 1, .w1s, 0, 0⟩, ⟨1, 1, .w1s, 0, 0⟩, ⟨0, 1, .w1s, 0, 0⟩]
  | .dbgStatus => [⟨32, 32, .rc, 0, 0⟩, ⟨24, 8, .ro, 0, 0⟩, ⟨8, 16, .ro, 0, 0⟩, ⟨0, 2, .ro, 0, 0⟩]
  | .dbgToken => [⟨48, 16, .rw, 0, 0⟩, ⟨0, 44, .rw, 0, 0⟩]
  | .dbgChalM => [⟨0, 64, .ro, 0, 0⟩]
  | .measNM => [⟨0, 64, .ro, 0, 0⟩]
  | .intcSrcN => [⟨16, 1, .w1c, 0, 0⟩, ⟨8, 8, .rwl, 0, 0⟩, ⟨0, 4, .rwl, 0, 0⟩]
  | .intcTgtTCtrl => [⟨8, 4, .ro, 0, 0⟩, ⟨4, 1, .rw, 0, 0⟩, ⟨0, 4, .rw, 0, 0⟩]
  | .intcTgtTClaim => [⟨15, 1, .rc, 0, 0⟩, ⟨0, 10, .rc, 0, 0⟩]
  | .intcTgtTEoi => [⟨0, 1, .w1s, 0, 0⟩]
  | .intcPendK => [⟨0, 64, .ro, 0, 0⟩]
  | .msixEvt => [⟨0, 16, .rwl, 14, 14⟩]
  | .msixAddrV => [⟨0, 64, .rw, 0, 0⟩]
  | .msixDataV => [⟨32, 1, .rw, 1, 1⟩, ⟨0, 32, .rw, 0, 0⟩]
  | .msixPbaK => [⟨0, 64, .ro, 0, 0⟩]
  | .hostWin => [⟨44, 4, .rw, 1, 1⟩, ⟨30, 14, .rw, 0, 0⟩]
  | .hostLink => [⟨32, 32, .rc, 0, 0⟩, ⟨12, 1, .ro, 0, 0⟩, ⟨11, 1, .ro, 0, 0⟩, ⟨7, 4, .ro, 0, 0⟩, ⟨3, 4, .ro, 0, 0⟩, ⟨0, 1, .ro, 0, 0⟩]
  | .hostErr => [⟨48, 16, .rc, 0, 0⟩, ⟨32, 16, .rc, 0, 0⟩, ⟨16, 16, .rc, 0, 0⟩, ⟨0, 16, .rc, 0, 0⟩]
  | .hringNCfg => [⟨63, 1, .rw, 0, 0⟩, ⟨56, 4, .rw, 0, 0⟩, ⟨0, 44, .rw, 0, 0⟩]
  | .hringNCtrl => [⟨2, 1, .w1s, 0, 0⟩, ⟨1, 1, .w1s, 0, 0⟩, ⟨0, 1, .w1s, 0, 0⟩]
  | .hringNStatus => [⟨32, 32, .ro, 0, 0⟩, ⟨24, 8, .ro, 0, 0⟩, ⟨16, 8, .rc, 0, 0⟩, ⟨0, 2, .ro, 0, 0⟩]
  | .pkgCtrl => [⟨48, 16, .rwl, 2400, 2400⟩, ⟨40, 8, .rwl, 95, 95⟩, ⟨32, 8, .rwl, 93, 93⟩, ⟨24, 8, .rwl, 103, 103⟩, ⟨15, 5, .rwl, 4, 4⟩, ⟨0, 1, .rwl, 0, 0⟩]
  | .pkgStatus => [⟨48, 16, .ro, 0, 0⟩, ⟨32, 16, .ro, 0, 0⟩, ⟨24, 8, .ro, 0, 0⟩, ⟨16, 8, .ro, 0, 0⟩, ⟨9, 1, .ro, 0, 0⟩, ⟨8, 1, .ro, 0, 0⟩, ⟨0, 5, .ro, 16, 16⟩]
  | .pkgCount => [⟨32, 32, .rc, 0, 0⟩, ⟨16, 16, .rc, 0, 0⟩, ⟨0, 16, .rc, 0, 0⟩]
  | .railStatus => [⟨0, 45, .ro, 17592186044416, 17592186044416⟩]
  | .tmSel => [⟨63, 1, .rw, 0, 0⟩, ⟨48, 8, .rw, 17, 17⟩, ⟨32, 12, .rw, 0, 0⟩, ⟨0, 4, .rw, 0, 0⟩]
  | .tmStatus => [⟨48, 16, .rc, 0, 0⟩, ⟨4, 1, .ro, 0, 0⟩, ⟨0, 4, .ro, 0, 0⟩]
  | .tmBistCtrl => [⟨60, 4, .rw, 0, 0⟩, ⟨32, 12, .rw, 0, 0⟩, ⟨0, 1, .w1s, 0, 0⟩]
  | .tmBistStatus => [⟨32, 32, .rc, 0, 0⟩, ⟨24, 8, .ro, 0, 0⟩, ⟨20, 4, .ro, 0, 0⟩, ⟨8, 12, .ro, 0, 0⟩, ⟨0, 3, .ro, 0, 0⟩]
  | .ledgerWin => [⟨0, 8, .rw, 0, 0⟩]

/-- A field of a register by name. -/
structure Fld where
  reg : RegName
  lo : Nat
  w : Nat
deriving DecidableEq, Repr

namespace F

/-- MXE_STATUS.FMT_OUT -/ def mxeStatusFmtOut : Fld := ⟨.mxeStatus, 12, 4⟩
/-- MXE_STATUS.RUNG -/ def mxeStatusRung : Fld := ⟨.mxeStatus, 8, 4⟩
/-- MXE_STATUS.MTEST -/ def mxeStatusMtest : Fld := ⟨.mxeStatus, 2, 1⟩
/-- MXE_STATUS.RETRY -/ def mxeStatusRetry : Fld := ⟨.mxeStatus, 1, 1⟩
/-- MXE_STATUS.BUSY -/ def mxeStatusBusy : Fld := ⟨.mxeStatus, 0, 1⟩
/-- MXE_WIDEN.RERUNS -/ def mxeWidenReruns : Fld := ⟨.mxeWiden, 32, 32⟩
/-- MXE_WIDEN.TOP_OVF -/ def mxeWidenTopOvf : Fld := ⟨.mxeWiden, 0, 32⟩
/-- MXE_RESIDUE.RETRIED -/ def mxeResidueRetried : Fld := ⟨.mxeResidue, 32, 32⟩
/-- MXE_RESIDUE.FAILED -/ def mxeResidueFailed : Fld := ⟨.mxeResidue, 16, 16⟩
/-- MXE_RESIDUE.LAST_PASS -/ def mxeResidueLastPass : Fld := ⟨.mxeResidue, 0, 16⟩
/-- MXE_FAULTS.FORMAT_FAULTS -/ def mxeFaultsFormatFaults : Fld := ⟨.mxeFaults, 32, 32⟩
/-- MXE_FAULTS.NONFINITE_IN -/ def mxeFaultsNonfiniteIn : Fld := ⟨.mxeFaults, 0, 32⟩
/-- VXE_STATUS.VTEST -/ def vxeStatusVtest : Fld := ⟨.vxeStatus, 4, 1⟩
/-- VXE_STATUS.RETRY -/ def vxeStatusRetry : Fld := ⟨.vxeStatus, 3, 1⟩
/-- VXE_STATUS.D1_BUSY -/ def vxeStatusD1Busy : Fld := ⟨.vxeStatus, 2, 1⟩
/-- VXE_STATUS.D0_BUSY -/ def vxeStatusD0Busy : Fld := ⟨.vxeStatus, 1, 1⟩
/-- VXE_STATUS.E_BUSY -/ def vxeStatusEBusy : Fld := ⟨.vxeStatus, 0, 1⟩
/-- VXE_MODE.EDDY_FAILED -/ def vxeModeEddyFailed : Fld := ⟨.vxeMode, 32, 30⟩
/-- VXE_MODE.CAUSE -/ def vxeModeCause : Fld := ⟨.vxeMode, 8, 2⟩
/-- VXE_MODE.REDUCED -/ def vxeModeReduced : Fld := ⟨.vxeMode, 0, 1⟩
/-- VXE_CHECK.RETRIED -/ def vxeCheckRetried : Fld := ⟨.vxeCheck, 32, 32⟩
/-- VXE_CHECK.FAILED -/ def vxeCheckFailed : Fld := ⟨.vxeCheck, 16, 16⟩
/-- VXE_CHECK.LAST_GROUP -/ def vxeCheckLastGroup : Fld := ⟨.vxeCheck, 0, 16⟩
/-- VXE_FAULTS.ILIMIT_HITS -/ def vxeFaultsIlimitHits : Fld := ⟨.vxeFaults, 48, 16⟩
/-- VXE_FAULTS.PROG_REJECTS -/ def vxeFaultsProgRejects : Fld := ⟨.vxeFaults, 32, 16⟩
/-- VXE_FAULTS.FORMAT_FAULTS -/ def vxeFaultsFormatFaults : Fld := ⟨.vxeFaults, 16, 16⟩
/-- VXE_FAULTS.NONFINITE_IN -/ def vxeFaultsNonfiniteIn : Fld := ⟨.vxeFaults, 0, 16⟩
/-- MXE_OVF_n.COUNT -/ def mxeOvfNCount : Fld := ⟨.mxeOvfN, 0, 64⟩
/-- MXE_VAN_n.COUNT -/ def mxeVanNCount : Fld := ⟨.mxeVanN, 0, 64⟩
/-- VXE_OVF_n.COUNT -/ def vxeOvfNCount : Fld := ⟨.vxeOvfN, 0, 64⟩
/-- VXE_VAN_n.COUNT -/ def vxeVanNCount : Fld := ⟨.vxeVanN, 0, 64⟩
/-- IDLE_n.CYCLES -/ def idleNCycles : Fld := ⟨.idleN, 0, 64⟩
/-- QUEUE_q_CTRL.STOP -/ def queueQCtrlStop : Fld := ⟨.queueQCtrl, 4, 1⟩
/-- QUEUE_q_CTRL.ABORT_ENTRY -/ def queueQCtrlAbortEntry : Fld := ⟨.queueQCtrl, 3, 1⟩
/-- QUEUE_q_CTRL.RETRY -/ def queueQCtrlRetry : Fld := ⟨.queueQCtrl, 2, 1⟩
/-- QUEUE_q_CTRL.RESUME -/ def queueQCtrlResume : Fld := ⟨.queueQCtrl, 1, 1⟩
/-- QUEUE_q_CTRL.GO -/ def queueQCtrlGo : Fld := ⟨.queueQCtrl, 0, 1⟩
/-- QUEUE_q_STATUS.WBIAS -/ def queueQStatusWbias : Fld := ⟨.queueQStatus, 48, 16⟩
/-- QUEUE_q_STATUS.HEAD -/ def queueQStatusHead : Fld := ⟨.queueQStatus, 37, 11⟩
/-- QUEUE_q_STATUS.LAST_STATUS -/ def queueQStatusLastStatus : Fld := ⟨.queueQStatus, 24, 8⟩
/-- QUEUE_q_STATUS.BAD_CMD -/ def queueQStatusBadCmd : Fld := ⟨.queueQStatus, 16, 8⟩
/-- QUEUE_q_STATUS.EXEC -/ def queueQStatusExec : Fld := ⟨.queueQStatus, 3, 1⟩
/-- QUEUE_q_STATUS.STATE -/ def queueQStatusState : Fld := ⟨.queueQStatus, 0, 3⟩
/-- QUEUE_q_WAIT.FLAG_NOW -/ def queueQWaitFlagNow : Fld := ⟨.queueQWait, 48, 16⟩
/-- QUEUE_q_WAIT.TARGET -/ def queueQWaitTarget : Fld := ⟨.queueQWait, 32, 16⟩
/-- QUEUE_q_WAIT.SETTER -/ def queueQWaitSetter : Fld := ⟨.queueQWait, 21, 11⟩
/-- QUEUE_q_WAIT.FLAG -/ def queueQWaitFlag : Fld := ⟨.queueQWait, 4, 12⟩
/-- QUEUE_q_WAIT.ACTIVE -/ def queueQWaitActive : Fld := ⟨.queueQWait, 0, 1⟩
/-- QUEUE_q_REGION.START -/ def queueQRegionStart : Fld := ⟨.queueQRegion, 32, 11⟩
/-- QUEUE_q_REGION.SIZE -/ def queueQRegionSize : Fld := ⟨.queueQRegion, 16, 12⟩
/-- QUEUE_q_REGION.BASE -/ def queueQRegionBase : Fld := ⟨.queueQRegion, 0, 11⟩
/-- QUEUE_q_CRING.EN -/ def queueQCringEn : Fld := ⟨.queueQCring, 63, 1⟩
/-- QUEUE_q_CRING.SZ -/ def queueQCringSz : Fld := ⟨.queueQCring, 52, 4⟩
/-- QUEUE_q_CRING.BASE -/ def queueQCringBase : Fld := ⟨.queueQCring, 0, 44⟩
/-- QUEUE_q_CSEQ.RECORDS -/ def queueQCseqRecords : Fld := ⟨.queueQCseq, 0, 32⟩
/-- QUEUE_q_PARAM_m.VALUE -/ def queueQParamMValue : Fld := ⟨.queueQParamM, 0, 64⟩
/-- LKE_RING_n.EN -/ def lkeRingNEn : Fld := ⟨.lkeRingN, 63, 1⟩
/-- LKE_RING_n.SZ -/ def lkeRingNSz : Fld := ⟨.lkeRingN, 59, 4⟩
/-- LKE_RING_n.TAILFLAG -/ def lkeRingNTailflag : Fld := ⟨.lkeRingN, 47, 12⟩
/-- LKE_RING_n.BASE -/ def lkeRingNBase : Fld := ⟨.lkeRingN, 0, 44⟩
/-- LKE_HEAD_n.HEAD -/ def lkeHeadNHead : Fld := ⟨.lkeHeadN, 0, 16⟩
/-- FEAT_ID.SILICON -/ def featIdSilicon : Fld := ⟨.featId, 48, 4⟩
/-- FEAT_ID.PART -/ def featIdPart : Fld := ⟨.featId, 32, 16⟩
/-- FEAT_ID.FAMILY -/ def featIdFamily : Fld := ⟨.featId, 16, 16⟩
/-- FEAT_ID.MFR -/ def featIdMfr : Fld := ⟨.featId, 0, 11⟩
/-- FEAT_GRADE.SERDES_LANES -/ def featGradeSerdesLanes : Fld := ⟨.featGrade, 8, 16⟩
/-- FEAT_GRADE.GRADE -/ def featGradeGrade : Fld := ⟨.featGrade, 0, 8⟩
/-- FEAT_CORES.SPARE_FREE -/ def featCoresSpareFree : Fld := ⟨.featCores, 48, 8⟩
/-- FEAT_CORES.ADV_MASK -/ def featCoresAdvMask : Fld := ⟨.featCores, 32, 16⟩
/-- FEAT_CORES.ADVERTISED -/ def featCoresAdvertised : Fld := ⟨.featCores, 24, 8⟩
/-- FEAT_CORES.DIES -/ def featCoresDies : Fld := ⟨.featCores, 16, 8⟩
/-- FEAT_CORES.SPARES -/ def featCoresSpares : Fld := ⟨.featCores, 8, 8⟩
/-- FEAT_CORES.PER_DIE -/ def featCoresPerDie : Fld := ⟨.featCores, 0, 8⟩
/-- FEAT_ENGINES.PARAM_REGS -/ def featEnginesParamRegs : Fld := ⟨.featEngines, 48, 8⟩
/-- FEAT_ENGINES.SCORE_ENTRIES -/ def featEnginesScoreEntries : Fld := ⟨.featEngines, 32, 16⟩
/-- FEAT_ENGINES.CORE_QUEUES -/ def featEnginesCoreQueues : Fld := ⟨.featEngines, 28, 4⟩
/-- FEAT_ENGINES.CME_QUEUES -/ def featEnginesCmeQueues : Fld := ⟨.featEngines, 24, 4⟩
/-- FEAT_ENGINES.FXE_QUEUES -/ def featEnginesFxeQueues : Fld := ⟨.featEngines, 16, 8⟩
/-- FEAT_ENGINES.LKE_QUEUES -/ def featEnginesLkeQueues : Fld := ⟨.featEngines, 8, 8⟩
/-- FEAT_ENGINES.PRESENT -/ def featEnginesPresent : Fld := ⟨.featEngines, 0, 8⟩
/-- FEAT_FORMATS.FXE -/ def featFormatsFxe : Fld := ⟨.featFormats, 24, 4⟩
/-- FEAT_FORMATS.SUC -/ def featFormatsSuc : Fld := ⟨.featFormats, 20, 4⟩
/-- FEAT_FORMATS.LKE -/ def featFormatsLke : Fld := ⟨.featFormats, 16, 4⟩
/-- FEAT_FORMATS.DMA -/ def featFormatsDma : Fld := ⟨.featFormats, 12, 4⟩
/-- FEAT_FORMATS.VXE -/ def featFormatsVxe : Fld := ⟨.featFormats, 8, 4⟩
/-- FEAT_FORMATS.MXE_OUT -/ def featFormatsMxeOut : Fld := ⟨.featFormats, 4, 4⟩
/-- FEAT_FORMATS.MXE_IN -/ def featFormatsMxeIn : Fld := ⟨.featFormats, 0, 4⟩
/-- FEAT_MXE.ROWS -/ def featMxeRows : Fld := ⟨.featMxe, 48, 8⟩
/-- FEAT_MXE.COLS -/ def featMxeCols : Fld := ⟨.featMxe, 40, 8⟩
/-- FEAT_MXE.CHORD -/ def featMxeChord : Fld := ⟨.featMxe, 32, 8⟩
/-- FEAT_MXE.ARRAY -/ def featMxeArray : Fld := ⟨.featMxe, 24, 8⟩
/-- FEAT_MXE.FIXED -/ def featMxeFixed : Fld := ⟨.featMxe, 16, 8⟩
/-- FEAT_MXE.RESIDUE -/ def featMxeResidue : Fld := ⟨.featMxe, 8, 8⟩
/-- FEAT_VXE_LANES.PROG_SLOTS -/ def featVxeLanesProgSlots : Fld := ⟨.featVxeLanes, 48, 8⟩
/-- FEAT_VXE_LANES.GEN_REGS -/ def featVxeLanesGenRegs : Fld := ⟨.featVxeLanes, 40, 8⟩
/-- FEAT_VXE_LANES.REDUCED_LANES -/ def featVxeLanesReducedLanes : Fld := ⟨.featVxeLanes, 32, 8⟩
/-- FEAT_VXE_LANES.DIRECT_CH -/ def featVxeLanesDirectCh : Fld := ⟨.featVxeLanes, 24, 8⟩
/-- FEAT_VXE_LANES.EDDY_CH -/ def featVxeLanesEddyCh : Fld := ⟨.featVxeLanes, 16, 8⟩
/-- FEAT_VXE_LANES.LANES -/ def featVxeLanesLanes : Fld := ⟨.featVxeLanes, 0, 16⟩
/-- FEAT_HBM.USABLE_GIB -/ def featHbmUsableGib : Fld := ⟨.featHbm, 40, 12⟩
/-- FEAT_HBM.RAW_GIB -/ def featHbmRawGib : Fld := ⟨.featHbm, 28, 12⟩
/-- FEAT_HBM.RESERVE_MIB -/ def featHbmReserveMib : Fld := ⟨.featHbm, 20, 8⟩
/-- FEAT_HBM.GRAN_LOG2 -/ def featHbmGranLog2 : Fld := ⟨.featHbm, 16, 4⟩
/-- FEAT_HBM.CHANNELS -/ def featHbmChannels : Fld := ⟨.featHbm, 8, 8⟩
/-- FEAT_HBM.STACKS -/ def featHbmStacks : Fld := ⟨.featHbm, 4, 4⟩
/-- FEAT_HBM.SPEEDS -/ def featHbmSpeeds : Fld := ⟨.featHbm, 0, 2⟩
/-- FEAT_PORTS.MAX_PORTS -/ def featPortsMaxPorts : Fld := ⟨.featPorts, 40, 8⟩
/-- FEAT_PORTS.GROUPS -/ def featPortsGroups : Fld := ⟨.featPorts, 32, 8⟩
/-- FEAT_PORTS.POS_MASK -/ def featPortsPosMask : Fld := ⟨.featPorts, 0, 32⟩
/-- STALE_CTRL.POLICY -/ def staleCtrlPolicy : Fld := ⟨.staleCtrl, 32, 2⟩
/-- STALE_CTRL.TICKS -/ def staleCtrlTicks : Fld := ⟨.staleCtrl, 0, 20⟩
/-- STALE_STATUS.MORE -/ def staleStatusMore : Fld := ⟨.staleStatus, 32, 32⟩
/-- STALE_STATUS.LEN -/ def staleStatusLen : Fld := ⟨.staleStatus, 16, 10⟩
/-- STALE_STATUS.KIND -/ def staleStatusKind : Fld := ⟨.staleStatus, 1, 1⟩
/-- STALE_STATUS.VALID -/ def staleStatusValid : Fld := ⟨.staleStatus, 0, 1⟩
/-- STALE_MEMBER_n.ENTRY -/ def staleMemberNEntry : Fld := ⟨.staleMemberN, 32, 11⟩
/-- STALE_MEMBER_n.ITER -/ def staleMemberNIter : Fld := ⟨.staleMemberN, 16, 16⟩
/-- STALE_MEMBER_n.QUEUE -/ def staleMemberNQueue : Fld := ⟨.staleMemberN, 0, 11⟩
/-- SUC_CFG.SCRATCH -/ def sucCfgScratch : Fld := ⟨.sucCfg, 0, 4⟩
/-- SUC_STATUS.SPILLS -/ def sucStatusSpills : Fld := ⟨.sucStatus, 32, 32⟩
/-- SUC_STATUS.OPEN -/ def sucStatusOpen : Fld := ⟨.sucStatus, 16, 7⟩
/-- SUC_STATUS.GROUP_FAULTS -/ def sucStatusGroupFaults : Fld := ⟨.sucStatus, 0, 16⟩
/-- SUC_NUM.OVF -/ def sucNumOvf : Fld := ⟨.sucNum, 32, 32⟩
/-- SUC_NUM.VAN -/ def sucNumVan : Fld := ⟨.sucNum, 0, 32⟩
/-- HBM_CFG.CE_LIMIT -/ def hbmCfgCeLimit : Fld := ⟨.hbmCfg, 32, 16⟩
/-- HBM_CFG.KEEP_REMAP -/ def hbmCfgKeepRemap : Fld := ⟨.hbmCfg, 8, 1⟩
/-- HBM_CFG.SPEED -/ def hbmCfgSpeed : Fld := ⟨.hbmCfg, 0, 4⟩
/-- HBM_STATUS.TEMP -/ def hbmStatusTemp : Fld := ⟨.hbmStatus, 32, 8⟩
/-- HBM_STATUS.RESERVE -/ def hbmStatusReserve : Fld := ⟨.hbmStatus, 16, 2⟩
/-- HBM_STATUS.RCHAN -/ def hbmStatusRchan : Fld := ⟨.hbmStatus, 8, 5⟩
/-- HBM_STATUS.HOT -/ def hbmStatusHot : Fld := ⟨.hbmStatus, 3, 1⟩
/-- HBM_STATUS.SELF_REFRESH -/ def hbmStatusSelfRefresh : Fld := ⟨.hbmStatus, 2, 1⟩
/-- HBM_STATUS.SLOW -/ def hbmStatusSlow : Fld := ⟨.hbmStatus, 1, 1⟩
/-- HBM_STATUS.TRAINED -/ def hbmStatusTrained : Fld := ⟨.hbmStatus, 0, 1⟩
/-- LKE_CFG.APPLY -/ def lkeCfgApply : Fld := ⟨.lkeCfg, 48, 16⟩
/-- LKE_CFG.FLIP_LEAD -/ def lkeCfgFlipLead : Fld := ⟨.lkeCfg, 32, 16⟩
/-- LKE_CFG.HOT_FRAMES -/ def lkeCfgHotFrames : Fld := ⟨.lkeCfg, 0, 24⟩
/-- LKE_STATUS.HALTED -/ def lkeStatusHalted : Fld := ⟨.lkeStatus, 32, 8⟩
/-- LKE_STATUS.MOVING -/ def lkeStatusMoving : Fld := ⟨.lkeStatus, 0, 17⟩
/-- LKE_DEFAULTS.INVALID -/ def lkeDefaultsInvalid : Fld := ⟨.lkeDefaults, 32, 32⟩
/-- LKE_DEFAULTS.MISSING -/ def lkeDefaultsMissing : Fld := ⟨.lkeDefaults, 0, 32⟩
/-- LKE_REPLACE.ROWS -/ def lkeReplaceRows : Fld := ⟨.lkeReplace, 32, 32⟩
/-- LKE_REPLACE.STALE_UPDATES -/ def lkeReplaceStaleUpdates : Fld := ⟨.lkeReplace, 0, 32⟩
/-- LKE_TRAFFIC.HOT -/ def lkeTrafficHot : Fld := ⟨.lkeTraffic, 32, 32⟩
/-- LKE_TRAFFIC.REMOTE_RUNS -/ def lkeTrafficRemoteRuns : Fld := ⟨.lkeTraffic, 0, 32⟩
/-- LKE_NUM.OVF -/ def lkeNumOvf : Fld := ⟨.lkeNum, 32, 32⟩
/-- LKE_NUM.VAN -/ def lkeNumVan : Fld := ⟨.lkeNum, 0, 32⟩
/-- LKE_MIGRATE.FLIPPED -/ def lkeMigrateFlipped : Fld := ⟨.lkeMigrate, 32, 32⟩
/-- LKE_MIGRATE.ABANDONED -/ def lkeMigrateAbandoned : Fld := ⟨.lkeMigrate, 16, 16⟩
/-- LKE_MIGRATE.REJECTED -/ def lkeMigrateRejected : Fld := ⟨.lkeMigrate, 0, 16⟩
/-- LKE_GMAP.FULL -/ def lkeGmapFull : Fld := ⟨.lkeGmap, 32, 32⟩
/-- LKE_GMAP.DROPPED -/ def lkeGmapDropped : Fld := ⟨.lkeGmap, 0, 32⟩
/-- ECC_COUNT_m.CORRECTED -/ def eccCountMCorrected : Fld := ⟨.eccCountM, 32, 32⟩
/-- ECC_COUNT_m.UNCORRECTED -/ def eccCountMUncorrected : Fld := ⟨.eccCountM, 16, 16⟩
/-- ECC_COUNT_m.POISON_READS -/ def eccCountMPoisonReads : Fld := ⟨.eccCountM, 0, 16⟩
/-- SCRUB_m.PASSES -/ def scrubMPasses : Fld := ⟨.scrubM, 32, 32⟩
/-- SCRUB_m.LAST_MIN -/ def scrubMLastMin : Fld := ⟨.scrubM, 0, 16⟩
/-- HBM_CHAN_n.RETUNES -/ def hbmChanNRetunes : Fld := ⟨.hbmChanN, 48, 16⟩
/-- HBM_CHAN_n.CE_MIN -/ def hbmChanNCeMin : Fld := ⟨.hbmChanN, 32, 16⟩
/-- HBM_CHAN_n.MARGIN -/ def hbmChanNMargin : Fld := ⟨.hbmChanN, 8, 8⟩
/-- HBM_CHAN_n.STATE -/ def hbmChanNState : Fld := ⟨.hbmChanN, 0, 3⟩
/-- STEP_EPOCH.EPOCH -/ def stepEpochEpoch : Fld := ⟨.stepEpoch, 0, 64⟩
/-- STEP_STATUS.LEADER -/ def stepStatusLeader : Fld := ⟨.stepStatus, 48, 16⟩
/-- STEP_STATUS.LAST -/ def stepStatusLast : Fld := ⟨.stepStatus, 36, 4⟩
/-- STEP_STATUS.GEN -/ def stepStatusGen : Fld := ⟨.stepStatus, 32, 1⟩
/-- STEP_STATUS.OPEN -/ def stepStatusOpen : Fld := ⟨.stepStatus, 16, 8⟩
/-- STEP_STATUS.STATE -/ def stepStatusState : Fld := ⟨.stepStatus, 0, 3⟩
/-- COMMIT_CTRL.VOTE_LIMIT -/ def commitCtrlVoteLimit : Fld := ⟨.commitCtrl, 48, 16⟩
/-- COMMIT_CTRL.FREEZE_LIMIT -/ def commitCtrlFreezeLimit : Fld := ⟨.commitCtrl, 32, 16⟩
/-- COMMIT_CTRL.PAIR_POLICY -/ def commitCtrlPairPolicy : Fld := ⟨.commitCtrl, 0, 2⟩
/-- CASTLE_JRNL.SIZE -/ def castleJrnlSize : Fld := ⟨.castleJrnl, 48, 16⟩
/-- CASTLE_JRNL.BASE -/ def castleJrnlBase : Fld := ⟨.castleJrnl, 0, 44⟩
/-- CASTLE_STATUS.RECORDS -/ def castleStatusRecords : Fld := ⟨.castleStatus, 32, 32⟩
/-- CASTLE_STATUS.JFULL -/ def castleStatusJfull : Fld := ⟨.castleStatus, 16, 16⟩
/-- CASTLE_STATUS.REDONE -/ def castleStatusRedone : Fld := ⟨.castleStatus, 0, 16⟩
/-- VOTE_COUNT.COMMITS -/ def voteCountCommits : Fld := ⟨.voteCount, 32, 32⟩
/-- VOTE_COUNT.SKIPS -/ def voteCountSkips : Fld := ⟨.voteCount, 16, 16⟩
/-- VOTE_COUNT.ABORTS -/ def voteCountAborts : Fld := ⟨.voteCount, 8, 8⟩
/-- VOTE_COUNT.FREEZES -/ def voteCountFreezes : Fld := ⟨.voteCount, 0, 8⟩
/-- DIGEST_STATUS.COMPARED -/ def digestStatusCompared : Fld := ⟨.digestStatus, 32, 32⟩
/-- DIGEST_STATUS.MINORITY -/ def digestStatusMinority : Fld := ⟨.digestStatus, 0, 32⟩
/-- NUM_CTRL.GROW -/ def numCtrlGrow : Fld := ⟨.numCtrl, 48, 16⟩
/-- NUM_CTRL.LS_INIT -/ def numCtrlLsInit : Fld := ⟨.numCtrl, 40, 8⟩
/-- NUM_CTRL.LS_FIXED -/ def numCtrlLsFixed : Fld := ⟨.numCtrl, 32, 1⟩
/-- NUM_LS.CLEAN -/ def numLsClean : Fld := ⟨.numLs, 48, 16⟩
/-- NUM_LS.LS_EXP -/ def numLsLsExp : Fld := ⟨.numLs, 40, 8⟩
/-- NUM_LS.FLOOR_HITS -/ def numLsFloorHits : Fld := ⟨.numLs, 16, 16⟩
/-- NUM_LS.CEIL_HITS -/ def numLsCeilHits : Fld := ⟨.numLs, 0, 16⟩
/-- NUM_STATUS.NF_EVENTS -/ def numStatusNfEvents : Fld := ⟨.numStatus, 32, 32⟩
/-- NUM_STATUS.WIDEN -/ def numStatusWiden : Fld := ⟨.numStatus, 16, 16⟩
/-- NUM_STATUS.BAD_WRITES -/ def numStatusBadWrites : Fld := ⟨.numStatus, 8, 8⟩
/-- NUM_STATUS.OVF -/ def numStatusOvf : Fld := ⟨.numStatus, 1, 4⟩
/-- NUM_STATUS.NF -/ def numStatusNf : Fld := ⟨.numStatus, 0, 1⟩
/-- NUM_RING.EN -/ def numRingEn : Fld := ⟨.numRing, 63, 1⟩
/-- NUM_RING.SZ -/ def numRingSz : Fld := ⟨.numRing, 52, 4⟩
/-- NUM_RING.BASE -/ def numRingBase : Fld := ⟨.numRing, 0, 44⟩
/-- NUM_MIRROR.EN -/ def numMirrorEn : Fld := ⟨.numMirror, 63, 1⟩
/-- NUM_MIRROR.FLAG -/ def numMirrorFlag : Fld := ⟨.numMirror, 48, 12⟩
/-- NUM_MIRROR.BASE -/ def numMirrorBase : Fld := ⟨.numMirror, 0, 44⟩
/-- NUM_WLOG.EN -/ def numWlogEn : Fld := ⟨.numWlog, 63, 1⟩
/-- NUM_WLOG.SZ -/ def numWlogSz : Fld := ⟨.numWlog, 52, 4⟩
/-- NUM_WLOG.BASE -/ def numWlogBase : Fld := ⟨.numWlog, 0, 44⟩
/-- NUM_WSEQ.ENTRIES -/ def numWseqEntries : Fld := ⟨.numWseq, 0, 64⟩
/-- BECALM_CTRL.STEPS -/ def becalmCtrlSteps : Fld := ⟨.becalmCtrl, 48, 16⟩
/-- BECALM_CTRL.ZERO_PPM -/ def becalmCtrlZeroPpm : Fld := ⟨.becalmCtrl, 24, 20⟩
/-- BECALM_CTRL.EN -/ def becalmCtrlEn : Fld := ⟨.becalmCtrl, 0, 1⟩
/-- BECALM_STATUS.ALARMS -/ def becalmStatusAlarms : Fld := ⟨.becalmStatus, 32, 32⟩
/-- BECALM_STATUS.LAYER -/ def becalmStatusLayer : Fld := ⟨.becalmStatus, 8, 8⟩
/-- BECALM_STATUS.ACTIVE -/ def becalmStatusActive : Fld := ⟨.becalmStatus, 0, 1⟩
/-- TEMPO_CTRL.INIT -/ def tempoCtrlInit : Fld := ⟨.tempoCtrl, 32, 32⟩
/-- TEMPO_CTRL.FACTOR -/ def tempoCtrlFactor : Fld := ⟨.tempoCtrl, 28, 4⟩
/-- TEMPO_CTRL.MISSES -/ def tempoCtrlMisses : Fld := ⟨.tempoCtrl, 24, 4⟩
/-- TEMPO_CTRL.LATE_MAX -/ def tempoCtrlLateMax : Fld := ⟨.tempoCtrl, 16, 8⟩
/-- TEMPO_CTRL.MODE -/ def tempoCtrlMode : Fld := ⟨.tempoCtrl, 0, 1⟩
/-- TEMPO_STATUS.DEADLINE -/ def tempoStatusDeadline : Fld := ⟨.tempoStatus, 32, 32⟩
/-- TEMPO_STATUS.LATE -/ def tempoStatusLate : Fld := ⟨.tempoStatus, 16, 8⟩
/-- TEMPO_STATUS.MISSES -/ def tempoStatusMisses : Fld := ⟨.tempoStatus, 0, 4⟩
/-- TEMPO_COUNT.LATE -/ def tempoCountLate : Fld := ⟨.tempoCount, 32, 32⟩
/-- TEMPO_COUNT.DROPPED -/ def tempoCountDropped : Fld := ⟨.tempoCount, 16, 16⟩
/-- TEMPO_COUNT.EXTENDED -/ def tempoCountExtended : Fld := ⟨.tempoCount, 0, 16⟩
/-- NUM_WATCH_n_RANGE.TENSOR_HI -/ def numWatchNRangeTensorHi : Fld := ⟨.numWatchNRange, 32, 32⟩
/-- NUM_WATCH_n_RANGE.TENSOR_LO -/ def numWatchNRangeTensorLo : Fld := ⟨.numWatchNRange, 0, 32⟩
/-- NUM_WATCH_n_CFG.SH_LO -/ def numWatchNCfgShLo : Fld := ⟨.numWatchNCfg, 48, 16⟩
/-- NUM_WATCH_n_CFG.SH_HI -/ def numWatchNCfgShHi : Fld := ⟨.numWatchNCfg, 32, 16⟩
/-- NUM_WATCH_n_CFG.QEXP -/ def numWatchNCfgQexp : Fld := ⟨.numWatchNCfg, 24, 8⟩
/-- NUM_WATCH_n_CFG.LAYER -/ def numWatchNCfgLayer : Fld := ⟨.numWatchNCfg, 8, 8⟩
/-- NUM_WATCH_n_CFG.KIND -/ def numWatchNCfgKind : Fld := ⟨.numWatchNCfg, 1, 1⟩
/-- NUM_WATCH_n_CFG.VALID -/ def numWatchNCfgValid : Fld := ⟨.numWatchNCfg, 0, 1⟩
/-- NAELO_CFG.UDP_PORT -/ def naeloCfgUdpPort : Fld := ⟨.naeloCfg, 48, 16⟩
/-- NAELO_CFG.PMAX -/ def naeloCfgPmax : Fld := ⟨.naeloCfg, 40, 2⟩
/-- NAELO_CFG.HS_RATE -/ def naeloCfgHsRate : Fld := ⟨.naeloCfg, 16, 13⟩
/-- NAELO_STATUS.RETX -/ def naeloStatusRetx : Fld := ⟨.naeloStatus, 32, 32⟩
/-- NAELO_STATUS.FLOWS -/ def naeloStatusFlows : Fld := ⟨.naeloStatus, 0, 13⟩
/-- NAELO_TIMERS.RTO_MIN -/ def naeloTimersRtoMin : Fld := ⟨.naeloTimers, 48, 16⟩
/-- NAELO_TIMERS.RTO_MAX -/ def naeloTimersRtoMax : Fld := ⟨.naeloTimers, 32, 16⟩
/-- NAELO_TIMERS.RETX_LIMIT -/ def naeloTimersRetxLimit : Fld := ⟨.naeloTimers, 28, 4⟩
/-- NAELO_TIMERS.PATH_HOLD -/ def naeloTimersPathHold : Fld := ⟨.naeloTimers, 16, 12⟩
/-- NAELO_TIMERS.PULL_LIMIT -/ def naeloTimersPullLimit : Fld := ⟨.naeloTimers, 0, 16⟩
/-- CC_CFG.CWND_INIT -/ def ccCfgCwndInit : Fld := ⟨.ccCfg, 48, 16⟩
/-- CC_CFG.CWND_MAX -/ def ccCfgCwndMax : Fld := ⟨.ccCfg, 32, 16⟩
/-- LEDGER_ECC.CORRECTED -/ def ledgerEccCorrected : Fld := ⟨.ledgerEcc, 32, 32⟩
/-- LEDGER_ECC.UNCORRECTED -/ def ledgerEccUncorrected : Fld := ⟨.ledgerEcc, 16, 16⟩
/-- LEDGER_ECC.POISON_READS -/ def ledgerEccPoisonReads : Fld := ⟨.ledgerEcc, 0, 16⟩
/-- FXE_STATUS.OPS -/ def fxeStatusOps : Fld := ⟨.fxeStatus, 32, 32⟩
/-- FXE_STATUS.ABORTED -/ def fxeStatusAborted : Fld := ⟨.fxeStatus, 16, 16⟩
/-- FXE_STATUS.HOVE_TO -/ def fxeStatusHoveTo : Fld := ⟨.fxeStatus, 0, 16⟩
/-- FXE_NUM.OVF -/ def fxeNumOvf : Fld := ⟨.fxeNum, 32, 32⟩
/-- FXE_NUM.VAN -/ def fxeNumVan : Fld := ⟨.fxeNum, 0, 32⟩
/-- CLASS_n_CFG.DSCP -/ def classNCfgDscp : Fld := ⟨.classNCfg, 10, 6⟩
/-- CLASS_n_CFG.WEIGHT -/ def classNCfgWeight : Fld := ⟨.classNCfg, 0, 8⟩
/-- PTP_CFG.DOMAIN -/ def ptpCfgDomain : Fld := ⟨.ptpCfg, 56, 8⟩
/-- PTP_CFG.SOURCES -/ def ptpCfgSources : Fld := ⟨.ptpCfg, 52, 4⟩
/-- PTP_CFG.PPS_EN -/ def ptpCfgPpsEn : Fld := ⟨.ptpCfg, 51, 1⟩
/-- PTP_STATUS.STATE -/ def ptpStatusState : Fld := ⟨.ptpStatus, 61, 3⟩
/-- PTP_STATUS.PORT -/ def ptpStatusPort : Fld := ⟨.ptpStatus, 56, 5⟩
/-- PTP_STATUS.SOURCE -/ def ptpStatusSource : Fld := ⟨.ptpStatus, 54, 2⟩
/-- PTP_STATUS.PPS_IGNORED -/ def ptpStatusPpsIgnored : Fld := ⟨.ptpStatus, 32, 16⟩
/-- PTP_STATUS.OFFSET -/ def ptpStatusOffset : Fld := ⟨.ptpStatus, 0, 32⟩
/-- HALL_STATUS.PART -/ def hallStatusPart : Fld := ⟨.hallStatus, 48, 16⟩
/-- HALL_STATUS.MEMBERS -/ def hallStatusMembers : Fld := ⟨.hallStatus, 32, 16⟩
/-- HALL_STATUS.SITE -/ def hallStatusSite : Fld := ⟨.hallStatus, 24, 8⟩
/-- HALL_STATUS.ROLE -/ def hallStatusRole : Fld := ⟨.hallStatus, 20, 4⟩
/-- HALL_STATUS.MEPOCH -/ def hallStatusMepoch : Fld := ⟨.hallStatus, 0, 16⟩
/-- HALL_CTRL.BEAT -/ def hallCtrlBeat : Fld := ⟨.hallCtrl, 56, 8⟩
/-- HALL_CTRL.BEATS_LOST -/ def hallCtrlBeatsLost : Fld := ⟨.hallCtrl, 52, 4⟩
/-- SHIP_CTRL.KEEP_OFFSET -/ def shipCtrlKeepOffset : Fld := ⟨.shipCtrl, 48, 16⟩
/-- SHIP_CTRL.LOG_INTERVAL -/ def shipCtrlLogInterval : Fld := ⟨.shipCtrl, 44, 4⟩
/-- SHIP_AREA.SIZE -/ def shipAreaSize : Fld := ⟨.shipArea, 48, 16⟩
/-- SHIP_AREA.BASE -/ def shipAreaBase : Fld := ⟨.shipArea, 0, 44⟩
/-- SHIP_STATUS.LAST -/ def shipStatusLast : Fld := ⟨.shipStatus, 32, 32⟩
/-- SHIP_STATUS.FULL -/ def shipStatusFull : Fld := ⟨.shipStatus, 16, 16⟩
/-- SHIP_STATUS.SHIPS -/ def shipStatusShips : Fld := ⟨.shipStatus, 0, 16⟩
/-- HALL_CKPT.EPOCH -/ def hallCkptEpoch : Fld := ⟨.hallCkpt, 0, 64⟩
/-- PORT_p_CFG.MTU -/ def portPCfgMtu : Fld := ⟨.portPCfg, 40, 16⟩
/-- PORT_p_CFG.PFC_EN -/ def portPCfgPfcEn : Fld := ⟨.portPCfg, 32, 8⟩
/-- PORT_p_CFG.MEDIA -/ def portPCfgMedia : Fld := ⟨.portPCfg, 30, 2⟩
/-- PORT_p_CFG.SPEED -/ def portPCfgSpeed : Fld := ⟨.portPCfg, 27, 3⟩
/-- PORT_p_CFG.IPV6 -/ def portPCfgIpv6 : Fld := ⟨.portPCfg, 26, 1⟩
/-- PORT_p_CFG.VLAN -/ def portPCfgVlan : Fld := ⟨.portPCfg, 25, 1⟩
/-- PORT_p_CFG.PTP -/ def portPCfgPtp : Fld := ⟨.portPCfg, 24, 1⟩
/-- PORT_p_CFG.VID -/ def portPCfgVid : Fld := ⟨.portPCfg, 12, 12⟩
/-- PORT_p_CFG.ASYM -/ def portPCfgAsym : Fld := ⟨.portPCfg, 0, 12⟩
/-- PORT_p_STATUS.DOWNS -/ def portPStatusDowns : Fld := ⟨.portPStatus, 48, 8⟩
/-- PORT_p_STATUS.LOCKED -/ def portPStatusLocked : Fld := ⟨.portPStatus, 24, 8⟩
/-- PORT_p_STATUS.FAULT -/ def portPStatusFault : Fld := ⟨.portPStatus, 4, 1⟩
/-- PORT_p_STATUS.STATE -/ def portPStatusState : Fld := ⟨.portPStatus, 1, 3⟩
/-- PORT_p_STATUS.UP -/ def portPStatusUp : Fld := ⟨.portPStatus, 0, 1⟩
/-- PORT_p_FEC.CORRECTED -/ def portPFecCorrected : Fld := ⟨.portPFec, 32, 32⟩
/-- PORT_p_FEC.UNCORRECTABLE -/ def portPFecUncorrectable : Fld := ⟨.portPFec, 16, 16⟩
/-- PORT_p_FEC.MAX_SYMBOLS -/ def portPFecMaxSymbols : Fld := ⟨.portPFec, 0, 16⟩
/-- PORT_p_FRAMES.RX -/ def portPFramesRx : Fld := ⟨.portPFrames, 32, 32⟩
/-- PORT_p_FRAMES.TX -/ def portPFramesTx : Fld := ⟨.portPFrames, 0, 32⟩
/-- PORT_p_MAC.MAC -/ def portPMacMac : Fld := ⟨.portPMac, 0, 48⟩
/-- PORT_p_IP_n.ADDR -/ def portPIpNAddr : Fld := ⟨.portPIpN, 0, 64⟩
/-- PORT_p_GW_n.ADDR -/ def portPGwNAddr : Fld := ⟨.portPGwN, 0, 64⟩
/-- PORT_p_DROP_n.COUNT -/ def portPDropNCount : Fld := ⟨.portPDropN, 0, 64⟩
/-- FLOW_f_STATUS.STATE -/ def flowFStatusState : Fld := ⟨.flowFStatus, 61, 3⟩
/-- FLOW_f_STATUS.FEEDER -/ def flowFStatusFeeder : Fld := ⟨.flowFStatus, 60, 1⟩
/-- FLOW_f_STATUS.CLASS -/ def flowFStatusClass : Fld := ⟨.flowFStatus, 57, 3⟩
/-- FLOW_f_STATUS.PATHS -/ def flowFStatusPaths : Fld := ⟨.flowFStatus, 52, 5⟩
/-- FLOW_f_STATUS.PEER -/ def flowFStatusPeer : Fld := ⟨.flowFStatus, 32, 16⟩
/-- FLOW_f_STATUS.SRTT -/ def flowFStatusSrtt : Fld := ⟨.flowFStatus, 16, 16⟩
/-- FLOW_f_STATUS.RETX -/ def flowFStatusRetx : Fld := ⟨.flowFStatus, 0, 16⟩
/-- FXE_BIND_n.DIE -/ def fxeBindNDie : Fld := ⟨.fxeBindN, 0, 3⟩
/-- TICK_COUNT.TICKS -/ def tickCountTicks : Fld := ⟨.tickCount, 0, 64⟩
/-- TICK_STATUS.ADJ_NS -/ def tickStatusAdjNs : Fld := ⟨.tickStatus, 16, 16⟩
/-- TICK_STATUS.BACKUP -/ def tickStatusBackup : Fld := ⟨.tickStatus, 2, 1⟩
/-- TICK_STATUS.STEPPED -/ def tickStatusStepped : Fld := ⟨.tickStatus, 1, 1⟩
/-- TICK_STATUS.HALL -/ def tickStatusHall : Fld := ⟨.tickStatus, 0, 1⟩
/-- PWR_CTRL.DEEP_TICKS -/ def pwrCtrlDeepTicks : Fld := ⟨.pwrCtrl, 48, 16⟩
/-- PWR_CTRL.LULL_CYCLES -/ def pwrCtrlLullCycles : Fld := ⟨.pwrCtrl, 32, 16⟩
/-- PWR_CTRL.DEEP_EN -/ def pwrCtrlDeepEn : Fld := ⟨.pwrCtrl, 1, 1⟩
/-- PWR_CTRL.LULL_EN -/ def pwrCtrlLullEn : Fld := ⟨.pwrCtrl, 0, 1⟩
/-- PWR_STATUS.WAKES -/ def pwrStatusWakes : Fld := ⟨.pwrStatus, 32, 32⟩
/-- PWR_STATUS.DEEP -/ def pwrStatusDeep : Fld := ⟨.pwrStatus, 16, 8⟩
/-- PWR_STATUS.LULL -/ def pwrStatusLull : Fld := ⟨.pwrStatus, 8, 8⟩
/-- PWR_STATUS.PART -/ def pwrStatusPart : Fld := ⟨.pwrStatus, 0, 2⟩
/-- SB_CTRL.HOLD_LIMIT -/ def sbCtrlHoldLimit : Fld := ⟨.sbCtrl, 32, 32⟩
/-- SB_CTRL.HOLD_POLICY -/ def sbCtrlHoldPolicy : Fld := ⟨.sbCtrl, 30, 2⟩
/-- SB_CTRL.AUTO_UNMASK -/ def sbCtrlAutoUnmask : Fld := ⟨.sbCtrl, 3, 1⟩
/-- SB_CTRL.UNMASK -/ def sbCtrlUnmask : Fld := ⟨.sbCtrl, 0, 3⟩
/-- SB_STATUS.ESCALATED -/ def sbStatusEscalated : Fld := ⟨.sbStatus, 17, 1⟩
/-- SB_STATUS.HELD -/ def sbStatusHeld : Fld := ⟨.sbStatus, 16, 1⟩
/-- SB_STATUS.MASKED -/ def sbStatusMasked : Fld := ⟨.sbStatus, 8, 3⟩
/-- SB_STATUS.LEVEL -/ def sbStatusLevel : Fld := ⟨.sbStatus, 0, 3⟩
/-- SB_COUNT_i.TRANSITIONS -/ def sbCountITransitions : Fld := ⟨.sbCountI, 32, 32⟩
/-- SB_COUNT_i.MASKINGS -/ def sbCountIMaskings : Fld := ⟨.sbCountI, 16, 16⟩
/-- SB_COUNT_i.WINDOW -/ def sbCountIWindow : Fld := ⟨.sbCountI, 0, 8⟩
/-- CORE_PWR_d.STATE -/ def corePwrDState : Fld := ⟨.corePwrD, 0, 34⟩
/-- ERRLOG_0.EVENT -/ def errlog0Event : Fld := ⟨.errlog0, 48, 16⟩
/-- ERRLOG_0.SEV -/ def errlog0Sev : Fld := ⟨.errlog0, 44, 4⟩
/-- ERRLOG_0.DOMAIN -/ def errlog0Domain : Fld := ⟨.errlog0, 32, 12⟩
/-- ERRLOG_0.SOURCE -/ def errlog0Source : Fld := ⟨.errlog0, 22, 10⟩
/-- ERRLOG_0.CORE -/ def errlog0Core : Fld := ⟨.errlog0, 8, 8⟩
/-- ERRLOG_0.COUNT -/ def errlog0Count : Fld := ⟨.errlog0, 0, 8⟩
/-- ERRLOG_1.TICK -/ def errlog1Tick : Fld := ⟨.errlog1, 0, 64⟩
/-- ERRLOG_2.ADDR -/ def errlog2Addr : Fld := ⟨.errlog2, 0, 64⟩
/-- ERRLOG_3.DETAIL -/ def errlog3Detail : Fld := ⟨.errlog3, 32, 32⟩
/-- ERRLOG_3.STATUS -/ def errlog3Status : Fld := ⟨.errlog3, 24, 8⟩
/-- ERRSEC_n_0.EVENT -/ def errsecN0Event : Fld := ⟨.errsecN0, 48, 16⟩
/-- ERRSEC_n_0.SEV -/ def errsecN0Sev : Fld := ⟨.errsecN0, 44, 4⟩
/-- ERRSEC_n_0.DOMAIN -/ def errsecN0Domain : Fld := ⟨.errsecN0, 32, 12⟩
/-- ERRSEC_n_0.SOURCE -/ def errsecN0Source : Fld := ⟨.errsecN0, 22, 10⟩
/-- ERRSEC_n_0.CORE -/ def errsecN0Core : Fld := ⟨.errsecN0, 8, 8⟩
/-- ERRSEC_n_0.COUNT -/ def errsecN0Count : Fld := ⟨.errsecN0, 0, 8⟩
/-- ERRSEC_n_1.TICK -/ def errsecN1Tick : Fld := ⟨.errsecN1, 0, 64⟩
/-- ERRSEC_n_2.ADDR -/ def errsecN2Addr : Fld := ⟨.errsecN2, 0, 64⟩
/-- ERRSEC_n_3.DETAIL -/ def errsecN3Detail : Fld := ⟨.errsecN3, 32, 32⟩
/-- ERRSEC_n_3.STATUS -/ def errsecN3Status : Fld := ⟨.errsecN3, 24, 8⟩
/-- ERR_STATUS.TOP_SEV -/ def errStatusTopSev : Fld := ⟨.errStatus, 4, 4⟩
/-- ERR_STATUS.VALID -/ def errStatusValid : Fld := ⟨.errStatus, 0, 1⟩
/-- ERR_CTRL.LEVEL_4 -/ def errCtrlLevel4 : Fld := ⟨.errCtrl, 16, 4⟩
/-- ERR_CTRL.LEVEL_3 -/ def errCtrlLevel3 : Fld := ⟨.errCtrl, 12, 4⟩
/-- ERR_CTRL.LEVEL_2 -/ def errCtrlLevel2 : Fld := ⟨.errCtrl, 8, 4⟩
/-- ERR_CTRL.LEVEL_1 -/ def errCtrlLevel1 : Fld := ⟨.errCtrl, 4, 4⟩
/-- ERR_CTRL.LEVEL_0 -/ def errCtrlLevel0 : Fld := ⟨.errCtrl, 0, 4⟩
/-- ERR_COUNT_s.ERRORS -/ def errCountSErrors : Fld := ⟨.errCountS, 0, 64⟩
/-- ERR_OVERFLOW.DROPPED -/ def errOverflowDropped : Fld := ⟨.errOverflow, 0, 64⟩
/-- ERR_RING.WRITTEN -/ def errRingWritten : Fld := ⟨.errRing, 32, 32⟩
/-- ERR_RING.READ -/ def errRingRead : Fld := ⟨.errRing, 0, 32⟩
/-- SAFE_CTRL.STEST_PERIOD -/ def safeCtrlStestPeriod : Fld := ⟨.safeCtrl, 48, 16⟩
/-- SAFE_CTRL.REPEAT_HOURS -/ def safeCtrlRepeatHours : Fld := ⟨.safeCtrl, 40, 8⟩
/-- SAFE_CTRL.AUTO_RELEASE -/ def safeCtrlAutoRelease : Fld := ⟨.safeCtrl, 0, 11⟩
/-- HOVE_CTRL.RELEASE -/ def hoveCtrlRelease : Fld := ⟨.hoveCtrl, 1, 1⟩
/-- HOVE_CTRL.ENTER -/ def hoveCtrlEnter : Fld := ⟨.hoveCtrl, 0, 1⟩
/-- HOVE_STATUS.REFUSED -/ def hoveStatusRefused : Fld := ⟨.hoveStatus, 48, 16⟩
/-- HOVE_STATUS.REFUSED_RELEASES -/ def hoveStatusRefusedReleases : Fld := ⟨.hoveStatus, 32, 16⟩
/-- HOVE_STATUS.RELEASABLE -/ def hoveStatusReleasable : Fld := ⟨.hoveStatus, 21, 1⟩
/-- HOVE_STATUS.ACTIVE -/ def hoveStatusActive : Fld := ⟨.hoveStatus, 20, 1⟩
/-- HOVE_STATUS.CAUSES -/ def hoveStatusCauses : Fld := ⟨.hoveStatus, 0, 11⟩
/-- RECOV_j.SINCE -/ def recovJSince : Fld := ⟨.recovJ, 32, 32⟩
/-- RECOV_j.BUSY -/ def recovJBusy : Fld := ⟨.recovJ, 12, 1⟩
/-- RECOV_j.DOMAIN -/ def recovJDomain : Fld := ⟨.recovJ, 0, 12⟩
/-- STEST_STATUS.TESTS -/ def stestStatusTests : Fld := ⟨.stestStatus, 32, 32⟩
/-- STEST_STATUS.FAILS -/ def stestStatusFails : Fld := ⟨.stestStatus, 16, 16⟩
/-- STEST_STATUS.OLDEST_MS -/ def stestStatusOldestMs : Fld := ⟨.stestStatus, 8, 8⟩
/-- STEST_STATUS.LAST_CORE -/ def stestStatusLastCore : Fld := ⟨.stestStatus, 0, 8⟩
/-- BOOT_STATUS.READY_MS -/ def bootStatusReadyMs : Fld := ⟨.bootStatus, 32, 32⟩
/-- BOOT_STATUS.QUAL -/ def bootStatusQual : Fld := ⟨.bootStatus, 16, 4⟩
/-- BOOT_STATUS.WHY -/ def bootStatusWhy : Fld := ⟨.bootStatus, 10, 2⟩
/-- BOOT_STATUS.FALLBACK -/ def bootStatusFallback : Fld := ⟨.bootStatus, 9, 1⟩
/-- BOOT_STATUS.SLOT -/ def bootStatusSlot : Fld := ⟨.bootStatus, 8, 1⟩
/-- BOOT_STATUS.STATE -/ def bootStatusState : Fld := ⟨.bootStatus, 0, 3⟩
/-- CFG_CTRL.RESULT -/ def cfgCtrlResult : Fld := ⟨.cfgCtrl, 24, 8⟩
/-- CFG_CTRL.BUSY -/ def cfgCtrlBusy : Fld := ⟨.cfgCtrl, 16, 1⟩
/-- CFG_CTRL.SLOT -/ def cfgCtrlSlot : Fld := ⟨.cfgCtrl, 8, 1⟩
/-- CFG_CTRL.ERASE -/ def cfgCtrlErase : Fld := ⟨.cfgCtrl, 1, 1⟩
/-- CFG_CTRL.WRITE -/ def cfgCtrlWrite : Fld := ⟨.cfgCtrl, 0, 1⟩
/-- CFG_SRC.LEN -/ def cfgSrcLen : Fld := ⟨.cfgSrc, 48, 16⟩
/-- CFG_SRC.BASE -/ def cfgSrcBase : Fld := ⟨.cfgSrc, 0, 44⟩
/-- LIVE_CTRL.ARG -/ def liveCtrlArg : Fld := ⟨.liveCtrl, 32, 32⟩
/-- LIVE_CTRL.OP -/ def liveCtrlOp : Fld := ⟨.liveCtrl, 8, 8⟩
/-- LIVE_CTRL.START -/ def liveCtrlStart : Fld := ⟨.liveCtrl, 0, 1⟩
/-- LIVE_STATUS.REFUSED -/ def liveStatusRefused : Fld := ⟨.liveStatus, 48, 16⟩
/-- LIVE_STATUS.RESULT -/ def liveStatusResult : Fld := ⟨.liveStatus, 24, 8⟩
/-- LIVE_STATUS.WHY -/ def liveStatusWhy : Fld := ⟨.liveStatus, 20, 4⟩
/-- LIVE_STATUS.OP -/ def liveStatusOp : Fld := ⟨.liveStatus, 8, 8⟩
/-- LIVE_STATUS.STATE -/ def liveStatusState : Fld := ⟨.liveStatus, 0, 2⟩
/-- JOB_CTRL.PEER -/ def jobCtrlPeer : Fld := ⟨.jobCtrl, 32, 16⟩
/-- JOB_CTRL.SRC -/ def jobCtrlSrc : Fld := ⟨.jobCtrl, 30, 2⟩
/-- JOB_CTRL.UPDATE -/ def jobCtrlUpdate : Fld := ⟨.jobCtrl, 2, 1⟩
/-- JOB_CTRL.STOP -/ def jobCtrlStop : Fld := ⟨.jobCtrl, 1, 1⟩
/-- JOB_CTRL.LOAD -/ def jobCtrlLoad : Fld := ⟨.jobCtrl, 0, 1⟩
/-- JOB_STATUS.JOB_ID -/ def jobStatusJobId : Fld := ⟨.jobStatus, 32, 32⟩
/-- JOB_STATUS.RESULT -/ def jobStatusResult : Fld := ⟨.jobStatus, 24, 8⟩
/-- JOB_STATUS.VERSION -/ def jobStatusVersion : Fld := ⟨.jobStatus, 8, 16⟩
/-- JOB_STATUS.STATE -/ def jobStatusState : Fld := ⟨.jobStatus, 0, 3⟩
/-- CFG_SLOT_n.VERSION -/ def cfgSlotNVersion : Fld := ⟨.cfgSlotN, 32, 32⟩
/-- CFG_SLOT_n.STATE -/ def cfgSlotNState : Fld := ⟨.cfgSlotN, 0, 4⟩
/-- SEC_CTRL.REKEY_S -/ def secCtrlRekeyS : Fld := ⟨.secCtrl, 32, 32⟩
/-- SEC_CTRL.IDE_REQUIRED -/ def secCtrlIdeRequired : Fld := ⟨.secCtrl, 0, 1⟩
/-- SEC_STATUS.SESSIONS -/ def secStatusSessions : Fld := ⟨.secStatus, 38, 13⟩
/-- SEC_STATUS.IDE -/ def secStatusIde : Fld := ⟨.secStatus, 1, 1⟩
/-- SEC_STATUS.AK -/ def secStatusAk : Fld := ⟨.secStatus, 0, 1⟩
/-- FUSE_STATUS.DBG_KILL -/ def fuseStatusDbgKill : Fld := ⟨.fuseStatus, 16, 1⟩
/-- FUSE_STATUS.OWNERS -/ def fuseStatusOwners : Fld := ⟨.fuseStatus, 8, 3⟩
/-- FUSE_STATUS.EPOCH -/ def fuseStatusEpoch : Fld := ⟨.fuseStatus, 0, 7⟩
/-- SESS_COUNT.FORMED -/ def sessCountFormed : Fld := ⟨.sessCount, 32, 32⟩
/-- SESS_COUNT.REFUSED -/ def sessCountRefused : Fld := ⟨.sessCount, 16, 16⟩
/-- SESS_COUNT.REKEYS -/ def sessCountRekeys : Fld := ⟨.sessCount, 0, 16⟩
/-- MLOG.LOST -/ def mlogLost : Fld := ⟨.mlog, 44, 10⟩
/-- MLOG.BASE -/ def mlogBase : Fld := ⟨.mlog, 0, 44⟩
/-- DBG_CTRL.CLOSE -/ def dbgCtrlClose : Fld := ⟨.dbgCtrl, 2, 1⟩
/-- DBG_CTRL.SUBMIT -/ def dbgCtrlSubmit : Fld := ⟨.dbgCtrl, 1, 1⟩
/-- DBG_CTRL.NEW_CHAL -/ def dbgCtrlNewChal : Fld := ⟨.dbgCtrl, 0, 1⟩
/-- DBG_STATUS.REFUSED -/ def dbgStatusRefused : Fld := ⟨.dbgStatus, 32, 32⟩
/-- DBG_STATUS.RESULT -/ def dbgStatusResult : Fld := ⟨.dbgStatus, 24, 8⟩
/-- DBG_STATUS.GROUPS -/ def dbgStatusGroups : Fld := ⟨.dbgStatus, 8, 16⟩
/-- DBG_STATUS.LEVEL -/ def dbgStatusLevel : Fld := ⟨.dbgStatus, 0, 2⟩
/-- DBG_TOKEN.LEN -/ def dbgTokenLen : Fld := ⟨.dbgToken, 48, 16⟩
/-- DBG_TOKEN.BASE -/ def dbgTokenBase : Fld := ⟨.dbgToken, 0, 44⟩
/-- DBG_CHAL_m.NONCE -/ def dbgChalMNonce : Fld := ⟨.dbgChalM, 0, 64⟩
/-- MEAS_n_m.VALUE -/ def measNMValue : Fld := ⟨.measNM, 0, 64⟩
/-- INTC_SRC_n.PENDING -/ def intcSrcNPending : Fld := ⟨.intcSrcN, 16, 1⟩
/-- INTC_SRC_n.TARGET -/ def intcSrcNTarget : Fld := ⟨.intcSrcN, 8, 8⟩
/-- INTC_SRC_n.LEVEL -/ def intcSrcNLevel : Fld := ⟨.intcSrcN, 0, 4⟩
/-- INTC_TGT_t_CTRL.ACTIVE -/ def intcTgtTCtrlActive : Fld := ⟨.intcTgtTCtrl, 8, 4⟩
/-- INTC_TGT_t_CTRL.MASK -/ def intcTgtTCtrlMask : Fld := ⟨.intcTgtTCtrl, 4, 1⟩
/-- INTC_TGT_t_CTRL.THRESHOLD -/ def intcTgtTCtrlThreshold : Fld := ⟨.intcTgtTCtrl, 0, 4⟩
/-- INTC_TGT_t_CLAIM.VALID -/ def intcTgtTClaimValid : Fld := ⟨.intcTgtTClaim, 15, 1⟩
/-- INTC_TGT_t_CLAIM.SOURCE -/ def intcTgtTClaimSource : Fld := ⟨.intcTgtTClaim, 0, 10⟩
/-- INTC_TGT_t_EOI.EOI -/ def intcTgtTEoiEoi : Fld := ⟨.intcTgtTEoi, 0, 1⟩
/-- INTC_PEND_k.PENDING -/ def intcPendKPending : Fld := ⟨.intcPendK, 0, 64⟩
/-- MSIX_EVT.EN -/ def msixEvtEn : Fld := ⟨.msixEvt, 0, 16⟩
/-- MSIX_ADDR_v.ADDR -/ def msixAddrVAddr : Fld := ⟨.msixAddrV, 0, 64⟩
/-- MSIX_DATA_v.MASK -/ def msixDataVMask : Fld := ⟨.msixDataV, 32, 1⟩
/-- MSIX_DATA_v.DATA -/ def msixDataVData : Fld := ⟨.msixDataV, 0, 32⟩
/-- MSIX_PBA_k.PENDING -/ def msixPbaKPending : Fld := ⟨.msixPbaK, 0, 64⟩
/-- HOST_WIN.SPACE -/ def hostWinSpace : Fld := ⟨.hostWin, 44, 4⟩
/-- HOST_WIN.BASE -/ def hostWinBase : Fld := ⟨.hostWin, 30, 14⟩
/-- HOST_LINK.RETRAINS -/ def hostLinkRetrains : Fld := ⟨.hostLink, 32, 32⟩
/-- HOST_LINK.REVERSED -/ def hostLinkReversed : Fld := ⟨.hostLink, 12, 1⟩
/-- HOST_LINK.FLIT -/ def hostLinkFlit : Fld := ⟨.hostLink, 11, 1⟩
/-- HOST_LINK.WIDTH -/ def hostLinkWidth : Fld := ⟨.hostLink, 7, 4⟩
/-- HOST_LINK.RATE -/ def hostLinkRate : Fld := ⟨.hostLink, 3, 4⟩
/-- HOST_LINK.UP -/ def hostLinkUp : Fld := ⟨.hostLink, 0, 1⟩
/-- HOST_ERR.REG_UR -/ def hostErrRegUr : Fld := ⟨.hostErr, 48, 16⟩
/-- HOST_ERR.WIN_FAULTS -/ def hostErrWinFaults : Fld := ⟨.hostErr, 32, 16⟩
/-- HOST_ERR.UNIT_WRITES -/ def hostErrUnitWrites : Fld := ⟨.hostErr, 16, 16⟩
/-- HOST_ERR.RWL_WRITES -/ def hostErrRwlWrites : Fld := ⟨.hostErr, 0, 16⟩
/-- HRING_n_CFG.EN -/ def hringNCfgEn : Fld := ⟨.hringNCfg, 63, 1⟩
/-- HRING_n_CFG.SZ -/ def hringNCfgSz : Fld := ⟨.hringNCfg, 56, 4⟩
/-- HRING_n_CFG.BASE -/ def hringNCfgBase : Fld := ⟨.hringNCfg, 0, 44⟩
/-- HRING_n_CTRL.STOP -/ def hringNCtrlStop : Fld := ⟨.hringNCtrl, 2, 1⟩
/-- HRING_n_CTRL.RETRY -/ def hringNCtrlRetry : Fld := ⟨.hringNCtrl, 1, 1⟩
/-- HRING_n_CTRL.RESUME -/ def hringNCtrlResume : Fld := ⟨.hringNCtrl, 0, 1⟩
/-- HRING_n_STATUS.HEAD -/ def hringNStatusHead : Fld := ⟨.hringNStatus, 32, 32⟩
/-- HRING_n_STATUS.LAST_STATUS -/ def hringNStatusLastStatus : Fld := ⟨.hringNStatus, 24, 8⟩
/-- HRING_n_STATUS.BAD_CMD -/ def hringNStatusBadCmd : Fld := ⟨.hringNStatus, 16, 8⟩
/-- HRING_n_STATUS.STATE -/ def hringNStatusState : Fld := ⟨.hringNStatus, 0, 2⟩
/-- PKG_CTRL.PWR_LIMIT -/ def pkgCtrlPwrLimit : Fld := ⟨.pkgCtrl, 48, 16⟩
/-- PKG_CTRL.THR_ON -/ def pkgCtrlThrOn : Fld := ⟨.pkgCtrl, 40, 8⟩
/-- PKG_CTRL.THR_OFF -/ def pkgCtrlThrOff : Fld := ⟨.pkgCtrl, 32, 8⟩
/-- PKG_CTRL.HOVE_T -/ def pkgCtrlHoveT : Fld := ⟨.pkgCtrl, 24, 8⟩
/-- PKG_CTRL.DUTY_MIN -/ def pkgCtrlDutyMin : Fld := ⟨.pkgCtrl, 15, 5⟩
/-- PKG_CTRL.ALERT_THROTTLE -/ def pkgCtrlAlertThrottle : Fld := ⟨.pkgCtrl, 0, 1⟩
/-- PKG_STATUS.P_IN -/ def pkgStatusPIn : Fld := ⟨.pkgStatus, 48, 16⟩
/-- PKG_STATUS.V_IN -/ def pkgStatusVIn : Fld := ⟨.pkgStatus, 32, 16⟩
/-- PKG_STATUS.TJ -/ def pkgStatusTj : Fld := ⟨.pkgStatus, 24, 8⟩
/-- PKG_STATUS.TSTACK -/ def pkgStatusTstack : Fld := ⟨.pkgStatus, 16, 8⟩
/-- PKG_STATUS.PWR_LIM -/ def pkgStatusPwrLim : Fld := ⟨.pkgStatus, 9, 1⟩
/-- PKG_STATUS.TEMP_LIM -/ def pkgStatusTempLim : Fld := ⟨.pkgStatus, 8, 1⟩
/-- PKG_STATUS.DUTY -/ def pkgStatusDuty : Fld := ⟨.pkgStatus, 0, 5⟩
/-- PKG_COUNT.THROTTLE_MS -/ def pkgCountThrottleMs : Fld := ⟨.pkgCount, 32, 32⟩
/-- PKG_COUNT.TRIPS -/ def pkgCountTrips : Fld := ⟨.pkgCount, 16, 16⟩
/-- PKG_COUNT.RAIL_FAULTS -/ def pkgCountRailFaults : Fld := ⟨.pkgCount, 0, 16⟩
/-- RAIL_STATUS.UP -/ def railStatusUp : Fld := ⟨.railStatus, 0, 45⟩
/-- TM_SEL.EN -/ def tmSelEn : Fld := ⟨.tmSel, 63, 1⟩
/-- TM_SEL.CLKDIV -/ def tmSelClkdiv : Fld := ⟨.tmSel, 48, 8⟩
/-- TM_SEL.SUB -/ def tmSelSub : Fld := ⟨.tmSel, 32, 12⟩
/-- TM_SEL.GROUP -/ def tmSelGroup : Fld := ⟨.tmSel, 0, 4⟩
/-- TM_STATUS.REFUSED -/ def tmStatusRefused : Fld := ⟨.tmStatus, 48, 16⟩
/-- TM_STATUS.DRIVING -/ def tmStatusDriving : Fld := ⟨.tmStatus, 4, 1⟩
/-- TM_STATUS.GROUP -/ def tmStatusGroup : Fld := ⟨.tmStatus, 0, 4⟩
/-- TM_BIST_CTRL.KIND -/ def tmBistCtrlKind : Fld := ⟨.tmBistCtrl, 60, 4⟩
/-- TM_BIST_CTRL.TARGET -/ def tmBistCtrlTarget : Fld := ⟨.tmBistCtrl, 32, 12⟩
/-- TM_BIST_CTRL.START -/ def tmBistCtrlStart : Fld := ⟨.tmBistCtrl, 0, 1⟩
/-- TM_BIST_STATUS.FAILS -/ def tmBistStatusFails : Fld := ⟨.tmBistStatus, 32, 32⟩
/-- TM_BIST_STATUS.RESULT -/ def tmBistStatusResult : Fld := ⟨.tmBistStatus, 24, 8⟩
/-- TM_BIST_STATUS.KIND -/ def tmBistStatusKind : Fld := ⟨.tmBistStatus, 20, 4⟩
/-- TM_BIST_STATUS.TARGET -/ def tmBistStatusTarget : Fld := ⟨.tmBistStatus, 8, 12⟩
/-- TM_BIST_STATUS.BUSY -/ def tmBistStatusBusy : Fld := ⟨.tmBistStatus, 0, 3⟩
/-- LEDGER_WIN.BASE -/ def ledgerWinBase : Fld := ⟨.ledgerWin, 0, 8⟩

end F

end Sys2Proof.Machine
end

