-- ==== Sys2Proof/Machine/Store.lean ====
section
/-! DEFINITION. Sparse storage: a list of keys and values in one canonical form (keys strictly rising by `ord`, no value equal to what an unlisted key reads as), with one read and one write. -/

namespace Sys2Proof.Machine.Store

variable {κ α : Type} [DecidableEq κ] [DecidableEq α]

/-- Value at a key; an unlisted key reads as `d key`. -/
def get (d : κ → α) : List (κ × α) → κ → α
  | [], k => d k
  | (k', v) :: m, k => if k' = k then v else get d m k

/-- The list without a key. -/
def erase (m : List (κ × α)) (k : κ) : List (κ × α) := m.filter fun c => c.1 ≠ k

/-- The list with a pair put in its place. -/
def insert (ord : κ → Nat) (k : κ) (v : α) : List (κ × α) → List (κ × α)
  | [] => [(k, v)]
  | (k', v') :: m => if ord k < ord k' then (k, v) :: (k', v') :: m else (k', v') :: insert ord k v m

/-- Write of one key; writing the unlisted value removes the entry. -/
def set (d : κ → α) (ord : κ → Nat) (m : List (κ × α)) (k : κ) (v : α) : List (κ × α) :=
  if v = d k then erase m k else insert ord k v (erase m k)

/-- The canonical form. -/
def wf (d : κ → α) (ord : κ → Nat) (m : List (κ × α)) : Bool :=
  decide (m.Pairwise fun a b => ord a.1 < ord b.1) && m.all fun c => decide (c.2 ≠ d c.1)

end Sys2Proof.Machine.Store
end

