-- ==== Sys2Proof/Machine/State.lean ====
section
/-! DEFINITION. The state of one part as plain data: storage, registers, flags, and what its engines, queues, links and processors hold between commands. A value that a register shows is held in `regs` and nowhere else, but for the idle counters, which `idle` holds. -/

namespace Sys2Proof.Machine

/-- Reasons to stop with a fault. The block reports every error of the spec in its state, so only an access that the model itself cannot place ends here. -/
inductive Fault where
  /-- Raised by no command of the spec; kept so that the type is inhabited. Safe: the machine stops. -/
  | unreachable
deriving DecidableEq, Repr

/-- Reasons to refuse a command. -/
inductive Refusal where
  /-- The command has no meaning yet; raised by the dispatch table alone. Safe: nothing can be proved of it. -/
  | notModelled (mnemonic : String)
deriving DecidableEq, Repr

/-- A register: its name and up to two indexes. Core registers take the global core index of R21 first, die registers the die, I/O-die registers 0 or 1, queue registers and rings the setter code of Table 5.3. -/
structure Reg where
  name : RegName
  i : Nat := 0
  j : Nat := 0
deriving DecidableEq, Repr, Inhabited

/-- An event latched for the next tick edge (R400): its code, its source number (R401, R562), and, for a detected error, the severity of Table 13.3 with the fields of its record (R420); `hove` is the cause of an entry into Hove-to (Table 13.6), `policy` marks a core fault that Stalemate policy DOMAIN made (R430). -/
structure Event where
  code : Nat
  source : Nat
  sev : Option Nat := none
  domain : Nat := 0xFFF
  core : Nat := 0xFF
  addr : Nat := 0
  detail : Nat := 0
  status : Nat := 0
  hove : Option Nat := none
  policy : Bool := false
deriving DecidableEq, Repr, Inhabited

/-- A run of bytes of a message: bytes that the part has formed, or `n` bytes at a hall address of this part, from which each transmission reads them (R344). -/
inductive Span where
  | bytes (l : List Byte)
  | place (a n : Nat)
deriving DecidableEq, Repr, Inhabited

/-- Bytes of a span. -/
def Span.size : Span → Nat
  | .bytes l => l.length
  | .place _ n => n

/-- A piece of a message to be sent as one DATA packet (R344): its message, byte offset, payload bytes, whether it ends the message, and where the message's bytes lie. -/
structure Piece where
  msg : Nat
  offset : Nat
  len : Nat
  last : Bool
  src : List Span := []
deriving DecidableEq, Repr, Inhabited

/-- What the part puts on its links: completions to the host, MSI-X messages, packets, messages of the reserved class, and messages between its own dies. Deliveries of these are commands. -/
inductive Out where
  | hostData (data : List Byte)
  | hostUr
  | msix (vector addr data : Nat)
  | packet (port flow : Nat) (p : Pkt) (wire : List Byte)
  | pfc (port cls : Nat)
  | run (dest : Nat) (r : RunRequest)
  | runReply (dest : Nat) (r : RunReply)
  | leaf (dest : Nat) (l : Leaf)
  | leafDone (part : Nat) (ok stale : Bool)
  | leafOut (part : Nat)
  | node (die : Nat) (n : Node)
  | nodeDone (die : Nat) (ok : Bool)
  | atomicDone (source : AtomicSource) (old : Option Word)
  | remote (flow : Nat) (r : RemoteReq)
  | reply (part flow : Nat) (r : RemoteReply)
  | status (flow code psn : Nat)
  | leafShard (dest : Nat) (n : TreeNode)
  | chunk (dest : Nat) (n : TreeNode)
  | pullRequest (flow stream : Nat) (cursor : Word)
  | vote (dest : Nat) (m : VoteMsg)
  | askVotes (dest step : Nat)
  | proposal (dest : Nat) (d : Decision)
  | written (dest step : Nat)
  | held (dest : Nat) (d : Decision)
  | decision (dest : Nat) (d : Decision)
  | sent (dest step : Nat)
  | lateSet (step : Nat) (late stale : List Nat)
  | hallAsk (cmd : HallCmd)
  | hallAnswer (dest : Nat) (cmd : HallCmd) (accept : Bool)
  | release (table version : Nat)
  | heartbeat (dest : Nat) (hove : Bool)
  | loaded (dest : Nat) (mark : LoadedMark)
  | promoted (dest : Nat) (mark : PromotedMark)
  | resign (dest : Nat)
  | resolve (dest step keep : Nat) (abortStep : Bool)
  | fetchHeader (dest : Nat)
  | fetchRows (dest step : Nat) (u : VoteUnit)
  | askDecision (dest step : Nat)
  | closeFlow (flow : Nat)
  | exported (flow : Nat) (data : List Byte)
  | hello (peer : Nat) (feeder : Bool) (data : List Byte)
  | handshakeReply (peer : Nat) (feeder : Bool) (data : List Byte)
  | finish (peer : Nat) (feeder : Bool) (data : List Byte)
  | arpReply (port : Nat)
  | neighbourAdvert (port : Nat)
  | gatewayQuery (port : Nat)
  | hallProbe (part : Nat)
  | ptpDelayReq (source : Nat)
  | spdm (t : Transport) (data : List Byte)
  | spdmError (t : Transport) (notReady : Bool)
  | jtag (bits : Nat) (width : Nat)
deriving DecidableEq, Repr

/-- States of a Castling unit (Table 8.4). -/
inductive UnitState where
  | opened | closed | applyingNew | applyingOld | retired
deriving DecidableEq, Repr, Inhabited

/-- An entry in execution (R155): the queue, the entry and where it came from, the parameter registers it read in its start cycle, the version it pinned as (table, version, the table's STATE then, plus 16 for an epoch that is neither current nor retained) (R229), the unit states it took as (slot, step, state) (R279), its completion once known, the WSTEP of its REPLAY, for a DRUN its direct channel (0 or 1), how far an entry of several steps has come, whether a part of it has failed or was dropped as stale (R265), for the remote runs of a LOOKUP how many copies each has passed over, for a SCATTER the shards that its leaves went to (R378), and the epoch of the last COMMIT or RESOLVED record at its start (R296). -/
structure Exec where
  id : Nat
  q : Nat
  entry : BitVec 256
  pos : Nat
  iter : Nat
  params : List Word
  start : Nat
  pin : Option (Nat × Nat × Nat)
  units : List (Nat × Nat × UnitState)
  retried : Bool
  result : Option (Status × Nat)
  wstep : Nat := 0
  chan : Nat := 2
  stage : Nat := 0
  bad : Bool := false
  stale : Bool := false
  tried : List (Nat × Nat) := []
  epoch : Nat := 0
deriving DecidableEq, Repr, Inhabited

/-- A patch of a REPLAY (Table 5.9): parameter register, table mode, and the delta or the table's address, with the register's value at the REPLAY's start (R166). -/
structure Patch where
  param : Nat
  table : Bool
  value : Word
  base : Word
deriving DecidableEq, Repr, Inhabited

/-- A REPLAY that is issuing iterations (R166): its exec id and position, LEN, COUNT, the iteration `it`, the offset `k` of the next entry in it, its patches and WSTEP; `failed` after a table value could not be read (R167). -/
structure Replay where
  id : Nat
  pos : Nat
  len : Nat
  count : Nat
  it : Nat
  k : Nat
  patches : List Patch
  wstep : Nat
  failed : Bool
deriving DecidableEq, Repr, Inhabited

/-- The entry at the head of a queue: its Score index or ring position, REPLAY iteration and WSTEP, its bits, or none where it cannot be read or lies outside the region, and for one that halted the queue its place in the order of starts, which a RETRY keeps (R167). -/
structure Head where
  pos : Nat
  iter : Nat := 0
  wstep : Nat := 0
  entry : Option (BitVec 256) := none
  id : Nat := 0
deriving DecidableEq, Repr, Inhabited

/-- What a queue holds beside its registers: the Score index of its head entry, the REPLAY that issues iterations, the REPLAYs that issue no more as (exec id, first id after their entries, status), the ring entry taken and not started, the ring entries that the REPLAY's completion counts as taken, the entry that halted it, whether RETRY has named it, the registers that each REPLAY in execution patches, and the values that they take again once the halted entry of an earlier iteration has been dealt with (R167). -/
structure QueueRt where
  head : Nat := 0
  replay : Option Replay := none
  drains : List (Nat × Nat × Status) := []
  taken : Option Head := none
  owed : Nat := 0
  halted : Option Head := none
  redo : Bool := false
  patched : List (Nat × List Nat) := []
  later : List (Nat × Word) := []
deriving DecidableEq, Repr, Inhabited

/-- A stalemate under count (R176): its members as (queue, head position, iteration), its path (R178), whether it is a chain, its count, and whether it has been held. -/
structure StaleTrack where
  members : List (Nat × Nat × Nat)
  path : List Nat
  chain : Bool
  count : Nat
  held : Bool := false
deriving DecidableEq, Repr, Inhabited

/-- An open reduction group (R196 to R201): Table 6.6, the nodes held as they came or were formed, those spilled in slot order, the dies that found a fault in it, the scatter leaves taken into it with their rows' addresses (R320), and the table of a Keeper group (R258). -/
structure Group where
  id : Nat
  fmt : Nat
  rowlen : Nat
  extent : Nat
  accumulate : Bool
  tensor : Nat
  spill : Nat
  spillSlots : Nat
  spilled : List Node
  faults : List Nat
  nodes : List Node
  sources : List (Leaf × Nat) := []
  keeper : Option Nat := none
deriving DecidableEq, Repr, Inhabited

/-- A run of rows in motion (R246): table, direction, first local slot, rows, frame, the HREFRESH that listed it, and the pending lines (local slot, bytes) with the unit slot that wrote each (R248). -/
structure Move where
  table : Nat
  out : Bool
  first : Nat
  run : Nat
  frame : Nat
  id : Nat
  lines : List (Nat × List Byte × Option Nat)
deriving DecidableEq, Repr, Inhabited

/-- A journal record's place (R276): the granule's hall address offset with its bank, and the record number. -/
structure JRec where
  bank : Bank
  granule : Nat
  index : Nat
  newValid : Bool
deriving DecidableEq, Repr, Inhabited

/-- A Castling unit (R272 to R281); `writes` lists the runs of bytes that its sweep wrote as (bank, offset, length) (R295), `minority` marks a copy to be refetched (R293), `outOfService` one that serves no lookup until it is RETIRED (R291), `committed` and `asked` for a minority copy the digest that its decision committed and that its rows have been asked for (R293), and `decided` the place among the decisions of the one that turned it (R305). -/
structure CUnit where
  slot : Nat
  dense : Bool
  copy : Nat
  table : Nat
  shard : Nat
  ranges : List (Bank × Nat × Nat)
  state : UnitState
  failed : Bool
  step : Nat
  recs : List JRec
  segs : List (Nat × BitVec 128 × Nat)
  digest : BitVec 128
  count : Nat
  minority : Bool
  outOfService : Bool := false
  writes : List (Bank × Nat × Nat) := []
  committed : Option (BitVec 128) := none
  asked : Bool := false
  decided : Nat := 0
deriving DecidableEq, Repr, Inhabited

/-- The counts of the part's window for the numerics record (R311, R312): roundings, overflows and vanishes per format code 0 to 3. -/
structure Window where
  rounded : List Nat
  ovf : List Nat
  van : List Nat
deriving DecidableEq, Repr, Inhabited

/-- What the CME and the Tempo logic hold for the step in progress beside the step header in the Ledger: this part's vote with its layer entries; as a node of the gather tree, the votes that it has yet to send on and the parts whose votes it has sent on; as leader, the votes with the sums of their layer entries, SENT markers and resignations it holds, the markers of the step before, the late set it fixed with the stale parts, and whether the deadline was extended; as home, the late set and stale parts it received, the late set of the step before, and whether every contribution is in (R325); the decision held (not final; the leader's own, or one that the leader sent this committee member), those that wait for a Ledger copy, oldest first (R286), the last one recorded, those being applied with their places among the decisions, oldest first (R305), the frozen one with its tick; the numerics windows; a phase change to carry out and the Score segment set in force; the epoch of the last COMMIT or RESOLVED record and the last shipped one; whether the part must fetch the step header from a member; the core positions whose reloaded queues start with the next step (R433, R439); whether the part votes ABORT as the next step starts (R463); whether the step has started; the widening-log entries of the window, without the stop of NUM_STATUS (R312); a step recorded before this part sent its SENT for it (R320); and the unit states, as (slot, step, state), and the epoch of the last COMMIT or RESOLVED record as the last tick edge found them (R279, R295). -/
structure StepRt where
  voted : Option (Vote × List Layer) := none
  gather : List VoteMsg := []
  gathered : List Nat := []
  sentDone : Bool := false
  votes : List Vote := []
  hallLayers : List Layer := []
  sent : List Nat := []
  sentPrev : List Nat := []
  fixed : Option (List Nat × List Nat) := none
  late : Option (List Nat) := none
  stale : List Nat := []
  lateBefore : List Nat := []
  allSent : Bool := false
  extended : Bool := false
  held : Option Decision := none
  waiting : List Decision := []
  last : Option Decision := none
  applying : List (Nat × Decision) := []
  frozen : Option (Decision × Nat) := none
  layers : List Layer := []
  window : Window := ⟨[0, 0, 0, 0], [0, 0, 0, 0], [0, 0, 0, 0]⟩
  closed : Window := ⟨[0, 0, 0, 0], [0, 0, 0, 0], [0, 0, 0, 0]⟩
  closedWiden : Nat := 0
  postponed : List HallCmd := []
  resigned : List Nat := []
  phaseTo : Option (Bool × Nat) := none
  segSet : Nat := 0
  committed : Nat := 0
  shipped : Nat := 0
  resync : Bool := false
  starts : List Nat := []
  abortNext : Bool := false
  begun : Bool := false
  widens : Nat := 0
  sentOwed : Option Nat := none
  edgeUnits : List (Nat × Nat × UnitState) := []
  edgeCommitted : Nat := 0
deriving DecidableEq, Repr, Inhabited

/-- A path of a flow (R349 to R351): its port, congestion window and mark estimate, slow start, whether its port is down, the end of its hold until a PROBE on it is acknowledged, the packets acknowledged in the current round with the CE count at its start, the bytes in flight, the order of sending at which the round began, and the time in ns from which the pacing lets its next packet leave. -/
structure Path where
  port : Nat
  cwnd : Rat
  alpha : Rat
  slow : Bool
  down : Bool
  held : Option Nat
  acked : Nat
  ceBase : Nat
  inFlight : Nat
  roundPsn : Nat
  due : Rat
deriving DecidableEq, Repr, Inhabited

/-- The path is in its flow's spray set (R350). -/
def Path.inSpray (p : Path) : Bool := !p.down && p.held.isNone

/-- A packet sent and not acknowledged (R345 to R348): its PSN, its path and place in the order of sending, its piece, its retransmissions, its expiries, the packets sent after it on its path that are known received, whether it is a PROBE, and the tick at which it was last sent. -/
structure Unacked where
  psn : Nat
  path : Nat
  order : Nat
  piece : Piece
  retx : Nat
  expiries : Nat
  later : Nat
  probe : Bool
  sentAt : Nat := 0
deriving DecidableEq, Repr, Inhabited

/-- A message under assembly (R344): its number, the pieces delivered by byte offset, and its end once the LAST packet has come. -/
structure Message where
  num : Nat
  pieces : List (Nat × List Byte)
  fin : Option Nat
deriving DecidableEq, Repr, Inhabited

/-- A flow beside its FLOW_f_STATUS (R342 to R352), PSNs unwrapped: sender side: its paths, packets not acknowledged, pieces not sent, next PSN, next message, order of sending, next path in turn, highest PSN the receiver accepts, and timer estimates in ns; receiver side: PSNs received above the base below which all are, packets not acknowledged back as (tick of arrival, path, TS), highest PSN accepted, messages under assembly, CE counts per path; and the FLOWCTL entry that waits for it. -/
structure Flow where
  paths : List Path
  unacked : List Unacked := []
  backlog : List Piece := []
  nextPsn : Nat := 0
  nextMsg : Nat := 0
  order : Nat := 0
  turn : Nat := 0
  winOut : Nat := 65535
  srtt : Option Rat := none
  rttvar : Rat := 0
  received : List Nat := []
  ackBase : Nat := 0
  sinceAck : List (Nat × Nat × Nat) := []
  winIn : Nat := 65535
  messages : List Message := []
  ce : List Nat := List.replicate 16 0
  peerFlow : Nat := 0
  waiter : Option Nat := none
deriving DecidableEq, Repr, Inhabited

/-- The keys of a session's two directions: key and salt with which this part seals, and those with which it opens (R340, R484). -/
structure SessionKeys where
  sealKey : BitVec 256 := 0
  sealSalt : BitVec 32 := 0
  openKey : BitVec 256 := 0
  openSalt : BitVec 32 := 0
deriving DecidableEq, Repr, Inhabited

/-- A session (R340, R482 to R486): peer, whether it is a feeder, transmit counter of this part's direction and the key slot in use, per key slot the highest TXC accepted and the TXCs accepted within its window, the tick of the first packet under the slot in use (none before it), the tick it formed or was rekeyed, the tick from which a failed rekey is tried again, and the keys per key slot. -/
structure Session where
  peer : Nat
  feeder : Bool
  txc : Nat
  keySlot : Nat
  rx : List (Nat × List Nat)
  since : Option Nat
  formed : Nat
  retryAt : Nat
  ready : Bool
  keys : List SessionKeys := []
deriving DecidableEq, Repr, Inhabited

/-- A packet or frame that waits on a port: its class (8 for what is no Naelo packet), the bytes it takes on the wire, and what it is. -/
structure Waiting where
  cls : Nat
  size : Nat
  item : Out
deriving DecidableEq, Repr

/-- The transmit side of a port (R337): what waits, the bytes that the reserved class may still send, the line bytes left over from the last tick, the deficits of classes 0 to 6, the class whose turn it is, and whether its turn has begun. -/
structure Line where
  waiting : List Waiting := []
  reserved : Nat := 0
  budget : Nat := 0
  deficits : List Nat := [0, 0, 0, 0, 0, 0, 0]
  turn : Nat := 0
  begun : Bool := false
deriving DecidableEq, Repr

/-- A handshake in progress (R482 to R485): the peer, whether this part initiated it, its SID, the tick of its HELLO, whether it rekeys a session, the CONFIRM that FINISH must carry with the keys that it brings, and for the initiator its nonce, the seed of its encapsulation key and its HELLO. -/
structure Exchange where
  peer : Nat
  feeder : Bool
  initiator : Bool
  sid : Word
  since : Nat
  rekey : Bool
  confirm : BitVec 256 := 0
  keys : SessionKeys := {}
  nonce : BitVec 256 := 0
  seed : BitVec 256 := 0
  hello : List Byte := []
deriving DecidableEq, Repr, Inhabited

/-- The PTP state beside PTP_STATUS (R359 to R362): the offsets in a row below 200 ns, the last offset seen in FAULT, the tick of the last usable Sync, the source of a two-step Sync that waits, the Announce messages held as (source, message, tick until which it holds), the measured delay, the source asked for one, the steps of 1.25 ns still to take, signed, and those of the last 1,000 ticks as (age in ticks, sign) (R397). -/
structure Ptp where
  good : Nat := 0
  last : Option Int := none
  lastSync : Nat := 0
  twoStep : Option Nat := none
  announced : List (Nat × Announce × Nat) := []
  delay : Int := 0
  asked : Option Nat := none
  target : Int := 0
  slews : List (Nat × Int) := []
deriving DecidableEq, Repr, Inhabited

/-- The windows of a masked input (R409): the ticks and transitions of the window under way, and the quiet windows in a row before it. -/
structure QuietRun where
  input : Nat
  ticks : Nat := 0
  transitions : Nat := 0
  quiet : Nat := 0
deriving DecidableEq, Repr, Inhabited

/-- Sideband inputs beside SB_STATUS and SB_COUNT (R408 to R412): the tick HOLD_N was taken low with the decisions recorded by then, whether the hold is in effect, whether a chattering PERST_N has been reported, the transitions of the last 1,000 ticks as (input, age in ticks, count), and the windows of masked inputs; and of core sleep, the cores whose Deep Lull entry is in progress, each with whether a wake is held for it, and those with a wake condition in this tick (R406). -/
structure Sideband where
  holdSince : Option Nat := none
  holdSeq : Nat := 0
  holdActive : Bool := false
  perstReported : Bool := false
  edges : List (Nat × Nat × Nat) := []
  quiets : List QuietRun := []
  deep : List (Nat × Bool) := []
  woken : List Nat := []
deriving DecidableEq, Repr, Inhabited

/-- Progress of a core's recovery (Table 13.5): the core, the position it serves, the tick of the fault, whether a pass ends it (not a repeat, not an operator's PROMOTE), and its stage. -/
inductive CoreStage where
  | testing | spareTest | loading
deriving DecidableEq, Repr, Inhabited

/-- A core domain in recovery (R428 to R433). -/
structure CoreRec where
  core : Nat
  since : Nat
  counted : Bool
  forced : Bool
  stage : CoreStage
deriving DecidableEq, Repr, Inhabited

/-- A full retrain of a channel (Table 6.11): die, channel, the start tick, whether the remap is kept whatever the verify shows (HBM_CFG.KEEP_REMAP, Table 14.9), and the copy pointer: the slots below it are copied. -/
structure Retrain where
  die : Nat
  channel : Nat
  keep : Bool
  start : Nat
  pointer : Nat := 0
deriving DecidableEq, Repr, Inhabited

/-- A copy of a slot header by its fields (Table 14.2); its reserved bytes are zero. -/
structure SlotHeader where
  magic : Nat
  seq : Nat
  state : Nat
  length : Nat
  digest : BitVec 128
  check : Nat
deriving DecidableEq, Repr, Inhabited

/-- A flash slot: its two header copies and the image bytes it holds (R442, R443). -/
structure Slot where
  copy0 : SlotHeader
  copy1 : SlotHeader
  image : List Byte
deriving DecidableEq, Repr, Inhabited

/-- A live operation in progress or waiting (R465): OP, ARG, whether it has started, the decisions recorded when it was asked for, and for RETEST the test's result. -/
structure LiveOp where
  op : Nat
  arg : Nat
  running : Bool
  seq : Nat
  pass : Bool
deriving DecidableEq, Repr, Inhabited

/-- What the loader and the supervisor hold beside their registers (R442 to R466): running configuration image, job images loaded and staged with their tick of first LOADED, LOADED markers held as leader, flash programming in progress as (slot, erase, image, enrolment), operation under way, the tick at which the part last contacted its hall list, the image memory of the SVD (R451), the ticks by which steps have moved TICK_COUNT since power-on reset (R361, R450), the digest of the qualification report with the tick at which each port last sent a BEACON (R458), a job image that the part still has to load on its own (R455), the spares in promotion as (spare, lost part, step) (R388), the members asked for the Ledger's areas (R367, R439), and of a part in Hove-to the releases of table versions that reached it as (part, table, version) and, once it is released, that its job's Score is still to be reloaded (R436, R439). -/
structure BootRt where
  config : List Byte := []
  job : List Byte := []
  staged : List Byte := []
  loaded : List (Nat × LoadedMark) := []
  firstLoaded : Option Nat := none
  programming : Option (Nat × Bool × List Byte × Bool) := none
  live : Option LiveOp := none
  locked : Bool := false
  powered : Bool := true
  tripped : Bool := false
  railFaults : Nat := 0
  waiting : Bool := false
  erased : Bool := false
  resumeState : Nat := 0
  contactAt : Option Nat := none
  memory : List Byte := []
  stepped : Int := 0
  report : BitVec 128 := 0
  beacons : List (Nat × Nat) := []
  loadDue : Bool := false
  replaced : List (Nat × Nat × Nat) := []
  asked : List Nat := []
  releases : List (Nat × Nat × Nat) := []
  rejoins : Bool := false
deriving DecidableEq, Repr, Inhabited

/-- A host ring beside its registers and its memory layout (R504 to R510): completion records written, entries taken and not yet acted on as (position, bytes), none of them readable where the bytes are missing, and the JOB or LIVE entry it is busy with. -/
structure RingRt where
  cseq : Nat := 0
  taken : List (Nat × List Byte) := []
  busy : Option (Nat × List Byte) := none
deriving DecidableEq, Repr, Inhabited

/-- An SPDM connection on one transport (R488, R489): how far it has come (0 none, 1 version, 2 capabilities, 3 negotiated), the PSK if KEMX has run, the session phase (0 none, 1 handshake, 2 established) and its key-update count. -/
structure SpdmConn where
  phase : Nat := 0
  psk : Option (BitVec 256) := none
  session : Nat := 0
  updates : Nat := 0
deriving DecidableEq, Repr, Inhabited

/-- The test access port (R547 to R550): the instruction selected, the boundary register, whether it drives the balls, and the 1687 segment bits. -/
structure Jtag where
  ir : Nat := 0x01
  boundary : Nat := 0
  driving : Bool := false
  segments : List Bool := []
  dr : Nat := 0
deriving DecidableEq, Repr, Inhabited

/-- A segment under feed on a core's digest stream: unit slot, segment number, bytes its header announced, bytes received (R281). -/
structure Feed where
  slot : Nat
  seg : Nat
  count : Nat
  data : List Byte
deriving DecidableEq, Repr, Inhabited

/-- The state of the part. `seen` holds the unit states that the reading entry in hand took at its start (R279), and is empty between commands; `staleLeaves` holds the stale sets of late parts by step (R320), `dirty` the steps whose commits wrote each row of a shard, as ((dense, table, shard), row, step) (R295), `ships` the records sent to the keeper peers as (logical shard, step, bytes), and `ward` those of the ward area as (step, offset, bytes) (R385); `collectives` the nodes that an I/O die holds for collectives (R379); `promotions` counts the promotion records written (R388), `hsSeen` the HANDSHAKE packets taken per port in its last second, as (port, second, count) (R354), and `gateways` holds each port's resolved gateway MAC (R336); `tested` gives the tick of each core's last rotating test (R418), `dropRun` that the error ring is in a run of drops (R422), `fullDebug` the tick at which a level 2 token was accepted (R494), `jtagEdge` what JTAG submitted since the last tick edge (0 a token, 1 a selection, 2 a session) (R492, R551, R554), `dbgOut` the level of DBG_OUT[15:0] (R553), and `pcieClock` that PCIE_REFCLK is there (R539); `badReads` holds the uncorrectable words of the last millisecond as (die times 32 plus channel, tick) (R211), and `bridge` the writes to Ledger copy W that wait for the bridge as (word, value) (R25); `widened` holds the widening-log entries of the tick in progress as (tick, entry) (R310); `edgeCmds` holds the commands of QUEUE_q_CTRL that the next tick edge takes as (queue, command, sender) (R174), `tickRegs` the registers with RC fields as the last tick edge left them and `tickAdds` what has been counted in each field, and which W1C bits have been set, since (R15), `released` the retained versions as (table, version) for which this part has sent its release and `releases` those counted as (table, version, part) (R263), `arrivals` the atomics that the next tick edge performs (R31), `lines` the transmit side of each port (R337), `carried` how many outputs have been looked at for messages of the reserved class, `idle` the counters IDLE_0 to IDLE_15 of each core block, as (block times 16 plus n, cycles) (R327), `quiet` the tick edges in a row at which no queue of a core executed or could start an entry (R404), `retuneTemps` each stack's temperature at its last retune and `sweeps` the stacks whose channels are retuned one after another from a channel on (R209), `retuneAt` the tick of each stack's last retune, and `gatewayAt` when each port last resolved its gateway (R336). -/
structure State where
  grade : Grade
  mem : List Host.Cell
  errs : List (Nat × BitVec 80)
  poison : List (Nat × Bool)
  regs : List (Reg × Word)
  flags : List (Nat × BitVec 16)
  queues : List (Nat × QueueRt)
  seen : List (Nat × Nat × UnitState)
  execs : List Exec
  nextId : Nat
  stale : List StaleTrack
  groups : List Group
  waitingLeaves : List (Leaf × Nat)
  staleLeaves : List (Nat × Leaf)
  dirty : List ((Bool × Nat × Nat) × Nat × Nat)
  ships : List (Nat × Nat × Nat)
  ward : List (Nat × Nat × Nat)
  moves : List Move
  units : List CUnit
  jcount : Nat
  feeds : List (Nat × Option Feed)
  vxeReady : List Nat
  step : StepRt
  hallPending : List (HallCmd × Nat)
  hallAsked : List HallCmd
  beats : List (Nat × Nat)
  collectives : List (Nat × TreeNode)
  flows : List (Nat × Flow)
  sessions : List Session
  exchanges : List Exchange
  ptp : Ptp
  sideband : Sideband
  lullSince : List (Nat × Nat)
  coreRecs : List CoreRec
  recovered : List (Nat × Nat)
  lost : List Nat
  retired : List Nat
  promotedAt : List (Nat × Nat)
  retrains : List Retrain
  retuneNext : List (Nat × Nat)
  patrol : List (Nat × Nat)
  linkFails : List (Nat × Nat)
  linksOut : List Nat
  slots : Slot × Slot
  boot : BootRt
  owners : List (BitVec 256)
  mlog : List (Nat × Nat × BitVec 256)
  rings : List (Nat × RingRt)
  edgeSup : List Nat
  handlers : List (Nat × List Nat)
  msixOn : Bool
  msixMask : Bool
  msixRaised : List Nat
  spdmDoe : SpdmConn
  spdmMctp : SpdmConn
  challenge : Option (BitVec 256)
  jtag : Jtag
  muxNext : Option Word
  bist : List (Nat × Nat)
  keeperApplies : Nat
  lastBeat : Nat
  paused : List (Nat × Nat)
  alert : Bool
  thermtrip : Bool
  latched : List Event
  out : List Out
  free : Nat
  draws : Nat
  promotions : Nat
  hsSeen : List (Nat × Nat × Nat)
  gateways : List (Nat × Option Nat)
  tested : List (Nat × Nat)
  dropRun : Bool
  fullDebug : Option Nat
  jtagEdge : List Nat
  dbgOut : Nat
  pcieClock : Bool
  badReads : List (Nat × Nat)
  widened : List (Nat × Nat)
  edgeCmds : List (Nat × Nat × Sender)
  tickRegs : List (Reg × Word)
  released : List (Nat × Nat)
  releases : List (Nat × Nat × Nat)
  arrivals : List Arrival
  lines : List (Nat × Line)
  carried : Nat
  idle : List (Nat × Nat)
  retuneTemps : List (Nat × Nat)
  sweeps : List (Nat × Nat)
  gatewayAt : List (Nat × Nat)
  retuneAt : List (Nat × Nat)
  quiet : List (Nat × Nat)
  tickAdds : List (Reg × Word)
  bridge : List (Nat × Word)
  pending : List Instr
deriving DecidableEq, Repr

/-- An empty slot header: a flash with no image reads as EMPTY (R443). -/
def SlotHeader.empty : SlotHeader := ⟨0, 0, 0, 0, 0, 0⟩

/-- A flash slot with no image. -/
def Slot.empty : Slot := ⟨SlotHeader.empty, SlotHeader.empty, []⟩

/-- The part right after power-on reset: every register at its Reset column (R17), so nothing listed; storage reads as the boot fill leaves it (R450); queues STOPPED; HOLD_N and PERST_N as the registers show; flashes empty and no owner fused (log entries 5 to 8). -/
def State.reset : State where
  grade := .psn8128
  mem := []
  errs := []
  poison := []
  regs := []
  flags := []
  queues := []
  seen := []
  execs := []
  nextId := 0
  stale := []
  groups := []
  waitingLeaves := []
  staleLeaves := []
  dirty := []
  ships := []
  ward := []
  moves := []
  units := []
  jcount := 0
  feeds := []
  vxeReady := []
  step := {}
  hallPending := []
  hallAsked := []
  beats := []
  collectives := []
  flows := []
  sessions := []
  exchanges := []
  ptp := {}
  sideband := {}
  lullSince := []
  coreRecs := []
  recovered := []
  lost := []
  retired := []
  promotedAt := []
  retrains := []
  retuneNext := []
  patrol := []
  linkFails := []
  linksOut := []
  slots := (Slot.empty, Slot.empty)
  boot := {}
  owners := []
  mlog := []
  rings := []
  edgeSup := []
  handlers := []
  msixOn := false
  msixMask := false
  msixRaised := []
  spdmDoe := {}
  spdmMctp := {}
  challenge := none
  jtag := {}
  muxNext := none
  bist := []
  keeperApplies := 0
  lastBeat := 0
  paused := []
  alert := false
  thermtrip := false
  latched := []
  out := []
  free := 0
  draws := 0
  promotions := 0
  hsSeen := []
  gateways := []
  tested := []
  dropRun := false
  fullDebug := none
  jtagEdge := []
  dbgOut := 0
  pcieClock := true
  badReads := []
  widened := []
  edgeCmds := []
  tickRegs := []
  released := []
  releases := []
  arrivals := []
  lines := []
  carried := 0
  idle := []
  retuneTemps := []
  sweeps := []
  gatewayAt := []
  retuneAt := []
  quiet := []
  tickAdds := []
  bridge := []
  pending := []

end Sys2Proof.Machine
end

