-- ==== Sys2Proof/Machine/Regs.lean ====
section
/-! DEFINITION. Registers: their reset values, their places in the register BAR, reads and writes of a register and of a field by the part, and writes by software under the access types of Table 0.3. -/

namespace Sys2Proof.Machine

/-- The mask of a field of `w` bits from bit `lo` up. -/
def fieldMask (lo w : Nat) : Word := BitVec.ofNat 64 (2 ^ w - 1) <<< lo

/-- The value of a field (R8). -/
def getBits (v : Word) (lo w : Nat) : Nat := ((v >>> lo) &&& BitVec.ofNat 64 (2 ^ w - 1)).toNat

/-- A word with one field replaced. -/
def setBits (v : Word) (lo w x : Nat) : Word :=
  (v &&& ~~~fieldMask lo w) ||| ((BitVec.ofNat 64 x <<< lo) &&& fieldMask lo w)

/-- Default target of an interrupt source (Table 16.6). -/
def intcTarget (n : Nat) : Nat :=
  if n < 544 then n / 4 else if n < 608 then 136 else if n < 640 then 137 else if n < 672 then 138
  else if n < 676 then 137 else if n < 768 then 136 else 0

/-- Default level of an interrupt source (Table 16.6; 740 to 744 read ERR_CTRL, Table 13.15). -/
def intcLevel (n : Nat) : Nat :=
  if n < 544 then 8 else if n < 672 then 6 else if n < 676 then 9 else if n < 740 then 5
  else if n = 740 then 4 else if n = 741 then 10 else if n = 742 then 12 else if n = 743 then 13
  else if n = 744 then 15 else 0

/-- The word that a list of fields resets to. -/
def resetOf (g : Grade) (fs : List RField) : Word :=
  fs.foldl (fun v f => setBits v f.lo f.w (match g with | .psn8128 => f.reset | .psn8112 => f.reset12)) 0

/-- The register does not exist on the grade and reads as zero: positions 14 and 15 and format 3 counters of PSN-8112 (R111, R148, R182), fused ports (R365). -/
def Reg.absent (g : Grade) (r : Reg) : Bool :=
  match g with
  | .psn8128 => false
  | .psn8112 =>
    match r.name.shape with
    | .core _ | .coreArr _ _ =>
      decide (r.i % 17 = 14 ∨ r.i % 17 = 15) || (decide (r.j = 3) && (r.name == .mxeOvfN || r.name == .mxeVanN))
    | .queue _ | .queueArr _ _ => decide (r.i < 0x400) && decide (56 ≤ r.i % 128 ∧ r.i % 128 < 64)
    | .port _ | .portArr _ _ => decide (12 ≤ r.i % 16)
    | _ => false

/-- Value of a register after power-on reset (R17), with the resets that depend on the index: CLASS_7_CFG, FXE_BIND_n, INTC_SRC_n. Fused values read 0 (log entry 8). -/
def Reg.resetWord (g : Grade) (r : Reg) : Word :=
  if r.absent g then 0 else
  match r.name with
  | .classNCfg => if r.j = 7 then setBits 0 10 6 46 else resetOf g r.name.fields
  | .fxeBindN => BitVec.ofNat 64 (r.i / 8)
  | .intcSrcN => setBits (setBits 0 8 8 (intcTarget r.i)) 0 4 (intcLevel r.i)
  | n => resetOf g n.fields

/-- A number for a pair of numbers, different pairs having different numbers. -/
def pairNum (a b : Nat) : Nat := (a + b) * (a + b + 1) / 2 + b

/-- Order of registers in the store. -/
def Reg.ord (r : Reg) : Nat := pairNum (pairNum r.i r.j) r.name.ctorIdx

/-- Base of a compute die's block (Table 20.1). -/
def dieBase (d : Nat) : Nat := 0x1000000 + d * 0x400000

/-- Base of an I/O die's block: 0 IOD_E, 1 IOD_W (R365). -/
def iodBase (i : Nat) : Nat := 0x800000 + i * 0x200000

/-- Base of a queue's block by setter code (R182, R266, R300, R393). -/
def queueBase (c : Nat) : Nat :=
  if c < 0x400 then
    if c % 128 < 0x44 then dieBase (c / 128) + (c % 128 / 4) * 0x20000 + (c % 4) * 0x400
    else dieBase (c / 128) + 0x301000 + (c % 128 - 0x44) * 0x400
  else if c < 0x440 then iodBase ((c - 0x400) / 32) + 0x101000 + (c % 32) * 0x400
  else 0x601000 + (c - 0x440) * 0x400

/-- Offset of a ring or head register by setter code (Tables 7.11, 8.11, 11.7). -/
def ringBase (head : Bool) (c : Nat) : Nat :=
  if c < 0x400 then dieBase (c / 128) + (if head then 0x300140 else 0x300100) + (c % 128 - 0x44) * 8
  else if c < 0x440 then iodBase ((c - 0x400) / 32) + (if head then 0x100200 else 0x100100) + (c % 32) * 8
  else (if head then 0x600140 else 0x600100) + (c - 0x440) * 8

/-- Offset of a register in the register BAR. -/
def Reg.offset (r : Reg) : Nat :=
  match r.name.shape with
  | .one b => b
  | .arr b st _ => b + r.i * st
  | .arr2 b st _ st2 _ => b + r.i * st + r.j * st2
  | .core b => dieBase (r.i / 17) + (r.i % 17) * 0x20000 + b
  | .coreArr b _ => dieBase (r.i / 17) + (r.i % 17) * 0x20000 + b + r.j * 8
  | .die b => dieBase r.i + b
  | .dieArr b _ => dieBase r.i + b + r.j * 8
  | .iod b => iodBase r.i + b
  | .iodArr b _ => iodBase r.i + b + r.j * 8
  | .port b => iodBase (r.i / 16) + 0x10000 + (r.i % 16) * 0x1000 + b
  | .portArr b _ => iodBase (r.i / 16) + 0x10000 + (r.i % 16) * 0x1000 + b + r.j * 8
  | .flow => iodBase (r.i / 2048) + 0x80000 + (r.i % 2048) * 8
  | .fxe b => iodBase (r.i / 32) + (b - 0x0) + (r.i % 32) * 8
  | .queue b => queueBase r.i + b
  | .queueArr b _ => queueBase r.i + b + r.j * 8
  | .ring => ringBase false r.i
  | .ringHead => ringBase true r.i

/-- Index in a run of `n` places `st` apart from `b`, if the offset is one of them. -/
def place (off b st n : Nat) : Option Nat :=
  if b ≤ off ∧ (off - b) % st = 0 ∧ (off - b) / st < n then some ((off - b) / st) else none

/-- The setter code whose queue block holds an offset, with the offset inside the block. -/
def queueAt (off : Nat) : Option (Nat × Nat) :=
  if 0x1000000 ≤ off ∧ off < 0x3000000 then
    let d := (off - 0x1000000) / 0x400000
    let o := (off - 0x1000000) % 0x400000
    if o < 0x220000 ∧ o % 0x20000 < 0x1000 then some (d * 128 + o / 0x20000 * 4 + o % 0x20000 / 0x400, o % 0x400)
    else if 0x301000 ≤ o ∧ o < 0x303000 then some (d * 128 + 0x44 + (o - 0x301000) / 0x400, o % 0x400)
    else none
  else if 0x800000 ≤ off ∧ off < 0xC00000 ∧ 0x101000 ≤ off % 0x200000 ∧ off % 0x200000 < 0x109000 then
    some (0x400 + (off - 0x800000) / 0x200000 * 32 + (off % 0x200000 - 0x101000) / 0x400, off % 0x400)
  else if 0x601000 ≤ off ∧ off < 0x602000 then some (0x440 + (off - 0x601000) / 0x400, off % 0x400)
  else none

/-- The setter code of a ring or head register at an offset. -/
def ringAt (head : Bool) (off : Nat) : Option Nat :=
  let inDie := (off - 0x1000000) % 0x400000
  let die := (off - 0x1000000) / 0x400000
  if 0x1000000 ≤ off ∧ off < 0x3000000 then
    (place inDie (if head then 0x300140 else 0x300100) 8 8).map fun n => die * 128 + 0x44 + n
  else if 0x800000 ≤ off ∧ off < 0xC00000 then
    (place (off % 0x200000) (if head then 0x100200 else 0x100100) 8 32).map
      fun n => 0x400 + (off - 0x800000) / 0x200000 * 32 + n
  else (place off (if head then 0x600140 else 0x600100) 8 4).map fun n => 0x440 + n

/-- The instance of a named register at an offset, if that register lies there. -/
def RegName.at (n : RegName) (off : Nat) : Option Reg :=
  let inDie := (off - 0x1000000) % 0x400000
  let die := (off - 0x1000000) / 0x400000
  let isDie := decide (0x1000000 ≤ off ∧ off < 0x3000000)
  let inIod := off % 0x200000
  let iod := (off - 0x800000) / 0x200000
  let isIod := decide (0x800000 ≤ off ∧ off < 0xC00000)
  let inCore := inDie % 0x20000
  let core := die * 17 + inDie / 0x20000
  let isCore := isDie && decide (inDie < 0x220000)
  let inPort := (inIod - 0x10000) % 0x1000
  let port := iod * 16 + (inIod - 0x10000) / 0x1000
  let isPort := isIod && decide (0x10000 ≤ inIod ∧ inIod < 0x20000)
  match n.shape with
  | .one b => if off = b then some ⟨n, 0, 0⟩ else none
  | .arr b st k => (place off b st k).map fun i => ⟨n, i, 0⟩
  | .arr2 b st k st2 k2 =>
    match place (off - (off - b) % st) b st k, place ((off - b) % st) 0 st2 k2 with
    | some i, some j => if b ≤ off then some ⟨n, i, j⟩ else none
    | _, _ => none
  | .core b => if isCore && decide (inCore = b) then some ⟨n, core, 0⟩ else none
  | .coreArr b k => if isCore then (place inCore b 8 k).map fun j => ⟨n, core, j⟩ else none
  | .die b => if isDie && decide (inDie = b) then some ⟨n, die, 0⟩ else none
  | .dieArr b k => if isDie then (place inDie b 8 k).map fun j => ⟨n, die, j⟩ else none
  | .iod b => if isIod && decide (inIod = b) then some ⟨n, iod, 0⟩ else none
  | .iodArr b k => if isIod then (place inIod b 8 k).map fun j => ⟨n, iod, j⟩ else none
  | .port b => if isPort && decide (inPort = b) then some ⟨n, port, 0⟩ else none
  | .portArr b k => if isPort then (place inPort b 8 k).map fun j => ⟨n, port, j⟩ else none
  | .flow => if isIod then (place inIod 0x80000 8 2048).map fun j => ⟨n, iod * 2048 + j, 0⟩ else none
  | .fxe b => if isIod then (place inIod b 8 32).map fun j => ⟨n, iod * 32 + j, 0⟩ else none
  | .queue b => (queueAt off).bind fun p => if p.2 = b then some ⟨n, p.1, 0⟩ else none
  | .queueArr b k => (queueAt off).bind fun p => (place p.2 b 8 k).map fun j => ⟨n, p.1, j⟩
  | .ring => (ringAt false off).map fun c => ⟨n, c, 0⟩
  | .ringHead => (ringAt true off).map fun c => ⟨n, c, 0⟩

/-- The register at an offset of the register BAR; a reserved offset names none (R16, R556). -/
def Reg.ofOffset (off : Nat) : Option Reg := RegName.all.findSome? fun n => n.at off

/-- Read of a register by the part, with no side effect. -/
def State.rd (s : State) (r : Reg) : Word := Store.get (fun r => r.resetWord s.grade) s.regs r

/-- Write of a register by the part. -/
def State.wr (s : State) (r : Reg) (v : Word) : State :=
  { s with regs := Store.set (fun r => r.resetWord s.grade) Reg.ord s.regs r v }

/-- Value of a field. -/
def State.f (s : State) (f : Fld) (i : Nat := 0) (j : Nat := 0) : Nat := getBits (s.rd ⟨f.reg, i, j⟩) f.lo f.w

/-- A one-bit field as a truth value. -/
def State.fb (s : State) (f : Fld) (i : Nat := 0) (j : Nat := 0) : Bool := decide (s.f f i j ≠ 0)

/-- Write of a field by the part. -/
def State.fset (s : State) (f : Fld) (v : Nat) (i : Nat := 0) (j : Nat := 0) : State :=
  s.wr ⟨f.reg, i, j⟩ (setBits (s.rd ⟨f.reg, i, j⟩) f.lo f.w v)

/-- A counter that stops at all ones (R111, R182 and the like) counts `n`. -/
def State.fadd (s : State) (f : Fld) (n : Nat := 1) (i : Nat := 0) (j : Nat := 0) : State :=
  let r : Reg := ⟨f.reg, i, j⟩
  let a := Store.get (fun _ => 0) s.tickAdds r
  { s.fset f (min (s.f f i j + n) (2 ^ f.w - 1)) i j with
    tickAdds := Store.set (fun _ => 0) Reg.ord s.tickAdds r (setBits a f.lo f.w (min (getBits a f.lo f.w + n) (2 ^ f.w - 1))) }

/-- The part sets a W1C bit, which no write of the same tick clears (R15). -/
def State.fraise (s : State) (f : Fld) (i : Nat := 0) : State :=
  let r : Reg := ⟨f.reg, i, 0⟩
  { s.fset f 1 i with tickAdds := Store.set (fun _ => 0) Reg.ord s.tickAdds r (setBits (Store.get (fun _ => 0) s.tickAdds r) f.lo f.w 1) }

/-- Software writes a 1 to a W1C bit: it clears unless the part set it in this tick (R15). -/
def State.fclear (s : State) (f : Fld) (i : Nat := 0) : State :=
  if getBits (Store.get (fun _ => 0) s.tickAdds ⟨f.reg, i, 0⟩) f.lo f.w = 0 then s.fset f 0 i else s

/-- A counter that is kept modulo its width counts `n`. -/
def State.fwrap (s : State) (f : Fld) (n : Nat := 1) (i : Nat := 0) (j : Nat := 0) : State :=
  s.fset f ((s.f f i j + n) % 2 ^ f.w) i j

/-- The access type that governs a field now: INTC_SRC levels 740 to 744 and the class 7 weight are RO (Tables 16.8, 10.15). -/
def Reg.access (r : Reg) (f : RField) : Acc :=
  if r.name = .intcSrcN ∧ f.lo = 0 ∧ 740 ≤ r.i ∧ r.i ≤ 744 then .ro
  else if r.name = .classNCfg ∧ f.lo = 0 ∧ r.j = 7 then .ro else f.acc

/-- Ranges that the field maps state for fields that an image sets, reserved values left out: register, lowest bit of the field, least and greatest value (R183, R192, R204, R241, R294, R365, R370, R412, R505, Tables 9.9 to 18.9). -/
def statedRanges : List (RegName × Nat × Nat × Nat) :=
  [(.staleCtrl, 0, 10, 1000000), (.sucCfg, 0, 0, 12), (.hbmCfg, 0, 0, 1), (.lkeCfg, 0, 0, 8388608), (.commitCtrl, 0, 0, 2),
   (.portPCfg, 40, 1518, 9216), (.portPCfg, 30, 0, 2), (.portPCfg, 27, 0, 4), (.ptpCfg, 52, 0, 4), (.hallCtrl, 52, 1, 15),
   (.sbCtrl, 30, 0, 2), (.safeCtrl, 48, 100, 1000), (.secCtrl, 32, 60, 86400), (.intcSrcN, 8, 0, 138), (.pkgCtrl, 48, 1000, 2400),
   (.pkgCtrl, 40, 85, 100), (.pkgCtrl, 24, 100, 105), (.pkgCtrl, 15, 1, 16), (.numCtrl, 48, 1, 65535), (.becalmCtrl, 48, 1, 65535),
   (.tempoCtrl, 28, 8, 15), (.tempoCtrl, 24, 1, 15), (.tempoCtrl, 16, 1, 255)]

/-- A value lies in the range that its field's map states: a signed loss-scale exponent from −32 to 32, and hot frames in multiples of 128 (Table 9.9, R241). -/
def fieldTakes (n : RegName) (lo v : Nat) : Bool :=
  (statedRanges.all fun r => r.1 != n || r.2.1 != lo || decide (r.2.2.1 ≤ v ∧ v ≤ r.2.2.2)) &&
    (n != .numCtrl || lo != 40 || decide (v ≤ 32 ∨ 224 ≤ v)) && (n != .lkeCfg || lo != 0 || v % 128 == 0)

/-- One field after a software write (Table 0.3), `locked` after the configuration image has been applied; an RWL field keeps its value where the write is out of its range (log entry 133). -/
def swField (locked : Bool) (r : Reg) (old new : Word) (v : Word) (f : RField) : Word :=
  let o := getBits old f.lo f.w
  let x := getBits new f.lo f.w
  match r.access f with
  | .ro | .rc | .jobLoader => v
  | .rw => setBits v f.lo f.w x
  | .rwl => if locked || !fieldTakes r.name f.lo x then v else setBits v f.lo f.w x
  | .w1c => setBits v f.lo f.w (((BitVec.ofNat 64 o) &&& ~~~(BitVec.ofNat 64 x)).toNat)
  | .w1s => setBits v f.lo f.w ((BitVec.ofNat 64 o ||| BitVec.ofNat 64 x).toNat)

/-- A register after a software write. -/
def swWrite (locked : Bool) (r : Reg) (old new : Word) : Word :=
  r.name.fields.foldl (fun v f => swField locked r old new v f) old

/-- A software write meets a locked RWL field whose value it would change; such a write counts once in HOST_ERR.RWL_WRITES (Table 0.3). -/
def rwlChanged (r : Reg) (old new : Word) : Bool :=
  r.name.fields.any fun f => decide (r.access f = .rwl ∧ getBits old f.lo f.w ≠ getBits new f.lo f.w)

/-- The register with every RC field cleared, as a read leaves it (Table 0.3). -/
def rcCleared (r : Reg) (v : Word) : Word :=
  r.name.fields.foldl (fun v f => if r.access f = .rc then setBits v f.lo f.w 0 else v) v

/-- The field is no counter: PORT_p_FEC.MAX_SYMBOLS holds a maximum (Table 10.18). -/
def Reg.holdsMax (r : Reg) (f : RField) : Bool := r.name == .portPFec && f.lo == F.portPFecMaxSymbols.lo

/-- The RC fields of a register as a read finds them: of a counter, what the last tick edge left; what has been counted in this tick the read does not return and leaves in the field (R14, R15). -/
def rcSplit (r : Reg) (before added now : Word) : Word × Word :=
  r.name.fields.foldl (fun v f =>
    if r.access f = .rc then
      if r.holdsMax f then (v.1, setBits v.2 f.lo f.w 0)
      else (setBits v.1 f.lo f.w (min (getBits before f.lo f.w) (getBits now f.lo f.w)), setBits v.2 f.lo f.w (getBits added f.lo f.w))
    else v) (now, now)

/-- What a software write of 1 to W1C bits means in this tick: those that the part set in it are left out (R15). -/
def keepRaised (r : Reg) (added value : Word) : Word :=
  r.name.fields.foldl (fun v f =>
    if r.access f = .w1c then setBits v f.lo f.w ((v &&& ~~~added) >>> f.lo).toNat else v) value

/-- A register as the last tick edge left it. -/
def State.tickRd (s : State) (r : Reg) : Word := Store.get (fun r => r.resetWord s.grade) s.tickRegs r

/-- What has been counted in a register's fields, and which of its W1C bits have been set, since the last tick edge. -/
def State.addedTo (s : State) (r : Reg) : Word := Store.get (fun _ => 0) s.tickAdds r

/-- The registers with RC fields as a tick edge leaves them (R15). -/
def State.markTick (s : State) : State :=
  { s with tickRegs := s.regs.filter fun x => x.1.name.fields.any fun f => x.1.access f == .rc, tickAdds := [] }

/-- A software read: the value, and the state with RC fields cleared (R14), but for what was added in this tick (R15). INTC levels 740 to 744 read ERR_CTRL (R513) and INTC_PEND reads the PENDING bits (Table 16.12). -/
def State.swRead (s : State) (r : Reg) : Word × State :=
  let v := s.rd r
  let shown :=
    match r.name with
    | .idleN => BitVec.ofNat 64 (Store.get (fun _ => 0) s.idle (r.i * 16 + r.j))
    | .intcSrcN =>
      if 740 ≤ r.i ∧ r.i ≤ 744 then setBits v 0 4 (getBits (s.rd ⟨.errCtrl, 0, 0⟩) ((r.i - 740) * 4) 4)
      else if 745 ≤ r.i ∧ r.i ≤ 751 then 0 else v
    | .intcPendK =>
      BitVec.ofNat 64 ((List.range 64).foldl (fun a b => a + s.f F.intcSrcNPending (r.i * 64 + b) * 2 ^ b) 0)
    | _ => (rcSplit r (s.tickRd r) (s.addedTo r) v).1
  (if r.absent s.grade then 0 else shown,
    { s.wr r (rcSplit r (s.tickRd r) (s.addedTo r) v).2 with
      tickRegs := Store.set (fun r => r.resetWord s.grade) Reg.ord s.tickRegs r (rcCleared r (s.tickRd r))
      idle := if r.name = .idleN then Store.set (fun _ => 0) id s.idle (r.i * 16 + r.j) 0 else s.idle })

end Sys2Proof.Machine
end

