-- ==== Sys2Proof/Machine/Ops.lean ====
section
/-! DEFINITION. Named operations that every family shares: lists by key, events and outputs, storage under the C80 code, the two Ledger copies, hall addresses, time, and entry into Hove-to. -/

namespace Sys2Proof.Machine

/-! ### Lists by key -/

/-- A list of records with those that satisfy `p` changed by `f`. -/
def updateAll {α : Type} (l : List α) (p : α → Bool) (f : α → α) : List α := l.map fun x => if p x then f x else x

/-- Value under a key of an association list with a default. -/
def assoc {α : Type} [DecidableEq α] (d : α) (l : List (Nat × α)) (k : Nat) : α := Store.get (fun _ => d) l k

/-- Association list with a value under a key. -/
def assocSet {α : Type} [DecidableEq α] (d : α) (l : List (Nat × α)) (k : Nat) (v : α) : List (Nat × α) :=
  Store.set (fun _ => d) id l k v

/-! ### Outputs, events, time -/

/-- Puts one item on the part's links. -/
def State.emit (s : State) (o : Out) : State := { s with out := s.out ++ [o] }

/-- Puts several items on the part's links. -/
def State.emits (s : State) (l : List Out) : State := { s with out := s.out ++ l }

/-- Latches an event for the next tick edge (R400). -/
def State.latch (s : State) (e : Event) : State := { s with latched := s.latched ++ [e] }

/-- An event that no error record carries, by code and source (R562). -/
def State.raise (s : State) (code source : Nat) : State := s.latch { code, source }

/-- Severities of Table 13.3 by code. -/
def sevCorrectable : Nat := 0
@[inherit_doc sevCorrectable] def sevUncorrectable : Nat := 1
@[inherit_doc sevCorrectable] def sevRecovery : Nat := 2
@[inherit_doc sevCorrectable] def sevLost : Nat := 3
@[inherit_doc sevCorrectable] def sevSafety : Nat := 4

/-- A detected error: its record carries the source of its severity (R419, R420, R562). -/
def State.error (s : State) (code sev : Nat) (domain : Nat := 0xFFF) (core : Nat := 0xFF) (addr : Nat := 0)
    (detail : Nat := 0) (status : Nat := 0) : State :=
  s.latch { code, source := 740 + sev, sev := some sev, domain, core, addr, detail, status }

/-- A fault that puts a domain into recovery; the tick edge that takes it applies R427 and R428. -/
def State.faultDomain (s : State) (domain : Nat) (core : Nat := 0xFF) (detail : Nat := 0) : State :=
  s.error 0x3002 sevRecovery domain core 0 detail

/-- A cause of Hove-to that the next tick edge takes (R435). -/
def State.askHove (s : State) (cause : Nat) : State :=
  s.latch { code := 0x1001, source := 751, sev := if 3 ≤ cause then some sevSafety else none, hove := some cause }

/-- TICK_COUNT. -/
def State.now (s : State) : Nat := s.f F.tickCountTicks

/-- The part is in Hove-to. -/
def State.inHove (s : State) : Bool := s.fb F.hoveStatusActive

/-- The part's own hall part number (R38). -/
def State.me (s : State) : Nat := s.f F.hallStatusPart

/-- A free value that the spec leaves open, and the state that has consumed it (log entry 1). -/
def State.open_ (s : State) : Word × State := (Config.freeValue s.free, { s with free := s.free + 1 })

/-- A draw of the random number generator (R470, R492; log entry 1). -/
def State.draw (s : State) : BitVec 256 × State := (Config.random s.draws, { s with draws := s.draws + 1 })

/-- HALL_STATUS.ROLE. -/
def State.role (s : State) : Nat := s.f F.hallStatusRole

/-! ### Little-endian bytes (R13) -/

/-- A number as `n` bytes, lowest first. -/
def leBytes (n v : Nat) : List Byte := (List.range n).map fun i => BitVec.ofNat 8 (v / 2 ^ (8 * i))

/-- The number that bytes spell, lowest first. -/
def leNat (l : List Byte) : Nat := l.foldr (fun b a => b.toNat + 256 * a) 0

/-- Bytes at a place of a list, short at its end. -/
def sliceAt {α : Type} (l : List α) (off n : Nat) : List α := (l.drop off).take n

/-- A little-endian field of a byte list. -/
def leAt (l : List Byte) (off n : Nat) : Nat := leNat (sliceAt l off n)

/-! ### The C80 code (R187 to R190) -/

/-- Powers of α, a root of x^7 + x + 1 (R188). -/
def alphaPow : Nat → BitVec 7
  | 0 => 1
  | n + 1 => let a := alphaPow n; (a <<< 1) ^^^ (if a.msb then 3 else 0)

/-- Parity-check column of a bit position: both powers and the parity row; PAR has the parity row only (R188). -/
def c80Column (j : Nat) : Nat :=
  if j < 79 then ((alphaPow (j % 127)).toNat * 128 + (alphaPow (3 * j % 127)).toNat) * 2 + 1 else 1

/-- Columns of all 80 positions. -/
def c80Columns : List (Nat × Nat) := (List.range 80).map fun j => (j, c80Column j)

/-- Syndrome of an error mask. -/
def c80Syndrome (e : BitVec 80) : Nat :=
  c80Columns.foldl (fun a c => if e.getLsbD c.1 then a ^^^ c.2 else a) 0

/-- The pattern of at most two bits that a decoder flips; none when three or more bits are detected (R188, R189). -/
def c80Correction (e : BitVec 80) : Option (BitVec 80) :=
  let syn := c80Syndrome e
  if syn = 0 then some 0
  else
    match c80Columns.find? fun c => c.2 = syn with
    | some c => some (BitVec.twoPow 80 c.1)
    | none =>
      c80Columns.findSome? fun c =>
        (c80Columns.find? fun d => d.1 < c.1 ∧ d.2 ^^^ c.2 = syn).map fun d => BitVec.twoPow 80 c.1 ^^^ BitVec.twoPow 80 d.1

/-! ### Storage -/

/-- Key of a byte. -/
def byteKey (b : Bank) (off : Nat) : Nat := b.num * 2 ^ 44 + off

/-- Key of a 64-bit word. -/
def wordKey (b : Bank) (w : Nat) : Nat := b.num * 2 ^ 41 + w

/-- A byte of storage as its codeword's data hold it; unlisted bytes read as zero (R450). -/
def memRead (m : List Host.Cell) (k : Nat) : Byte := Store.get (fun _ => 0) m k

/-- Storage with one byte written. -/
def memWrite (m : List Host.Cell) (k : Nat) (v : Byte) : List Host.Cell := Store.set (fun _ => 0) id m k v

/-- The canonical form of storage: keys strictly rising, no zero byte listed. -/
def Memory.wf (m : List Host.Cell) : Bool := Store.wf (fun _ => 0) id m

/-- A byte of a bank. -/
def State.byte (s : State) (b : Bank) (off : Nat) : Byte := memRead s.mem (byteKey b off)

/-- A bank with one byte written. -/
def State.setByte (s : State) (b : Bank) (off : Nat) (v : Byte) : State := { s with mem := memWrite s.mem (byteKey b off) v }

/-- Bytes of a bank, raw. -/
def State.bytes (s : State) (b : Bank) (off n : Nat) : List Byte := (List.range n).map fun i => s.byte b (off + i)

/-- A run of raw bytes written from an offset upward. -/
def State.setBytes (s : State) (b : Bank) (off : Nat) (l : List Byte) : State :=
  { s with mem := (l.zipIdx).foldl (fun m c => memWrite m (byteKey b (off + c.2)) c.1) s.mem }

/-! ### Where HBM words lie (R205, R212, R213) -/

/-- A place in the stacks (Table 6.8a): stack and channel, the granule's slot within the channel, and the slot's pseudo-channel, column of its page, stack ID, bank and row. -/
structure HbmPlace where
  stack : Nat
  channel : Nat
  slot : Nat
  pseudo : Nat
  column : Nat
  stackId : Nat
  bank : Nat
  row : Nat
deriving DecidableEq, Repr

/-- The HBM map of Table 6.8a; offsets from 0x5D_0000_0000 on, which lie in no space, are the reserve slots of the channels (R29). -/
def hbmPlace (off : Nat) : HbmPlace :=
  let g := off / 256
  let q := g / 256
  let w := q / 8 / 3
  { stack := g % 8, channel := g % 256 / 8, slot := q, pseudo := q % 2, column := q / 2 % 4, stackId := q / 8 % 3
    bank := Nat.xor (w % 16) (w / 2 ^ 16 % 16), row := w / 16 }

/-- Home die of an HBM offset (Table 6.8a). -/
def hbmDie (off : Nat) : Nat := (hbmPlace off).stack

/-- Channel within the stack of an HBM offset (Table 6.8a). -/
def hbmChannel (off : Nat) : Nat := (hbmPlace off).channel

/-- Offset of the granule in a slot of a channel. -/
def granuleAt (stack channel slot : Nat) : Nat := (slot * 256 + channel * 8 + stack) * 256

/-- Slots of a channel in HBM space, and slots of its reserve (R205, R212). -/
def spaceSlots : Nat := 6094848
@[inherit_doc spaceSlots] def reserveSlots : Nat := 196608

/-- Bytes of HBM space (Table 1.6). -/
def hbmSpace : Nat := 0x5D00000000

/-- The word of the reserves that takes the place of a word of an evacuated channel: slot q goes to the reserve of the (q div 196,608)-th other channel of its stack (R212). -/
def reserveWord (w : Nat) : Nat :=
  let p := hbmPlace (8 * w)
  let j := p.slot / reserveSlots
  granuleAt p.stack (if j < p.channel then j else j + 1) (spaceSlots + p.slot % reserveSlots) / 8 + w % 32

/-- The word of channel `c` that a reserve word takes the place of: the inverse of `reserveWord`. -/
def reservedFor (c w : Nat) : Nat :=
  let p := hbmPlace (8 * w)
  let j := if p.channel < c then p.channel else p.channel - 1
  granuleAt p.stack c (j * reserveSlots + (p.slot - spaceSlots)) / 8 + w % 32

/-- Channel states of Table 6.20. -/
def chanNormal : Nat := 0
@[inherit_doc chanNormal] def chanRetuning : Nat := 1
@[inherit_doc chanNormal] def chanEvacuating : Nat := 2
@[inherit_doc chanNormal] def chanRemapped : Nat := 3
@[inherit_doc chanNormal] def chanCopying : Nat := 4
@[inherit_doc chanNormal] def chanRetired : Nat := 5

/-- State of the channel of a word of HBM space. -/
def State.chanOf (s : State) (w : Nat) : Nat := s.f F.hbmChanNState (hbmDie (8 * w)) (hbmChannel (8 * w))

/-- The copy pointer of the evacuation that runs on a stack: slots below it are copied (Table 6.11). -/
def State.copied (s : State) (die : Nat) : Nat := match s.retrains.find? fun r => r.die == die with | some r => r.pointer | none => 0

/-- Where a word of HBM space is read: in its channel, or in the reserves once the remap has flipped and until it flips back (Table 6.11, R214). -/
def State.homeWord (s : State) (w : Nat) : Nat :=
  if 8 * w < hbmSpace ∧ chanRemapped ≤ s.chanOf w then reserveWord w else w

/-- Where a word of HBM space is written: while a channel evacuates, slots below the copy pointer go to both copies; while it copies back, every write does (Table 6.11). -/
def State.homeWords (s : State) (w : Nat) : List Nat :=
  if hbmSpace ≤ 8 * w then [w]
  else if s.chanOf w = chanEvacuating then
    (if (hbmPlace (8 * w)).slot < s.copied (hbmDie (8 * w)) then [w, reserveWord w] else [w])
  else if s.chanOf w = chanCopying then [reserveWord w, w]
  else [s.homeWord w]

/-- An access takes its stack out of self-refresh (Table 6.7). -/
def State.wakeStack (s : State) (w : Nat) : State :=
  if s.fb F.hbmStatusSelfRefresh (hbmDie (8 * w)) then s.fset F.hbmStatusSelfRefresh 0 (hbmDie (8 * w)) else s

/-! ### Words under the code (R187 to R191) -/

/-- Data of the word of storage `w` of a bank, raw. -/
def State.cellWord (s : State) (b : Bank) (w : Nat) : Word := BitVec.ofNat 64 (leNat (s.bytes b (8 * w) 8))

/-- Data of word `w` of a bank where its readers find it, raw. -/
def State.word (s : State) (b : Bank) (w : Nat) : Word := s.cellWord b (if b = .hbm then s.homeWord w else w)

/-- A whole word of storage written with fresh check bits: errors and poison of the old word are gone (R190). -/
def State.setCell (s : State) (b : Bank) (w : Nat) (v : Word) (poisoned : Bool := false) : State :=
  let s := s.setBytes b (8 * w) (leBytes 8 v.toNat)
  { s with errs := Store.set (fun _ => 0) id s.errs (wordKey b w) 0
           poison := Store.set (fun _ => false) id s.poison (wordKey b w) poisoned }

/-- A whole word of a bank written, in every place that holds it. -/
def State.setWord (s : State) (b : Bank) (w : Nat) (v : Word) (poisoned : Bool := false) : State :=
  if b = .hbm then (s.homeWords w).foldl (fun s w => s.setCell .hbm w v poisoned) (s.wakeStack w) else s.setCell b w v poisoned

/-- Die whose SUC or slices hold an offset of a bank. -/
def bankDie (b : Bank) (off : Nat) : Nat :=
  match b with
  | .hbm => hbmDie off
  | .sram => off / 0x100000000
  | .suc => off / 0x08000000
  | .tile => off / 0x40000 / 17
  | .score => off / 0x10000 / 17
  | _ => 0

/-- Counts one ECC event of a word in the register of its memory (R189, Table 6.12): `f` on the dies, `g` on the Ledger's I/O die. -/
def State.eccCount (s : State) (b : Bank) (off : Nat) (f g : Fld) : State :=
  match b with
  | .hbm => s.fadd f 1 (hbmDie off) 2
  | .suc => s.fadd f 1 (bankDie b off) 1
  | .sram | .tile | .score => s.fadd f 1 (bankDie b off) 0
  | .ledgerE => s.fadd g 1 0
  | .ledgerW => s.fadd g 1 1
  | .flashA | .flashB => s

/-- Hall address of a byte of this part for a record; 0 where the memory has none (Table 13.12). -/
def hallOf (b : Bank) (off : Nat) : Nat :=
  let at_ (space : Nat) := 0xFFFF * 2 ^ 48 + space * 2 ^ 44 + off
  match b with
  | .hbm => if off < hbmSpace then at_ 0 else 0
  | .sram => at_ 1 | .suc => at_ 2 | .ledgerE | .ledgerW => at_ 3 | _ => 0

/-- Core concerned by an error in a memory: the core of a tile register or of Score memory, else none (Table 13.10). -/
def memCore (b : Bank) (off : Nat) : Nat :=
  match b with
  | .tile => off / 0x40000
  | .score => off / 0x10000
  | _ => 0xFF

/-- Hall address of a word of storage for a record: a reserve word in use has the address of the word it takes the place of (R212). -/
def State.cellAddr (s : State) (b : Bank) (w : Nat) : Nat :=
  let die := hbmDie (8 * w)
  if b = .hbm ∧ hbmSpace ≤ 8 * w ∧ 2 ≤ s.f F.hbmStatusReserve die then hallOf .hbm (8 * reservedFor (s.f F.hbmStatusRchan die) w)
  else hallOf b (8 * w)

/-- Data bits of a word of storage that its decoder leaves altered: four or more errors may be taken for fewer (R190). -/
def State.residual (s : State) (b : Bank) (w : Nat) : Word :=
  let e := Store.get (fun _ => 0) s.errs (wordKey b w)
  if e = 0 then 0
  else
    match c80Correction e with
    | some c => (e ^^^ c).extractLsb' 15 64
    | none => 0

/-- The two words of the cipher block of an HBM word whose stored ciphertext has `mask` altered: C80 covers the ciphertext, so both words of the 16 bytes decrypt to other plaintext; the tweak is the HBM space offset, in the reserves that of the word they stand for (R191, R487; log entry 111). -/
def State.garbled (s : State) (w : Nat) (mask : Word) : Word × Word :=
  let k := w / 2 * 2
  let plain : BitVec 128 := s.cellWord .hbm (k + 1) ++ s.cellWord .hbm k
  let m : BitVec 128 := if w % 2 = 0 then (0 : BitVec 64) ++ mask else mask ++ (0 : BitVec 64)
  let q := Config.xtsAltered (if 8 * k < hbmSpace then 8 * k else 8 * reservedFor (s.f F.hbmStatusRchan (hbmDie (8 * w))) k) plain m
  (q.extractLsb' 0 64, q.extractLsb' 64 64)

/-- The data that a word of storage gives with `mask` of its stored bits altered. -/
def State.altered (s : State) (b : Bank) (w : Nat) (mask : Word) : Word :=
  if mask = 0 then s.cellWord b w
  else if b = .hbm then (if w % 2 = 0 then (s.garbled w mask).1 else (s.garbled w mask).2)
  else s.cellWord b w ^^^ mask

/-- A word of storage whose stored bits stay altered: in HBM both words of its cipher block are, elsewhere it alone. -/
def State.alter (s : State) (b : Bank) (w : Nat) (mask : Word) : State :=
  if mask = 0 then s
  else if b = .hbm then
    let q := s.garbled w mask
    (s.setBytes .hbm (8 * (w / 2 * 2)) (leBytes 8 q.1.toNat)).setBytes .hbm (8 * (w / 2 * 2) + 8) (leBytes 8 q.2.toNat)
  else s.setBytes b (8 * w) (leBytes 8 (s.cellWord b w ^^^ mask).toNat)

/-- The value of a word of storage whose own codeword is clean: in HBM the other word of its cipher block may be altered. -/
def State.plain (s : State) (b : Bank) (w : Nat) : Word :=
  let other := if w % 2 = 0 then w + 1 else w - 1
  if b = .hbm ∧ s.residual .hbm other ≠ 0 then
    (if w % 2 = 0 then (s.garbled other (s.residual .hbm other)).1 else (s.garbled other (s.residual .hbm other)).2)
  else s.cellWord b w

/-- The uncorrectable words that a channel gave within the last millisecond, with one more (R211). -/
def State.countUncorrectable (s : State) (w : Nat) : State :=
  { s with badReads := (s.badReads.filter fun r => decide (s.now < r.2 + 1000)) ++ [(hbmDie (8 * w) * 32 + hbmChannel (8 * w), s.now)] }

/-- Read of one word of storage through its code, with the effects of Table 6.4: the data, or none where the reader gets uncorrectable status. -/
def State.fetchCell (s : State) (b : Bank) (w : Nat) : State × Option Word :=
  let e := Store.get (fun _ => 0) s.errs (wordKey b w)
  let p := Store.get (fun _ => false) s.poison (wordKey b w)
  let off := 8 * w
  if e = 0 ∧ p = false then (s, some (s.plain b w))
  else
    match c80Correction e with
    | none =>
      let s := (s.setCell b w (s.altered b w (e.extractLsb' 15 64)) true).eccCount b off F.eccCountMUncorrected F.ledgerEccUncorrected
      let s := if b = .hbm then s.countUncorrectable w else s
      (s.error 0x3001 sevUncorrectable 0xFFF (memCore b off) (s.cellAddr b w) (c80Syndrome e) 0, none)
    | some c =>
      if p != (e ^^^ c).getLsbD 14 then (s.eccCount b off F.eccCountMPoisonReads F.ledgerEccPoisonReads, none)
      else
        let s := s.alter b w (s.residual b w)
        let s := s.setCell b w (s.cellWord b w)
        if c = 0 then (s, some (s.plain b w))
        else
          let s := s.eccCount b off F.eccCountMCorrected F.ledgerEccCorrected
          let s := if b = .hbm then s.fadd F.hbmChanNCeMin 1 (hbmDie off) (hbmChannel off) else s
          (s.error 0x7001 sevCorrectable 0xFFF (memCore b off) (s.cellAddr b w) (c80Syndrome e) 0, some (s.plain b w))

/-- Read of one word of one memory through its code, where its readers find it. -/
def State.fetchWord (s : State) (b : Bank) (w : Nat) : State × Option Word :=
  if b = .hbm then (s.wakeStack w).fetchCell .hbm (s.homeWord w) else s.fetchCell b w

/-- Copies a word of storage into another; a word that cannot be read is copied poisoned (R189, R214). -/
def State.copyCell (s : State) (src dst : Nat) : State :=
  match s.fetchCell .hbm src with
  | (s, some v) => s.setCell .hbm dst v
  | (s, none) => s.setCell .hbm dst (s.cellWord .hbm src) true

/-! ### The two Ledger copies (R33 to R36) -/

/-- The Ledger copy of an I/O die. -/
def ledgerBank (i : Nat) : Bank := if i = 0 then .ledgerE else .ledgerW

/-- A recovery slot holds a domain (R428). -/
def State.inRecovery (s : State) (domain : Nat) : Bool :=
  (List.range 2).any fun j => s.fb F.recovJBusy j && s.f F.recovJDomain j == domain

/-- The bridge between the I/O dies waits for its retrain, and so do the writes to copy W (R25). -/
def State.bridgeOut (s : State) : Bool := s.inRecovery 0x412

/-- A word written to both Ledger copies; while the bridge is out, copy W's write waits (R25, R34). -/
def State.setLedgerWord (s : State) (w : Nat) (v : Word) : State :=
  let s := s.setWord .ledgerE w v
  if s.bridgeOut then { s with bridge := s.bridge.filter (fun x => x.1 != w) ++ [(w, v)] } else s.setWord .ledgerW w v

/-- The writes that waited for the bridge land in copy W. -/
def State.flushBridge (s : State) : State :=
  s.bridge.foldl (fun s x => s.setWord .ledgerW x.1 x.2) { s with bridge := [] }

/-- Read of one word of one Ledger copy. While the other copy is rebuilt, a word that this one cannot give, or whose rewrite fails, enters Hove-to; whether a rewrite fails is physical, so a free value says (R36, log entry 28). -/
def State.fetchCopy (s : State) (copy w : Nat) : State × Option Word :=
  let bad := decide (Store.get (fun _ => 0) s.errs (wordKey (ledgerBank copy) w) ≠ 0)
  let rebuilding := s.inRecovery (0x300 + (1 - copy))
  match s.fetchWord (ledgerBank copy) w with
  | (s, none) => (if rebuilding then s.askHove 4 else s, none)
  | (s, some v) =>
    if rebuilding && bad then
      let (x, s) := s.open_
      (if x.getLsbD 0 then s.askHove 4 else s, some v)
    else (s, some v)

/-- Rewrite of an uncorrectable word of a Ledger copy from the other; whether the cells take it is physical, so a free value says, and a rewrite that fails puts the copy's domain into recovery (Table 1.5, log entry 28). -/
def State.rewriteLedger (s : State) (copy w : Nat) (v : Word) : State :=
  let (x, s) := s.open_
  if x.getLsbD 0 then s.faultDomain (0x300 + copy) else s.setWord (ledgerBank copy) w v

/-- Read of a Ledger word from both copies, resolved by Table 1.5; a copy under rebuild is not read, nor is a word of copy W whose write waits for the bridge (R25, R36). -/
def State.fetchLedger (s : State) (w : Nat) : State × Option Word :=
  if s.inRecovery 0x300 || s.inRecovery 0x301 then s.fetchCopy (if s.inRecovery 0x300 then 1 else 0) w
  else
    let (s, a) := s.fetchCopy 0 w
    match s.bridge.find? fun x => x.1 == w with
    | some x => (match a with | some v => (s, some v) | none => (s.rewriteLedger 0 w x.2, some x.2))
    | none =>
      let (s, b) := s.fetchCopy 1 w
      match a, b with
      | some x, some y => if x = y then (s, some x) else (s.askHove 4, none)
      | none, some y => (s.rewriteLedger 0 w y, some y)
      | some x, none => (s.rewriteLedger 1 w x, some x)
      | none, none => (s.askHove 4, none)

/-- Read of one word of a bank; the Ledger is read from both copies. -/
def State.fetch1 (s : State) (b : Bank) (w : Nat) : State × Option Word :=
  match b with
  | .ledgerE | .ledgerW => s.fetchLedger w
  | _ => s.fetchWord b w

/-- Write of one whole word of a bank; the Ledger is written in both copies. -/
def State.set1 (s : State) (b : Bank) (w : Nat) (v : Word) : State :=
  match b with
  | .ledgerE | .ledgerW => s.setLedgerWord w v
  | _ => s.setWord b w v

/-! ### Runs of bytes -/

/-- Read of several words in turn; none if any word gives uncorrectable status. -/
def State.fetchWords (s : State) (b : Bank) : List Nat → State × Option (List Word)
  | [] => (s, some [])
  | w :: ws =>
    let (s, v) := s.fetch1 b w
    let (s, r) := s.fetchWords b ws
    (s, match v, r with | some v, some r => some (v :: r) | _, _ => none)

/-- The words that hold bytes `off` to `off + n − 1`. -/
def wordsOf (off n : Nat) : List Nat :=
  if n = 0 then [] else (List.range ((off + n + 7) / 8 - off / 8)).map (off / 8 + ·)

/-- Read of a run of bytes in place. -/
def State.readBytes (s : State) (b : Bank) (off n : Nat) : State × Option (List Byte) :=
  let (s, r) := s.fetchWords b (wordsOf off n)
  (s, r.map fun l => sliceAt (l.flatMap fun v => leBytes 8 v.toNat) (off % 8) n)

/-- Write of the covered bytes of one word; a part of a word merges into it and fails where the word cannot be read (R190). -/
def State.mergeWord (s : State) (b : Bank) (w : Nat) (l : List (Option Byte)) : State × Bool :=
  if l.all Option.isSome then (s.set1 b w (BitVec.ofNat 64 (leNat (l.map fun x => x.getD 0))), true)
  else
    let (s, v) := s.fetch1 b w
    match v with
    | none => (s, false)
    | some v =>
      let old := leBytes 8 v.toNat
      (s.set1 b w (BitVec.ofNat 64 (leNat ((l.zip old).map fun x => x.1.getD x.2))), true)

/-- Write of a list of words with their covered bytes. -/
def State.mergeWords (s : State) (b : Bank) : List (Nat × List (Option Byte)) → State × Bool
  | [] => (s, true)
  | (w, l) :: r =>
    let (s, a) := s.mergeWord b w l
    let (s, c) := s.mergeWords b r
    (s, a && c)

/-- The words of a run of bytes, each with the bytes that the run covers. -/
def wordsWith (off : Nat) (l : List Byte) : List (Nat × List (Option Byte)) :=
  let total := (wordsOf off l.length).length
  let padded := List.replicate (off % 8) none ++ l.map some
  let padded := padded ++ List.replicate (8 * total - padded.length) none
  (wordsOf off l.length).zip (chunksOf 8 total padded)

/-- Write of a run of bytes in place; the Boolean tells that every byte landed. A Ledger write goes to both copies (R34). -/
def State.writeBytes (s : State) (b : Bank) (off : Nat) (l : List Byte) : State × Bool := s.mergeWords b (wordsWith off l)

/-- The value of a Ledger word as Table 1.5 resolves it; a word that neither copy gives has a value that the spec leaves open, while the part goes to Hove-to (log entry 112). -/
def State.ledWord (s : State) (w : Nat) : Word := (s.fetchLedger w).2.getD (Config.ledgerUnread w)

/-- A field of the Ledger as its readers resolve it; `readLed` gives the effects of the read, for the areas that are consulted all the time at the tick edge (log entry 160). -/
def State.led (s : State) (off n : Nat) : Nat :=
  leNat (sliceAt ((wordsOf off n).flatMap fun w => leBytes 8 (s.ledWord w).toNat) (off % 8) n)

/-- Words of the Ledger that hold anything: data, errors or poison in either copy. -/
def State.ledgerWords (s : State) : List Nat :=
  let of_ (k : Nat) : List Nat := if k / 2 ^ 41 = 3 ∨ k / 2 ^ 41 = 4 then [k % 2 ^ 41] else []
  ((s.mem.flatMap fun c => of_ (c.1 / 8)) ++ (s.errs.flatMap fun c => of_ c.1) ++ s.poison.flatMap fun c => of_ c.1).dedup

/-- A read of a range of the Ledger by the CME or an LKE, with what each word's decoding and comparing does (R35, R189); a word that neither copy lists reads clean and does nothing. -/
def State.readLed (s : State) (off n : Nat) : State :=
  (s.ledgerWords.filter fun w => decide (off < 8 * w + 8) && decide (8 * w < off + n)).foldl (fun s w => (s.fetchLedger w).1) s

/-- The areas that the CME, the Tempo logic and the engines consult in every tick: step header and commit records, misses, member table and shard map (Tables 9.1, 9.2, 11.1). The reads that the commands of a tick make of them through `led` take their effects, corrections, counts, rewrites and Hove-to, at the tick edge (R33, R35, R189; log entry 160). -/
def State.consult (s : State) : State :=
  ([(0, 0x41000), (0x02200000, 0x10000), (0x03000000, 0x120004)] : List (Nat × Nat)).foldl (fun s r => s.readLed r.1 r.2) s

/-- A CME write of a field of the Ledger to both copies (R34). -/
def State.setLed (s : State) (off n v : Nat) : State := (s.writeBytes .ledgerE off (leBytes n v)).1

/-! ### Listed records of a Ledger area -/

/-- A number put in its place in an ascending list with no repeats. -/
def insertNat (n : Nat) : List Nat → List Nat
  | [] => [n]
  | m :: l => if n < m then n :: m :: l else if n = m then m :: l else m :: insertNat n l

/-- An ascending list with no repeats. -/
def sortNat (l : List Nat) : List Nat := l.foldl (fun a n => insertNat n a) []

/-- Records of `st` bytes of a Ledger area of `n` that some byte, codeword error or poison of either copy touches; every other record of the area reads as zero. -/
def State.listed (s : State) (lo st n : Nat) : List Nat :=
  let one (k : Nat) (base : Nat) : Option Nat := if base + lo ≤ k ∧ k < base + lo + st * n then some ((k - base - lo) / st) else none
  let both (k : Nat) : List Nat := [one k (byteKey .ledgerE 0), one k (byteKey .ledgerW 0)].filterMap id
  sortNat ((s.mem.flatMap fun c => both c.1) ++ (s.errs.flatMap fun e => both (8 * e.1)) ++ s.poison.flatMap fun e => both (8 * e.1))

/-! ### Hall addresses (R38 to R40) -/

/-- A byte named by a hall address. -/
inductive Place where
  /-- A byte of this part. -/
  | here (b : Bank) (off : Nat)
  /-- A register of this part. -/
  | reg (off : Nat)
  /-- A byte of another member. -/
  | remote (part : Nat)
  /-- An address that R40 refuses. -/
  | bad
deriving DecidableEq, Repr

/-- Fields of a hall address. -/
def addrPart (a : Nat) : Nat := a / 2 ^ 48 % 2 ^ 16
@[inherit_doc addrPart] def addrSpace (a : Nat) : Nat := a / 2 ^ 44 % 16
@[inherit_doc addrPart] def addrOff (a : Nat) : Nat := a % 2 ^ 44

/-- A hall address of this part. -/
def mkAddr (space off : Nat) : Nat := 0xFFFF * 2 ^ 48 + space * 2 ^ 44 + off

/-- Scratch bytes of a die's SUC (R192). -/
def State.scratch (s : State) (die : Nat) : Nat := s.f F.sucCfgScratch die * 0x800000

/-- The byte of this part at a space and offset, if the offset is valid in its space (Table 1.6, R192). -/
def State.placeHere (s : State) (space off : Nat) : Place :=
  match space with
  | 0 => if off < hbmSpace then .here .hbm off else .bad
  | 1 => if off < 0x800000000 then .here .sram off else .bad
  | 2 => if off / 0x08000000 < 8 ∧ off % 0x08000000 < s.scratch (off / 0x08000000) then .here .suc off else .bad
  | 3 => if off < 0x10000000 then .here .ledgerE off else .bad
  | 4 => if off < 0x04000000 then .reg off else .bad
  | _ => .bad

/-- Ledger offset of a part's member entry (Table 11.1). -/
def memberAt (p : Nat) : Nat := 0x03000000 + p * 16

/-- The part named is a current member of the hall (R367). -/
def State.isMember (s : State) (p : Nat) : Bool := decide (s.led (memberAt p) 1 = 1)

/-- Where a hall address leads (R38, R40). -/
def State.place (s : State) (a : Nat) : Place :=
  if addrPart a = 0xFFFF ∨ addrPart a = s.me then s.placeHere (addrSpace a) (addrOff a)
  else if s.isMember (addrPart a) then .remote (addrPart a) else .bad

/-- The whole run of bytes from a hall address lies in valid offsets of one memory of this part. -/
def State.run? (s : State) (a n : Nat) : Option (Bank × Nat) :=
  match s.place a with
  | .here b off =>
    if n = 0 then some (b, off)
    else
      match s.placeHere (addrSpace a) (addrOff a + n - 1) with
      | .here b' _ => if b = b' ∧ (b = .suc → off / 0x08000000 = (off + n - 1) / 0x08000000) then some (b, off) else none
      | _ => none
  | _ => none

/-- An access of `n` bytes at another part's address that its requester need not refuse: a space that remote accesses reach, offsets valid in it on every part, and no write to the Ledger (R40, R192). -/
def reachOk (a n : Nat) (write : Bool) : Bool :=
  let off := addrOff a
  match addrSpace a with
  | 0 => decide (off + n ≤ hbmSpace)
  | 1 => decide (off + n ≤ 0x800000000)
  | 2 => decide (off < 0x40000000) && decide (off % 0x08000000 + n ≤ 0x08000000)
  | 3 => !write && decide (off + n ≤ 0x10000000)
  | _ => false

/-- The address fault record of R40. -/
def State.addressFault (s : State) (a : Nat) (core : Nat := 0xFF) : State :=
  s.error 0x3004 sevUncorrectable 0xFFF core a 0 Status.aborted.code

/-- R40 refuses an access of `n` bytes at an address: some byte of it lies in no space, it is a write to this part's Ledger, or a remote access that its requester refuses; this part's registers are outside its engines' reach (log entry 117). -/
def State.refuses (s : State) (a n : Nat) (write : Bool) : Bool :=
  match s.place a with
  | .bad | .reg _ => true
  | .here b _ => (s.run? a n).isNone || (write && b == .ledgerE)
  | .remote _ => !reachOk a n write

/-- The address fault record where R40 refuses an access. -/
def State.refuse40 (s : State) (a n : Nat) (write : Bool) : State := if s.refuses a n write then s.addressFault a else s

end Sys2Proof.Machine
end

