-- ==== Sys2Proof/Machine/Keccak.lean ====
section
/-! DEFINITION. SHAKE256, the one hash of the part (R280, R468), and SHA3-384, the hash of its SPDM responder (R488). The spec names the functions and does not print them; their text is the public standard FIPS 202 (PRESUMED, log entry 11). The sponge holds its 1,600 bits as one number, since every message and digest of the part is a little-endian byte string (R13). -/

namespace Sys2Proof.Machine

/-- The 1,600 bits of the sponge; lane (x, y) is bits 64·(x + 5y) upward. -/
abbrev Sponge := BitVec 1600

/-- Lane (x, y) of the sponge, its coordinates taken modulo 5. -/
def Sponge.at (a : Sponge) (x y : Nat) : Word := a.extractLsb' (64 * (x % 5 + 5 * (y % 5))) 64

/-- A sponge from its lanes. -/
def Sponge.of (f : Nat → Nat → Word) : Sponge :=
  (List.range 25).foldr (fun i (acc : Sponge) => acc <<< 64 ||| (f (i % 5) (i / 5)).setWidth 1600) 0

/-- θ: each bit gets the parities of two neighbouring columns. -/
def Sponge.theta (a : Sponge) : Sponge :=
  let parity (x : Nat) : Word := (List.range 5).foldl (fun p y => p ^^^ a.at x y) 0
  Sponge.of fun x y => a.at x y ^^^ parity (x + 4) ^^^ (parity (x + 1)).rotateLeft 1

/-- The walk over the lanes other than (0, 0) that ρ and π share: step t goes from (x, y) to (y, 2x + 3y), and its lane turns by the (t + 1)-th triangular number. -/
def spongeWalk : Nat → List (Nat × Nat × Nat)
  | 0 => [(1, 0, 1)]
  | t + 1 =>
    match spongeWalk t with
    | (x, y, r) :: l => (y, (2 * x + 3 * y) % 5, r + t + 2) :: (x, y, r) :: l
    | [] => []

/-- ρ and π: along the walk each lane, turned, takes the next place. -/
def Sponge.spread (a : Sponge) : Sponge :=
  Sponge.of fun x y =>
    match (spongeWalk 23).find? fun w => w.2.1 == x && (2 * w.1 + 3 * w.2.1) % 5 == y with
    | some (u, v, r) => (a.at u v).rotateLeft (r % 64)
    | none => a.at x y

/-- χ: the only non-linear step, along each row. -/
def Sponge.chi (a : Sponge) : Sponge := Sponge.of fun x y => a.at x y ^^^ (a.at (x + 2) y &&& ~~~(a.at (x + 1) y))

/-- Powers of the root of x^8 + x^6 + x^5 + x^4 + 1, from which ι takes its bits. -/
def iotaPow : Nat → BitVec 8
  | 0 => 1
  | t + 1 => let p := iotaPow t; (p <<< 1) ^^^ (if p.msb then 0x71 else 0)

/-- The constant of ι in round `i`: bits 0, 1, 3, 7, 15, 31 and 63 are seven bits of the register in turn. -/
def iotaWord (i : Nat) : Word :=
  (List.range 7).foldl (fun (c : Word) j => if (iotaPow (7 * i + j)).getLsbD 0 then c ||| BitVec.twoPow 64 (2 ^ j - 1) else c) 0

/-- The permutation: 24 rounds. -/
def Sponge.permute (a : Sponge) : Sponge :=
  (List.range 24).foldl (fun a i => a.theta.spread.chi ^^^ (iotaWord i).setWidth 1600) a

/-- The first `n` bytes, no more than `rate`, that the sponge of a rate and a domain byte gives for a message. -/
def spongeHash (rate domain : Nat) (m : List Byte) (n : Nat) : List Byte :=
  let blocks := m.length / rate + 1
  let padded := leNat m + domain * 2 ^ (8 * m.length) + 2 ^ (8 * rate * blocks - 1)
  let a := (List.range blocks).foldl
    (fun (a : Sponge) k => (a ^^^ BitVec.ofNat 1600 (padded / 2 ^ (8 * rate * k) % 2 ^ (8 * rate))).permute) 0
  leBytes n a.toNat

/-- The first `n` bytes, n ≤ 136, of SHAKE256 of a message. -/
def shake256 (m : List Byte) (n : Nat) : List Byte := spongeHash 136 0x1F m n

/-- SHA3-384, the hash that SPDM negotiates (R488). -/
def sha3Sum384 (m : List Byte) : List Byte := spongeHash 104 0x06 m 48

/-- First 128 bits of SHAKE256, bytes lowest first. -/
def digest128 (m : List Byte) : BitVec 128 := BitVec.ofNat 128 (leNat (shake256 m 16))

/-- First 256 bits of SHAKE256, bytes lowest first. -/
def digest256 (m : List Byte) : BitVec 256 := BitVec.ofNat 256 (leNat (shake256 m 32))

end Sys2Proof.Machine
end

