-- ==== Sys2Proof/Machine/Flags.lean ====
section
/-! DEFINITION. Flag files and queue names: setter codes, which queues a grade has, home dies, waits, interrupt sources; the part's non-finite and overflow flags, its window, and the vote that closes it. -/

namespace Sys2Proof.Machine

/-- A queue by kind (Table 5.3). -/
inductive QClass where
  | core (die pos queue : Nat)
  | lke (die queue : Nat)
  | fxe (queue : Nat)
  | cme (queue : Nat)
deriving DecidableEq, Repr

/-- The queue that a setter code names; the host, the supervisor and reserved codes name none (Table 5.3). -/
def qClass (c : Nat) : Option QClass :=
  if c < 0x400 then
    if c % 128 < 0x44 then some (.core (c / 128) (c % 128 / 4) (c % 4))
    else if c % 128 < 0x4C then some (.lke (c / 128) (c % 128 - 0x44))
    else none
  else if c < 0x440 then some (.fxe (c - 0x400))
  else if c < 0x444 then some (.cme (c - 0x440))
  else none

/-- Setter codes of the host and the supervisor (Table 5.3). -/
def hostCode : Nat := 0x47E
@[inherit_doc hostCode] def supervisorCode : Nat := 0x47F

/-- The setter code is reserved (R154 check 5). -/
def reservedSetter (c : Nat) : Bool := (qClass c).isNone && decide (c ≠ hostCode ∧ c ≠ supervisorCode)

/-- The spare of a die serves a position: its slice port has been switched (R152, R558). -/
def State.promoted (s : State) (die : Nat) : Bool := s.promotedAt.any fun p => p.1 == die

/-- The queue is absent in the grade, or is a spare code of a die whose spare has been promoted (R152, R154). -/
def State.absent (s : State) (c : Nat) : Bool :=
  match qClass c with
  | some (.core d p _) => (s.grade == .psn8112 && (p == 14 || p == 15)) || (p == 16 && s.promoted d)
  | _ => false

/-- Global index of the core that serves a position (R21, R152). -/
def State.coreAt (s : State) (die pos : Nat) : Nat :=
  if s.promotedAt.contains (die, pos) then die * 17 + 16 else die * 17 + pos

/-- Power state of a core (Table 12.11): 0 Run, 1 Lull, 2 Deep Lull, 3 absent or retired. -/
def State.corePwr (s : State) (core : Nat) : Nat := s.f F.corePwrDState (core / 17) / 4 ^ (core % 17) % 4

/-- Global index of the position a setter code lies in; 0xFF for queues outside the cores. -/
def coreOf (c : Nat) : Nat :=
  match qClass c with
  | some (.core d p _) => d * 17 + p
  | _ => 0xFF

/-- Compute die whose flag file a queue uses (R150, R373). -/
def State.homeDie (s : State) (c : Nat) : Nat :=
  match qClass c with
  | some (.core d _ _) => d
  | some (.lke d _) => d
  | some (.fxe n) => s.f F.fxeBindNDie n
  | some (.cme n) => Config.cmeDie s.boot.config n % 8
  | none => 0

/-- Interrupt source of a queue (Table 16.6). -/
def queueSource (c : Nat) : Nat :=
  match qClass c with
  | some (.core d p q) => 4 * (d * 17 + p) + q
  | some (.lke d q) => 544 + 8 * d + q
  | some (.fxe n) => 608 + n
  | some (.cme n) => 672 + n
  | none => 0

/-- First opcode of the range that a queue accepts beside the common ones, and its width (Table 5.1). -/
def engineRange (c : Nat) : Nat × Nat :=
  match qClass c with
  | some (.core _ _ 0) => (0x20, 16)
  | some (.core _ _ 1) => (0x30, 16)
  | some (.core _ _ 2) => (0x40, 16)
  | some (.core _ _ _) => (0x10, 16)
  | some (.lke _ _) => (0x50, 16)
  | some (.fxe _) => (0x60, 32)
  | some (.cme _) => (0x80, 16)
  | none => (0, 0)

/-- The queue is one of a core's four. -/
def isCoreQueue (c : Nat) : Bool := match qClass c with | some (.core _ _ _) => true | _ => false

/-! ### Flags (R169 to R171) -/

/-- Value of a flag of a compute die. -/
def State.flag (s : State) (die i : Nat) : BitVec 16 := Store.get (fun _ => 0) s.flags (die * 4096 + i)

/-- Adds to a flag, modulo 2^16 (R169). -/
def State.flagAdd (s : State) (die i n : Nat) : State :=
  { s with flags := Store.set (fun _ => 0) id s.flags (die * 4096 + i) (s.flag die i + BitVec.ofNat 16 n) }

/-- Effective value of a wait (R170). -/
def waitTarget (value bias it wstep : Nat) : Nat := (value + bias + it * wstep) % 2 ^ 16

/-- The wait is reached (R170). -/
def waitReached (flag : BitVec 16) (target : Nat) : Bool := decide ((flag - BitVec.ofNat 16 target).toNat < 0x8000)

/-! ### Queue state (Table 5.4) -/

/-- STATE of a queue. -/
def State.qState (s : State) (q : Nat) : Nat := s.f F.queueQStatusState q

/-- STATE codes. -/
def qStopped : Nat := 0
@[inherit_doc qStopped] def qRunning : Nat := 1
@[inherit_doc qStopped] def qWaiting : Nat := 2
@[inherit_doc qStopped] def qHeld : Nat := 3
@[inherit_doc qStopped] def qHalted : Nat := 4

/-- What a queue holds beside its registers. -/
def State.queue (s : State) (q : Nat) : QueueRt := assoc {} s.queues q

/-- The state with a queue's record changed. -/
def State.setQueue (s : State) (q : Nat) (r : QueueRt) : State := { s with queues := assocSet {} s.queues q r }

/-- The queue enters a state; LKE_STATUS.HALTED follows (Table 7.13). -/
def State.enter (s : State) (q st : Nat) : State :=
  let s := s.fset F.queueQStatusState st q
  match qClass q with
  | some (.lke d n) =>
    let h := s.f F.lkeStatusHalted d
    let others := h - h / 2 ^ n % 2 * 2 ^ n
    s.fset F.lkeStatusHalted (others + if st = qHalted then 2 ^ n else 0) d
  | _ => s

/-- The head entry no longer waits: QUEUE_q_WAIT shows no wait (Table 5.20, log entry 44). -/
def State.endWait (s : State) (q : Nat) : State := s.wr ⟨.queueQWait, q, 0⟩ 0

/-- A refused command or ignored write counts in BAD_CMD. -/
def State.badCmd (s : State) (q : Nat) : State := s.fadd F.queueQStatusBadCmd 1 q

/-- Entries of a queue in execution. -/
def State.execsOf (s : State) (q : Nat) : List Exec := s.execs.filter fun x => x.q == q

/-- EXEC shows whether an entry is executing (Table 5.19). -/
def State.showExec (s : State) (q : Nat) : State := s.fset F.queueQStatusExec (if (s.execsOf q).isEmpty then 0 else 1) q

/-! ### Members and committees (R283, R367, R368) -/

/-- Member states. -/
def memberNone : Nat := 0
@[inherit_doc memberNone] def memberLive : Nat := 1
@[inherit_doc memberNone] def memberLost : Nat := 2

/-- Member roles. -/
def roleJob : Nat := 0
@[inherit_doc roleJob] def roleSpare : Nat := 1
@[inherit_doc roleJob] def roleKeeper : Nat := 2
@[inherit_doc roleJob] def roleIdle : Nat := 3

/-- Fields of a part's member entry. -/
def State.memberState (s : State) (p : Nat) : Nat := s.led (memberAt p) 1
@[inherit_doc State.memberState] def State.memberRole (s : State) (p : Nat) : Nat := s.led (memberAt p + 1) 1
@[inherit_doc State.memberState] def State.memberSite (s : State) (p : Nat) : Nat := s.led (memberAt p + 2) 1
@[inherit_doc State.memberState] def State.memberFlags (s : State) (p : Nat) : Nat := s.led (memberAt p + 3) 1
@[inherit_doc State.memberState] def State.memberSince (s : State) (p : Nat) : Nat := s.led (memberAt p + 4) 4
@[inherit_doc State.memberState] def State.memberId (s : State) (p : Nat) : Nat := s.led (memberAt p + 8) 8

/-- Current members in ascending part number (R368). -/
def State.memberParts (s : State) : List Nat := (s.listed (memberAt 0) 16 65536).filter fun p => s.isMember p

/-- Members of a step: ROLE JOB or SPARE (R368). -/
def State.stepMembers (s : State) : List Nat := s.memberParts.filter fun p => decide (s.memberRole p ≤ roleSpare)

/-- Committee of the step: its three lowest members, the lowest leading (R283). -/
def State.committee (s : State) : List Nat := s.stepMembers.take 3

/-- Committee of a hall-wide vote (R368). -/
def State.hallCommittee (s : State) : List Nat := s.memberParts.take 3

/-! ### The part's window (R306 to R311) -/

/-- The part is in generation phase. -/
def State.generation (s : State) : Bool := s.fb F.stepStatusGen

/-- A job runs on this part. -/
def State.jobRuns (s : State) : Bool := decide (3 ≤ s.f F.jobStatusState)

/-- A step is in progress: 1 running to 5 applying (Table 8.13). -/
def State.stepRuns (s : State) : Bool := decide (s.f F.stepStatusState ≠ 0) && (s.f F.stepStatusState != 5 || s.step.begun)

/-- An event that sets the non-finite flag; in generation phase it is only counted (R307, R308). -/
def State.nonfinite (s : State) : State :=
  let s := s.fadd F.numStatusNfEvents
  if s.generation then s else s.fset F.numStatusNf 1

/-- Adds `n` to place `k` of a list of four. -/
def addAt (l : List Nat) (k n : Nat) : List Nat := l.mapIdx fun i x => if i = k then x + n else x

/-- Roundings of a final run into a format: the window's counts and the overflow flag (R307, R311). -/
def State.tallyWindow (s : State) (f : Fmt) (t : Tally) : State :=
  let w := s.step.window
  let s := { s with step := { s.step with window :=
    ⟨addAt w.rounded f.code t.rounds, addAt w.ovf f.code t.ovf, addAt w.van f.code t.van⟩ } }
  if t.ovf = 0 ∨ 4 ≤ f.code then s
  else
    let o := s.f F.numStatusOvf
    s.fset F.numStatusOvf (if o / 2 ^ f.code % 2 = 1 then o else o + 2 ^ f.code)

/-- The logical shard of the job that this part holds: its first place in the shard map (R267, R366). -/
def State.shards (s : State) : List Nat :=
  (List.range (Config.jobLayout s.boot.job).1).filter fun k => s.led (0x03100000 + 2 * k) 2 = s.me

/-- Watch entries in effect for a tensor (R313, R314). -/
def State.watchers (s : State) (tensor : Nat) : List Nat :=
  (List.range 256).filter fun n =>
    s.fb F.numWatchNCfgValid n && decide (s.f F.numWatchNRangeTensorLo n ≤ tensor ∧ tensor ≤ s.f F.numWatchNRangeTensorHi n) &&
      s.shards.any fun k => decide (s.f F.numWatchNCfgShLo n ≤ k ∧ k ≤ s.f F.numWatchNCfgShHi n)

/-- A sum of squares that stops at 2^64 − 1 and tells it (R314). -/
def satAdd (a b : Nat) : Nat × Bool := if 2 ^ 64 - 1 < a + b then (2 ^ 64 - 1, true) else (a + b, false)

/-- OR of two flag numbers. -/
def orNat (a b : Nat) : Nat := Nat.lor a b

/-- floor(x² / 2^qexp) (R314). -/
def squareUnits (m : Nat) (e qexp : Int) : Nat :=
  let d := 2 * e - qexp
  if 0 ≤ d then m * m * 2 ^ d.toNat else m * m / 2 ^ (-d).toNat

/-- One element added to a layer's accumulators (R314). -/
def watchLayer (l : Layer) (hallWide : Bool) (qexp : Int) (x : Val) : Layer :=
  match x with
  | .nan | .inf _ => { l with flags := orNat l.flags 2 }
  | .fin _ m e =>
    let q := squareUnits m e qexp
    if hallWide then
      let (t, sat) := satAdd l.globalSq q
      { l with globalSq := t, elems := l.elems + 1, zeros := l.zeros + if m = 0 then 1 else 0,
               flags := orNat l.flags (if sat then 1 else 0) }
    else
      let (t, sat) := satAdd l.localSq q
      { l with localSq := t, lparts := 1, flags := orNat l.flags (if sat then 1 else 0) }

/-- A layer entry with nothing counted. -/
def emptyLayer (n : Nat) : Layer := ⟨n, 0, 0, 0, 0, 0, 0⟩

/-- The list of layers with one changed, made if it is new. -/
def updateLayer (l : List Layer) (n : Nat) (f : Layer → Layer) : List Layer :=
  if l.any (·.layer == n) then updateAll l (·.layer == n) f else l ++ [f (emptyLayer n)]

/-- Two's-complement value of a byte. -/
def signed8 (b : Nat) : Int := if b < 128 then b else (b : Int) - 256

/-- Elements that a final run writes into a tensor, counted by the watch entries in effect (R313, R314). -/
def State.watch (s : State) (tensor : Nat) (vals : List Val) : State :=
  (s.watchers tensor).foldl (fun t n =>
    let add (l : Layer) : Layer :=
      vals.foldl (fun l x => watchLayer l (s.fb F.numWatchNCfgKind n) (signed8 (s.f F.numWatchNCfgQexp n)) x) l
    let layers := updateLayer t.step.layers (s.f F.numWatchNCfgLayer n) add
    { t with step := { t.step with layers := layers } }) s

/-! ### The step in progress -/

/-- This part leads the step in progress; none leads in Hove-to (R436). -/
def State.leads (s : State) : Bool := s.stepRuns && !s.inHove && s.committee.contains s.me && s.f F.stepStatusLeader == s.me

/-- START and D of the step in progress (R319). -/
def State.stepStart (s : State) : Nat := s.led 0x20 8
@[inherit_doc State.stepStart] def State.stepLength (s : State) : Nat := s.led 0x28 4

/-- Tick of the step's deadline, after an extension by D (R319, R321). -/
def State.stepDue (s : State) : Nat := s.stepStart + s.stepLength * (if s.step.extended then 2 else 1)

/-! ### The gather tree (R384) -/

/-- Members of the step in a part's site, in order of part number. -/
def State.siteMembers (s : State) (p : Nat) : List Nat := s.stepMembers.filter fun q => s.memberSite q == s.memberSite p

/-- The part to which a member sends in the gather tree: position i > 0 to position (i − 1) / 16 of its site, position 0 to the leader. -/
def State.treeParent (s : State) (p : Nat) : Nat :=
  let l := s.siteMembers p
  let i := l.findIdx (· == p)
  if i = 0 then s.f F.stepStatusLeader else l.getD ((i - 1) / 16) 0

/-- The way of a member's vote up the tree, itself first; `n` bounds its length. -/
def State.treePath (s : State) : Nat → Nat → List Nat
  | 0, _ => []
  | n + 1, p => if p = s.f F.stepStatusLeader then [p] else p :: s.treePath n (s.treeParent p)

/-- Members whose votes pass through a part: positions have at most 16^4 places under them in four levels. -/
def State.treeBelow (s : State) (p : Nat) : List Nat := s.stepMembers.filter fun q => (s.treePath 6 q).contains p

/-- Members that a part sends to when messages travel down the tree. -/
def State.treeChildren (s : State) (p : Nat) : List Nat :=
  s.stepMembers.filter fun q => q != p && q != s.f F.stepStatusLeader && s.treeParent q == p

/-- Every flow that this part has with a member has FAILED (R347). -/
def State.flowDead (s : State) (p : Nat) : Bool :=
  let l := (s.flows.map (·.1)).filter fun f => s.f F.flowFStatusPeer f == p && !s.fb F.flowFStatusFeeder f
  !l.isEmpty && l.all fun f => s.f F.flowFStatusState f == 4

/-- Where this part sends up the tree: the leader to itself, any other to its parent, to its grandparent where the flow to the parent has failed, and from position 0 to the next committee member where the flow to the leader has (R384). -/
def State.treeUp (s : State) : Nat :=
  let lead := s.f F.stepStatusLeader
  let p := s.treeParent s.me
  if s.me = lead then lead
  else if !s.flowDead p then p
  else if p = lead then (s.committee.find? fun q => decide (lead < q)).getD lead
  else s.treeParent p

/-- Where this part sends a decision down the tree: to its children, and to the children of one that cannot be reached or is reported in Hove-to; `n` bounds the depth (R384; log entry 118). -/
def State.treeDown (s : State) : Nat → Nat → List Nat
  | 0, _ => []
  | n + 1, p => (s.treeChildren p).flatMap fun q => q :: if s.flowDead q || s.memberFlags q % 2 == 1 then s.treeDown n q else []

/-! ### The part's vote (R282, R283, R306, R315) -/

/-- A layer entry with the sums of another (R315). -/
def addLayer (a b : Layer) : Layer :=
  let x := satAdd a.localSq b.localSq
  let y := satAdd a.globalSq b.globalSq
  { a with localSq := x.1, globalSq := y.1, elems := a.elems + b.elems, zeros := a.zeros + b.zeros, lparts := a.lparts + b.lparts
           flags := orNat (orNat a.flags b.flags) (if x.2 || y.2 then 1 else 0) }

/-- Sums of layer entries, one entry for each layer. -/
def sumLayers (l : List Layer) : List Layer :=
  l.foldl (fun a x => updateLayer a x.layer fun y => addLayer y { x with layer := y.layer }) []

/-- Entry of a unit in a vote (Table 8.5). -/
def unitEntry (u : CUnit) : VoteUnit := ⟨u.table, u.shard, u.dense, u.copy, u.count, u.digest⟩

/-- The vote this part would send: header flags of the window that closes and one entry for each unit of the step (R282, R306). -/
def State.makeVote (s : State) (abort : Bool) : Vote where
  step := s.f F.stepEpochEpoch
  part := s.me
  abort := abort
  flags := s.f F.numStatusNf + 2 * s.f F.numStatusOvf
  units := (s.units.filter fun u => u.step == s.f F.stepEpochEpoch && (u.state == .opened || u.state == .closed)).map unitEntry

/-- A node sends the votes that it holds on, unit entries unchanged and layer entries combined, once it holds those of every member below it, at an ABORT, and from the deadline on; the leader takes its own vote at once (R384; log entry 118). -/
def State.pumpVotes (s : State) : State :=
  let held := s.step.gather.flatMap fun (m : VoteMsg) => m.votes
  let parts := s.step.gathered ++ held.map (·.part)
  if !held.isEmpty && (s.me == s.f F.stepStatusLeader || (s.treeBelow s.me).all parts.contains || held.any (·.abort) || decide (s.stepDue ≤ s.now)) then
    { s with step := { s.step with gather := [], gathered := parts } }.emit
      (Out.vote s.treeUp (VoteMsg.mk held (sumLayers (s.step.gather.flatMap fun (m : VoteMsg) => m.layers))))
  else s

/-- Sends the part's vote up the gather tree and closes its window (R282, R283, R306). -/
def State.sendVote (s : State) (abort : Bool) : State :=
  let v := s.makeVote abort
  let s := { s with step := { s.step with
    voted := some (v, s.step.layers), gather := s.step.gather ++ [VoteMsg.mk [v] s.step.layers], layers := []
    closed := s.step.window, closedWiden := s.step.widens, widens := 0
    window := ⟨[0, 0, 0, 0], [0, 0, 0, 0], [0, 0, 0, 0]⟩ } }.pumpVotes
  let s := if s.f F.stepStatusState = 5 then s else s.fset F.stepStatusState 2
  ((s.fset F.numStatusNf 0).fset F.numStatusOvf 0).fset F.numStatusWiden 0

/-- The part votes ABORT as soon as a cause arises, once, while its step is in progress (R282). -/
def State.abortVote (s : State) : State :=
  let open_ := s.f F.stepStatusState == 1 || (s.f F.stepStatusState == 5 && s.step.begun)
  if open_ && s.step.voted.isNone then s.sendVote true else s

/-- Inputs of a rounding of the running job and step; generation draws by its round count; a part with no job takes the seed of its configuration image and its count of applies (R74, R232, R257, R298). -/
def State.site (s : State) (tensor index code : Nat) (node : Nat := 0) : Site where
  seed := if s.jobRuns then (Config.jobLayout s.boot.job).2.2.1.toNat else (Config.keeperSection s.boot.config).1.toNat
  step := if !s.jobRuns then s.keeperApplies else if s.generation then s.led 0x18 8 else s.f F.stepEpochEpoch
  tensor := tensor
  index := index % 2 ^ 48
  code := code
  node := node

end Sys2Proof.Machine
end

