-- ==== Sys2Proof/Machine/Operands.lean ====
section
/-! DEFINITION. Operands: fields of entries, tensor descriptors and views, directory entries, the hot-set map's frames, and loads and stores that keep a Castling unit's journal and the pending lines of moving rows. -/

namespace Sys2Proof.Machine

/-! ### Entry fields (Table 5.2 and the body tables) -/

/-- Bits [hi:lo] of an entry. -/
def bitsOf (e : BitVec 256) (hi lo : Nat) : Nat := e.toNat / 2 ^ lo % 2 ^ (hi - lo + 1)

/-- One bit of an entry. -/
def bitOf (e : BitVec 256) (i : Nat) : Bool := e.getLsbD i

/-- Header fields (Table 5.2). -/
def opcodeOf (e : BitVec 256) : Nat := bitsOf e 255 248
@[inherit_doc opcodeOf] def waitEn (e : BitVec 256) : Bool := bitOf e 247
@[inherit_doc opcodeOf] def setEn (e : BitVec 256) : Bool := bitOf e 246
@[inherit_doc opcodeOf] def eventBit (e : BitVec 256) : Bool := bitOf e 245
@[inherit_doc opcodeOf] def waitFlag (e : BitVec 256) : Nat := bitsOf e 244 233
@[inherit_doc opcodeOf] def waitValue (e : BitVec 256) : Nat := bitsOf e 232 217
@[inherit_doc opcodeOf] def waitSetter (e : BitVec 256) : Nat := bitsOf e 216 206
@[inherit_doc opcodeOf] def setFlag (e : BitVec 256) : Nat := bitsOf e 205 194
@[inherit_doc opcodeOf] def setInc (e : BitVec 256) : Nat := bitsOf e 193 192 + 1

/-- A 32-byte entry from its bytes, lowest first. -/
def entryOf (l : List Byte) : BitVec 256 := BitVec.ofNat 256 (leNat l)

/-- Every bit of a list of fields of an entry is zero. -/
def zeroBits (e : BitVec 256) (l : List (Nat × Nat)) : Bool := l.all fun f => decide (bitsOf e f.1 f.2 = 0)

/-- A parameter register as an entry read it in its start cycle (R155). -/
def Exec.param (x : Exec) (i : Nat) : Nat := (x.params.getD i 0).toNat

/-- Signed value of a field of `w` bits. -/
def signedField (w v : Nat) : Int := if v < 2 ^ (w - 1) then v else (v : Int) - 2 ^ w

/-! ### Directory entries (Table 7.1) -/

/-- A directory entry. -/
structure Dir where
  state : Nat
  repl : Nat
  pitch : Nat
  fmt : Nat
  rowlen : Nat
  blk : Nat
  nextValid : Bool
  shards : Nat
  shard0 : Nat
  rows : Nat
  version : Nat
  base : Nat
  nextVersion : Nat
  nextBase : Nat
  oldVersion : Nat
  oldBase : Nat
  oldReleases : Nat
  gmapBase : Nat
  gsl : Nat
  oldValid : Bool
deriving DecidableEq, Repr

/-- The entry that a 512-bit word spells (Table 7.1). -/
def dirOf (v : Nat) : Dir :=
  let f (hi lo : Nat) : Nat := v / 2 ^ lo % 2 ^ (hi - lo + 1)
  { state := f 511 508, repl := f 507 506, pitch := f 505 504, fmt := f 503 500, rowlen := f 499 493 + 1
    blk := f 492 489, nextValid := f 488 488 = 1, shards := f 487 472 + 1, shard0 := f 471 456, rows := f 455 416
    version := f 415 384, base := f 383 340, nextVersion := f 295 264, nextBase := f 263 220
    oldVersion := f 219 188, oldBase := f 187 144, oldReleases := f 143 128, gmapBase := f 127 84, gsl := f 83 64
    oldValid := f 63 63 = 1 }

/-- The 512-bit word of an entry; reserved bits are zero. -/
def dirWord (d : Dir) : Nat :=
  let b (x : Bool) : Nat := if x then 1 else 0
  d.state * 2 ^ 508 + d.repl * 2 ^ 506 + d.pitch * 2 ^ 504 + d.fmt * 2 ^ 500 + (d.rowlen - 1) * 2 ^ 493 + d.blk * 2 ^ 489 +
  b d.nextValid * 2 ^ 488 + (d.shards - 1) * 2 ^ 472 + d.shard0 * 2 ^ 456 + d.rows * 2 ^ 416 + d.version * 2 ^ 384 +
  d.base * 2 ^ 340 + d.nextVersion * 2 ^ 264 + d.nextBase * 2 ^ 220 + d.oldVersion * 2 ^ 188 + d.oldBase * 2 ^ 144 +
  d.oldReleases * 2 ^ 128 + d.gmapBase * 2 ^ 84 + d.gsl * 2 ^ 64 + b d.oldValid * 2 ^ 63

/-- Ledger offset of a directory entry (R217). -/
def dirAt (table : Nat) : Nat := 0x01000000 + table * 64

/-- The reads of a directory entry that a command makes, with what each word's decoding does (R35, R189). -/
def State.readDir (s : State) (table : Nat) : State := s.readLed (dirAt table) 64

/-- The directory entry of a table. -/
def State.dir (s : State) (table : Nat) : Dir := dirOf (s.led (dirAt table) 64)

/-- A CME write of a directory entry. -/
def State.setDir (s : State) (table : Nat) (d : Dir) : State := s.setLed (dirAt table) 64 (dirWord d)

/-- Row slot size (Table 7.1). -/
def Dir.slot (d : Dir) : Nat := 64 * 2 ^ d.pitch

/-- Home shard of a row (R218). -/
def Dir.shardOf (d : Dir) (r : Nat) : Nat := r / 2 ^ d.blk % d.shards

/-- Local slot of a row (R218). -/
def Dir.localOf (d : Dir) (r : Nat) : Nat := r / 2 ^ d.blk / d.shards * 2 ^ d.blk + r % 2 ^ d.blk

/-- Row index of a local slot of a shard: the inverse of R218. -/
def Dir.rowOf (d : Dir) (shard l : Nat) : Nat := (l / 2 ^ d.blk * d.shards + shard) * 2 ^ d.blk + l % 2 ^ d.blk

/-- Hall part number that holds a logical shard; 0xFFFF for none (Table 11.1). -/
def State.holder (s : State) (k : Nat) : Nat := s.led (0x03100000 + 2 * k) 2

/-- Part that holds a copy of a table's shard (R219). -/
def State.copyHolder (s : State) (d : Dir) (shard copy : Nat) : Nat := s.holder (d.shard0 + shard + copy * d.shards)

/-- This part holds some copy of a table's shard. -/
def State.holds (s : State) (d : Dir) (shard : Nat) : Bool :=
  (List.range (d.repl + 1)).any fun k => s.copyHolder d shard k == s.me

/-- SRAM space offset of hot frame f (R241). -/
def State.frameAt (s : State) (f : Nat) : Nat :=
  let frames := s.f F.lkeCfgHotFrames
  f % 8 * 0x100000000 + f / 8 % 16 * 0x10000000 + 0x10000000 - frames / 128 * 0x800 + f / 128 * 0x800

/-! ### Units, journal and pending lines -/

/-- Bytes [a, a+n) and [b, b+m) share a byte. -/
def overlaps (a n b m : Nat) : Bool := decide (a < b + m ∧ b < a + n)

/-- The unit covers some byte of a granule. -/
def CUnit.covers (u : CUnit) (b : Bank) (granule : Nat) : Bool :=
  u.ranges.any fun r => r.1 == b && overlaps r.2.1 r.2.2 granule 256

/-- The state in which readers take a unit: the one the entry in hand took at its start, else the present one (R279). -/
def State.unitSeen (s : State) (u : CUnit) : UnitState :=
  match s.seen.find? fun x => x.1 == u.slot && x.2.1 == u.step with
  | some x => x.2.2
  | none => u.state

/-- The unit that is not RETIRED and covers a granule, with its journal record of it. -/
def State.unitOf (s : State) (b : Bank) (granule : Nat) : Option (CUnit × Option JRec) :=
  (s.units.find? fun u => u.state != .retired && u.covers b granule).map fun u =>
    (u, u.recs.find? fun r => r.bank == b && r.granule == granule)

/-- HBM offset of a journal record (R276). -/
def State.journalAt (s : State) (i : Nat) : Nat := s.f F.castleJrnlBase + i * 576

/-- Where a reader of a word finds it: in place, or in the half of its journal record that Table 8.4 names. The sweep of an open unit reads it in place; a VXE entry is taken for an OPEN unit's own sweep, as no field of an entry names its unit (R278, log entry 115). -/
def State.viewWord (s : State) (sweep : Bool) (b : Bank) (w : Nat) : Bank × Nat :=
  let granule := 8 * w / 256 * 256
  match s.units.find? fun u => s.unitSeen u != .retired && u.covers b granule with
  | some u =>
    if sweep && s.unitSeen u == .opened then (b, w)
    else
      match u.recs.find? fun r => r.bank == b && r.granule == granule with
      | some r => (.hbm, (s.journalAt r.index + (if s.unitSeen u = .applyingNew then 320 else 64)) / 8 + (w - granule / 8))
      | none => (b, w)
  | none => (b, w)

/-- The unit states that an entry reads under: those it took at its start, and OPEN, in which readers see the old values, for a unit opened since (R279). -/
def State.taken (s : State) (x : Exec) : List (Nat × Nat × UnitState) :=
  x.units ++ (s.units.filter fun u => u.state != .retired && !(x.units.any fun p => p.1 == u.slot && p.2.1 == u.step)).map fun u => (u.slot, u.step, .opened)

/-- Runs an entry's reads under the unit states it took at its start (R279). -/
def State.asSeen (s : State) (x : Exec) (f : State → State) : State := { f { s with seen := s.taken x } with seen := [] }

/-- The unit states that the entries started in the coming tick take: a change takes effect at a tick edge (R279). -/
def State.markUnits (s : State) : State :=
  { s with step := { s.step with
    edgeUnits := (s.units.filter fun u => u.state != .retired).map fun u => (u.slot, u.step, u.state), edgeCommitted := s.step.committed } }

/-- Loads of words through the unit views. -/
def State.viewWords (s : State) (sweep : Bool) (b : Bank) : List Nat → State × Option (List Word)
  | [] => (s, some [])
  | w :: ws =>
    let p := s.viewWord sweep b w
    let (s, v) := s.fetch1 p.1 p.2
    let (s, r) := s.viewWords sweep b ws
    (s, match v, r with | some v, some r => some (v :: r) | _, _ => none)

/-- Load of a run of bytes as a reader sees it. -/
def State.load (s : State) (sweep : Bool) (b : Bank) (off n : Nat) : State × Option (List Byte) :=
  let (s, r) := s.viewWords sweep b (wordsOf off n)
  (s, r.map fun l => sliceAt (l.flatMap fun v => leBytes 8 v.toNat) (off % 8) n)

/-- A unit fails, which makes the part vote ABORT at once (R277, R281, R282). -/
def State.failUnit (s : State) (slot : Nat) : State :=
  State.abortVote { s with units := updateAll s.units (fun u => u.slot == slot && u.state != .retired) fun u => { u with failed := true } }

/-- Copies the words of a granule into a journal half, poisoned where they cannot be read (R277); tells whether any was. -/
def State.copyWords (s : State) (b : Bank) : List (Nat × Nat) → State × Bool
  | [] => (s, false)
  | (src, dst) :: l =>
    let (s, v) := s.fetchWord b src
    let s := match v with
      | some v => s.setWord .hbm dst v
      | none => s.setWord .hbm dst (s.word b src) true
    let (s, p) := s.copyWords b l
    (s, p || v.isNone)

/-- Pairs of words of two 256-byte places. -/
def granuleWords (src dst : Nat) : List (Nat × Nat) := (List.range 32).map fun i => (src / 8 + i, dst / 8 + i)

/-- Journal record of a granule's old value before the unit's first write to it; refused where the journal is full (R275 to R277). -/
def State.journal (s : State) (u : CUnit) (b : Bank) (granule : Nat) : State × Bool :=
  if s.f F.castleJrnlSize * 0x1000000 < (s.jcount + 1) * 576 then
    ((s.failUnit u.slot).fadd F.castleStatusJfull, false)
  else
    let i := s.jcount
    let at_ := s.journalAt i
    let (s, poisoned) := s.copyWords b (granuleWords granule (at_ + 64))
    let head := leBytes 8 u.step ++ leBytes 8 (hallOf b granule) ++ [BitVec.ofNat 8 u.slot, if poisoned then 2 else 0] ++
      List.replicate 46 0
    let s := (s.mergeWords .hbm (wordsWith at_ head)).1
    let units := updateAll s.units (fun v : CUnit => v.slot == u.slot && v.state == UnitState.opened)
      fun v => { v with recs := v.recs ++ [⟨b, granule, i, false⟩] }
    let s := { s with jcount := i + 1, units := units }
    (s.fadd F.castleStatusRecords, true)

/-- Tables with a directory entry that is not all zero. -/
def State.listedTables (s : State) : List Nat := s.listed (dirAt 0) 64 65536

/-- Local slots of one shard of a table (R218). -/
def Dir.slots (d : Dir) : Nat := (d.rows + 2 ^ d.blk * d.shards - 1) / (2 ^ d.blk * d.shards) * 2 ^ d.blk

/-- The granule holds model state of the running job: rows of a table in HBM or in a hot frame, or a state tensor of a dense shard (R272). -/
def State.modelState (s : State) (b : Bank) (granule : Nat) : Bool :=
  Config.denseState s.boot.job (hallOf b granule) ||
    match b with
    | .hbm => s.listedTables.any fun t => let d := s.dir t; [1, 2].contains d.state && overlaps d.base (d.slots * d.slot) granule 256
    | .sram => s.ledgerWords.any fun w =>
        let f := w - 0x00800000
        decide (0x00800000 ≤ w ∧ f < s.f F.lkeCfgHotFrames) && decide (s.led (8 * w) 8 % 8 ≠ 0) && overlaps (s.frameAt f) 0x800 granule 256
    | _ => false

/-- Prepares a granule for a write: an open unit makes its record; a sweep write to a unit that is not open, or to model state that no open unit covers, is refused (R272, R275; log entry 116). -/
def State.openGranule (s : State) (sweep : Bool) (b : Bank) (granule : Nat) : State × Bool :=
  match s.unitOf b granule with
  | none => (s, !(sweep && s.jobRuns && !s.generation && s.modelState b granule))
  | some (u, r) =>
    if u.state = .opened then (if r.isSome then (s, true) else s.journal u b granule)
    else (s, !sweep)

/-- Prepares several granules in turn; the first refusal ends it. -/
def State.openGranules (s : State) (sweep : Bool) (b : Bank) : List Nat → State × Bool
  | [] => (s, true)
  | g :: gs =>
    let (s, ok) := s.openGranule sweep b g
    if ok then s.openGranules sweep b gs else (s, false)

/-- Granules that a run of bytes touches. -/
def granulesOf (off n : Nat) : List Nat :=
  if n = 0 then [] else (List.range ((off + n - 1) / 256 - off / 256 + 1)).map fun i => (off / 256 + i) * 256

/-- Place of a row's copies while its run moves: the HBM slot and the frame's (R241, R242). -/
def hbmSlot (d : Dir) (l : Nat) : Nat := d.base + l * d.slot

@[inherit_doc hbmSlot] def State.frameSlot (s : State) (d : Dir) (m : Move) (l : Nat) : Nat :=
  s.frameAt m.frame + (l - m.first) * d.slot

/-- After a write, the pending lines of the rows in motion whose old copy it touched hold those rows' latest values; a row with a word that cannot be read has none, and its flip finds the same word (R190, R246, R248). -/
def State.pendingLines (s : State) (b : Bank) (off n : Nat) : State :=
  { s with moves := s.moves.map fun m =>
      let d := s.dir m.table
      (List.range m.run).foldl (fun m i =>
        let l := m.first + i
        let place : Bank × Nat := if m.out then (.sram, s.frameSlot d m l) else (.hbm, hbmSlot d l)
        if place.1 = b ∧ overlaps off n place.2 d.slot then
          let owner := (s.unitOf b (place.2 / 256 * 256)).map fun u => u.1.slot
          { m with lines := (m.lines.filter fun x => x.1 ≠ l) ++
              match (s.readBytes b place.2 d.slot).2 with | some v => [(l, v, owner)] | none => [] }
        else m) m }

/-- An open unit that covers a run of bytes notes that it was written (R295). -/
def State.noteWrite (s : State) (b : Bank) (off n : Nat) : State :=
  let mine (u : CUnit) : Bool := u.state == .opened && u.ranges.any fun r => r.1 == b && overlaps r.2.1 r.2.2 off n
  { s with units := updateAll s.units mine fun u => { u with writes := u.writes ++ [(b, off, n)] } }

/-- Store of a run of bytes with its journal records and pending lines; the Boolean tells that it landed. -/
def State.store (s : State) (sweep : Bool) (b : Bank) (off : Nat) (l : List Byte) : State × Bool :=
  let (s, ok) := s.openGranules sweep b (granulesOf off l.length)
  if ok then
    let (s, ok) := s.writeBytes b off l
    ((s.noteWrite b off l.length).pendingLines b off l.length, ok)
  else (s, false)

/-- An engine's reach: the core whose tiles it sees, the banks it may name, and whether it reads and writes as a unit's sweep does (VXE) or as any other requester. -/
structure Reach where
  core : Nat
  banks : List Bank
  sweep : Bool
deriving DecidableEq, Repr

/-- Load at a hall address; an address that R40 refuses leaves its record, and so does one of this part's registers, which no engine reads, while a bank outside the engine's reach leaves none (log entry 117). -/
def State.loadAt (s : State) (r : Reach) (a n : Nat) : State × Option (List Byte) :=
  match s.run? a n with
  | some (b, off) => if r.banks.contains b then s.load r.sweep b off n else (s, none)
  | none =>
    match s.place a with
    | .remote _ => (s, none)
    | _ => (s.addressFault a r.core, none)

/-- Store at a hall address. -/
def State.storeAt (s : State) (r : Reach) (a : Nat) (l : List Byte) : State × Bool :=
  match s.run? a l.length with
  | some (b, off) =>
    if r.banks.contains b then s.store r.sweep b off l
    else if b = .ledgerE then (s.addressFault a r.core, false) else (s, false)
  | none =>
    match s.place a with
    | .remote _ => (s, false)
    | _ => (s.addressFault a r.core, false)

/-! ### Tensor descriptors and views (Table 3.3, R58, R86, R115) -/

/-- A tensor descriptor with the address it was read from. -/
structure Desc where
  addr : Nat
  ebase : Nat
  obase : Nat
  lext : Nat
  epitch : Nat
  opitch : Nat
  fmt : Nat
  tile : Bool
  rsv : Nat
  row0 : Nat
  col0 : Nat
deriving DecidableEq, Repr, Inhabited

/-- The descriptor that 32 bytes spell (Table 3.3). -/
def descOf (addr : Nat) (l : List Byte) : Desc :=
  let e := entryOf l
  { addr, ebase := bitsOf e 255 192, obase := bitsOf e 191 128, lext := bitsOf e 127 96, epitch := bitsOf e 95 72
    opitch := bitsOf e 71 56, fmt := bitsOf e 55 52, tile := bitOf e 51, rsv := bitsOf e 50 48
    row0 := bitsOf e 47 24, col0 := bitsOf e 23 0 }

/-- Descriptors lie in SRAM space (R86). -/
def State.readDesc (s : State) (core a : Nat) : State × Option Desc :=
  let (s, r) := s.loadAt ⟨core, [.sram], false⟩ a 32
  (s, r.map (descOf a))

/-- The checks of R86 on a view of `n` columns: reserved bits, formats that the engine accepts, tiles in 16-bit formats only, and whole blocks where the engine writes them (R563). -/
def Desc.ok (d : Desc) (accepts : List Nat) (written : Option Nat) : Bool :=
  d.rsv == 0 && accepts.contains d.fmt && (!d.tile || d.fmt == 0 || d.fmt == 1) &&
    match written, Fmt.ofCode d.fmt with
    | some n, some f => f.block == 1 || (d.col0 % f.block == 0 && ((d.col0 + n) % f.block == 0 || d.col0 + n == d.lext))
    | _, _ => true

/-- The view of an output covers whole blocks of a format (R563). -/
def Desc.whole (d : Desc) (f : Fmt) (n : Nat) : Bool :=
  f.block == 1 || (d.col0 % f.block == 0 && ((d.col0 + n) % f.block == 0 || d.col0 + n == d.lext))

/-- Bit n of a format mask. -/
def hasFormat (mask n : Nat) : Bool := mask / 2 ^ n % 2 == 1

/-- Floating-point format codes of a mask. -/
def formatsOf (mask : Nat) : List Nat := (List.range 4).filter (hasFormat mask)

/-- A hall address names this part's SRAM space, whatever its offset. -/
def State.ownSram (s : State) (a : Nat) : Bool := (addrPart a == 0xFFFF || addrPart a == s.me) && addrSpace a == 1

/-- Format of a descriptor whose code has been checked. -/
def Desc.format (d : Desc) : Fmt := (Fmt.ofCode d.fmt).getD .u16w

/-- The planes of a view in a format are named in this part's SRAM space, or the view is a tile (R82, R122). -/
def State.planesLocal (s : State) (d : Desc) (f : Fmt) : Bool := d.tile || (s.ownSram d.ebase && (f.block == 1 || s.ownSram d.obase))

/-- A view of m rows of n columns holds them: the rows do not run into each other, and an input with pitch 0 holds one row that it broadcasts (R122, R128). Only an EPROG asks this; where rows of another command's output share bytes, they are written in order (log entry 46). -/
def Desc.spans (d : Desc) (f : Fmt) (m n : Nat) (written : Bool) : Bool :=
  let blocks := (d.col0 % f.block + n + f.block - 1) / f.block
  d.tile || m == 1 || (!written && d.epitch == 0) ||
    (decide (blocks * f.block * f.bits ≤ 8 * d.epitch) && (f.block == 1 || decide (blocks ≤ d.opitch)))

/-- Logical linear index of element (i, j) (R87, R123). -/
def Desc.index (d : Desc) (i j : Nat) : Nat := ((d.row0 + i) * d.lext + d.col0 + j) % 2 ^ 48

/-- Offset of a tile row within the tile bank (R115; view row i is tile row i, log entry 10). -/
def tileAt (core t row : Nat) : Nat := core * 0x40000 + t % 32 * 8192 + row * 128

/-- One stored row of a view as element codes with their offset bytes; EPITCH = 0 makes a row broadcast (R122). -/
def State.readRow (s : State) (r : Reach) (d : Desc) (i n : Nat) : State × Option (List (Nat × Nat)) :=
  if d.tile then
    let (s, l) := s.readBytes .tile (tileAt r.core d.ebase (if d.epitch = 0 ∧ r.sweep then 0 else i)) (2 * n)
    (s, l.map fun l => (chunksOf 2 n l).map fun c => (leNat c, 0))
  else
    let f := d.format
    let k0 := d.col0 % f.block
    let base := d.ebase + i * d.epitch
    let lo := k0 * f.bits / 8
    let hi := ((k0 + n) * f.bits + 7) / 8
    let (s, l) := s.loadAt r (base + lo) (hi - lo)
    if f.block = 1 then
      (s, l.map fun l => (chunksOf (f.bits / 8) n l).map fun c => (leNat c, 0))
    else
      let (s, o) := s.loadAt r (d.obase + (if d.epitch = 0 ∧ r.sweep then 0 else i) * d.opitch) ((k0 + n + f.block - 1) / f.block)
      (s, match l, o with
        | some l, some o =>
          some ((List.range n).map fun j =>
            let k := k0 + j
            let byte := (l.getD (k * f.bits / 8 - lo) 0).toNat
            let code := if f.bits = 4 then byte / 2 ^ (4 * (k % 2)) % 16 else byte
            (code, (o.getD (k / f.block) 0).toNat))
        | _, _ => none)

/-- Rows `i`, `i + 1`, … of a view. -/
def State.readRows (s : State) (r : Reach) (d : Desc) (n : Nat) : List Nat → State × Option (List (List (Nat × Nat)))
  | [] => (s, some [])
  | i :: is =>
    let (s, a) := s.readRow r d i n
    let (s, b) := s.readRows r d n is
    (s, match a, b with | some a, some b => some (a :: b) | _, _ => none)

/-- A view of m rows and n columns. -/
def State.readView (s : State) (r : Reach) (d : Desc) (m n : Nat) : State × Option (List (List (Nat × Nat))) :=
  s.readRows r d n (List.range m)

/-- Bytes of a row of element codes (R59). -/
def packRow (f : Fmt) (codes : List Nat) : List Byte :=
  if f.bits = 4 then (chunksOf 2 codes.length codes).map fun c => BitVec.ofNat 8 (c.getD 0 0 + 16 * c.getD 1 0)
  else codes.flatMap fun c => leBytes (f.bits / 8) c

/-- Store of one encoded row of a view in a format; the block planes begin at the view's first block (R563). -/
def State.writeRow (s : State) (r : Reach) (d : Desc) (f : Fmt) (i : Nat) (e : Encoded) : State × Bool :=
  if d.tile then s.writeBytes .tile (tileAt r.core d.ebase i) (packRow f e.codes)
  else
    let (s, a) := s.storeAt r (d.ebase + i * d.epitch) (packRow f e.codes)
    if f.block = 1 then (s, a)
    else
      let (s, b) := s.storeAt r (d.obase + i * d.opitch) (e.offsets.map fun o => BitVec.ofNat 8 o)
      (s, a && b)

/-- Store of rows from row `i` on. -/
def State.writeRows (s : State) (r : Reach) (d : Desc) (f : Fmt) : Nat → List Encoded → State × Bool
  | _, [] => (s, true)
  | i, e :: es =>
    let (s, a) := s.writeRow r d f i e
    let (s, b) := s.writeRows r d f (i + 1) es
    (s, a && b)

/-- The final format written into FMT of a descriptor (R103). -/
def State.setDescFmt (s : State) (core : Nat) (d : Desc) (f : Fmt) : State :=
  let (s, l) := s.loadAt ⟨core, [.sram], false⟩ (d.addr + 6) 1
  match l with
  | some [b] => (s.storeAt ⟨core, [.sram], false⟩ (d.addr + 6) [BitVec.ofNat 8 (b.toNat % 16 + f.code * 16)]).1
  | _ => s

/-- Store of part of an encoded row, from view column `j0` on. -/
def State.writeSegment (s : State) (r : Reach) (d : Desc) (f : Fmt) (i j0 : Nat) (e : Encoded) : State × Bool :=
  if d.tile then s.writeBytes .tile (tileAt r.core d.ebase i + 2 * j0) (packRow f e.codes)
  else
    let (s, a) := s.storeAt r (d.ebase + i * d.epitch + j0 * f.bits / 8) (packRow f e.codes)
    if f.block = 1 then (s, a)
    else
      let (s, b) := s.storeAt r (d.obase + i * d.opitch + j0 / f.block) (e.offsets.map fun o => BitVec.ofNat 8 o)
      (s, a && b)

/-- Values of a row with the number of reserved codes in it. -/
def rowValues (f : Fmt) (l : List (Nat × Nat)) : List Val × Nat :=
  let v := l.map fun c => f.decode c.1 c.2
  (v.map (·.1), (v.filter (·.2)).length)

/-- Values of an encoded row. -/
def encodedValues (f : Fmt) (e : Encoded) : List Val :=
  e.codes.mapIdx fun i c => (f.decode c (if f.block = 1 then 0 else e.offsets.getD (i / f.block) 0)).1

/-- Leaves a view without defined values, as an entry that ends ABORTED after it began to execute does (R105): each element and offset byte holds a free value (log entry 1); a row outside the part's memory leaves none. -/
def State.undefineRows (s : State) (r : Reach) (d : Desc) (f : Fmt) (n : Nat) : List Nat → State
  | [] => s
  | i :: is =>
    let blocks := if f.block = 1 then 0 else (n + f.block - 1) / f.block
    let e : Encoded :=
      { codes := (List.range n).map fun j => (Config.freeValue (s.free + j)).toNat % 2 ^ f.bits
        offsets := (List.range blocks).map fun j => (Config.freeValue (s.free + n + j)).toNat % 256 }
    let s := { s with free := s.free + n + blocks }
    let there (a k : Nat) : Bool := (s.run? a k).isSome
    let s :=
      if d.tile || (there (d.ebase + i * d.epitch) (packRow f e.codes).length && (f.block == 1 || there (d.obase + i * d.opitch) blocks)) then
        (s.writeRow r d f i e).1
      else s
    s.undefineRows r d f n is

@[inherit_doc State.undefineRows] def State.undefineView (s : State) (r : Reach) (d : Desc) (f : Fmt) (m n : Nat) : State :=
  s.undefineRows r d f n (List.range m)

/-! ### Executing entries -/

/-- The oldest entry of a queue in execution with one of the opcodes and no result yet. -/
def State.running (s : State) (q : Nat) (ops : List Nat) : Option Exec :=
  s.execs.find? fun x => x.q == q && ops.contains (opcodeOf x.entry) && x.result.isNone

/-- Files the result of an entry in execution: its status and engine field, which its completion posts. -/
def State.finish (s : State) (id : Nat) (st : Status) (engine : Nat := 0) : State :=
  { s with execs := updateAll s.execs (fun x => x.id == id) fun x => { x with result := some (st, engine) } }

/-- Global index of the core that runs a queue's entries. -/
def State.coreFor (s : State) (q : Nat) : Nat :=
  match qClass q with
  | some (.core d p _) => s.coreAt d p
  | _ => 0xFF

end Sys2Proof.Machine
end

