-- ==== Sys2Proof/Machine/Statistics.lean ====
section
/-! DEFINITION. Statistics of engines: exponent histograms, the statistics record of Table 3.5, the format ladder, and the widening log. -/

namespace Sys2Proof.Machine

/-- Histogram bin of an element (Table 3.6). -/
def histBin (h : Int) (v : Val) : Nat :=
  match v with
  | .nan | .inf _ => 31
  | .fin _ m e =>
    if m = 0 then 0
    else
      let d := Val.exponent m e - h
      if d < 0 then 1 else if 28 ≤ d then 30 else d.toNat + 2

/-- Exponent histogram, 32 counts (R98). -/
def histogram (h : Int) (l : List Val) : List Nat :=
  (List.range 32).map fun n => (l.filter fun v => histBin h v == n).length

/-- A U32 count that stops at all ones (R97). -/
def cap32 (n : Nat) : Nat := min n (2 ^ 32 - 1)

/-- Counts of a run that its statistics record shows (Table 3.5). -/
structure RunStats where
  hist : List Nat := []
  inner : Tally := {}
  out : Tally := {}
  nonfinIn : Nat := 0
  faults : Nat := 0
  elems : Nat := 0
  final : Nat := 0
  reruns : Nat := 0
  retry : Bool := false
  ovfWiden : Nat := 0
deriving DecidableEq, Repr, Inhabited

/-- The 256 bytes of a statistics record (Table 3.5). -/
def RunStats.bytes (r : RunStats) : List Byte :=
  (r.hist ++ [r.inner.ovf, r.inner.van, r.out.ovf, r.out.van, r.nonfinIn, r.faults, r.elems,
    r.final + 16 * (r.reruns % 16) + (if r.retry then 256 else 0), r.ovfWiden]).flatMap (fun n => leBytes 4 (cap32 n)) ++
  List.replicate 92 0

/-- The next rung of the format ladder: U4s, U8s, U16n, U16w (R101). -/
def nextRung : Fmt → Fmt
  | .u4s => .u8s
  | .u8s => .u16n
  | _ => .u16w

/-- A widening-log entry among those of its tick, in order of CORE, ENGINE and OUT, bits [31:21] (R310). -/
def insertWiden (e : Nat) : List Nat → List Nat
  | [] => [e]
  | a :: l => if e % 2 ^ 32 / 2 ^ 21 < a % 2 ^ 32 / 2 ^ 21 then e :: a :: l else a :: insertWiden e l

/-- One entry appended to the widening log, in its place among the entries of the tick (R309, R310). -/
def State.widenLog (s : State) (core engine out tensor : Nat) (src dst : Fmt) : State :=
  let n := s.f F.numWseqEntries
  let step := if s.generation then s.led 0x18 8 else s.f F.stepEpochEpoch
  let word := (step % 2 ^ 32) * 2 ^ 96 + tensor % 2 ^ 32 * 2 ^ 64 + s.now % 2 ^ 32 * 2 ^ 32 + core * 2 ^ 24 + engine * 2 ^ 22 +
    out * 2 ^ 21 + src.code * 2 ^ 12 + dst.code * 2 ^ 8
  let tick := insertWiden word ((s.widened.filter fun x => x.1 == s.now).map (·.2))
  let s := { s with widened := tick.map fun w => (s.now, w) }
  let s :=
    if s.fb F.numWlogEn then
      (tick.zipIdx).foldl (fun s (x : Nat × Nat) =>
        (s.store false .sram (s.f F.numWlogBase + (n + 1 - tick.length + x.2) % 2 ^ (s.f F.numWlogSz + 6) * 16) (leBytes 16 x.1)).1) s
    else s
  ({ s with step := { s.step with widens := s.step.widens + 1 } }.fset F.numWseqEntries (n + 1)).fadd F.numStatusWiden

/-- The widening-log entries of a run that climbed the ladder from one format to another. -/
def State.widenSteps (s : State) (core engine out tensor : Nat) : List (Fmt × Fmt) → State
  | [] => s
  | (a, b) :: l => (s.widenLog core engine out tensor a b).widenSteps core engine out tensor l

/-- Engine field of an MMUL's completion: the format of its last run, RERUNS and the residue-retry bit (R105). -/
def State.mxeField (s : State) (g : Nat) (x : Exec) : Nat :=
  s.f F.mxeStatusFmtOut g + 16 * (s.f F.mxeStatusRung g % 16) + if x.retried then 256 else 0

/-- The format and the re-runs of the run in progress (Table 3.9). -/
def State.showRun (s : State) (g : Nat) (f : Fmt) (reruns : Nat) : State :=
  (s.fset F.mxeStatusRung reruns g).fset F.mxeStatusFmtOut f.code g

end Sys2Proof.Machine
end

