-- ==== Sys2Proof/Machine/Vector.lean ====
section
/-! DEFINITION. The vector engine (chapter Vector Engine and Tile Registers): EPROG, CVT, DRUN, VTEST, group checks and reduced mode. -/

namespace Sys2Proof.Machine

/-! ### Element programs -/

/-- A micro-operation (Table 4.4). -/
structure MicroOp where
  op : Nat
  dst : Nat
  sa : Nat
  sb : Nat
  sc : Nat
  kb : Bool
  rsv : Bool
  k : Nat
deriving DecidableEq, Repr, Inhabited

/-- Decodes a 32-bit micro-operation. -/
def microOf (w : Nat) : MicroOp where
  op := w / 2 ^ 26 % 64
  dst := w / 2 ^ 22 % 16
  sa := w / 2 ^ 18 % 16
  sb := w / 2 ^ 14 % 16
  sc := w / 2 ^ 10 % 16
  kb := w / 2 ^ 9 % 2 = 1
  rsv := w / 2 ^ 8 % 2 = 1
  k := w % 256

/-- Source fields that an operation uses beside the destination (Table 4.6): A, B, C. -/
def MicroOp.uses (u : MicroOp) : Bool × Bool × Bool :=
  match u.op with
  | 0x00 => (false, false, false)
  | 0x05 | 0x10 | 0x11 => (true, !u.kb, true)
  | 0x02 | 0x03 | 0x04 | 0x06 | 0x07 | 0x0F => (true, !u.kb, false)
  | _ => (true, false, false)

/-- A source code names no input at or past `nin` (R128). -/
def sourceOk (used : Bool) (code nin : Nat) : Bool := !used || decide (code < 12 + nin)

/-- The checks of R128 on one micro-operation, `blockOut k` telling that output k has a block format. -/
def MicroOp.ok (u : MicroOp) (nin nout : Nat) (blockOut : Nat → Bool) : Bool :=
  decide (u.op ≤ 0x13) && !u.rsv && sourceOk u.uses.1 u.sa nin && sourceOk u.uses.2.1 u.sb nin && sourceOk u.uses.2.2 u.sc nin &&
    (u.op == 0 || decide (u.dst < 12) ||
      (decide (u.dst < 12 + nout) && (u.op == 1 || !blockOut (u.dst - 12))))

/-- What one element holds while its program runs: general registers as U16w codes, each output's value with its bits, and the counts of its roundings. -/
structure Elem where
  regs : List Nat
  outs : List (Val × Nat)
  inner : Tally
  outT : List Tally
deriving DecidableEq, Repr, Inhabited

/-- An element before slot 0 (R125). -/
def Elem.start : Elem := ⟨List.replicate 12 0, [(Val.zero, 0), (Val.zero, 0)], {}, [{}, {}]⟩

/-- Exact result of an operation, none where a select keeps the old value (Table 4.6). -/
def microResult (op : Nat) (a b c : Val) : Option Val :=
  match op with
  | 0x01 => some a
  | 0x02 => some (a.add b)
  | 0x03 => some (a.sub b)
  | 0x04 => some (a.mul b)
  | 0x05 => some ((a.mul b).add c)
  | 0x06 => some (a.minimum b)
  | 0x07 => some (a.maximum b)
  | 0x08 => some a.abs
  | 0x09 => some a.neg
  | 0x0A => some a.recip
  | 0x0B => some a.rsqrt
  | 0x0C => some a.sqrt
  | 0x0D => some a.exp2
  | 0x0E => some a.log2
  | 0x0F => some (a.scaleBy b)
  | 0x10 => if a.ltv b then some c else none
  | 0x11 => if a.eqv b then some c else none
  | 0x12 => some (if a.nonfinite then .fin false 1 0 else Val.zero)
  | 0x13 => some a.floor
  | _ => none

/-- One micro-operation on one element: `fmts` gives each output's format, `leaf` tells that OUT0 feeds a reduction (R126, R130, R145). -/
def microStep (fmts : List Fmt) (leaf : Bool) (site : Site) (ins : List Val) (consts : Nat → Nat) (slot : Nat) (u : MicroOp)
    (x : Elem) : Elem :=
  let src (code : Nat) : Val :=
    if code < 12 then (Fmt.u16w.decode (x.regs.getD code 0) 0).1 else ins.getD (code - 12) Val.zero
  let b := if u.kb then (Fmt.u16w.decode (consts u.k) 0).1 else src u.sb
  match microResult u.op (src u.sa) b (src u.sc) with
  | none => x
  | some v =>
    let bits := eddy { site with code := 0x100 + slot }
    if u.dst < 12 then
      let r := Fmt.u16w.round v bits
      { x with regs := x.regs.set u.dst r.code, inner := x.inner.add r.tally }
    else
      let o := u.dst - 12
      let f := if leaf then .u16w else fmts.getD o .u16w
      if f.block = 1 then
        let r := f.round v bits
        let w := (f.decode r.code 0).1
        let x := { x with outs := x.outs.set o (w, 0) }
        if leaf then { x with inner := x.inner.add r.tally }
        else { x with outT := x.outT.set o ((x.outT.getD o {}).add r.tally) }
      else { x with outs := x.outs.set o (v, bits) }

/-- A program run on one element. -/
def runElement (fmts : List Fmt) (leaf : Bool) (site : Site) (ins : List Val) (consts : Nat → Nat) (prog : List MicroOp) : Elem :=
  (prog.zipIdx).foldl (fun x u => microStep fmts leaf site ins consts u.2 u.1 x) Elem.start

/-- The fields of an EPROG body (Table 4.3). -/
structure Eprog where
  nin : Nat
  nout : Nat
  widen : Bool
  stats : Bool
  raxis : Nat
  rlevel : Nat
  rop : Nat
  tensor : Nat
  m : Nat
  n : Nat
  hbase : Int
  plen : Nat
deriving DecidableEq, Repr

/-- Decodes an EPROG body. -/
def eprogOf (e : BitVec 256) : Eprog where
  nin := bitsOf e 143 141
  nout := bitsOf e 140 139
  widen := bitOf e 138
  stats := bitOf e 137
  raxis := bitsOf e 136 135
  rlevel := bitsOf e 134 130
  rop := bitsOf e 129 128
  tensor := bitsOf e 127 96
  m := bitsOf e 95 80 + 1
  n := bitsOf e 79 64 + 1
  hbase := signedField 8 (bitsOf e 63 56)
  plen := bitsOf e 54 48 + 1

/-- Rows and columns of an EPROG's outputs (R130). -/
def Eprog.outShape (b : Eprog) : Nat × Nat := if b.raxis = 1 then (b.m, 1) else if b.raxis = 2 then (1, b.n) else (b.m, b.n)

/-- Element plane of a view: first byte and length of its rows, which begin at a block with the COL0 mod b elements ahead of the view and, in a view that is written, end with the pad of the last block (R58). -/
def Desc.planes (d : Desc) (m n : Nat) (written : Bool) : List (Nat × Nat) :=
  let b := d.format.block
  let e := d.col0 % b + n
  let e := if written then (e + b - 1) / b * b else e
  if d.tile then [] else (List.range m).map fun i => (d.ebase + i * d.epitch, (e * d.format.bits + 7) / 8)

/-- The element plane of an output shares a byte with that of an input, or they name one tile (R128). The output's plane is taken at the format of its descriptor, also where it may widen to U16 elements: the model's choice (log entry 153). -/
def Desc.overlapsWith (d e : Desc) (m n m' n' : Nat) : Bool :=
  if d.tile && e.tile then d.ebase % 32 == e.ebase % 32
  else (d.planes m n true).any fun p => (e.planes m' n' false).any fun r => overlaps p.1 p.2 r.1 r.2

/-- The checks of R128 that need no program. An RLEVEL above 16 is rejected with them: R128 does not list it, and no axis of a command has more than 2^16 leaves (log entry 124). -/
def eprogFieldsOk (e : BitVec 256) (b : Eprog) : Bool :=
  zeroBits e [(55, 55), (47, 0)] && decide (b.nin ≤ 4) && (b.nout == 1 || b.nout == 2) && b.raxis != 3 && b.rop != 3 &&
  !(b.nout == 2 && b.raxis != 0) && !(b.nin == 0 && b.raxis != 0) && !(decide (0 < b.rlevel) && b.raxis == 0) && decide (b.rlevel ≤ 16)

/-- The checks of R86 on an EPROG's descriptors: floating-point codes, reduced outputs in 16-bit formats (R122, R130). -/
def eprogDescsOk (b : Eprog) (ins outs : List Desc) : Bool :=
  (ins.all fun d => d.ok [0, 1, 2, 3] none) &&
    outs.all fun d => d.ok (if b.raxis = 0 then [0, 1, 2, 3] else [0, 1]) (some b.outShape.2)

/-- The checks of R128 on the views and the program. N in the pitch check of a widening output is its own count of columns, 1 where RAXIS = 1 reduces them (log entry 125). -/
def eprogLoadOk (b : Eprog) (ins outs : List Desc) (prog : List MicroOp) : Bool :=
  (prog.all fun u => u.ok b.nin b.nout fun k => ((outs.map Desc.format).getD k .u16w).block != 1 && b.raxis == 0) &&
  (b.rlevel == 0 ||
    (match ins with
      | d :: _ => (if b.raxis = 1 then d.col0 else d.row0) % 2 ^ b.rlevel == 0
      | [] => false)) &&
  (ins.all fun d => !d.tile || decide (b.n ≤ 64 ∧ (b.m ≤ 64 ∨ d.epitch = 0))) &&
  (outs.all fun d => !d.tile || decide (b.outShape.2 ≤ 64 ∧ b.outShape.1 ≤ 64)) &&
  (ins.all fun d => d.spans d.format b.m b.n false) && (outs.all fun d => d.spans d.format b.outShape.1 b.outShape.2 true) &&
  (!b.widen || outs.all fun d =>
    (d.tile || decide (2 * b.outShape.2 ≤ d.epitch)) && ins.all fun i => !d.overlapsWith i b.outShape.1 b.outShape.2 b.m b.n)

/-- Tree of the leaves of one reduced output (R131, R132): SUM rounds at each node, MAX and MIN round nothing. -/
def reduceLeaves (rop level : Nat) (site : Site) (leaves : List (Nat × Partial)) : Partial :=
  let pick (f : Val → Val → Val) : Partial :=
    (tree (fun _ _ a b =>
      let v := f a.val b.val
      (⟨(Fmt.u16w.round v 0).code, a.tally.add b.tally⟩ : Partial)) 64 level leaves).getD ⟨0, {}⟩
  match rop with
  | 0 => (sumTree site level leaves).getD ⟨0, {}⟩
  | 1 => pick Val.maximum
  | _ => pick Val.minimum

/-- One run of an EPROG at given output formats: each output's encoded rows with its counts, and the counts of inner roundings. -/
structure EprogRun where
  outs : List (List Encoded × Tally)
  inner : Tally
deriving DecidableEq, Repr

/-- Rows of one output of an element program without a reduction. -/
def plainOutput (grid : List (List Elem)) (k : Nat) (f : Fmt) : List Encoded × Tally :=
  let rows := grid.map fun r => encodeRow f (r.map fun x => x.outs.getD k (Val.zero, 0))
  let t : Tally :=
    if f.block = 1 then (grid.flatten.map fun x => x.outT.getD k {}).foldl Tally.add {}
    else ⟨grid.flatten.length, (rows.map (·.ovf)).sum, (rows.map (·.van)).sum⟩
  (rows, t)

/-- The reduced output: leaves in logical order, the tree, and the root's conversion into a U16n output at site 0x0000 (R130 to R132, R145). -/
def reducedOutput (b : Eprog) (site : Nat → Nat → Nat → Site) (slot : Nat) (inD outD : Desc) (grid : List (List Elem)) (f : Fmt) :
    List Encoded × Tally × Tally :=
  let leaf (x : Elem) : Partial := ⟨(Fmt.u16w.round (x.outs.getD 0 (Val.zero, 0)).1 0).code, {}⟩
  let lines := if b.raxis = 1 then grid else (List.range b.n).map fun j => grid.map fun r => r.getD j Elem.start
  let first := (if b.raxis = 1 then inD.col0 else inD.row0) / 2 ^ b.rlevel
  let roots := lines.mapIdx fun o l =>
    let idx := if b.raxis = 1 then outD.index o 0 else outD.index 0 o
    (reduceLeaves b.rop b.rlevel (site (0x100 + slot) idx 0) (l.mapIdx fun i x => (first + i, leaf x)), idx)
  let inner := (roots.map fun r => r.1.tally).foldl Tally.add {}
  let q := roots.map fun r => f.round r.1.val (eddy (site 0 r.2 0))
  let rows : List Encoded := if b.raxis = 1 then q.map fun r => { codes := [r.code] } else [{ codes := q.map (·.code) }]
  (rows, if f = .u16w then {} else (q.map Rounded.tally).foldl Tally.add {}, inner)

/-- Outputs of one run at the formats given (R126, R129 to R132). Where several micro-operations write OUT0, the site of a reduction's nodes is that of the last of them, for every leaf (log entry 126). -/
def eprogRun (b : Eprog) (site : Nat → Nat → Nat → Site) (consts : Nat → Nat) (prog : List MicroOp) (elemD : Desc)
    (ins : List (List (List Val))) (outs : List Desc) (fmts : List Fmt) : EprogRun :=
  let cell (i j : Nat) : Elem :=
    runElement fmts (b.raxis != 0) (site 0 (elemD.index i j) 0) (ins.map fun v => (v.getD i []).getD j Val.zero) consts prog
  let grid := (List.range b.m).map fun i => (List.range b.n).map fun j => cell i j
  let inner := (grid.flatten.map (·.inner)).foldl Tally.add {}
  if b.raxis = 0 then
    { outs := fmts.mapIdx fun k f => plainOutput grid k f, inner := inner }
  else
    let slot := ((prog.zipIdx).foldl (fun a u => if u.1.dst = 12 ∧ u.1.op ≠ 0 then u.2 else a) 0)
    let r := reducedOutput b site slot elemD (outs.getD 0 default) grid (fmts.getD 0 .u16w)
    { outs := [(r.1, r.2.1)], inner := inner.add r.2.2 }

/-- Re-runs with WIDEN = 1: each attempt raises the outputs that overflowed by one rung (R146); a discarded run leaves nothing in the outputs (log entry 123). -/
def eprogLadder (widen : Bool) (run : List Fmt → EprogRun) : Nat → List Fmt → List (List Fmt × EprogRun)
  | 0, fs => [(fs, run fs)]
  | k + 1, fs =>
    let r := run fs
    let up := fs.mapIdx fun i f => if widen ∧ f ≠ .u16w ∧ 0 < (r.outs.getD i ([], {})).2.ovf then nextRung f else f
    if up = fs then [(fs, r)] else (fs, r) :: eprogLadder widen run k up

/-- The climb of output `k` over the attempts. -/
def climbsOf (runs : List (List Fmt × EprogRun)) (k : Nat) : List (Fmt × Fmt) :=
  (climbs' (runs.map fun r => r.1.getD k .u16w)).filter fun p => p.1 ≠ p.2
where
  climbs' (l : List Fmt) : List (Fmt × Fmt) := l.zip l.tail

/-- Reads the views of the inputs in turn. -/
def State.readInputs (s : State) (r : Reach) (m n : Nat) : List Desc → State × Option (List (List (List (Nat × Nat))))
  | [] => (s, some [])
  | d :: ds =>
    let (s, a) := s.readView r d m n
    let (s, b) := s.readInputs r m n ds
    (s, match a, b with | some a, some b => some (a :: b) | _, _ => none)

/-- Reads descriptors in turn. -/
def State.readDescs (s : State) (core : Nat) : List Nat → State × Option (List Desc)
  | [] => (s, some [])
  | a :: as =>
    let (s, d) := s.readDesc core a
    let (s, ds) := s.readDescs core as
    (s, match d, ds with | some d, some ds => some (d :: ds) | _, _ => none)

/-- Stores the outputs in turn. -/
def State.writeOutputs (s : State) (r : Reach) : List (Desc × Fmt × List Encoded) → State × Bool
  | [] => (s, true)
  | (d, f, e) :: l =>
    let (s, a) := s.writeRows r d f 0 e
    let (s, b) := s.writeOutputs r l
    (s, a && b)

/-- Writes statistics records from an address up, 0x100 apart (R145). -/
def State.writeStats (s : State) (r : Reach) (a : Nat) : List RunStats → State × Bool
  | [] => (s, true)
  | x :: l =>
    let (s, p) := s.storeAt r a x.bytes
    let (s, q) := s.writeStats r (a + 0x100) l
    (s, p && q)

/-- Adds a run's counts into format n to the core's registers and the window (R145, R307). -/
def State.vxeTally (s : State) (g : Nat) (f : Fmt) (t : Tally) : State :=
  ((s.fadd F.vxeOvfNCount t.ovf g f.code).fadd F.vxeVanNCount t.van g f.code).tallyWindow f t

/-- Group mismatches of a command in order: a recompute that passes is counted and the command goes on; the first that fails ends it (R140). Answers whether the command goes on. -/
def State.groupChecks (s : State) (q : Nat) : List (Nat × Bool) → State × Bool
  | [] => (s, true)
  | (g, ok) :: l =>
    let pos := coreOf q
    let core := s.coreFor q
    let s := s.fset F.vxeCheckLastGroup (g % 2 ^ 16) pos
    if ok then
      (((s.fadd F.vxeCheckRetried 1 pos).fset F.vxeStatusRetry 1 pos).error 0x7001 sevCorrectable core core 0 g).groupChecks q l
    else
      let s := s.fadd F.vxeCheckFailed 1 pos
      let s :=
        if s.fb F.vxeModeReduced pos then s
        else
          let e := s.f F.vxeModeEddyFailed pos
          s.fset F.vxeModeEddyFailed (if e / 2 ^ (g % 30) % 2 = 1 then e else e + 2 ^ (g % 30)) pos
      (s.faultDomain core core g, false)

/-- The entry with the mark that a retry of one of its groups passed (R140, Table 3.5). -/
def Exec.regrouped (x : Exec) (bad : List (Nat × Bool)) : Exec := { x with retried := x.retried || !bad.isEmpty }

/-- Leaves the outputs of an aborted command without defined values, the U16 buffers of one that may widen as a whole (R103, R105, R147). -/
def State.undefineOutputs (s : State) (r : Reach) (widen : Bool) (m n : Nat) (l : List Desc) : State :=
  l.foldl (fun s d => let s := s.undefineView r d d.format m n; if widen then s.undefineView r d .u16w m n else s) s

/-- The climb of an output comes to a rung whose blocks its view would not hold whole (R563; log entry 121). -/
def climbBreaks (climb : List (Fmt × Fmt)) (d : Desc) (n : Nat) : Bool := climb.any fun p => !d.whole p.2 n

/-- EPROG once its checks have passed and its inputs are read (R121 to R147). -/
def State.eprogDo (s : State) (q : Nat) (x : Exec) (b : Eprog) (prog : List MicroOp) (inD outD : List Desc)
    (raw : List (List (List (Nat × Nat)))) : State :=
  let pos := coreOf q
  let core := s.coreFor q
  let reach : Reach := ⟨core, [.sram], true⟩
  let vals := (inD.zip raw).map fun p => p.2.map (rowValues p.1.format)
  let nonfin := (vals.flatten.map fun r => (r.1.filter Val.nonfinite).length).sum
  let faults := (vals.flatten.map (·.2)).sum
  let elemD := if b.raxis = 0 then outD.getD 0 default else inD.getD 0 default
  let consts (k : Nat) : Nat := x.param (k / 4) / 2 ^ (16 * (k % 4)) % 2 ^ 16
  let site (code idx node : Nat) : Site := s.site b.tensor idx code node
  let runs := eprogLadder b.widen (eprogRun b site consts prog elemD (vals.map fun v => v.map (·.1)) outD) 6 (outD.map Desc.format)
  let final := runs.getLastD ([], ⟨[], {}⟩)
  let s := (s.widenSteps core 1 0 b.tensor (climbsOf runs 0)).widenSteps core 1 1 b.tensor (climbsOf runs 1)
  if (outD.zipIdx).any fun d => climbBreaks (climbsOf runs d.2) d.1 b.outShape.2 then
    (s.undefineOutputs reach b.widen b.outShape.1 b.outShape.2 outD).finish x.id .aborted
  else
  let places := (outD.zip (final.1.zip (final.2.outs.map (·.1))))
  let (s, landed) := s.writeOutputs reach places
  let values := places.map fun p => p.2.2.map (encodedValues p.2.1)
  let stats := values.mapIdx fun k v =>
    ({ hist := histogram b.hbase v.flatten, inner := final.2.inner, out := (final.2.outs.getD k ([], {})).2, nonfinIn := nonfin
       faults := faults, elems := v.flatten.length, final := (final.1.getD k .u16w).code, reruns := (climbsOf runs k).length
       retry := x.retried
       ovfWiden := ((runs.dropLast.map fun r => (r.2.outs.getD k ([], {})).2.ovf)).sum } : RunStats)
  let (s, recorded) := if b.stats && landed then s.writeStats reach (x.param (bitsOf x.entry 149 144)) stats else (s, landed)
  if !recorded then (s.undefineOutputs reach b.widen b.outShape.1 b.outShape.2 outD).finish x.id .aborted
  else
    let s := (places.filter fun p => p.1.format ≠ p.2.1).foldl (fun s p => s.setDescFmt core p.1 p.2.1) s
    let s := s.vxeTally pos .u16w final.2.inner
    let s := (final.1.zip (final.2.outs.map (·.2))).foldl (fun s p => s.vxeTally pos p.1 p.2) s
    let s := (s.fadd F.vxeFaultsFormatFaults faults pos).fadd F.vxeFaultsNonfiniteIn nonfin pos
    let bad := values.flatten.flatten.any Val.nonfinite
    let s := if bad then s.nonfinite else s
    let s := s.watch b.tensor (values.flatMap fun v => v.flatMap fun r => r.take b.outShape.2)
    s.finish x.id (if bad then .nonfinite else if final.1 ≠ outD.map Desc.format then .widened else .ok)
      ((final.1.getD 0 .u16w).code + 16 * (runs.length - 1) + if x.retried then 256 else 0)

/-- Parameter registers that an EPROG names for its descriptors, inputs then outputs. -/
def eprogDescRegs (e : BitVec 256) (b : Eprog) : List Nat × List Nat :=
  ([bitsOf e 185 180, bitsOf e 179 174, bitsOf e 173 168, bitsOf e 167 162].take b.nin,
   [bitsOf e 161 156, bitsOf e 155 150].take b.nout)

/-- EPROG: descriptors, program, checks of R86 and R128, inputs, group checks, then the run. -/
def State.eprog (s : State) (q : Nat) (x : Exec) (bad : List (Nat × Bool)) : State :=
  let b := eprogOf x.entry
  let pos := coreOf q
  let core := s.coreFor q
  let reach : Reach := ⟨core, [.sram], true⟩
  let reject (s : State) : State := (s.fadd F.vxeFaultsProgRejects 1 pos).finish x.id .aborted
  if !eprogFieldsOk x.entry b then reject s
  else
    let regs := eprogDescRegs x.entry b
    let (s, ins) := s.readDescs core (regs.1.map x.param)
    let (s, outs) := s.readDescs core (regs.2.map x.param)
    let (s, code) := s.loadAt ⟨core, [.sram], false⟩ (x.param (bitsOf x.entry 191 186)) (4 * b.plen)
    match ins, outs, code with
    | some ins, some outs, some code =>
      let prog := (chunksOf 4 b.plen code).map fun w => microOf (leNat w)
      if !eprogDescsOk b ins outs then s.finish x.id .aborted
      else if !eprogLoadOk b ins outs prog then reject s
      else
        let (s, raw) := s.readInputs reach b.m b.n ins
        let (s, ok) := s.groupChecks q bad
        match raw, ok with
        | some raw, true => s.eprogDo q (x.regrouped bad) b prog ins outs raw
        | _, _ => (s.undefineOutputs reach b.widen b.outShape.1 b.outShape.2 outs).finish x.id .aborted
    | _, _, _ => s.finish x.id .aborted

/-- EPROG: the element program of the queue's entry in execution (R121). -/
def execEprog (q : Nat) (bad : List (Nat × Bool)) (s : State) : Host.Outcome State Fault Refusal :=
  match s.running q [0x30] with
  | some x => .next (s.asSeen x fun s => s.eprog q x bad)
  | none => .next s

/-! ### Conversion -/

/-- An element-by-element conversion at site 0x0000, shared by CVT and a converting COPY (R67 to R71, R133, R172). -/
def convertRows (site : Nat → Site) (outD : Desc) (vals : List (List Val)) : List Encoded :=
  vals.mapIdx fun i r => encodeRow outD.format (r.mapIdx fun j v => (v, eddy (site (outD.index i j))))

/-- The tail of an entry that writes converted rows: the stores, the record, the counts and the status (R133, R145, R147, R172). -/
def State.writeConverted (s : State) (q : Nat) (x : Exec) (r : Reach) (tensor m n : Nat) (hbase : Int) (statsAt : Option Nat)
    (nonfin faults : Nat) (outD : Desc) (rows : List Encoded) : State :=
  let pos := coreOf q
  let f := outD.format
  let (s, landed) := s.writeRows r outD f 0 rows
  let vals := rows.map (encodedValues f)
  let t : Tally := ⟨m * n, (rows.map (·.ovf)).sum, (rows.map (·.van)).sum⟩
  let stats : RunStats :=
    { hist := histogram hbase vals.flatten, out := t, nonfinIn := nonfin, faults := faults, elems := vals.flatten.length
      final := f.code, retry := x.retried }
  let (s, recorded) := match statsAt with
    | some a => if landed then s.storeAt r a stats.bytes else (s, false)
    | none => (s, landed)
  if !recorded then (s.undefineView r outD f m n).finish x.id .aborted
  else
    let s := s.vxeTally pos f t
    let s := (s.fadd F.vxeFaultsFormatFaults faults pos).fadd F.vxeFaultsNonfiniteIn nonfin pos
    let bad := vals.flatten.any Val.nonfinite
    let s := if bad then s.nonfinite else s
    let s := s.watch tensor (vals.flatMap fun l => l.take n)
    s.finish x.id (if bad then .nonfinite else .ok) (f.code + if x.retried then 256 else 0)

/-- CVT (R133). -/
def State.cvt (s : State) (q : Nat) (x : Exec) (bad : List (Nat × Bool)) : State :=
  let e := x.entry
  let core := s.coreFor q
  let reach : Reach := ⟨core, [.sram], true⟩
  let m := bitsOf e 95 80 + 1
  let n := bitsOf e 79 64 + 1
  let tensor := bitsOf e 127 96
  if !zeroBits e [(172, 168), (159, 128), (63, 0)] then s.finish x.id .aborted
  else
    let (s, di) := s.readDesc core (x.param (bitsOf e 191 186))
    let (s, dc) := s.readDesc core (x.param (bitsOf e 185 180))
    match di, dc with
    | some di, some dc =>
      if !(di.ok [0, 1, 2, 3] none && dc.ok [0, 1, 2, 3] (some n) && (!di.tile || decide (n ≤ 64 ∧ (m ≤ 64 ∨ di.epitch = 0))) &&
          (!dc.tile || decide (m ≤ 64 ∧ n ≤ 64))) then s.finish x.id .aborted
      else
        let (s, raw) := s.readView reach di m n
        let (s, ok) := s.groupChecks q bad
        match raw, ok with
        | some raw, true =>
          let vals := raw.map (rowValues di.format)
          let nonfin := (vals.map fun r => (r.1.filter Val.nonfinite).length).sum
          let rows := convertRows (fun idx => s.site tensor idx 0) dc (vals.map (·.1))
          s.writeConverted q (x.regrouped bad) reach tensor m n (signedField 8 (bitsOf e 167 160))
            (if bitOf e 173 then some (x.param (bitsOf e 179 174)) else none) nonfin ((vals.map (·.2)).sum) dc rows
        | _, _ => (s.undefineView reach dc dc.format m n).finish x.id .aborted
    | _, _ => s.finish x.id .aborted

/-- CVT: the conversion of the queue's entry in execution. -/
def execCvt (q : Nat) (bad : List (Nat × Bool)) (s : State) : Host.Outcome State Fault Refusal :=
  match s.running q [0x33] with
  | some x => .next (s.asSeen x fun s => s.cvt q x bad)
  | none => .next s

end Sys2Proof.Machine
end

