-- ==== Sys2Proof/Machine/Direct.lean ====
section
/-! DEFINITION. Direct channels of the vector engine (R134 to R138, R141): DRUN with its registers, memory, parameter and digest instructions; VTEST and changes of mode (R142 to R144). -/

namespace Sys2Proof.Machine

/-- Group of an opcode range of Table 4.8: 0 integer, 1 floating point, 2 conversion, 3 lane, 4 memory. -/
def directGroup (code : Nat) : Nat :=
  if code < 0x20 then 0 else if code < 0x30 then 1 else if code < 0x38 then 2 else if code < 0x40 then 3 else 4

/-- Group that an operation belongs to. -/
def opGroup : Config.DirectOp → Option Nat
  | .add | .sub | .mulLo | .mulHi | .min | .max | .shl | .shr | .sar | .rotl | .rotr | .and | .or | .xor | .cmpEq | .cmpLt | .select
  | .addImm => some 0
  | .fadd | .fsub | .fmul | .ffma | .fmin | .fmax | .fcmpEq | .fcmpLt => some 1
  | .cvt _ => some 2
  | .broadcast | .permute | .rsum => some 3
  | .load | .loadGather | .store | .storeScatter | .tileLoad | .tileStore => some 4
  | .reserved => none

/-- Operation of an opcode below 0x48: the assignment within a group is open (log entry 3); an operation of another group counts as reserved. -/
def directOpOf (code : Nat) : Config.DirectOp :=
  let o := Config.directOp code
  if opGroup o = some (directGroup code) then o else .reserved

/-- Types that a group takes (R135, R138). -/
def directTypes (g : Nat) : List Nat := if g = 0 then [8, 9, 10] else if g = 1 then [0, 1] else [0, 1, 8, 9, 10]

/-- Integer held by a lane of a type. -/
def laneInt (ty : Nat) (w : Word) : Int :=
  if ty = 8 then (w.setWidth 32).toInt else if ty = 10 then ((w.setWidth 32).toNat : Int) else w.toInt

/-- Lane that holds an integer of a type, wrapped to its width: I32 sign-extended, U32 zero-extended (log entry 3). -/
def laneOf (ty : Nat) (z : Int) : Word :=
  if ty = 8 then (BitVec.ofInt 32 z).signExtend 64 else if ty = 10 then (BitVec.ofInt 32 z).setWidth 64 else BitVec.ofInt 64 z

/-- Width in bits of an integer type. -/
def laneWidth (ty : Nat) : Nat := if ty = 9 then 64 else 32

/-- Integer operations, lane by lane (Table 4.8; operand roles by log entry 3). -/
def intLane (op : Config.DirectOp) (ty : Nat) (a b c : Word) (imm : Int) : Word :=
  let w := laneWidth ty
  let x := laneInt ty a
  let y := laneInt ty b
  let ux := (x % 2 ^ w).toNat
  let amount := (y % 2 ^ w).toNat
  let mask (p : Bool) : Word := laneOf ty (if p then -1 else 0)
  let shifted (z : Int) : Word := if amount < w then laneOf ty z else Config.shiftBeyond ty a b
  let rot (n : Nat) : Nat := (ux * 2 ^ n + ux / 2 ^ (w - n)) % 2 ^ w
  match op with
  | .add => laneOf ty (x + y)
  | .sub => laneOf ty (x - y)
  | .mulLo => laneOf ty (x * y)
  | .mulHi => laneOf ty (x * y / 2 ^ w)
  | .min => laneOf ty (min x y)
  | .max => laneOf ty (max x y)
  | .shl => shifted (x * 2 ^ amount)
  | .shr => shifted ((ux / 2 ^ amount : Nat) : Int)
  | .sar => shifted (x / 2 ^ amount)
  | .rotl => laneOf ty (rot (amount % w))
  | .rotr => laneOf ty (rot ((w - amount % w) % w))
  | .and => laneOf ty (laneInt ty (a &&& b))
  | .or => laneOf ty (laneInt ty (a ||| b))
  | .xor => laneOf ty (laneInt ty (a ^^^ b))
  | .cmpEq => mask (decide (x = y))
  | .cmpLt => mask (decide (x < y))
  | .select => laneOf ty (if laneInt ty c ≠ 0 then x else y)
  | .addImm => laneOf ty (x + imm)
  | _ => 0

/-- Value of a lane of a floating-point type. -/
def laneVal (ty : Nat) (w : Word) : Val := (((Fmt.ofCode ty).getD .u16w).decode (w.toNat % 2 ^ 16) 0).1

/-- Exact result of a floating-point lane operation; compares give 1.0 or +0 (log entry 3). -/
def floatLane (op : Config.DirectOp) (a b c : Val) : Val :=
  let truth (p : Bool) : Val := if p then .fin false 1 0 else Val.zero
  match op with
  | .fadd => a.add b
  | .fsub => a.sub b
  | .fmul => a.mul b
  | .ffma => (a.mul b).add c
  | .fmin => a.minimum b
  | .fmax => a.maximum b
  | .fcmpEq => truth (a.eqv b)
  | _ => truth (a.ltv b)

/-- State of a DRUN: the part, the 32 registers of 16 lanes, the PWR writes so far, the counts of its roundings into U16w and U16n, format faults, the floating-point elements it stored, and whether one was an infinity or NaN. -/
structure Drun where
  s : State
  regs : List (List Word)
  pwr : List (Nat × Nat × Word)
  w16 : Tally
  n16 : Tally
  faults : Nat
  wrote : List Val
  nonfin : Bool

/-- Notes the elements of a type that the command stored (R147, R314). -/
def Drun.note (d : Drun) (ty : Nat) (l : List Word) : Drun :=
  if ty < 2 then { d with wrote := d.wrote ++ l.map (laneVal ty), nonfin := d.nonfin || l.any fun w => (laneVal ty w).nonfinite } else d

/-- The state that a DRUN leaves, with the core's non-finite flag where it stored an infinity or a NaN (R147). -/
def Drun.flagged (d : Drun) : State := if d.nonfin then d.s.nonfinite else d.s

/-- Lanes of a register. -/
def Drun.reg (d : Drun) (i : Nat) : List Word := d.regs.getD i (List.replicate 16 0)

/-- Writes a register. -/
def Drun.setReg (d : Drun) (i : Nat) (v : List Word) : Drun := { d with regs := d.regs.set i v }

/-- Counts a rounding into a type. -/
def Drun.count (d : Drun) (ty : Nat) (t : Tally) : Drun :=
  if ty = 0 then { d with w16 := d.w16.add t } else { d with n16 := d.n16.add t }

/-- Index of a lane's rounding: bits [47:0] of its V30 (R136). -/
def Drun.index (d : Drun) (lane : Nat) : Nat := ((d.reg 30).getD lane 0).toNat % 2 ^ 48

/-- Bytes of a lane of a type in memory. -/
def laneBytes (ty : Nat) : Nat := if ty = 9 then 8 else if ty = 8 ∨ ty = 10 then 4 else 2

/-- Lane of a type from its bytes. -/
def laneFrom (ty : Nat) (l : List Byte) : Word :=
  if ty = 8 then laneOf 8 (leNat l) else BitVec.ofNat 64 (leNat l)

/-- A 32-byte block on a core's digest stream: a header, or content that completes a segment and files its digest under the unit (R281). -/
def State.feed (s : State) (core : Nat) (block : List Byte) : State :=
  let file (s : State) (f : Feed) : State :=
    if f.count ≤ f.data.length then
      let s := { s with feeds := assocSet none s.feeds core none }
      match s.units.find? fun u => u.slot == f.slot && u.state == .opened with
      | none => s
      | some u =>
        if u.segs.any fun x => x.1 == f.seg then s.failUnit f.slot
        else
          let segs := u.segs ++ [(f.seg, digest128 (f.data.take f.count), f.count)]
          { s with units := updateAll s.units (fun v => v.slot == f.slot && v.state == .opened) fun v => { v with segs := segs } }
    else { s with feeds := assocSet none s.feeds core (some f) }
  match assoc none s.feeds core with
  | none => file s ⟨leAt block 0 2, leAt block 2 4, leAt block 6 4, []⟩
  | some f => file s { f with data := f.data ++ block }

/-- Addresses of the lanes of a memory instruction: contiguous from lane 0 of VA plus IMM, or gathered at each lane of VA plus IMM; Table 4.8 states no addressing (log entry 127). -/
def laneAddrs (gather : Bool) (ty : Nat) (va : List Word) (imm : Int) : List Nat :=
  (List.range 16).map fun i =>
    let base := if gather then va.getD i 0 else va.getD 0 0
    let off : Int := if gather then imm else imm + i * laneBytes ty
    (((base.toNat : Int) + off) % 2 ^ 64).toNat

/-- Loads of lanes in turn. -/
def State.loadLanes (s : State) (r : Reach) (ty : Nat) : List Nat → State × Option (List Word)
  | [] => (s, some [])
  | a :: as =>
    let (s, x) := s.loadAt r a (laneBytes ty)
    let (s, xs) := s.loadLanes r ty as
    (s, match x, xs with | some x, some xs => some (laneFrom ty x :: xs) | _, _ => none)

/-- Stores of lanes in turn; the first that fails ends them. -/
def State.storeLanes (s : State) (r : Reach) (ty : Nat) : List (Nat × Word) → State × Bool
  | [] => (s, true)
  | (a, v) :: l =>
    let (s, ok) := s.storeAt r a (leBytes (laneBytes ty) v.toNat)
    if ok then s.storeLanes r ty l else (s, false)

/-- Fields of a direct-channel instruction (Table 4.7). -/
structure DirectInstr where
  op : Nat
  vd : Nat
  va : Nat
  vb : Nat
  vc : Nat
  ty : Nat
  imm : Nat
deriving DecidableEq, Repr, Inhabited

/-- Decodes an instruction. -/
def directOfWord (w : Nat) : DirectInstr where
  op := w / 2 ^ 56 % 256
  vd := w / 2 ^ 51 % 32
  va := w / 2 ^ 46 % 32
  vb := w / 2 ^ 41 % 32
  vc := w / 2 ^ 36 % 32
  ty := w / 2 ^ 32 % 16
  imm := w % 2 ^ 32

/-- How an instruction ends: on to the next, a jump, the end, or an abort (R138). -/
inductive DirectEnd where
  | next | jump (by_ : Int) | halt | abort
deriving DecidableEq, Repr

/-- Lane-by-lane rounding of exact results into a floating-point type at site 0x0200 (R136). -/
def Drun.roundLanes (d : Drun) (tensor ty vd : Nat) (vals : List Val) : Drun :=
  let f := (Fmt.ofCode ty).getD .u16w
  let q := vals.mapIdx fun i v => f.round v (eddy (d.s.site tensor (d.index i) 0x200))
  (d.setReg vd (q.map fun r => BitVec.ofNat 64 r.code)).count ty ((q.map Rounded.tally).foldl Tally.add {})

/-- One instruction below 0x48 (Table 4.8). A tile element lies in tile IMM mod 32 at element VA mod 4096, lane by lane; RSUM rounds each node to the type TY and gives its root to all 16 lanes (log entry 127); broadcast takes lane IMM mod 16 and permute reads each index of VB mod 16 (log entry 154). -/
def Drun.grouped (d : Drun) (core tensor : Nat) (u : DirectInstr) : Drun × DirectEnd :=
  let op := directOpOf u.op
  let imm := signedField 32 u.imm
  let va := d.reg u.va
  let vb := d.reg u.vb
  let vc := d.reg u.vc
  let lane (f : Nat → Word) : Drun := d.setReg u.vd ((List.range 16).map f)
  let at_ (v : List Word) (i : Nat) : Word := v.getD i 0
  let reach : Reach := ⟨core, [.sram, .hbm], true⟩
  let float := u.ty < 2
  if !(directTypes (directGroup u.op)).contains u.ty then (d, .abort)
  else
    match op with
    | .reserved => (d, .abort)
    | .fadd | .fsub | .fmul | .ffma | .fmin | .fmax | .fcmpEq | .fcmpLt =>
      (d.roundLanes tensor u.ty u.vd ((List.range 16).map fun i =>
        floatLane op (laneVal u.ty (at_ va i)) (laneVal u.ty (at_ vb i)) (laneVal u.ty (at_ vc i))), .next)
    | .cvt src =>
      if float then
        (d.roundLanes tensor u.ty u.vd ((List.range 16).map fun i =>
          if src < 2 then laneVal src (at_ va i) else Val.ofInt (laneInt src (at_ va i))), .next)
      else if src < 2 then
        let q := (List.range 16).map fun i => (laneVal src (at_ va i)).toInt ((Fmt.ofCode u.ty).getD .i64)
        ({ d.setReg u.vd (q.map fun x => laneOf u.ty x.1) with faults := d.faults + (q.filter (·.2)).length }, .next)
      else
        let (lo, hi) := ((Fmt.ofCode u.ty).getD .i64).range
        let q := (List.range 16).map fun i => laneInt src (at_ va i)
        ({ d.setReg u.vd (q.map fun z => laneOf u.ty (max lo (min hi z))) with
            faults := d.faults + (q.filter fun z => decide (z < lo ∨ hi < z)).length }, .next)
    | .broadcast => (lane fun _ => at_ va (u.imm % 16), .next)
    | .permute => (lane fun i => at_ va ((at_ vb i).toNat % 16), .next)
    | .rsum =>
      if float then
        let site := d.s.site tensor (d.index 0) 0x200
        let f := (Fmt.ofCode u.ty).getD .u16w
        let leaves := va.mapIdx fun i w => (i, ((laneVal u.ty w, ({} : Tally)) : Val × Tally))
        let node (lev p : Nat) (a b : Val × Tally) : Val × Tally :=
          let r := f.round (a.1.add b.1) (eddy { site with node := nodeWord lev p })
          ((f.decode r.code 0).1, (a.2.add b.2).add r.tally)
        let root := (tree node 64 0 leaves).getD (Val.zero, {})
        ((lane fun _ => BitVec.ofNat 64 (f.round root.1 0).code).count u.ty root.2, .next)
      else (lane fun _ => laneOf u.ty ((va.map (laneInt u.ty)).sum), .next)
    | .load | .loadGather =>
      let (s, v) := d.s.loadLanes reach u.ty (laneAddrs (op == .loadGather) u.ty va imm)
      (match v with
        | some v => ({ d with s := s }.setReg u.vd v, .next)
        | none => ({ d with s := s }, .abort))
    | .store | .storeScatter =>
      let (s, ok) := d.s.storeLanes reach u.ty ((laneAddrs (op == .storeScatter) u.ty va imm).zip vb)
      ({ d with s := s }.note u.ty vb, if ok then .next else .abort)
    | .tileLoad =>
      let (s, v) := (List.range 16).foldl (fun (p : State × Option (List Word)) i =>
        let e := (at_ va i).toNat % 4096
        let (s, l) := p.1.readBytes .tile (tileAt core u.imm (e / 64) + e % 64 * 2) 2
        (s, match p.2, l with | some a, some l => some (a ++ [BitVec.ofNat 64 (leNat l)]) | _, _ => none)) (d.s, some [])
      (match v with
        | some v => ({ d with s := s }.setReg u.vd v, .next)
        | none => ({ d with s := s }, .abort))
    | .tileStore =>
      let (s, ok) := (List.range 16).foldl (fun (p : State × Bool) i =>
        let e := (at_ va i).toNat % 4096
        let (s, ok) := p.1.writeBytes .tile (tileAt core u.imm (e / 64) + e % 64 * 2) (leBytes 2 (at_ vb i).toNat)
        (s, p.2 && ok)) (d.s, true)
      ({ d with s := s }.note u.ty vb, if ok then .next else .abort)
    | _ => (lane fun i => intLane op u.ty (at_ va i) (at_ vb i) (at_ vc i) imm, .next)

/-- HMIX of one lane: the six rounds of R75 with key words from VB and w = 0 (Table 4.8). -/
def hmix (a b : Word) : Word :=
  let x := eddyRounds (fun i => word16 b.toNat 64 i) (fun _ => 0) (word16 a.toNat 64 0, word16 a.toNat 64 1, word16 a.toNat 64 2, word16 a.toNat 64 3)
  BitVec.ofNat 64 (x.1.toNat * 2 ^ 48 + x.2.1.toNat * 2 ^ 32 + x.2.2.1.toNat * 2 ^ 16 + x.2.2.2.toNat)

/-- One instruction. -/
def Drun.instr (d : Drun) (core q tensor : Nat) (u : DirectInstr) : Drun × DirectEnd :=
  if !(([0, 1, 8, 9, 10] : List Nat).contains u.ty) then (d, .abort)
  else if u.op < 0x48 then d.grouped core tensor u
  else
    match u.op with
    | 0x48 => (d.setReg u.vd ((List.range 16).map fun i => hmix ((d.reg u.va).getD i 0) ((d.reg u.vb).getD i 0)), .next)
    | 0x49 => ({ d with s := d.s.feed core ((d.reg u.va).flatMap fun w : Word => leBytes 2 w.toNat) }, .next)
    | 0x50 => ({ d with pwr := d.pwr ++ [(q / 4 * 4 + u.imm / 256 % 4, u.imm % 64, (d.reg u.va).getD 0 0)] }, .next)
    | 0x58 => (d, if (d.reg u.va).getD 0 0 = 0 then .next else .jump (signedField 32 u.imm))
    | 0x5F => (d, .halt)
    | _ => (d, .abort)

/-- How a DRUN ended: at HALT, by an abort, or at its instruction limit. -/
inductive DrunEnd where
  | done | aborted | limit
deriving DecidableEq, Repr

/-- Instructions from `pc` on, at most `fuel` of them (R135, R138). -/
def Drun.run (core q tensor : Nat) (prog : List DirectInstr) : Nat → Nat → Drun → Drun × DrunEnd
  | 0, pc, d => (d, if pc < prog.length then .limit else .aborted)
  | k + 1, pc, d =>
    match prog[pc]? with
    | none => (d, .aborted)
    | some u =>
      match d.instr core q tensor u with
      | (d, .next) => Drun.run core q tensor prog k (pc + 1) d
      | (d, .halt) => (d, .done)
      | (d, .abort) => (d, .aborted)
      | (d, .jump n) => if (pc : Int) + n < 0 then (d, .aborted) else
        if prog.length ≤ ((pc : Int) + n).toNat then (d, .aborted) else Drun.run core q tensor prog k ((pc : Int) + n).toNat d

/-- The block is one that R138 accepts before its first instruction: no reserved OP, and every BNZ stays inside it (log entry 47). -/
def blockOk (prog : List DirectInstr) : Bool :=
  prog.zipIdx.all fun u =>
    (if u.1.op < 0x48 then directOpOf u.1.op != .reserved else ([0x48, 0x49, 0x50, 0x58, 0x5F] : List Nat).contains u.1.op) &&
      (u.1.op != 0x58 || (let t := (u.2 : Int) + signedField 32 u.1.imm; decide (0 ≤ t ∧ t < prog.length)))

/-- DRUN of an entry: the block runs, PWR writes land at its end, a mismatch or an abort drops them (R134 to R141). A mismatch strikes before the first instruction, the model's choice (log entry 155). A DRUN that wrote an infinity or a NaN sets the non-finite flag however it ends (R138, R147). -/
def State.drun (s : State) (q : Nat) (x : Exec) (mismatch : Bool) : State :=
  let e := x.entry
  let pos := coreOf q
  let core := s.coreFor q
  let len := bitsOf e 185 176 + 1
  let reject (s : State) : State := (s.fadd F.vxeFaultsProgRejects 1 pos).finish x.id .aborted
  if mismatch then
    let s := (s.fadd F.vxeCheckFailed 1 pos).error 0x3001 sevUncorrectable core core 0 0 Status.aborted.code
    (s.faultDomain core core).finish x.id .aborted
  else if !zeroBits e [(149, 128), (95, 0)] || bitsOf e 175 174 == 3 then reject s
  else
    let (s, code) := s.loadAt ⟨core, [.sram, .hbm], false⟩ (x.param (bitsOf e 191 186)) (8 * len)
    match code with
    | none => s.finish x.id .aborted
    | some code =>
      let prog := (chunksOf 8 len code).map fun w => directOfWord (leNat w)
      if !blockOk prog then reject s else
      let d0 : Drun := { s := s, regs := List.replicate 32 (List.replicate 16 0), pwr := [], w16 := {}, n16 := {}, faults := 0, wrote := [], nonfin := false }
      let (d, fin) := Drun.run core q (bitsOf e 127 96) prog ((bitsOf e 173 150 + 1) * 64) 0 d0
      match fin with
      | .aborted => d.flagged.finish x.id .aborted
      | .limit => (d.flagged.fadd F.vxeFaultsIlimitHits 1 pos).finish x.id .aborted
      | .done =>
        let s := d.pwr.foldl (fun s p => s.fset F.queueQParamMValue p.2.2.toNat p.1 p.2.1) d.flagged
        let s := (s.vxeTally pos .u16w d.w16).vxeTally pos .u16n d.n16
        let s := s.fadd F.vxeFaultsFormatFaults d.faults pos
        let s := s.watch (bitsOf e 127 96) d.wrote
        s.finish x.id (if d.nonfin then .nonfinite else .ok)

/-- DRUN: the direct-channel block of the queue's entry in execution (R135). -/
def execDrun (q : Nat) (mismatch : Bool) (s : State) : Host.Outcome State Fault Refusal :=
  match s.running q [0x31] with
  | some x => .next (s.asSeen x fun s => s.drun q x mismatch)
  | none => .next s

/-- VTEST: as MTEST, and a core whose test passes has left start-up (R142, R143). -/
def execVtest (q : Nat) (pass : TestPass) (s : State) : Host.Outcome State Fault Refusal :=
  match s.running q [0x3F] with
  | some x =>
    let g := s.coreFor q
    if !zeroBits x.entry [(191, 0)] then .next (s.finish x.id .aborted)
    else if pass then .next ({ s with vxeReady := if s.vxeReady.contains g then s.vxeReady else s.vxeReady ++ [g] }.finish x.id .ok)
    else .next ((s.error 0x3001 sevUncorrectable (s.coreFor q) (s.coreFor q) 0 0 Status.aborted.code).finish x.id .aborted)
  | none => .next s

/-- Cause of reduced mode that applies to the core at a position, the lowest first; 0 when none does (R143, Table 4.11). -/
def State.vxeCause (s : State) (g : Nat) : Nat :=
  let core := s.coreAt (g / 17) (g % 17)
  if !s.vxeReady.contains core then 1
  else if s.bist.contains (2, core) then 2
  else if s.inRecovery core || s.fb F.vxeModeEddyFailed g then 3
  else 0

/-- Shows the mode that applies to a core. -/
def State.showVxeMode (s : State) (g : Nat) : State :=
  (s.fset F.vxeModeCause (s.vxeCause g) g).fset F.vxeModeReduced (if s.vxeCause g = 0 then 0 else 1) g

/-- VXE_MODE_CHANGE: the mode follows its causes at a tick at which no VXE entry executes (R144); the common entries of the queue, such as a REPLAY that issues, hold nothing of the VXE. -/
def execVxeModeChange (core : Nat) (s : State) : Host.Outcome State Fault Refusal :=
  if (s.execsOf (mxeQueue' core)).all fun x => decide (opcodeOf x.entry < 0x10) then .next (s.showVxeMode core) else .next s
where
  mxeQueue' (g : Nat) : Nat := g / 17 * 128 + g % 17 * 4 + 1

end Sys2Proof.Machine
end

