-- ==== Sys2Proof/Machine/Hove.lean ====
section
/-! DEFINITION. Entry into Hove-to (R434, R435, Table 13.7), shared by every cause. -/

namespace Sys2Proof.Machine

/-- Sets bit `i` of a number. -/
def setBit (n i : Nat) : Nat := if n / 2 ^ i % 2 = 1 then n else n + 2 ^ i

/-- Clears bit `i` of a number. -/
def clearBit (n i : Nat) : Nat := if n / 2 ^ i % 2 = 1 then n - 2 ^ i else n

/-- Takes a cause of Hove-to: a later cause only adds its bit; the first one stops the part, asserts ALERT_N, raises event 0x1001 and sends ABORT if the part has not voted (Table 13.7). -/
def State.enterHove (s : State) (cause : Nat) : State :=
  let s := s.fset F.hoveStatusCauses (setBit (s.f F.hoveStatusCauses) cause)
  if s.inHove then s
  else
    let s := { s with alert := true, boot := { s.boot with resumeState := s.f F.bootStatusState } }
    let s := ((s.fset F.hoveStatusActive 1).fset F.pwrStatusPart 2).fset F.bootStatusState 5
    s.abortVote

/-- Entry into Hove-to that a block asks for at once, with its event 0x1001 at source 751 (R435). -/
def State.hoveNow (s : State) (cause : Nat) : State :=
  if s.inHove then s.enterHove cause else (s.enterHove cause).raise 0x1001 751

end Sys2Proof.Machine
end

