-- ==== Sys2Proof/Machine/Matrix.lean ====
section
/-! DEFINITION. The matrix engine (chapter Matrix Engine): MMUL, MTEST, and the handling of a residue mismatch. -/

namespace Sys2Proof.Machine

/-- The product of two operand elements; pairs of 16-bit formats keep fraction bits down to 2^−10 of the nominal exponent (R72, R90). -/
def mxeProduct (fa fb : Fmt) (a b : Val) : Val :=
  match a.mul b with
  | .fin neg m e =>
    if fa.block = 1 ∧ fb.block = 1 then
      let drop := fa.frac + fb.frac - 10
      .fin neg (m / 2 ^ drop) (e + drop)
    else .fin neg m e
  | x => x

/-- The chord sum of 16 products, rounded once to U16w at site 0x0001 as node (0, q) (R91, R93). -/
def chordSum (site : Site) (q : Nat) (products : List Val) : Partial :=
  roundPartial (Val.sum products) { site with node := nodeWord 0 q }

/-- Output element before the output stage: the chord tree of R92 over k (R90 to R93). -/
def mxeElement (site : Site) (fa fb : Fmt) (a b : List Val) : Partial :=
  let products := (a.zip b).map fun p => mxeProduct fa fb p.1 p.2
  let chords := (chunksOf 16 products.length products).mapIdx fun q l =>
    (q, chordSum site q (l ++ List.replicate (16 - l.length) Val.zero))
  (sumTree site 0 chords).getD ⟨0, {}⟩

/-- The fields of an MMUL body (Table 3.2). -/
structure Mmul where
  fa : Nat
  fb : Nat
  fo : Nat
  widen : Bool
  stats : Bool
  scale : Int
  hbase : Int
  tensor : Nat
  m : Nat
  n : Nat
  k : Nat
deriving DecidableEq, Repr

/-- Decodes an MMUL body. -/
def mmulOf (e : BitVec 256) : Mmul where
  fa := bitsOf e 167 164
  fb := bitsOf e 163 160
  fo := bitsOf e 159 156
  widen := bitOf e 155
  stats := bitOf e 154
  scale := signedField 8 (bitsOf e 151 144)
  hbase := signedField 8 (bitsOf e 143 136)
  tensor := bitsOf e 127 96
  m := bitsOf e 95 80 + 1
  n := bitsOf e 79 64 + 1
  k := bitsOf e 63 44 + 1

/-- A view of m rows and n columns fits a tile when it names one (R115); that an MMUL whose view does not fit ends ABORTED is the model's choice (log entry 152). -/
def Desc.fits (d : Desc) (m n : Nat) : Bool := !d.tile || decide (m ≤ 64 ∧ n ≤ 64)

/-- The checks of R82, R86, R87, R103 and R563 on the three descriptors; `out` are the formats that the engine accepts for an output. R563 is judged by the format FO that the command writes, not by the FMT that stands in the output descriptor (log entry 121). -/
def mmulOk (b : Mmul) (out : List Nat) (da db dc : Desc) : Bool :=
  da.ok [b.fa] none && db.ok [b.fb] none && dc.ok out none && da.fits b.m b.k && db.fits b.n b.k && dc.fits b.m b.n &&
  dc.whole ((Fmt.ofCode b.fo).getD .u16w) b.n &&
  (!dc.tile || b.fo == 0 || b.fo == 1) && (!b.widen || dc.tile || decide (2 * b.n ≤ dc.epitch))

/-- The operand views, the output view and the record of the command lie in this part's SRAM space or in tiles (R82). -/
def State.mmulLocal (s : State) (b : Mmul) (ps : Nat) (da db dc : Desc) : Bool :=
  s.planesLocal da da.format && s.planesLocal db db.format && s.planesLocal dc ((Fmt.ofCode b.fo).getD .u16w) && (!b.stats || s.ownSram ps)

/-- The output of a run, each row in pieces of the 64 columns of a pass. -/
abbrev MxeRows : Type := List (List Encoded)

/-- One row of a run as it is stored. -/
def wholeRow (l : List Encoded) : Encoded := l.foldl Encoded.append ⟨[], [], 0, 0⟩

/-- The passes of a command, blocks of 36 by 64 output elements, row blocks first (R89, R101; log entry 122). -/
def passesOf (m n : Nat) : List (Nat × Nat) :=
  (List.range ((m + 35) / 36)).flatMap fun i => (List.range ((n + 63) / 64)).map fun j => (i, j)

/-- Overflows of one pass at site 0x0002. -/
def passOvf (rows : MxeRows) (p : Nat × Nat) : Nat :=
  (((rows.drop (36 * p.1)).take 36).map fun r => ((r[p.2]?).map (·.ovf)).getD 0).sum

/-- The passes that a discarded run finishes: those before the first that overflows, and that one (R101). -/
def finishedPasses (rows : MxeRows) (l : List (Nat × Nat)) : List (Nat × Nat) :=
  l.takeWhile (fun p => passOvf rows p == 0) ++ (l.dropWhile fun p => passOvf rows p == 0).take 1

/-- Stores the output block of each pass (R107). -/
def State.writePasses (s : State) (r : Reach) (d : Desc) (f : Fmt) (rows : MxeRows) (l : List (Nat × Nat)) : State × Bool :=
  l.foldl (fun (a : State × Bool) p =>
    (((rows.zipIdx.drop (36 * p.1)).take 36).foldl (fun (a : State × Bool) row =>
      match row.1[p.2]? with
      | some e => let w := a.1.writeSegment r d f row.2 (64 * p.2) e; (w.1, a.2 && w.2)
      | none => a) a)) (s, true)

/-- The runs of a command: from FO up the ladder until a run writes no overflow at site 0x0002, or U16w (R101); `enc` encodes the output at a format. -/
def ladder (widen : Bool) (enc : Fmt → MxeRows) : Nat → Fmt → List (Fmt × MxeRows)
  | 0, f => [(f, enc f)]
  | k + 1, f =>
    let e := enc f
    if widen ∧ f ≠ .u16w ∧ 0 < ((e.flatten).map (·.ovf)).sum then (f, e) :: ladder widen enc k (nextRung f) else [(f, e)]

/-- The discarded runs in turn: their finished passes are written, and each re-run is logged and shown (R101, R104). The Boolean tells that the climb goes on: a store that fails ends it, and so does a rung whose blocks the view would not hold whole (R563; log entry 121). -/
def State.climb (s : State) (r : Reach) (core g tensor m n : Nat) (dc : Desc) : Nat → List (Fmt × MxeRows) → State × Bool
  | _, [] => (s, true)
  | k, (f, rows) :: l =>
    let (s, ok) := s.writePasses r dc f rows (finishedPasses rows (passesOf m n))
    if !ok then (s, false)
    else
      let s := (s.widenLog core 0 0 tensor f (nextRung f)).showRun g (nextRung f) (k + 1)
      if dc.whole (nextRung f) n then s.climb r core g tensor m n dc (k + 1) l else (s, false)

/-- An MMUL that ends ABORTED after it began leaves its output buffer, of U16 elements where it may widen, without defined values (R103, R105). -/
def State.mmulAbort (s : State) (q : Nat) (x : Exec) (b : Mmul) (dc : Desc) : State :=
  let r : Reach := ⟨s.coreFor q, [.sram], false⟩
  let s := s.undefineView r dc ((Fmt.ofCode b.fo).getD .u16w) b.m b.n
  let s := if b.widen then s.undefineView r dc .u16w b.m b.n else s
  s.finish x.id .aborted (s.mxeField (coreOf q) x)

/-- Counts a finished MMUL in the registers of its core and in the step's window, its re-runs among them, which an aborted one does not count (R96); `top` tells that the ladder had no rung above its last format (Table 3.8, R311). -/
def State.mmulCounts (s : State) (g : Nat) (top : Bool) (f : Fmt) (r : RunStats) : State :=
  let s := ((s.fadd F.mxeOvfNCount r.inner.ovf g 0).fadd F.mxeVanNCount r.inner.van g 0)
  let s := ((s.fadd F.mxeOvfNCount r.out.ovf g f.code).fadd F.mxeVanNCount r.out.van g f.code)
  let s := (s.fadd F.mxeFaultsFormatFaults r.faults g).fadd F.mxeFaultsNonfiniteIn r.nonfinIn g
  let s := if top ∧ 0 < r.out.ovf then s.fadd F.mxeWidenTopOvf 1 g else s
  let s := s.fadd F.mxeWidenReruns r.reruns g
  (s.tallyWindow .u16w r.inner).tallyWindow f r.out

/-- MMUL once its operands are read: the exact product in the reference order, the output stage with widening, the stores, the counts and the status (R80 to R105). -/
def State.mmulRun (s : State) (q : Nat) (x : Exec) (b : Mmul) (dc : Desc) (a w : List (List (Nat × Nat))) : State :=
  let g := coreOf q
  let core := s.coreFor q
  let fa := (Fmt.ofCode b.fa).getD .u16w
  let fb := (Fmt.ofCode b.fb).getD .u16w
  let fo := (Fmt.ofCode b.fo).getD .u16w
  let va := a.map (rowValues fa)
  let vb := w.map (rowValues fb)
  let nonfin := ((va ++ vb).map fun r => (r.1.filter Val.nonfinite).length).sum
  let faults := ((va ++ vb).map (·.2)).sum
  let roots := va.mapIdx fun i ra => vb.mapIdx fun j rb => mxeElement (s.site b.tensor (dc.index i j) 1) fa fb ra.1 rb.1
  let chord := (roots.flatten.map (·.tally)).foldl Tally.add {}
  let enc (f : Fmt) : MxeRows := roots.mapIdx fun i r =>
    (chunksOf 64 r.length (r.mapIdx fun j p => (p.val.shift (-b.scale), eddy (s.site b.tensor (dc.index i j) 2)))).map (encodeRow f)
  let runs := ladder b.widen enc 3 fo
  let f := (runs.getLastD (fo, [])).1
  let rows := (runs.getLastD (fo, [])).2.map wholeRow
  let reruns := runs.length - 1
  let reach : Reach := ⟨core, [.sram], false⟩
  let (s, climbed) := s.climb reach core g b.tensor b.m b.n dc 0 runs.dropLast
  if !climbed then s.mmulAbort q x b dc
  else
    let (s, landed) := s.writePasses reach dc f (runs.getLastD (fo, [])).2 (passesOf b.m b.n)
    if !landed then s.mmulAbort q x b dc
    else
      let s := if f ≠ fo then s.setDescFmt core dc f else s
      let vals := rows.map (encodedValues f)
      let out : Tally := ⟨b.m * b.n, (rows.map (·.ovf)).sum, (rows.map (·.van)).sum⟩
      let stats : RunStats :=
        { hist := histogram b.hbase vals.flatten, inner := chord, out := out, nonfinIn := nonfin, faults := faults
          elems := vals.flatten.length, final := f.code, reruns := reruns, retry := x.retried
          ovfWiden := (runs.dropLast.map fun r => ((finishedPasses r.2 (passesOf b.m b.n)).map (passOvf r.2)).sum).sum }
      let (s, recorded) := if b.stats then s.storeAt reach (x.param (bitsOf x.entry 173 168)) stats.bytes else (s, true)
      if !recorded then s.mmulAbort q x b dc
      else
        let bad := vals.flatten.any Val.nonfinite
        let s := (s.mmulCounts g (b.widen && f == .u16w) f stats).watch b.tensor (vals.flatMap fun r => r.take b.n)
        let s := if bad then s.nonfinite else s
        s.finish x.id (if bad then .nonfinite else if f ≠ fo then .widened else .ok)
          (f.code + 16 * (reruns % 16) + if x.retried then 256 else 0)

/-- The checks and the operand reads of an MMUL, then its run; any failure completes it ABORTED, one of its checks before it executes anything (R82, R86, R87, R105). -/
def State.mmul (s : State) (q : Nat) (x : Exec) : State :=
  let b := mmulOf x.entry
  let core := s.coreFor q
  let reach : Reach := ⟨core, [.sram], false⟩
  let s := s.showRun (coreOf q) ((Fmt.ofCode b.fo).getD .u16w) 0
  let refuse (s : State) : State := s.finish x.id .aborted (s.mxeField (coreOf q) x)
  if !zeroBits x.entry [(153, 152), (135, 128), (43, 0)] then refuse s
  else
    let (s, da) := s.readDesc core (x.param (bitsOf x.entry 191 186))
    let (s, db) := s.readDesc core (x.param (bitsOf x.entry 185 180))
    let (s, dc) := s.readDesc core (x.param (bitsOf x.entry 179 174))
    match da, db, dc with
    | some da, some db, some dc =>
      if !mmulOk b (formatsOf (s.f F.featFormatsMxeOut)) da db dc || !s.mmulLocal b (x.param (bitsOf x.entry 173 168)) da db dc then refuse s
      else
        let (s, va) := s.readView reach da b.m b.k
        let (s, vb) := s.readView reach db b.n b.k
        match va, vb with
        | some va, some vb => s.mmulRun q x b dc va vb
        | _, _ => s.mmulAbort q x b dc
    | _, _, _ => refuse s

/-- MMUL: the matrix product of the queue's entry in execution (R80); a pass held back by a residue retry waits for the retry's end (R107). -/
def execMmul (q : Nat) (s : State) : Host.Outcome State Fault Refusal :=
  match s.running q [0x20] with
  | some x => if s.fb F.mxeStatusRetry (coreOf q) then .next s else .next (s.asSeen x fun s => s.mmul q x)
  | none => .next s

/-- MTEST: OK when the signature and the injected error are as the boot ROM has them, else ABORTED with an uncorrectable record for the core; a non-zero body is ABORTED (R84, R110). -/
def execMtest (q : Nat) (pass : TestPass) (s : State) : Host.Outcome State Fault Refusal :=
  match s.running q [0x2F] with
  | some x =>
    if !zeroBits x.entry [(191, 0)] then .next (s.finish x.id .aborted)
    else if pass then .next (s.finish x.id .ok)
    else .next ((s.error 0x3001 sevUncorrectable (s.coreFor q) (s.coreFor q) 0 0 Status.aborted.code).finish x.id .aborted)
  | none => .next s

/-- A failed residue retry ends an MMUL; its output holds no defined values (R105, R107). -/
def State.mmulFail (s : State) (q : Nat) (x : Exec) : State :=
  let (s, dc) := s.readDesc (s.coreFor q) (x.param (bitsOf x.entry 179 174))
  match dc with
  | some dc => s.mmulAbort q x (mmulOf x.entry) dc
  | none => s.finish x.id .aborted (s.mxeField (coreOf q) x)

/-- MXE queue of a core position named by global index. -/
def mxeQueue (core : Nat) : Nat := core / 17 * 128 + core % 17 * 4

/-- RESIDUE_MISMATCH: the pass's output is held back and its retry starts (R107, Table 3.7). -/
def execResidueMismatch (core pass : Nat) (s : State) : Host.Outcome State Fault Refusal :=
  match s.running (mxeQueue core) [0x20] with
  | some _ => .next ((s.fset F.mxeStatusRetry 1 core).fset F.mxeResidueLastPass (pass % 2 ^ 16) core)
  | none => .next s

/-- RESIDUE_RETRY_END: a clean retry is counted and the command goes on; a failed one aborts it and puts the core's domain into recovery (Table 3.7). -/
def execResidueRetryEnd (core : Nat) (ok : Bool) (s : State) : Host.Outcome State Fault Refusal :=
  match s.running (mxeQueue core) [0x20], s.fb F.mxeStatusRetry core with
  | some x, true =>
    let g := s.coreFor (mxeQueue core)
    let s := s.fset F.mxeStatusRetry 0 core
    let pass := s.f F.mxeResidueLastPass core
    if ok then
      let s := (s.fadd F.mxeResidueRetried 1 core).error 0x7001 sevCorrectable g g 0 pass
      .next { s with execs := updateAll s.execs (fun y => y.id == x.id) fun y => { y with retried := true } }
    else
      let s := (s.fadd F.mxeResidueFailed 1 core).error 0x3001 sevUncorrectable g g 0 pass Status.aborted.code
      .next ((s.faultDomain g g pass).mmulFail (mxeQueue core) { x with retried := true })
  | _, _ => .next s

end Sys2Proof.Machine
end

