-- ==== Sys2Proof/Machine/Queues.lean ====
section
/-! DEFINITION. Queues (chapter Engines, Queues and Command Lists): heads and their checks, starts and completions, REPLAY and the common entries, queue commands, and the Stalemate detector. -/

namespace Sys2Proof.Machine

/-! ### Reading the head (R154, R162, R224) -/

/-- Entries of a ring-fed queue's ring (Table 7.20). -/
def State.ringSize (s : State) (q : Nat) : Nat := 2 ^ (s.f F.lkeRingNSz q + 4)

/-- HEAD of a ring-fed queue. -/
def State.ringHead (s : State) (q : Nat) : Nat := s.f F.lkeHeadNHead q

/-- Entries between HEAD and the tail flag, modulo 2^16 (R224). -/
def State.ringAvail (s : State) (q : Nat) : Nat :=
  (s.flag (s.homeDie q) (s.f F.lkeRingNTailflag q) - BitVec.ofNat 16 (s.ringHead q)).toNat

/-- The entry at a Score index of a core queue's region or at a ring position; none outside the region or where the read is uncorrectable. -/
def State.readEntry (s : State) (q pos : Nat) : State × Option (BitVec 256) :=
  if isCoreQueue q then
    if s.f F.queueQRegionBase q ≤ pos ∧ pos < s.f F.queueQRegionBase q + s.f F.queueQRegionSize q then
      let (s, l) := s.readBytes .score (s.coreFor q * 0x10000 + pos * 32) 32
      (s, l.map entryOf)
    else (s, none)
  else
    let (s, l) := s.load false .sram (s.f F.lkeRingNBase q + pos % s.ringSize q * 32) 32
    (s, l.map entryOf)

/-- Position and iteration of the next entry that a REPLAY starts: the next of its range, or the first of the following iteration; none after its last. -/
def Replay.upcoming (r : Replay) : Option (Nat × Nat) :=
  if r.k < r.len then some (r.pos + 1 + r.k, r.it)
  else if r.it + 1 < r.count then some (r.pos + 1, r.it + 1)
  else none

/-- Index behind a REPLAY's range. -/
def Replay.behind (r : Replay) : Nat := r.pos + 1 + r.len

/-- The head of a queue: the entry that RETRY names, the next entry of the REPLAY in progress, the ring entry taken, or the Score entry at HEAD. -/
def State.headOf (s : State) (q : Nat) : State × Option Head :=
  let rt := s.queue q
  let again (s : State) (h : Head) : State × Option Head :=
    let (s, e) := s.readEntry q h.pos
    (s, some { h with entry := e })
  match rt.redo, rt.halted, rt.replay, rt.taken with
  | true, some h, _, _ => if isCoreQueue q || h.entry.isNone then again s h else (s, some h)
  | _, _, some r, _ =>
    match r.failed, r.upcoming with
    | false, some (pos, it) => again s { pos, iter := it, wstep := r.wstep }
    | false, none => if isCoreQueue q then again s { pos := r.behind } else (s, none)
    | true, _ => (s, none)
  | _, _, none, some h => (s, some h)
  | _, _, none, none => if isCoreQueue q then again s { pos := rt.head } else (s, none)

/-- HEAD of QUEUE_q_STATUS: the Score index or, for ring-fed queues, the low 11 bits of the ring position, of the head entry; of a HALTED queue it stays, since an entry that has not started is the head until a command moves the queue on (R154, Table 5.11; log entry 44). -/
def State.showHead (s : State) (q : Nat) : State :=
  let rt := s.queue q
  let pos :=
    match rt.redo, rt.halted, rt.replay, rt.taken with
    | true, some h, _, _ => h.pos
    | _, _, some r, _ => (r.upcoming.map (·.1)).getD r.behind
    | _, _, none, some h => h.pos
    | _, _, none, none => if isCoreQueue q then rt.head else s.ringHead q
  if s.qState q = qHalted then s else s.fset F.queueQStatusHead (pos % 2 ^ 11) q

/-! ### Head checks (R154) -/

/-- Opcodes of a queue with a meaning (Tables 3.1, 4.2, 5.7, 5.10, 7.2, 8.3, 11.3). -/
def opcodesOf (q : Nat) : List Nat :=
  [0, 1, 2, 3, 4] ++
  match qClass q with
  | some (.core _ _ 0) => [0x20, 0x2F]
  | some (.core _ _ 1) => [0x30, 0x31, 0x33, 0x3F]
  | some (.core _ _ 2) => [0x40, 0x41]
  | some (.core _ _ _) => [0x10, 0x12]
  | some (.lke _ _) => [0x50, 0x51, 0x52, 0x53, 0x54, 0x55]
  | some (.fxe _) => [0x60, 0x61, 0x62, 0x68, 0x69, 0x78, 0x79, 0x7A]
  | some (.cme _) => [0x80, 0x81, 0x82, 0x83, 0x84, 0x85, 0x86, 0x87, 0x88, 0x89]
  | none => []

/-- Types that an atomic operation takes (Table 6.5): integers, or the 16-bit formats for FMIN and FMAX; a reserved OP takes any defined type and is refused by the SUC (R195). -/
def atomicTypes (op : Nat) : List Nat :=
  if op ≤ 7 then [8, 9, 10] else if op ≤ 9 then [0, 1] else [0, 1, 8, 9, 10]

/-- An operand pair of the MXE: two 16-bit formats, or twice the same block format (R81). -/
def operandPair (a b : Nat) : Bool := (decide (a ≤ 1) && decide (b ≤ 1)) || a == b

/-- Every format field of the body is accepted (R154 check 4, R48). -/
def State.formatsOk (s : State) (e : BitVec 256) : Bool :=
  match opcodeOf e with
  | 0x20 => hasFormat (s.f F.featFormatsMxeIn) (bitsOf e 167 164) && hasFormat (s.f F.featFormatsMxeIn) (bitsOf e 163 160) &&
      hasFormat (s.f F.featFormatsMxeOut) (bitsOf e 159 156) && operandPair (bitsOf e 167 164) (bitsOf e 163 160)
  | 0x50 => hasFormat (s.f F.featFormatsLke) (bitsOf e 143 140)
  | 0x53 => (atomicTypes (bitsOf e 185 182)).contains (bitsOf e 181 178)
  | 0x54 => hasFormat (s.f F.featFormatsSuc) (bitsOf e 185 182)
  | 0x62 => (atomicTypes (bitsOf e 173 170)).contains (bitsOf e 169 166)
  | 0x68 => hasFormat (s.f F.featFormatsFxe) (bitsOf e 173 170)
  | _ => true

/-- Checks 2 to 5 of R154 in their order. -/
def State.headFault (s : State) (q : Nat) (e : BitVec 256) : Option Status :=
  if !(opcodesOf q).contains (opcodeOf e) then some .aborted
  else if waitEn e && s.absent (waitSetter e) then some .engineAbsent
  else if !s.formatsOk e then some .formatAbsent
  else if waitEn e && reservedSetter (waitSetter e) then some .aborted
  else none

/-! ### Completion (R156 to R158) -/

/-- Writes the completion record of Table 5.6. -/
def State.record (s : State) (q : Nat) (h : Head) (st : Status) (engine : Nat) : State :=
  if s.fb F.queueQCringEn q then
    let n := s.f F.queueQCseqRecords q
    let w := st.code * 2 ^ 120 + opcodeOf (h.entry.getD 0) * 2 ^ 112 + engine % 2 ^ 16 * 2 ^ 96 + h.iter % 2 ^ 16 * 2 ^ 80 +
      h.pos % 2 ^ 11 * 2 ^ 69 + s.now % 2 ^ 64
    let slot := n % 2 ^ (s.f F.queueQCringSz q + 6)
    (s.store false .sram (s.f F.queueQCringBase q + slot * 16) (leBytes 16 w)).1.fwrap F.queueQCseqRecords 1 q
  else s

/-- The status of a completion: LAST_STATUS, the flag add, the record, the queue's source, and the abort vote (R156, R158, R282). -/
def State.postStatus (s : State) (q : Nat) (h : Head) (st : Status) (engine : Nat) : State :=
  let e := h.entry.getD 0
  let s := s.fset F.queueQStatusLastStatus st.code q
  let s := if st.code < 0x10 ∧ setEn e then s.flagAdd (s.homeDie q) (setFlag e) (setInc e) else s
  let s := s.record q h st engine
  let s := if 0x10 ≤ st.code ∨ eventBit e then s.raise 0x5000 (queueSource q) else s
  if st = .aborted then s.abortVote else s

/-- An abnormal status halts the queue unless it is STOPPED; the first entry that halts it is the one that RETRY names (Table 5.5, R173). -/
def State.halt (s : State) (q : Nat) (h : Head) (st : Status) : State :=
  if st.code < 0x10 ∨ s.qState q = qStopped ∨ s.qState q = qHalted then s
  else
    ((s.setQueue q { s.queue q with halted := some h, redo := false }).enter q qHalted).endWait q

/-- Busy bits of a core's matrix and vector engines (Tables 3.9, 4.11). -/
def State.showBusy (s : State) (q : Nat) : State :=
  let ops := (s.execsOf q).map fun x => (opcodeOf x.entry, x.chan)
  let has (p : Nat × Nat → Bool) : Nat := if ops.any p then 1 else 0
  let s := s.showExec q
  match qClass q with
  | some (.core d p 0) =>
    let s := if has (fun o => o.1 == 0x20) = 1 then s else (s.fset F.mxeStatusRetry 0 (d * 17 + p)).showRun (d * 17 + p) .u16w 0
    (s.fset F.mxeStatusBusy (has fun o => o.1 == 0x20 || o.1 == 0x2F) (d * 17 + p)).fset F.mxeStatusMtest (has fun o => o.1 == 0x2F) (d * 17 + p)
  | some (.core d p 1) =>
    let g := d * 17 + p
    let s := (s.fset F.vxeStatusEBusy (has fun o => o.1 == 0x30 || o.1 == 0x33) g).fset F.vxeStatusVtest (has fun o => o.1 == 0x3F) g
    (s.fset F.vxeStatusD0Busy (has fun o => o == (0x31, 0)) g).fset F.vxeStatusD1Busy (has fun o => o == (0x31, 1)) g
  | _ => s

/-- An entry in execution is the REPLAY that started another one: it started before it, and it still issues, or its last entry started after the other. -/
def State.replays (s : State) (y x : Exec) : Bool :=
  let rt := s.queue x.q
  opcodeOf y.entry == 1 && decide (y.id < x.id) && ((rt.replay.any fun r => r.id == y.id) || rt.drains.any fun d => d.1 == y.id && decide (x.id < d.2.1))

/-- The journal is free once no unit holds a record (R290). -/
def State.freeJournal (s : State) : State :=
  if s.units.all fun u => u.recs.isEmpty then { s with jcount := 0 } else s

/-- A RETIRED unit stays, with its records, as long as an entry in execution took it before it retired (R279). -/
def State.dropRetired (s : State) : State :=
  State.freeJournal { s with units := s.units.filter fun u =>
      u.state != .retired || s.execs.any fun x => x.units.any fun p => p.1 == u.slot && p.2.1 == u.step }

/-- The registers that a REPLAY patches go back to what the halted entry of it read, so that its RETRY reads its own iteration's values; what they held returns behind it (R167). -/
def State.rewind (s : State) (q : Nat) (x : Exec) (patched : List Nat) : State :=
  let now : List (Nat × Word) := patched.map fun m => (m, s.rd ⟨.queueQParamM, q, m⟩)
  let then_ : List (Nat × Word) := patched.map fun m => (m, x.params.getD m 0)
  if now = then_ then s
  else then_.foldl (fun s p => s.fset F.queueQParamMValue p.2.toNat q p.1) (s.setQueue q { s.queue q with later := now })

/-- Commands of this part that pinned a version of a table while it was ONLINE (R263, R264). -/
def State.pinned (s : State) (table version : Nat) : Bool := s.execs.any fun x => x.pin == some (table, version, 1)

/-- The part sends its release of the retained version, once, when no command of it is pinned to that version (R263). -/
def State.sendRelease (s : State) (table version : Nat) : State :=
  let d := s.dir table
  if d.oldValid && d.oldVersion == version && !s.pinned table version && !s.released.contains (table, version) then
    { s with released := s.released ++ [(table, version)] }.emit (.release table version)
  else s

/-- An entry leaves its queue's execution with its status posted; END stops its queue; the last one pinned to a retained version sends its release. -/
def State.complete (s : State) (x : Exec) (st : Status) (engine : Nat) : State :=
  let h : Head := { pos := x.pos, iter := x.iter, wstep := x.wstep, entry := some x.entry, id := x.id }
  let mine := (s.queue x.q).patched.find? fun p => s.execs.any fun y => y.id == p.1 && s.replays y x
  let fresh := s.qState x.q != qHalted && s.qState x.q != qStopped
  let s := { s with execs := s.execs.filter fun y => y.id != x.id }.dropRetired
  let s := ((s.postStatus x.q h st engine).halt x.q h st).showBusy x.q
  let s := match mine with
    | some p => if fresh && s.qState x.q == qHalted then s.rewind x.q x p.2 else s
    | none => s
  let s := match x.pin with
    | some (t, v, 1) => s.sendRelease t v
    | _ => s
  let rt := s.queue x.q
  match opcodeOf x.entry with
  | 0x01 =>
    let s := s.setQueue x.q { rt with drains := rt.drains.filter fun d => d.1 != x.id, owed := 0
                                      patched := rt.patched.filter fun p => p.1 != x.id }
    if isCoreQueue x.q then s else (s.fwrap F.lkeHeadNHead rt.owed x.q).showHead x.q
  | 0x04 => if st = .ok ∧ s.qState x.q ≠ qHalted then (s.enter x.q qStopped).endWait x.q else s
  | _ => s

/-! ### Leaving the head -/

/-- The patch values of iteration `it`, none where a table value cannot be read (R166, R167). -/
def State.patchValues (s : State) (q it : Nat) : List Patch → State × Option (List (Nat × Word))
  | [] => (s, some [])
  | p :: ps =>
    let (s, v) :=
      if p.table then
        let (s, l) := s.loadAt ⟨s.coreFor q, [.sram], false⟩ (p.value.toNat + 8 * it) 8
        (s, l.map fun l => BitVec.ofNat 64 (leNat l))
      else (s, some (p.base + BitVec.ofNat 64 it * p.value))
    let (s, r) := s.patchValues q it ps
    (s, match v, r with | some v, some r => some ((p.param, v) :: r) | _, _ => none)

/-- Writes parameter registers in order. -/
def State.setParams (s : State) (q : Nat) (l : List (Nat × Word)) : State :=
  l.foldl (fun s p => s.fset F.queueQParamMValue p.2.toNat q p.1) s

/-- Applies the patches of the REPLAY's iteration, or ends the REPLAY there where a table value cannot be read (R167). -/
def State.patchReplay (s : State) (q : Nat) (r : Replay) : State :=
  let (s, v) := s.patchValues q r.it r.patches
  let rt := s.queue q
  match v with
  | some l => (s.setParams q l).setQueue q { rt with replay := some r }
  | none => s.setQueue q { rt with replay := some { r with failed := true }, drains := rt.drains ++ [(r.id, s.nextId, .aborted)] }

/-- The head entry has left the head: the REPLAY in progress steps on within its iteration; otherwise the next Score index follows, or the taken ring entry is gone. -/
def State.advance (s : State) (q : Nat) : State :=
  let rt := s.queue q
  if rt.redo then s.setQueue q { rt with redo := false, halted := none }
  else
    match rt.replay with
    | some r => s.setQueue q { rt with replay := some { r with k := r.k + 1 } }
    | none => if isCoreQueue q then s.setQueue q { rt with head := rt.head + 1 } else s.setQueue q { rt with taken := none }

/-- A REPLAY whose last entry has started ends with its final delta patches and drains (R166). -/
def State.endReplay (s : State) (q : Nat) (r : Replay) : State :=
  let s := s.setParams q ((r.patches.filter fun p => !p.table).map fun p => (p.param, p.base + BitVec.ofNat 64 r.count * p.value))
  let rt := s.queue q
  s.setQueue q { rt with replay := none, drains := rt.drains ++ [(r.id, s.nextId, .ok)], head := r.behind }

/-- The turn of an iteration, as the queue comes to its next head: the next iteration's patches, or the end of the REPLAY. Until then the registers hold the iteration's values, which an entry that RETRY restarts reads again (R166, R167). -/
def State.turnReplay (s : State) (q : Nat) : State :=
  let rt := s.queue q
  match rt.redo, rt.replay with
  | false, some r =>
    if r.failed || decide (r.k < r.len) then s
    else if r.it + 1 < r.count then s.patchReplay q { r with it := r.it + 1, k := 0 }
    else s.endReplay q r
  | _, _ => s

/-- The head entry ends without starting: it takes its place in the order of starts, leaves the head, and its status is posted. A ring-fed REPLAY that ends so counts as one entry taken; behind one that has begun, HEAD waits for its completion (R167). -/
def State.dropHead (s : State) (q : Nat) (h : Head) (st : Status) (halts : Bool) : State :=
  let owed := if (s.queue q).taken.isSome then (s.queue q).owed else 0
  let h := { h with id := if (s.queue q).redo then h.id else s.nextId }
  let s := { s with nextId := s.nextId + 1 }.advance q
  let s := if owed = 0 then s else (s.fwrap F.lkeHeadNHead owed q).setQueue q { s.queue q with owed := 0 }
  let s := (s.postStatus q h st 0).endWait q
  let s := if halts then s.halt q h st else s
  s.showHead q

/-! ### Starts (R155, R119, R144) -/

/-- Tiles that a vector entry reads and those it writes, as its descriptors or its direct-channel block name them (R119). -/
def State.vxeTiles (s : State) (q : Nat) (e : BitVec 256) (params : List Word) : List Nat × List Nat :=
  let core := s.coreFor q
  let p (i : Nat) : Nat := (params.getD i 0).toNat
  let tiles (regs : List Nat) : List Nat := regs.filterMap fun i =>
    match (s.readDesc core (p i)).2 with
    | some d => if d.tile then some (d.ebase % 32) else none
    | none => none
  match opcodeOf e with
  | 0x30 => let r := eprogDescRegs e (eprogOf e); (tiles r.1, tiles r.2)
  | 0x33 => (tiles [bitsOf e 191 186], tiles [bitsOf e 185 180])
  | 0x31 =>
    match (s.loadAt ⟨core, [.sram, .hbm], false⟩ (p (bitsOf e 191 186)) (8 * (bitsOf e 185 176 + 1))).2 with
    | some l =>
      let prog := (chunksOf 8 (bitsOf e 185 176 + 1) l).map fun w => directOfWord (leNat w)
      ((prog.filter fun u => directOpOf u.op == .tileLoad).map (·.imm % 32),
       (prog.filter fun u => directOpOf u.op == .tileStore).map (·.imm % 32))
    | none => ([], [])
  | _ => ([], [])

/-- No tile of the entry is written by an entry in execution, and none it writes is read by one (R119). -/
def State.tilesFree (s : State) (q : Nat) (e : BitVec 256) (params : List Word) : Bool :=
  let a := s.vxeTiles q e params
  (s.execsOf q).all fun x =>
    let b := s.vxeTiles q x.entry x.params
    !((a.1 ++ a.2).any fun t => b.2.contains t) && !(a.2.any fun t => b.1.contains t)

/-- Direct channels with no DRUN in execution. -/
def State.freeChannels (s : State) (q : Nat) : List Nat :=
  [0, 1].filter fun c => !((s.execsOf q).any fun x => opcodeOf x.entry == 0x31 && x.chan == c)

/-- Direct channel that a DRUN takes; the lower free one for CH = 2 (Table 4.7); 2 for entries that take none. -/
def State.channelFor (s : State) (q : Nat) (e : BitVec 256) : Option Nat :=
  if opcodeOf e ≠ 0x31 then some 2
  else
    let ch := bitsOf e 175 174
    (s.freeChannels q).find? fun c => ch ≥ 2 || c == ch

/-- The engine of an entry is free (R155): one entry on the MXE and the control queue, four on the DMA queue, R119 and R144 on the VXE; the spec gives the ring-fed engines no limit (log entry 12). -/
def State.engineFree (s : State) (q : Nat) (e : BitVec 256) (params : List Word) : Bool :=
  let busy := (s.execsOf q).filter fun x => decide (0x10 ≤ opcodeOf x.entry)
  if opcodeOf e < 0x10 then true
  else
    match qClass q with
    | some (.core d p 1) =>
      let g := d * 17 + p
      let testing := busy.any fun x => opcodeOf x.entry == 0x3F
      let eddyBusy := busy.any fun x => opcodeOf x.entry == 0x30 || opcodeOf x.entry == 0x33
      if s.fb F.vxeModeReduced g then busy.isEmpty && s.vxeCause g != 0
      else if s.vxeCause g != 0 then false
      else !testing && s.tilesFree q e params &&
        match opcodeOf e with
        | 0x30 | 0x33 => !eddyBusy
        | 0x31 => (s.channelFor q e).isSome
        | _ => busy.isEmpty
    | some (.core _ _ 2) => decide (busy.length < 4)
    | some (.core _ _ _) => busy.isEmpty
    | _ => true

/-- An entry that RETRY has named, which is to start again, stands before entry `id` in the queue (R173). -/
def QueueRt.retries (rt : QueueRt) (id : Nat) : Bool := rt.redo && rt.halted.any fun h => decide (h.id < id)

/-- A common entry in execution holds back its successors: PSET and JUMP until they have acted, a REPLAY until it issues, END until it stops the queue (R164). -/
def State.headBlocked (s : State) (q : Nat) : Bool :=
  let rt := s.queue q
  (s.execsOf q).any fun x => !rt.retries x.id &&
    match opcodeOf x.entry with
    | 2 | 3 => x.result.isNone
    | 4 => true
    | 1 => !((rt.replay.any fun r => r.id == x.id && !r.failed) || rt.drains.any fun d => d.1 == x.id)
    | _ => false

/-- The version that a lookup or scatter pins at its start tick, with the table's STATE, plus 16 for an epoch that is neither current nor retained (R217, R229). -/
def State.pinOf (s : State) (e : BitVec 256) (params : List Word) : Option (Nat × Nat × Nat) :=
  let t := bitsOf e 161 146
  let pin (explicit_ : Bool) (reg : Nat) : Option (Nat × Nat × Nat) :=
    let d := s.dir t
    let v := (params.getD reg 0).toNat % 2 ^ 32
    if explicit_ then some (t, v, if v = d.version ∨ d.oldValid ∧ v = d.oldVersion then d.state else d.state + 16)
    else some (t, d.version, d.state)
  match opcodeOf e with
  | 0x50 => pin (bitOf e 138) (bitsOf e 137 132)
  | 0x51 => pin (bitOf e 144) (bitsOf e 143 138)
  | _ => none

/-- Starts the head entry: it reads its parameter registers, pins its version and takes the units' states (R155, R229, R279), and leaves the head. An entry that RETRY restarts keeps its place in the order of starts; a REPLAY that it restarts goes on with its failed iteration (R167). -/
def State.start (s : State) (q : Nat) (h : Head) (e : BitVec 256) : State :=
  let params := (List.range 64).map fun m => s.rd ⟨.queueQParamM, q, m⟩
  let x : Exec :=
    { id := if (s.queue q).redo then h.id else s.nextId, q, entry := e, pos := h.pos, iter := h.iter, params, start := s.now, pin := s.pinOf e params
      units := s.step.edgeUnits, epoch := s.step.edgeCommitted
      retried := false, result := none, wstep := h.wstep, chan := (s.channelFor q e).getD 2 }
  let again := (s.queue q).redo
  let before (y : Exec) : Bool := decide (y.id < x.id)
  let s := { s with execs := s.execs.takeWhile before ++ [x] ++ s.execs.dropWhile before
                    nextId := s.nextId + 1 }
  let s := (s.setParams q (s.queue q).later).setQueue q { s.queue q with later := [] }
  let s := match x.pin with | some p => s.readDir p.1 | none => s
  let s := if opcodeOf e = 0x20 then s.showRun (coreOf q) ((Fmt.ofCode (bitsOf e 159 156)).getD .u16w) 0 else s
  let s := s.advance q
  let rt := s.queue q
  let s :=
    match opcodeOf e, again, rt.replay with
    | 1, true, some r =>
      (s.setQueue q { rt with patched := rt.patched ++ [(x.id, r.patches.map fun p : Patch => p.param)] }).patchReplay q { r with id := x.id, failed := false }
    | _, _, _ => s
  (s.showBusy q).showHead q

/-- WAIT fields of the head entry (Table 5.20). -/
def State.showWait (s : State) (q : Nat) (e : BitVec 256) (target : Nat) : State :=
  let s := (s.fset F.queueQWaitTarget target q).fset F.queueQWaitSetter (waitSetter e) q
  let s := (s.fset F.queueQWaitFlag (waitFlag e) q).fset F.queueQWaitFlagNow ((s.flag (s.homeDie q) (waitFlag e)).toNat) q
  s.fset F.queueQWaitActive 1 q

/-- A ring-fed REPLAY starts only when its LEN entries lie below the tail (R167). -/
def State.replayCovered (s : State) (q : Nat) (e : BitVec 256) : Bool :=
  isCoreQueue q || opcodeOf e != 1 || (s.queue q).redo || decide (s.ringSize q - 1 < bitsOf e 175 168 + 1) ||
    decide (bitsOf e 175 168 + 1 < s.ringAvail q)

/-- The head of a RUNNING or WAITING queue: checks, wait, and start (R154, R155, R170). -/
def State.entryStart (s : State) (q : Nat) : State :=
  let s := (s.turnReplay q).showHead q
  let (s, h) := s.headOf q
  match h with
  | none => s
  | some h =>
    match h.entry with
    | none => s.dropHead q h .aborted true
    | some e =>
      match s.headFault q e with
      | some st => s.dropHead q h st true
      | none =>
        let target := waitTarget (waitValue e) (s.f F.queueQStatusWbias q) h.iter h.wstep
        if waitEn e && !waitReached (s.flag (s.homeDie q) (waitFlag e)) target then (s.showWait q e target).enter q qWaiting
        else
          let s := if s.qState q = qWaiting then (s.endWait q).enter q qRunning else s
          let params := (List.range 64).map fun m => s.rd ⟨.queueQParamM, q, m⟩
          if s.engineFree q e params && s.replayCovered q e then s.start q h e else s

/-- The core of a core queue runs: it is neither in Lull nor in Deep Lull (R404, R405). -/
def State.awake (s : State) (q : Nat) : Bool := !isCoreQueue q || s.corePwr (s.coreFor q) == 0

/-- ENTRY_START: the head entry of a queue is checked, waits, or starts (R154, R155); none starts in Hove-to or once full debug is accepted, and none of a core queue whose core sleeps or while a hold is in effect (R404, R411, R435, R494). -/
def execEntryStart (q : Nat) (s : State) : Host.Outcome State Fault Refusal :=
  if (qClass q).isNone || s.absent q || s.inHove || s.fullDebug.isSome || (isCoreQueue q && s.sideband.holdActive) || !s.awake q || s.headBlocked q then .next s
  else if s.qState q = qRunning ∨ s.qState q = qWaiting then .next (s.entryStart q)
  else .next s

/-- RING_ENTRY_TAKE: the entry at HEAD of a ring-fed queue is taken; more than a ring of entries halts the queue (R224, R225, R167). -/
def execRingEntryTake (q : Nat) (s : State) : Host.Outcome State Fault Refusal :=
  let s := if (qClass q).isSome && !isCoreQueue q && s.qState q == qRunning then s.turnReplay q else s
  let rt := s.queue q
  if (qClass q).isNone || isCoreQueue q || s.qState q != qRunning || !s.fb F.lkeRingNEn q || rt.taken.isSome || rt.replay.isSome ||
      !rt.drains.isEmpty || rt.redo || s.headBlocked q || s.ringAvail q == 0 then .next s
  else
    let pos := s.ringHead q
    if s.ringSize q < s.ringAvail q then
      let h : Head := { pos, id := s.nextId }
      .next (({ s with nextId := s.nextId + 1 }.postStatus q h .aborted 0).halt q h .aborted)
    else
      let (s, e) := s.readEntry q pos
      let held := e.any fun e => opcodeOf e == 1
      let s := if held then s else s.fwrap F.lkeHeadNHead 1 q
      .next ((s.setQueue q { rt with taken := some { pos, entry := e }, owed := if held then 1 else 0 }).showHead q)

/-! ### Common entries (R164 to R168) -/

/-- Entries of a queue in execution that started before another; the REPLAY that started the other one, which ends after it, is not among them (R164). -/
def State.earlier (s : State) (x : Exec) : List Exec := (s.execsOf x.q).filter fun y => decide (y.id < x.id) && !s.replays y x

/-- Every earlier entry of the queue has completed, and none is to start again (Table 5.7, R173). -/
def State.settled (s : State) (x : Exec) : Bool := (s.earlier x).isEmpty && !(s.queue x.q).retries x.id

/-- NOP: completes when every earlier entry of the queue has completed (Table 5.7). -/
def execNop (q : Nat) (s : State) : Host.Outcome State Fault Refusal :=
  match s.running q [0x00] with
  | some x =>
    if !zeroBits x.entry [(191, 0)] then .next (s.finish x.id .aborted)
    else if s.settled x then .next (s.finish x.id .ok) else .next s
  | none => .next s

/-- PSET: writes a parameter register of its own queue (Table 5.7). -/
def execPset (q : Nat) (s : State) : Host.Outcome State Fault Refusal :=
  match s.running q [0x02] with
  | some x =>
    if !zeroBits x.entry [(185, 64)] then .next (s.finish x.id .aborted)
    else .next ((s.fset F.queueQParamMValue (bitsOf x.entry 63 0) q (bitsOf x.entry 191 186)).finish x.id .ok)
  | none => .next s

/-- JUMP: adds WDELTA to WBIAS; a core queue continues at TARGET, a ring-fed queue with its next entry (R168). A TARGET outside the region halts the queue as the next head is read (R162). -/
def execJump (q : Nat) (s : State) : Host.Outcome State Fault Refusal :=
  match s.running q [0x03] with
  | some x =>
    let target := bitsOf x.entry 191 181
    if !zeroBits x.entry [(180, 176), (159, 0)] || (!isCoreQueue q && target != 0) then .next (s.finish x.id .aborted)
    else
      let s := s.fwrap F.queueQStatusWbias (bitsOf x.entry 175 160) q
      let s := if isCoreQueue q then (s.setQueue q { s.queue q with head := target }).showHead q else s
      .next (s.finish x.id .ok)
  | none => .next s

/-- END: when every earlier entry has completed, the queue stops (Table 5.7); behind an entry that has halted the queue it waits until a command has dealt with that entry (log entry 49). -/
def execEndEntry (q : Nat) (s : State) : Host.Outcome State Fault Refusal :=
  match s.running q [0x04] with
  | some x =>
    if !zeroBits x.entry [(191, 0)] then .next (s.finish x.id .aborted)
    else if s.settled x && !(s.queue q).halted.any fun h => decide (h.id < x.id) then .next (s.finish x.id .ok) else .next s
  | none => .next s

/-- A patch entry of 16 bytes with its register's value at the REPLAY's start (Table 5.9). -/
def State.patchOf (s : State) (q : Nat) (l : List Byte) : Patch :=
  let lo := leAt l 0 8
  let param := lo / 2 ^ 58
  ⟨param, lo / 2 ^ 57 % 2 == 1, BitVec.ofNat 64 (leAt l 8 8), s.rd ⟨.queueQParamM, q, param⟩⟩

/-- The entries of a REPLAY's range are readable and hold only engine entries and NOP (R167); the reads leave their counts. -/
def State.rangeOk (s : State) (q : Nat) : List Nat → State × Bool
  | [] => (s, true)
  | p :: ps =>
    let (s, e) := s.readEntry q p
    let inside := !isCoreQueue q || decide (s.f F.queueQRegionBase q ≤ p ∧ p < s.f F.queueQRegionBase q + s.f F.queueQRegionSize q)
    let plain := match e with
      | some e => opcodeOf e == 0 || decide (0x10 ≤ opcodeOf e)
      | none => true
    let (s, ok) := s.rangeOk q ps
    (s, inside && plain && ok)

/-- Starts the iterations of a REPLAY after the checks of R164 and R167. -/
def State.replayBegin (s : State) (q : Nat) (x : Exec) : State :=
  let e := x.entry
  let count := bitsOf e 191 176 + 1
  let len := bitsOf e 175 168 + 1
  let np := bitsOf e 167 163
  let ptab := bitsOf e 63 0
  if !zeroBits e [(146, 64)] || decide (16 < np) || (!isCoreQueue q && decide (s.ringSize q - 1 < len)) ||
      (np != 0 && (decide (addrSpace ptab ≠ 1) || (s.run? ptab (16 * np)).isNone || ptab % 16 != 0)) then s.finish x.id .aborted
  else
    let (s, ok) := s.rangeOk q ((List.range len).map (x.pos + 1 + ·))
    let (s, tab) := if np = 0 then (s, some []) else s.loadAt ⟨s.coreFor q, [.sram], false⟩ ptab (16 * np)
    match ok, tab with
    | true, some l =>
      let raw := chunksOf 16 np l
      if raw.any fun w => leAt w 0 8 % 2 ^ 57 != 0 then s.finish x.id .aborted
      else
        let patches := raw.map (s.patchOf q)
        let rt := s.queue q
        let s := s.setQueue q { rt with owed := if isCoreQueue q then 0 else (x.pos + 1 + len + 2 ^ 16 - s.ringHead q) % 2 ^ 16
                                        patched := rt.patched ++ [(x.id, patches.map (·.param))] }
        (s.patchReplay q ⟨x.id, x.pos, len, count, 0, 0, patches, bitsOf e 162 147, false⟩).showHead q
    | _, _ => s.finish x.id .aborted

/-- The REPLAY of a queue that runs ends once its last entry has started, if no later head is asked for. -/
def State.lastTurn (s : State) (q : Nat) : State :=
  let rt := s.queue q
  match rt.redo, rt.replay with
  | false, some r => if s.qState q != qHalted && !r.failed && r.upcoming.isNone then s.endReplay q r else s
  | _, _ => s

/-- REPLAY: begins its iterations once it has started, and completes when every entry of its iterations has (R165 to R167). -/
def execReplay (q : Nat) (s : State) : Host.Outcome State Fault Refusal :=
  let s := s.lastTurn q
  let rt := s.queue q
  let open_ (x : Exec) : Bool := opcodeOf x.entry == 1 && x.result.isNone
  match (s.execsOf q).find? fun x => open_ x && !(rt.replay.any fun r => r.id == x.id && !r.failed) &&
      (rt.drains.all fun d => d.1 != x.id || (s.qState q != qHalted || d.2.2 != .ok) && !(rt.retries d.2.1 && rt.halted.any fun h => decide (x.id < h.id)) &&
        (s.execsOf q).all fun y => y.id ≤ x.id || d.2.1 ≤ y.id) with
  | some x =>
    match rt.drains.find? fun d => d.1 == x.id with
    | some d => .next (s.finish x.id d.2.2)
    | none => .next (s.replayBegin q x)
  | none => .next s

/-! ### Control and DMA entries (R172) -/

/-- FLAGADD: adds to a flag of any die once every earlier control entry has completed. -/
def execFlagadd (q : Nat) (s : State) : Host.Outcome State Fault Refusal :=
  match s.running q [0x10] with
  | some x =>
    if !zeroBits x.entry [(176, 176), (159, 0)] then .next (s.finish x.id .aborted)
    else if s.settled x then
      .next ((s.flagAdd (bitsOf x.entry 191 189) (bitsOf x.entry 188 177) (bitsOf x.entry 175 160)).finish x.id .ok)
    else .next s
  | none => .next s

/-- PCOPY: loads parameter registers of a queue of the core from words in SRAM space. -/
def State.pcopy (s : State) (q : Nat) (x : Exec) : State :=
  let e := x.entry
  let first := bitsOf e 189 184
  let n := bitsOf e 183 178 + 1
  if !zeroBits e [(177, 64)] || decide (64 < first + n) then s.finish x.id .aborted
  else
    let (s, l) := s.loadAt ⟨s.coreFor q, [.sram], false⟩ (bitsOf e 63 0) (8 * n)
    match l with
    | some l =>
      let vals := (chunksOf 8 n l).mapIdx fun i w => (first + i, BitVec.ofNat 64 (leNat w))
      (s.setParams (q / 4 * 4 + bitsOf e 191 190) vals).finish x.id .ok
    | none => s.finish x.id .aborted

/-- PCOPY of the queue's entry in execution. -/
def execPcopy (q : Nat) (s : State) : Host.Outcome State Fault Refusal :=
  match s.running q [0x12] with
  | some x => .next (s.asSeen x fun s => s.pcopy q x)
  | none => .next s

/-- Columns that a copy of bits unchanged moves: the view's, with the pad of the logical row's last block (R58). -/
def Desc.copyColumns (d : Desc) (n : Nat) : Nat :=
  let b := d.format.block
  if d.tile || b == 1 then n else (d.col0 + n + b - 1) / b * b - d.col0

/-- Rows as they are stored, element codes with the offset byte of each block. -/
def rawEncoded (f : Fmt) (l : List (Nat × Nat)) : Encoded :=
  { codes := l.map (·.1)
    offsets := if f.block = 1 then [] else (chunksOf f.block l.length l).map fun c => (c.headD (0, 0)).2 }

/-- COPY: moves an M × N view, converting at site 0x0000 when the formats differ (R172). A move of bits unchanged counts no reserved codes and shows NONFIN_IN 0 (log entry 113); its elements are watched as any others (R314). -/
def State.copyEntry (s : State) (q : Nat) (x : Exec) : State :=
  let e := x.entry
  let core := s.coreFor q
  let reach : Reach := ⟨core, [.sram, .hbm], false⟩
  let m := bitsOf e 95 80 + 1
  let n := bitsOf e 79 64 + 1
  let tensor := bitsOf e 127 96
  let statsAt := if bitOf e 173 then some (x.param (bitsOf e 179 174)) else none
  let hbase := signedField 8 (bitsOf e 167 160)
  if !zeroBits e [(172, 168), (159, 128), (63, 0)] then s.finish x.id .aborted
  else
    let (s, di) := s.readDesc core (x.param (bitsOf e 191 186))
    let (s, dc) := s.readDesc core (x.param (bitsOf e 185 180))
    match di, dc with
    | some di, some dc =>
      let same := di.fmt == dc.fmt
      if !(di.ok [0, 1, 2, 3] (if same then some n else none) && dc.ok [0, 1, 2, 3] (some n) &&
          (!di.tile || decide (m ≤ 64 ∧ n ≤ 64)) && (!dc.tile || decide (m ≤ 64 ∧ n ≤ 64))) then s.finish x.id .aborted
      else
        let (s, raw) := s.readView reach di m (if same then di.copyColumns n else n)
        match raw with
        | none => (s.undefineView reach dc dc.format m n).finish x.id .aborted
        | some raw =>
          let vals := raw.map (rowValues di.format)
          if same then
            let (s, landed) := s.writeRows reach dc dc.format 0 (raw.map (rawEncoded di.format))
            let v := (vals.map (·.1)).flatten
            let stats : RunStats := { hist := histogram hbase v, elems := v.length, final := dc.fmt, retry := x.retried }
            let (s, ok) := match statsAt with
              | some a => if landed then s.storeAt reach a stats.bytes else (s, false)
              | none => (s, landed)
            let s := if ok then s.watch tensor (vals.flatMap fun r => r.1.take n) else s
            if ok then s.finish x.id .ok dc.fmt else (s.undefineView reach dc dc.format m n).finish x.id .aborted
          else
            let nonfin := (vals.map fun r => (r.1.filter Val.nonfinite).length).sum
            let rows := convertRows (fun idx => s.site tensor idx 0) dc (vals.map (·.1))
            s.writeConverted q x reach tensor m n hbase statsAt nonfin ((vals.map (·.2)).sum) dc rows
    | _, _ => s.finish x.id .aborted

/-- COPY of the queue's entry in execution. -/
def execCopy (q : Nat) (s : State) : Host.Outcome State Fault Refusal :=
  match s.running q [0x40] with
  | some x => .next (s.asSeen x fun s => s.copyEntry q x)
  | none => .next s

/-- FILL: writes one U16w value, converted, into every element of a view (R172). -/
def State.fillEntry (s : State) (q : Nat) (x : Exec) : State :=
  let e := x.entry
  let core := s.coreFor q
  let reach : Reach := ⟨core, [.sram, .hbm], false⟩
  let m := bitsOf e 95 80 + 1
  let n := bitsOf e 79 64 + 1
  let tensor := bitsOf e 127 96
  if !zeroBits e [(191, 186), (179, 176), (159, 128), (63, 0)] then s.finish x.id .aborted
  else
    let (s, dc) := s.readDesc core (x.param (bitsOf e 185 180))
    match dc with
    | some dc =>
      if !(dc.ok [0, 1, 2, 3] (some n) && (!dc.tile || decide (m ≤ 64 ∧ n ≤ 64))) then s.finish x.id .aborted
      else
        let v := (Fmt.u16w.decode (bitsOf e 175 160) 0).1
        let rows := convertRows (fun idx => s.site tensor idx 0) dc (List.replicate m (List.replicate n v))
        s.writeConverted q x reach tensor m n 0 none 0 0 dc rows
    | none => s.finish x.id .aborted

/-- FILL of the queue's entry in execution. -/
def execFill (q : Nat) (s : State) : Host.Outcome State Fault Refusal :=
  match s.running q [0x41] with
  | some x => .next (s.asSeen x fun s => s.fillEntry q x)
  | none => .next s

/-! ### Queue commands (R173, R174) -/

/-- GO would be accepted of a STOPPED queue: SIZE > 0, or its ring's EN (Table 5.11). -/
def State.goReady (s : State) (q : Nat) : Bool :=
  if isCoreQueue q then decide (0 < s.f F.queueQRegionSize q) else s.fb F.lkeRingNEn q

/-- GO: RUNNING with WBIAS 0 from START or from ring position HEAD. -/
def State.goQueue (s : State) (q : Nat) : State :=
  let rt := s.queue q
  let s := s.setQueue q { rt with head := s.f F.queueQRegionStart q, replay := none, taken := none, owed := 0, halted := none, redo := false, patched := [], later := [] }
  ((s.fset F.queueQStatusWbias 0 q).enter q qRunning).showHead q

/-- RESUME: a HALTED queue goes on behind the entry that halted it, behind the whole range where a REPLAY's table value failed; a HELD queue waits again and its Stalemate count restarts (R167, R173). -/
def State.resumeQueue (s : State) (q : Nat) : State :=
  let rt := s.queue q
  if s.qState q = qHeld then
    { (s.enter q qWaiting) with stale := s.stale.filter fun t => !(t.members.any fun m => m.1 == q) }
  else
    let s := s.setParams q rt.later
    let rt := { rt with halted := none, redo := false, later := [] }
    let rt := match rt.replay with
      | some r => if r.failed then { rt with replay := none, head := r.behind, taken := none } else rt
      | none => rt
    ((s.setQueue q rt).enter q qRunning).showHead q

/-- RETRY: the entry that halted the queue starts again from R154. -/
def State.retryQueue (s : State) (q : Nat) : State :=
  ((s.setQueue q { s.queue q with redo := (s.queue q).halted.isSome }).enter q qRunning).showHead q

/-- ABORT_ENTRY: the held entry completes STALEMATE without executing and the queue goes on. -/
def State.abortHead (s : State) (q : Nat) : State :=
  let (s, h) := s.headOf q
  match h with
  | some h => (s.dropHead q h .stalemate false).enter q qRunning
  | none => s.enter q qRunning

/-- An entry in execution that a stop aborts leaves no defined values in its output views (R105, R147); the stores of a DRUN stay. -/
def State.leaveOutputs (s : State) (q : Nat) (x : Exec) : State :=
  let core := s.coreFor q
  let r : Reach := ⟨core, [.sram, .hbm], false⟩
  let m := bitsOf x.entry 95 80 + 1
  let n := bitsOf x.entry 79 64 + 1
  match opcodeOf x.entry with
  | 0x20 =>
    match s.readDesc core (x.param (bitsOf x.entry 179 174)) with
    | (s, some d) => s.undefineOutputs r (mmulOf x.entry).widen m n [{ d with fmt := (mmulOf x.entry).fo }]
    | (s, none) => s
  | 0x30 =>
    match s.readDescs core ((eprogDescRegs x.entry (eprogOf x.entry)).2.map x.param) with
    | (s, some l) => s.undefineOutputs r (eprogOf x.entry).widen (eprogOf x.entry).outShape.1 (eprogOf x.entry).outShape.2 l
    | (s, none) => s
  | 0x33 | 0x40 | 0x41 =>
    match s.readDesc core (x.param (bitsOf x.entry 185 180)) with
    | (s, some d) => s.undefineOutputs r false m n [d]
    | (s, none) => s
  | _ => s

/-- Engine field of an entry that a stop aborts (R105). -/
def State.stopField (s : State) (x : Exec) : Nat :=
  match x.result with
  | some (_, e) => e
  | none => if opcodeOf x.entry = 0x20 then s.mxeField (coreOf x.q) x else 0

/-- A queue enters STOPPED: the entries in execution that the stop aborts end ABORTED; its head, if it has not started, completes HALTED and leaves the head, that of a HALTED queue too; a REPLAY that issues iterations issues no more and completes HALTED once its started entries have; behind one that has failed, the head is the first entry after its range (R167, Table 5.11; log entry 13). -/
def State.stopWith (s : State) (q : Nat) (aborts : List Exec) : State :=
  let st := s.qState q
  let rt := s.queue q
  let s := match rt.replay with
    | some r =>
      if !rt.redo && !r.failed && r.upcoming.isNone then s.endReplay q r
      else if r.failed && st == qHalted then s.setQueue q { rt with replay := none, head := r.behind }
      else s
    | none => s
  let s := if st = qHalted then s.setQueue q { s.queue q with redo := false } else s
  let (s, h) := if st = qStopped then (s, none) else s.headOf q
  let blocked := s.headBlocked q
  let s := (s.enter q qStopped).endWait q
  let s := aborts.foldl (fun s x => (s.leaveOutputs q x).complete x .aborted (s.stopField x)) s
  let rt := s.queue q
  let posted := match h with
    | some h => h.entry.isSome && !blocked
    | none => false
  let s := match h with
    | some h => if posted then s.postStatus q h .halted 0 else s
    | none => s
  let drains := match rt.replay with
    | some r => if r.failed then rt.drains else rt.drains ++ [(r.id, s.nextId, .halted)]
    | none => rt.drains
  let begun (x : Exec) : Bool := opcodeOf x.entry != 1 || x.result.isSome || drains.any fun d => d.1 == x.id
  let late := ((s.execsOf q).filter fun x => !begun x).map fun x => (x.id, s.nextId, Status.halted)
  let s := if rt.taken.isSome && rt.owed == 1 then s.fwrap F.lkeHeadNHead 1 q else s
  let owed := if rt.taken.isSome then 0 else rt.owed
  let head := match posted, h with
    | true, some h => h.pos + 1
    | _, _ => rt.head
  (s.setQueue q { rt with replay := none, drains := drains ++ late, taken := none, owed := owed, head := head, halted := none, redo := false, later := [] }).showHead q

@[inherit_doc State.stopWith] def State.stopQueue (s : State) (q : Nat) : State := s.stopWith q []

/-- The bits of QUEUE_q_CTRL. -/
def ctrlBit (k : Nat) : Fld :=
  match k with
  | 0 => F.queueQCtrlGo
  | 1 => F.queueQCtrlResume
  | 2 => F.queueQCtrlRetry
  | 3 => F.queueQCtrlAbortEntry
  | _ => F.queueQCtrlStop

/-- Command `k` of Table 5.11 is listed for the queue's state. -/
def State.commandValid (s : State) (q k : Nat) : Bool :=
  match k with
  | 0 => s.qState q == qStopped && s.goReady q
  | 1 => s.qState q == qHalted || s.qState q == qHeld
  | 2 => s.qState q == qHalted
  | 3 => s.qState q == qHeld
  | 4 => s.qState q != qStopped
  | _ => false

/-- The effect of command `k` of Table 5.11. -/
def State.doCommand (s : State) (q k : Nat) : State :=
  match k with
  | 0 => s.goQueue q
  | 1 => s.resumeQueue q
  | 2 => s.retryQueue q
  | 3 => s.abortHead q
  | _ => s.stopQueue q

/-- A command acts on a queue at a tick edge: one of the host is refused where the supervisor has commanded the queue for that edge (R174); one not listed for the state is refused and counted (R173). The Boolean tells that it acted. -/
def State.commandQueue (s : State) (q k : Nat) (who : Sender) : State × Bool :=
  let ok := s.commandValid q k && !(who == .host && s.edgeSup.contains q)
  (if ok then s.doCommand q k else s.badCmd q, ok)

/-- A command of QUEUE_q_CTRL is given: its bit stands until the tick edge that takes it (R173, R174). -/
def State.queueCtrl (s : State) (q k : Nat) (who : Sender) : State :=
  if (qClass q).isNone || s.absent q then s else { s.fset (ctrlBit k) 1 q with edgeCmds := s.edgeCmds ++ [(q, k, who)] }

/-- A tick edge takes the commands of QUEUE_q_CTRL in turn, each judged against the state that the one before it left, and clears their bits; queues that the supervisor commands refuse every host command of the edge, those of the host rings too (R173, R174). -/
def State.takeCommands (s : State) : State :=
  let l := s.edgeCmds
  let sup := ((l.filter fun c => c.2.2 == .supervisor).map (·.1)).dedup
  l.foldl (fun s c => ((s.fset (ctrlBit c.2.1) 0 c.1).commandQueue c.1 c.2.1 c.2.2).1) { s with edgeCmds := [], edgeSup := sup }

/-- GO (R173). -/
def execGo (q : Nat) (who : Sender) (s : State) : Host.Outcome State Fault Refusal := .next (s.queueCtrl q 0 who)

/-- RESUME (R173). -/
def execResume (q : Nat) (who : Sender) (s : State) : Host.Outcome State Fault Refusal := .next (s.queueCtrl q 1 who)

/-- RETRY (R173). -/
def execRetry (q : Nat) (who : Sender) (s : State) : Host.Outcome State Fault Refusal := .next (s.queueCtrl q 2 who)

/-- ABORT_ENTRY (R173). -/
def execAbortEntry (q : Nat) (who : Sender) (s : State) : Host.Outcome State Fault Refusal := .next (s.queueCtrl q 3 who)

/-- STOP (R173). -/
def execStop (q : Nat) (who : Sender) (s : State) : Host.Outcome State Fault Refusal := .next (s.queueCtrl q 4 who)

/-- A core position's four queues stop for its recovery: entries in execution end ABORTED, a waiting head completes HALTED, each queue enters STOPPED (Table 13.5). -/
def State.stopPosition (s : State) (pos : Nat) : State :=
  (List.range 4).foldl (fun s i =>
    let q := pos / 17 * 128 + pos % 17 * 4 + i
    if s.absent q then s
    else
      let s := s.stopWith q (s.execsOf q)
      s.setQueue q { s.queue q with drains := [] }) s

/-- A fault of the position's core waits for the edge that takes it, and the core is neither in recovery nor lost. -/
def State.coreFaulty (s : State) (pos : Nat) : Bool :=
  let core := s.coreAt (pos / 17) (pos % 17)
  (s.latched.any fun e => e.code == 0x3002 && e.domain == core && e.sev.isSome) && !s.inRecovery core && !s.lost.contains core

/-- ENTRY_COMPLETION: an entry whose effect is done completes with its status (R156). One that ends ABORTED on a fault of its core halts its queue (Table 3.7); the edge that takes the fault, the tick T of Table 13.5, stops the core's four queues (log entry 48). -/
def execEntryCompletion (q id : Nat) (s : State) : Host.Outcome State Fault Refusal :=
  match s.execs.find? fun x => x.q == q && x.id == id with
  | some x =>
    match x.result with
    | some (st, engine) => .next (s.complete x st engine)
    | none => .next s
  | none => .next s

/-! ### Parameter and ring registers (R163, R266, R564) -/

/-- PARAM_WRITE by the host: taken in STOPPED and HALTED, otherwise ignored, and counted when the value differs (R163). -/
def State.paramWrite (s : State) (q m : Nat) (value : Word) : State :=
  if (qClass q).isNone || s.absent q then s
  else if s.qState q = qStopped ∨ s.qState q = qHalted then s.wr ⟨.queueQParamM, q, m⟩ value
  else if s.rd ⟨.queueQParamM, q, m⟩ = value then s
  else s.badCmd q

/-- PARAM_WRITE (R163). -/
def execParamWrite (q m : Nat) (value : Word) (s : State) : Host.Outcome State Fault Refusal :=
  if m < 64 then .next (s.paramWrite q m value) else .next s

/-- A run of bytes at an SRAM space offset lies in its valid offsets, aligned as the field map states (R564). -/
def sramArea (base n align : Nat) : Bool := base % align == 0 && decide (base + n ≤ 0x800000000)

/-- A completion ring that R564 accepts. -/
def cringOk (v : Word) : Bool := sramArea (getBits v 0 44) (2 ^ (getBits v 52 4 + 6) * 16) 16

/-- A command ring that R564 accepts. -/
def ringOk (v : Word) : Bool := decide (getBits v 59 4 ≤ 11) && sramArea (getBits v 0 44) (2 ^ (getBits v 59 4 + 4) * 32) 32

/-- Software write of a queue's ring register: only while the queue is STOPPED and as R564 allows, otherwise ignored and counted (R266, Table 5.22). -/
def State.ringWrite (s : State) (r : Reg) (value : Word) : State :=
  let q := r.i
  let new := swWrite true r (s.rd r) value
  let ok := if r.name = .queueQCring then cringOk new else ringOk new
  if r.absent s.grade then s
  else if s.qState q = qStopped && ok then s.wr r new else s.badCmd q

/-- RING_REGISTER_WRITE: a write of a QUEUE_q_CRING, LKE_RING_n, FXE_RING_n or CME_RING_n. -/
def execRingRegisterWrite (off : Nat) (value : Word) (s : State) : Host.Outcome State Fault Refusal :=
  match RegName.at .queueQCring off, RegName.at .lkeRingN off with
  | some r, _ => .next (s.ringWrite r value)
  | none, some r => .next (s.ringWrite r value)
  | none, none => .next s

/-! ### Stalemate (R175 to R178) -/

/-- Every queue's setter code (Table 5.3). -/
def allQueues : List Nat :=
  ((List.range 8).flatMap fun d => (List.range 0x4C).map fun i => d * 128 + i) ++ (List.range 68).map (0x400 + ·)

/-- The edge of a queue that waits or is held: the queue its head names, unless the wait is reached or names the host, the supervisor or nothing (R175). -/
def State.edge (s : State) (q : Nat) : Option Nat :=
  if s.qState q = qWaiting ∨ s.qState q = qHeld then
    let dest := s.f F.queueQWaitSetter q
    let reached := waitReached (s.flag (s.homeDie q) (s.f F.queueQWaitFlag q)) (s.f F.queueQWaitTarget q)
    if reached || (qClass dest).isNone then none else some dest
  else none

/-- The edges of the wait-for graph. -/
def State.edges (s : State) : List (Nat × Nat) :=
  (allQueues.filter fun q => !s.absent q).filterMap fun q => (s.edge q).map fun t => (q, t)

/-- The queues on the way from `q` along the edges, at most `fuel` of them, ending where the way leaves the edges or returns. -/
def walk (edges : List (Nat × Nat)) : Nat → List Nat → Nat → List Nat
  | 0, seen, _ => seen
  | fuel + 1, seen, q =>
    if seen.contains q then seen
    else
      match edges.find? fun e => e.1 == q with
      | some e => walk edges fuel (seen ++ [q]) e.2
      | none => seen ++ [q]

/-- Where the way from `q` ends: on a cycle, named by its lowest code, or at a queue without an edge. -/
def wayEnd (edges : List (Nat × Nat)) (q : Nat) : Bool × Nat :=
  let way := walk edges (edges.length + 2) [] q
  let last := way.getLastD q
  match edges.find? fun e => e.1 == last with
  | some e =>
    let cycle := way.dropWhile fun x => x != e.2
    (false, cycle.foldl min (cycle.headD last))
  | none => (true, last)

/-- The stalemates of a graph: each cycle, and each chain to a HALTED or STOPPED queue, as (chain, name). -/
def State.stalemates (s : State) (edges : List (Nat × Nat)) : List (Bool × Nat) :=
  ((edges.map fun e => wayEnd edges e.1).filter fun w =>
    !w.1 || s.qState w.2 == qHalted || s.qState w.2 == qStopped).dedup

/-- Members of a stalemate in order of their codes: every queue whose way leads to it, and its end (R178). -/
def stalemateMembers (edges : List (Nat × Nat)) (w : Bool × Nat) : List Nat :=
  allQueues.filter fun q => (edges.any fun e => e.1 == q) && wayEnd edges q == w || (w.1 && q == w.2)

/-- The listed path of a stalemate (R178). -/
def stalematePath (edges : List (Nat × Nat)) (w : Bool × Nat) : List Nat :=
  if w.1 then
    let members := stalemateMembers edges w
    let first := (members.find? fun q => !(edges.any fun e => e.2 == q)).getD w.2
    let way := walk edges (edges.length + 2) [] first
    if way.length ≤ 16 then way else way.take 15 ++ [w.2]
  else (walk edges (edges.length + 2) [] w.2).take 16

/-- Position and iteration of the head that a member waits with. -/
def State.headMark (s : State) (q : Nat) : Nat × Nat × Nat :=
  (q, s.f F.queueQStatusHead q, match (s.queue q).replay with | some r => r.it | none => 0)

/-- The scan at a tick edge: each stalemate's count rises while its members stay the same (R175, R176). -/
def State.staleScan (s : State) : State :=
  let edges := s.edges
  let found := (s.stalemates edges).map fun w =>
    let marks := (stalemateMembers edges w).map s.headMark
    match s.stale.find? fun t => t.members == marks && t.chain == w.1 with
    | some t => { t with count := t.count + 1 }
    | none => ⟨marks, stalematePath edges w, w.1, 1, false⟩
  { s with stale := found }

/-- STALEMATE_SCAN: the detector's scan at a tick edge. -/
def execStalemateScan (s : State) : Host.Outcome State Fault Refusal := .next s.staleScan

/-- Writes the stalemate record, or counts one in MORE while it is locked; members beyond the listed path read 0 (R178, log entry 50). -/
def State.staleRecord (s : State) (t : StaleTrack) : State :=
  if s.fb F.staleStatusValid then s.fadd F.staleStatusMore
  else
    let s := ((s.fset F.staleStatusLen (t.members.length % 2 ^ 10)).fset F.staleStatusKind (if t.chain then 1 else 0)).fraise F.staleStatusValid
    (List.range 16).foldl (fun s i =>
      let m : Nat × Nat × Nat := match t.path[i]? with
        | some q => (t.members.find? fun m => m.1 == q).getD (q, 0, 0)
        | none => (0, 0, 0)
      ((s.fset F.staleMemberNEntry m.2.1 i).fset F.staleMemberNIter (m.2.2 % 2 ^ 16) i).fset F.staleMemberNQueue m.1 i) s

/-- Policy ABORT: a held head completes STALEMATE and its queue enters HALTED (R177). -/
def State.abortHeld (s : State) (q : Nat) : State :=
  if s.qState q = qHeld then
    let (s, h) := s.headOf q
    match h with
    | some h => s.dropHead q h .stalemate true
    | none => s
  else s

/-- The policy of R177 on the members of a stalemate; policy DOMAIN stops the positions whose cores enter recovery at once (Table 13.5 tick T). -/
def State.stalePolicy (s : State) (members : List Nat) : State :=
  match s.f F.staleCtrlPolicy with
  | 0 => s
  | 1 => members.foldl State.abortHeld s
  | 2 =>
    let s := ((members.filter isCoreQueue).map s.coreFor).dedup.foldl (fun s core =>
      s.latch { code := 0x3002, source := 740 + sevRecovery, sev := some sevRecovery, domain := core, core, policy := true }) s
    ((members.filter isCoreQueue).map coreOf).dedup.foldl (fun s pos => if s.coreFaulty pos then s.stopPosition pos else s) s
  | _ => s.hoveNow 1

/-- A stalemate at its count: its members are held, its record is written, event 0x5001 is raised and the policy applies (R176). -/
def State.staleHold (s : State) (t : StaleTrack) : State :=
  let s := (t.members.map (·.1)).foldl (fun s q => if s.qState q = qWaiting then s.enter q qHeld else s) s
  ((s.staleRecord t).raise 0x5001 746).stalePolicy (t.members.map (·.1))

/-- Stalemates in the order of the first queue of their listed paths. -/
def sortStale : List StaleTrack → List StaleTrack
  | [] => []
  | t :: l =>
    let rest := sortStale l
    rest.takeWhile (fun u => decide (u.path.headD 0 < t.path.headD 0)) ++ [t] ++
      rest.dropWhile fun u => decide (u.path.headD 0 < t.path.headD 0)

/-- STALEMATE_HOLD: the stalemates whose count has reached STALE_CTRL.TICKS are held, the one whose path starts lowest first (R176, R178). -/
def execStalemateHold (s : State) : Host.Outcome State Fault Refusal :=
  let due (t : StaleTrack) : Bool := !t.held && decide (s.f F.staleCtrlTicks ≤ t.count)
  let ready := sortStale (s.stale.filter due)
  let s' := { s with stale := updateAll s.stale due fun t => { t with held := true } }
  .next (ready.foldl State.staleHold s')

end Sys2Proof.Machine
end

