-- ==== Sys2Proof/Machine/Recovery.lean ====
section
/-! DEFINITION. Recovery slots (R426 to R428): which domains are in recovery or lost, and how a recovery ends. -/

namespace Sys2Proof.Machine

/-- The slot that holds a domain. -/
def State.slotOf (s : State) (domain : Nat) : Option Nat :=
  [0, 1].find? fun j => s.fb F.recovJBusy j && s.f F.recovJDomain j == domain

/-- A free slot. -/
def State.freeSlot (s : State) : Option Nat := [0, 1].find? fun j => !s.fb F.recovJBusy j

/-- The domain's recovery slot becomes free. -/
def State.releaseSlot (s : State) (domain : Nat) : State :=
  match s.slotOf domain with
  | some j => ((s.fset F.recovJBusy 0 j).fset F.recovJDomain 0 j).fset F.recovJSince 0 j
  | none => s

/-- The domain of a die's HBM stack and SUC. -/
def stackDomain (die : Nat) : Nat := 0x100 + die % 8

/-- Domains that hold a unit: the stacks of the granules of its ranges, of SRAM the die's stack and SUC (R291). -/
def unitDomains (u : CUnit) : List Nat :=
  (u.ranges.flatMap fun r =>
    match r.1 with
    | .hbm => if 2048 ≤ r.2.2 then (List.range 8).map stackDomain else (granulesOf r.2.1 r.2.2).map fun g => stackDomain (hbmDie g)
    | b => [stackDomain (bankDie b r.2.1)]).dedup

/-- The domain that a record or a fault of a unit names: that of its first byte (R293; log entry 120). -/
def unitDomain (u : CUnit) : Nat :=
  match u.ranges with
  | r :: _ => stackDomain (bankDie r.1 r.2.1)
  | [] => stackDomain 0

/-- Units not yet RETIRED serve no lookup until they are resolved (R291). -/
def State.suspendUnits (s : State) (p : CUnit → Bool) : State :=
  { s with units := updateAll s.units (fun u => u.state != .retired && p u) fun u => { u with outOfService := true } }

/-- A domain is back in service: its slot is free, the units it held are to be resolved, and event 0x7002 is raised (R291, R426). -/
def State.domainBack (s : State) (domain : Nat) : State :=
  if s.inRecovery domain then
    ((s.releaseSlot domain).suspendUnits fun u => (unitDomains u).contains domain).latch { code := 0x7002, source := 751, domain }
  else s

/-- A domain is lost: the record of severity DOMAIN_LOST; the tick edge that takes it applies the loss (R427, Table 13.4). -/
def State.loseDomain (s : State) (domain : Nat) (core : Nat := 0xFF) : State := s.error 0x3003 sevLost domain core

/-- The live operation of an OP that runs on an ARG (Table 14.9). -/
def State.liveOn (s : State) (op arg : Nat) : Bool := s.boot.live.any fun l => l.running && l.op == op && l.arg == arg

/-- The live operation ends with a status: LIVE_STATUS is idle, and event 0x7402 reports a completed one (R465). -/
def State.liveDone (s : State) (st : Status) : State :=
  let s := { s with boot := { s.boot with live := none } }
  let s := (s.fset F.liveStatusState 0).fset F.liveStatusResult st.code
  if st = .ok then s.raise 0x7402 749 else s

end Sys2Proof.Machine
end

