-- ==== Sys2Proof/Machine/Suc.lean ====
section
/-! DEFINITION. The shared update cache (R192 to R203): atomics, reduction groups, mismatches of its duplicated units, and its test. -/

namespace Sys2Proof.Machine

/-! ### Atomics (R194, R195, Table 6.5) -/

/-- Bytes of an atomic's operand: I64 8, I32 and U32 4, 16-bit formats 2. -/
def atomicBytes (type : Nat) : Nat := if type = 9 then 8 else if type < 2 then 2 else 4

/-- New value of an integer atomic; the operands are the low bits of the type. -/
def atomicInt (op type : Nat) (old v cmp : Word) : Word :=
  let x := laneInt type old
  let y := laneInt type v
  match op with
  | 0 => laneOf type (x + y)
  | 1 => laneOf type (min x y)
  | 2 => laneOf type (max x y)
  | 3 => old &&& v
  | 4 => old ||| v
  | 5 => old ^^^ v
  | 6 => v
  | _ => if laneOf type x = laneOf type (laneInt type cmp) then v else old

/-- New value of FMIN or FMAX, by R60; a NaN operand gives the canonical NaN. -/
def atomicFloat (op type : Nat) (old v : Word) : Word :=
  let f := (Fmt.ofCode type).getD .u16w
  let a := Half.val f (old.setWidth 16)
  let b := Half.val f (v.setWidth 16)
  BitVec.ofNat 64 (f.round (if op = 8 then a.minimum b else a.maximum b) 0).code

/-- One atomic at the home SUC: the old value's bits, or none where the request completes ABORTED and changes nothing (R195) or the word cannot be read. It reads what every reader sees of a Castling unit (R278); a request of another part leaves no record here (R40). -/
def State.atomicOp (s : State) (far : Bool) (a op type : Nat) (v cmp : Word) : State × Option Word :=
  let n := atomicBytes type
  match s.run? a n with
  | some (b, off) =>
    if !(b == .hbm || b == .suc) || a % n != 0 || decide (9 < op) || !(atomicTypes op).contains type then (s, none)
    else
      let (s, l) := s.load false b off n
      (match l with
        | some l =>
          let old := BitVec.ofNat 64 (leNat l)
          let new := if op < 8 then atomicInt op type old v cmp else atomicFloat op type old v
          let (s, ok) := s.store false b off (leBytes n new.toNat)
          (s, if ok then some old else none)
        | none => (s, none))
  | none => (if far then s else s.refuse40 a n true, none)

/-- The 8 bytes that return an old value: I64 and U32 as they are; the spec states no upper bytes for I32 and 16-bit operands, which hold a free value (log entry 14). -/
def State.oldBytes (s : State) (type : Nat) (old : Word) : State × List Byte :=
  if type = 9 ∨ type = 10 then (s, leBytes 8 old.toNat)
  else
    let (v, s) := s.open_
    (s, leBytes (atomicBytes type) old.toNat ++ (leBytes 8 v.toNat).drop (atomicBytes type))

/-- ATOMIC: one SUC atomic of an LKE queue; the old value goes to SRAM space (R256). -/
def State.atomicEntry (s : State) (q : Nat) (x : Exec) : State :=
  let e := x.entry
  let type := bitsOf e 181 178
  if !zeroBits e [(159, 0)] then s.finish x.id .aborted
  else
    let dest := x.param (bitsOf e 165 160)
    if (s.run? dest 8).any (fun p => p.1 == .sram) then
      let (s, old) := s.atomicOp false (x.param (bitsOf e 191 186)) (bitsOf e 185 182) type
        (BitVec.ofNat 64 (x.param (bitsOf e 177 172))) (BitVec.ofNat 64 (x.param (bitsOf e 171 166)))
      match old with
      | some old =>
        let (s, l) := s.oldBytes type old
        let (s, ok) := s.storeAt ⟨s.coreFor q, [.sram], false⟩ dest l
        s.finish x.id (if ok then .ok else .aborted)
      | none => s.finish x.id .aborted
    else
      (s.refuse40 dest 8 true).finish x.id .aborted

/-- An atomic reaches its SUC, which takes those of a tick at the next edge in the order of R31 (log entry 129). -/
def State.arrive (s : State) (a : Arrival) : State := { s with arrivals := s.arrivals ++ [a] }

/-- ATOMIC: the queue's oldest entry in execution that has not yet sent its atomic sends it to the SUC. -/
def execAtomic (q : Nat) (s : State) : Host.Outcome State Fault Refusal :=
  match s.execs.find? fun x => x.q == q && opcodeOf x.entry == 0x53 && x.result.isNone && !s.arrivals.contains (.entry q x.id) with
  | some x => .next (s.arrive (.entry q x.id))
  | none => .next s

/-- The source of an atomic is another part. -/
def sourceFar : AtomicSource → Bool
  | .remote _ _ => true
  | _ => false

/-- An atomic of the CME, an engine or another part is performed; its old value goes back to the requester (R194). -/
def State.outsideAtomic (s : State) (req : AtomicReq) : State :=
  let (s, old) := s.atomicOp (sourceFar req.source) req.addr.toNat req.op req.type req.value req.compare
  s.emit (.atomicDone req.source old)

/-- SUC_ATOMIC: a request reaches its home SUC (R194). -/
def execSucAtomic (req : AtomicReq) (s : State) : Host.Outcome State Fault Refusal := .next (s.arrive (.outside req))

/-- Place of a source in the order of R31 and R377. -/
def sourceRank : AtomicSource → Nat × Nat × Nat
  | .cme => (0, 0, 0)
  | .lke d q => (1, d, q)
  | .fxe q => (2, q, 0)
  | .remote p f => (3, p, f)

/-- Place of an arrival in the order of R31 and R377; a leaf takes the place of its sender (a leaf names no flow). -/
def arrivalRank : Arrival → Nat × Nat × Nat
  | .entry q _ =>
    match qClass q with
    | some (.lke d n) => (1, d, n)
    | some (.fxe n) => (2, n, 0)
    | _ => (0, 0, 0)
  | .outside req => sourceRank req.source
  | .remote req => (3, req.part, req.flow)
  | .leaf l | .again l _ | .stale _ l => match l.queue with | some (d, n, _) => (1, d, n) | none => (3, l.part, 0)

/-- An arrival in its place behind those of its tick that rank no higher. -/
def insertArrival (a : Arrival) : List Arrival → List Arrival
  | [] => [a]
  | b :: l =>
    let r := arrivalRank a
    let t := arrivalRank b
    if r.1 < t.1 ∨ r.1 = t.1 ∧ (r.2.1 < t.2.1 ∨ r.2.1 = t.2.1 ∧ r.2.2 < t.2.2) then a :: b :: l else b :: insertArrival a l

/-- The atomics of a tick in the order in which the SUCs take them (R31, R377). -/
def arrivalOrder (l : List Arrival) : List Arrival := l.foldl (fun a x => insertArrival x a) []

/-! ### Reduction groups (R196 to R202) -/

/-- Root level of a group: ceil(log2 EXTENT). -/
def Group.root (g : Group) : Nat := Nat.clog 2 g.extent

/-- First and last leaf of a node. -/
def nodeSpan (n : Node) : Nat × Nat := (n.pos * 2 ^ n.level, (n.pos + 1) * 2 ^ n.level - 1)

/-- Nodes of a row held or formed so far, spilled ones included. -/
def Group.rowNodes (g : Group) (addr : Nat) : List Node := (g.nodes ++ g.spilled).filter fun n => n.addr == addr

/-- The conditions of R200 on a node for a group. -/
def Group.takes (g : Group) (n : Node) : Bool :=
  let (lo, hi) := nodeSpan n
  (g.rowNodes n.addr).all (fun m => n.lrow == m.lrow && (decide (hi < (nodeSpan m).1) || decide ((nodeSpan m).2 < lo))) &&
    decide (lo < g.extent ∧ n.level ≤ g.root) && n.addr % 256 == 0 && decide (n.addr < hbmSpace) && n.vals.length == g.rowlen

/-- A group with one changed. -/
def State.setGroup (s : State) (g : Group) : State := { s with groups := updateAll s.groups (fun h => h.id == g.id) fun _ => g }

/-- A die finds a fault in a group: each die counts a group once, and the spill area is free (R200, R201). -/
def State.faultGroup (s : State) (g : Group) (die : Nat) : State :=
  if g.faults.contains die then s
  else (s.setGroup { g with faults := g.faults ++ [die], spilled := [], spillSlots := 0 }).fadd F.sucStatusGroupFaults 1 die

/-- Roundings of a SUC at site 0x0400 count in SUC_NUM of its die and in the window (R202, R311). -/
def State.sucTally (s : State) (die : Nat) (f : Fmt) (t : Tally) : State :=
  ((s.fadd F.sucNumOvf t.ovf die).fadd F.sucNumVan t.van die).tallyWindow f t

/-- Site of element e of a row at a node (R198). -/
def State.groupSite (s : State) (g : Group) (lrow level pos e : Nat) : Site :=
  s.site g.tensor (lrow * g.rowlen + e) 0x400 (nodeWord level pos)

/-- The parent of two complete siblings: exact sums rounded once to U16w at site 0x0400 (R198). -/
def State.addNodes (s : State) (g : Group) (lrow level pos : Nat) (a b : List Half) : List Partial :=
  (a.zip b).mapIdx fun e p =>
    addPartials ⟨p.1.toNat, {}⟩ ⟨p.2.toNat, {}⟩ (s.groupSite g lrow level pos e)

/-- Codes of a list of partials. -/
def codesOf (l : List Partial) : List Half := l.map fun p => BitVec.ofNat 16 p.code

/-- Counts of a list of partials. -/
def tallyOf (l : List Partial) : Tally := (l.map (·.tally)).foldl Tally.add {}

/-- A node enters a group's row: siblings that are complete are added upward, at most to the root (R198). -/
def State.enterNode (s : State) (die : Nat) : Nat → Group → Node → State × Group
  | 0, g, n => (s, { g with nodes := g.nodes ++ [n] })
  | k + 1, g, n =>
    let sib := n.pos + 1 - n.pos % 2 * 2
    match g.nodes.find? fun m => m.addr == n.addr && m.level == n.level && m.pos == sib && decide (n.level < g.root) with
    | some m =>
      let (l, r) := if n.pos % 2 = 0 then (n.vals, m.vals) else (m.vals, n.vals)
      let sum := s.addNodes g n.lrow (n.level + 1) (n.pos / 2) l r
      let g := { g with nodes := g.nodes.filter fun x => x != m }
      (s.sucTally die .u16w (tallyOf sum)).enterNode die k g
        { n with level := n.level + 1, pos := n.pos / 2, vals := codesOf sum }
    | none => (s, { g with nodes := g.nodes ++ [n] })

/-- Nodes pending in the cache part of a die, one line of 256 bytes each (R201). -/
def State.pendingNodes (s : State) (die : Nat) : Nat :=
  (s.groups.map fun g => (g.nodes.filter fun n => hbmDie n.addr == die).length).sum

/-- The 512 bytes of a spill slot (R201). -/
def spillBytes (n : Node) : List Byte :=
  leBytes 8 n.addr ++ leBytes 5 n.lrow ++ [BitVec.ofNat 8 n.level] ++ leBytes 2 0 ++ leBytes 8 n.pos ++ List.replicate 40 0 ++
    (n.vals.flatMap fun v => leBytes 2 v.toNat) ++ List.replicate (448 - 2 * n.vals.length) 0

/-- A node taken as U16w; a U16n value with an odd fraction is rounded at site 0x0400 with the node's own place in the tree, which no sum takes (R197; log entry 128). -/
def State.widenNode (s : State) (g : Group) (n : Node) : Node × Tally :=
  if n.fmt = 0 then (n, {})
  else
    let r := n.vals.mapIdx fun e v => Fmt.u16w.round (Fmt.u16n.decode v.toNat 0).1 (eddy (s.groupSite g n.lrow n.level n.pos e))
    ({ n with vals := r.map fun x => BitVec.ofNat 16 x.code, fmt := 0 }, (r.map Rounded.tally).foldl Tally.add {})

/-- A GADD that a die's LKE issued, at the SUC of its row's home die: the node is taken, combined, spilled when pending nodes fill 3/4 of the cache part, or refused; the Boolean tells that it completed (R197 to R201). One whose address names no home die counts at the issuing die. -/
def State.gaddAt (s : State) (issuer : Nat) (n : Node) : State × Bool :=
  let die := if n.addr < hbmSpace then hbmDie n.addr else issuer
  match s.groups.find? fun g => g.id == n.group with
  | none => (s, false)
  | some g =>
    if !g.takes n then (s.faultGroup g die, false)
    else if !g.faults.isEmpty then (s, false)
    else
    let (n, t) := s.widenNode g n
    let s := s.sucTally die .u16w t
    if s.pendingNodes die < (12 - s.f F.sucCfgScratch die) * 24576 then
      let (s, g) := s.enterNode die 33 g n
      (s.setGroup g, true)
    else if hbmSpace < g.spill + 512 * g.spilled.length + 512 then
      ((s.addressFault (mkAddr 0 (g.spill + 512 * g.spilled.length))).faultGroup g die, false)
    else if g.spilled.length < g.spillSlots then
      let (s, ok) := s.store false .hbm (g.spill + 512 * g.spilled.length) (spillBytes n)
      if ok then ((s.setGroup { g with spilled := g.spilled ++ [n] }).fadd F.sucStatusSpills 1 die, true)
      else (s.faultGroup g die, false)
    else (s.faultGroup g die, false)

/-- GADD: a node that the LKE of a die issued reaches the SUC of its row's home die (R30, R197). -/
def execGadd (die : Nat) (node : Node) (s : State) : Host.Outcome State Fault Refusal :=
  let (s, ok) := s.gaddAt (die % 8) node
  .next (s.emit (.nodeDone (die % 8) ok))

/-- Opens a group on the eight SUCs. -/
def State.openGroup (s : State) (g : Group) : State :=
  (List.range 8).foldl (fun s d => s.fset F.sucStatusOpen (s.f F.sucStatusOpen d + 1) d) { s with groups := s.groups ++ [g] }

/-- Closes a group on the eight SUCs; its ID and spill area are free. -/
def State.closeGroup (s : State) (id : Nat) : State :=
  let s := { s with groups := s.groups.filter fun g => g.id != id }
  (List.range 8).foldl (fun s d => s.fset F.sucStatusOpen (s.f F.sucStatusOpen d - 1) d) s

/-- The value of a subtree at close: a held node as it stands, an absent subtree as +0, an odd last node carried (R199). -/
def State.subtree (s : State) (g : Group) (lrow : Nat) (nodes : List Node) : Nat → Nat → List Partial
  | 0, p =>
    match nodes.find? fun n => n.level == 0 && n.pos == p with
    | some n => n.vals.map fun v => ⟨v.toNat, {}⟩
    | none => List.replicate g.rowlen ⟨0, {}⟩
  | l + 1, p =>
    match nodes.find? fun n => n.level == l + 1 && n.pos == p with
    | some n => n.vals.map fun v => ⟨v.toNat, {}⟩
    | none =>
      let inside := nodes.filter fun n => n.level ≤ l && n.pos / 2 ^ (l + 1 - n.level) == p
      if inside.isEmpty then List.replicate g.rowlen ⟨0, {}⟩
      else
        let a := s.subtree g lrow inside l (2 * p)
        if g.extent ≤ (2 * p + 1) * 2 ^ l then a
        else
          let b := s.subtree g lrow inside l (2 * p + 1)
          (a.zip b).mapIdx fun e w => addPartials w.1 w.2 (s.groupSite g lrow (l + 1) p e)

/-- Reads spilled nodes back from their slots in order; none where a slot cannot be read. -/
def State.readSpilled (s : State) (g : Group) : Nat → List Node → State × Option (List Node)
  | _, [] => (s, some [])
  | i, n :: ns =>
    let (s, l) := s.readBytes .hbm (g.spill + 512 * i + 64) (2 * g.rowlen)
    let (s, r) := s.readSpilled g (i + 1) ns
    (s, match l, r with
      | some l, some r => some ({ n with vals := (chunksOf 2 g.rowlen l).map fun c => BitVec.ofNat 16 (leNat c) } :: r)
      | _, _ => none)

/-- The codes to be written to one row: the root, or the row plus the root, rounded once at level 63 (R199); none where the row cannot be read. -/
def State.rootOf (s : State) (g : Group) (addr : Nat) (nodes : List Node) : State × Option (List Rounded × Tally) :=
  let lrow := (nodes.headD default).lrow
  let root := s.subtree g lrow nodes g.root 0
  let f := (Fmt.ofCode g.fmt).getD .u16w
  let out (base : List Val) : List Rounded := (root.zip base).mapIdx fun e p =>
    f.round (if g.accumulate then p.2.add p.1.val else p.1.val) (eddy (s.groupSite g lrow 63 0 e))
  if g.accumulate then
    let (s, l) := s.readBytes .hbm addr (2 * g.rowlen)
    (s, l.map fun l => (out ((chunksOf 2 g.rowlen l).map fun c => (f.decode (leNat c) 0).1), tallyOf root))
  else (s, some (out (List.replicate g.rowlen Val.zero), tallyOf root))

/-- The rows of a close can be stored: each granule is open to the write, and a last word that a row covers in part can be read, so that stage 2 stores every row (R190, R199). -/
def State.readyRows (s : State) (g : Group) : List Nat → State × Bool
  | [] => (s, true)
  | a :: as =>
    let (s, ready) := s.openGranules false .hbm (granulesOf a (2 * g.rowlen))
    let (s, tail) := if g.rowlen % 4 = 0 then (s, some []) else s.readBytes .hbm (a + g.rowlen / 4 * 8) 8
    let (s, rest) := s.readyRows g as
    (s, ready && tail.isSome && rest)

/-- Stage 1 of a close: the values of every row that received a node (R199). -/
def State.closeRows (s : State) (g : Group) (nodes : List Node) : List Nat → State × Option (List (Nat × List Rounded × Tally))
  | [] => (s, some [])
  | a :: as =>
    let (s, v) := s.rootOf g a (nodes.filter fun n => n.addr == a)
    let (s, r) := s.closeRows g nodes as
    (s, match v, r with | some v, some r => some ((a, v.1, v.2) :: r) | _, _ => none)

/-- Stage 2 of a close: the stores, with each die's counts (R199, R202); the Boolean tells that every row landed. -/
def State.storeRows (s : State) (g : Group) : List (Nat × List Rounded × Tally) → State × Bool
  | [] => (s, true)
  | (a, v, t) :: l =>
    let f := (Fmt.ofCode g.fmt).getD .u16w
    let (s, ok) := s.store false .hbm a (v.flatMap fun r => leBytes 2 r.code)
    let s := (s.sucTally (hbmDie a) .u16w t).sucTally (hbmDie a) f ((v.map Rounded.tally).foldl Tally.add {})
    let s := if v.any fun r => Half.nonfinite f (BitVec.ofNat 16 r.code) then s.nonfinite else s
    let s := s.watch g.tensor (v.map fun r => (f.decode r.code 0).1)
    let (s, rest) := s.storeRows g l
    (s, ok && rest)

/-- A repeat that mismatches: an uncorrectable record, and the stack domain of the die into recovery (R203). -/
def State.sucFails (s : State) (die : Nat) : State :=
  (s.error 0x3001 sevUncorrectable (stackDomain die) 0xFF 0 0 Status.aborted.code).faultDomain (stackDomain die)

/-- Closes a group: both stages, or nothing where it is faulted or the SUC of a die fails stage 1; the Boolean tells that the rows were stored (R199, R203). The stage 1 roundings of a close that ends ABORTED count nowhere, the model's choice (log entry 156). -/
def State.closeGroupRows (s : State) (g : Group) (mismatch : Option Nat) : State × Bool :=
  match mismatch with
  | some die => ((s.sucFails die).closeGroup g.id, false)
  | none =>
  if !g.faults.isEmpty then (s.closeGroup g.id, false)
  else
    let (s, sp) := s.readSpilled g 0 g.spilled
    match sp with
    | none => (s.closeGroup g.id, false)
    | some sp =>
      let nodes := g.nodes ++ sp
      let (s, rows) := s.closeRows g nodes ((nodes.map (·.addr)).dedup)
      match rows with
      | none => (s.closeGroup g.id, false)
      | some rows =>
        let (s, ready) := s.readyRows g (rows.map (·.1))
        if ready then let (s, ok) := s.storeRows g rows; (s.closeGroup g.id, ok) else (s.closeGroup g.id, false)

/-! ### The test (R203) -/

/-- SUC_TEST: the test of a stack domain in recovery by R203; a pass returns the SUC to service, a fail loses the domain. -/
def execSucTest (die : Nat) (pass : TestPass) (s : State) : Host.Outcome State Fault Refusal :=
  let domain := stackDomain die
  if s.inRecovery domain && !(s.retrains.any fun r => r.die == die % 8) then
    .next (if pass then s.domainBack domain else s.loseDomain domain)
  else .next s

end Sys2Proof.Machine
end

