-- ==== Sys2Proof/Machine/Tables.lean ====
section
/-! DEFINITION. The table directory and its replacement (R217 to R222, R260 to R265), and the hot-set map (R241 to R243). -/

namespace Sys2Proof.Machine

/-! ### The hot-set map (Table 7.5) -/

/-- A hot-set map entry. -/
structure HotEntry where
  table : Nat
  first : Nat
  run : Nat
  state : Nat
deriving DecidableEq, Repr

/-- Ledger offset of a frame's map entry. -/
def hotAt (f : Nat) : Nat := 0x04000000 + f * 8

/-- A frame's map entry. -/
def State.hot (s : State) (f : Nat) : HotEntry :=
  let w := s.led (hotAt f) 8
  ⟨w / 2 ^ 48, w / 2 ^ 8 % 2 ^ 40, w / 8 % 32 + 1, w % 8⟩

/-- A CME write of a map entry. -/
def State.setHot (s : State) (f : Nat) (h : HotEntry) : State :=
  s.setLed (hotAt f) 8 (h.table * 2 ^ 48 + h.first * 2 ^ 8 + (h.run - 1) % 32 * 8 + h.state)

/-- Number of hot frames (R241). -/
def State.hotFrames (s : State) : Nat := s.f F.lkeCfgHotFrames

/-- The frame whose entry lists a local slot of a table in one of the states. -/
def State.frameOf (s : State) (table l : Nat) (states : List Nat) : Option Nat :=
  (List.range s.hotFrames).find? fun f =>
    let h := s.hot f
    states.contains h.state && h.table == table && decide (h.first ≤ l ∧ l < h.first + h.run)

/-- Every map entry of a table in a state moves to another; RETIRED runs made FREE give their frames back. -/
def State.hotShift (s : State) (table src dst : Nat) : State :=
  (List.range s.hotFrames).foldl (fun s f =>
    let h := s.hot f
    if h.table = table ∧ h.state = src then (if dst = 0 then s.setHot f ⟨0, 0, 1, 0⟩ else s.setHot f { h with state := dst }) else s) s

/-! ### Rows in motion (R245 to R249) -/

/-- Die of an LKE queue. -/
def lkeDie (q : Nat) : Nat := match qClass q with | some (.lke d _) => d | _ => 0

/-- Rows of the part in motion. -/
def State.movingRows (s : State) : Nat := (s.moves.map (·.run)).sum

/-- LKE_STATUS.MOVING shows the part's rows in motion on every die. -/
def State.showMoving (s : State) : State := (List.range 8).foldl (fun s d => s.fset F.lkeStatusMoving s.movingRows d) s

/-- A command has rejected or abandoned a run. -/
def State.markBad (s : State) (id : Nat) : State :=
  { s with execs := updateAll s.execs (fun y => y.id == id) fun y => { y with bad := true } }

/-- A HREFRESH completes when every listed run has flipped, been rejected or been abandoned (R245). -/
def State.refreshDone (s : State) (id n : Nat) : State :=
  match s.execs.find? fun x => x.id == id && x.result.isNone with
  | some x =>
    if n ≤ x.stage ∧ !(s.moves.any fun m => m.id == id) then s.finish id (if x.bad then .aborted else .ok) else s
  | none => s

/-- Die of the queue whose HREFRESH listed a run. -/
def State.moveDie (s : State) (m : Move) : Nat :=
  match s.execs.find? fun x => x.id == m.id with
  | some x => lkeDie x.q
  | none => 0

/-- A run is abandoned: its entry returns to its earlier state, the new copy and pending lines are discarded (Table 7.7). -/
def State.abandonMove (s : State) (m : Move) : State :=
  let s := s.setHot m.frame (if m.out then ⟨m.table, m.first, m.run, 1⟩ else ⟨0, 0, 1, 0⟩)
  let s := (s.fadd F.lkeMigrateAbandoned 1 (s.moveDie m)).markBad m.id
  { s with moves := s.moves.filter fun x => x != m }

/-- A table's version changes: its runs in motion are abandoned, and every HOT run, those that moved out among them, is RETIRED (R263, R264; log entry 131). -/
def State.retireRuns (s : State) (t : Nat) : State :=
  let l := s.moves.filter fun m => m.table == t
  let s := ((l.foldl State.abandonMove s).hotShift t 1 4).showMoving
  ((l.map (·.id)).dedup).foldl (fun s id =>
    match s.execs.find? fun x => x.id == id with
    | some x => s.refreshDone id (bitsOf x.entry 185 176 + 1)
    | none => s) s

/-! ### Staging and releases -/

/-- TSTAGE: stages a next version of a table on this part (R260, R261); a layout counts as loaded where the entry gives the table rows (log entry 16). -/
def execTstage (q : Nat) (s : State) : Host.Outcome State Fault Refusal :=
  match s.running q [0x84] with
  | some x =>
    let e := x.entry
    let t := bitsOf e 191 176
    let v := bitsOf e 175 144
    let s := s.readDir t
    let d := s.dir t
    if !zeroBits e [(137, 0)] || d.oldValid || v == d.version || v == d.oldVersion || ((d.state == 0 || decide (3 ≤ d.state)) && d.rows == 0) then
      .next (s.finish x.id .aborted)
    else
      .next ((s.setDir t { d with nextVersion := v, nextBase := x.param (bitsOf e 143 138) % 2 ^ 44, nextValid := true }).finish x.id .ok)
  | none => .next s

/-- The retained version of a table is free once every current member has released it: OLD_VALID clears, RETIRED frames are free, and a TOFFLINE of this part completes (R263, R264). -/
def State.releaseDone (s : State) (table : Nat) : State :=
  let d := s.dir table
  if d.oldValid ∧ s.memberParts.all fun p => s.releases.contains (table, d.oldVersion, p) then
    let s := (s.setDir table { d with oldValid := false, oldReleases := 0 }).hotShift table 4 0
    let mine (x : Exec) : Bool := opcodeOf x.entry == 0x86 && bitsOf x.entry 191 176 == table && x.stage == 2
    { s with execs := updateAll s.execs mine fun x => { x with result := some (.ok, 0) } }
  else s

/-- A member's release of the retained version counts once (R263). -/
def State.countRelease (s : State) (part table version : Nat) : State :=
  let d := s.dir table
  if d.oldValid ∧ d.oldVersion = version ∧ s.isMember part ∧ (table, version, part) ∉ s.releases then
    let s := { s with releases := s.releases ++ [(table, version, part)] }
    (s.setDir table { d with oldReleases := (d.oldReleases + 1) % 2 ^ 16 }).releaseDone table
  else s

/-- OLD_VERSION_RELEASE: a member's release reaches this part; one that reaches it in Hove-to, in which it writes no directory entry, counts once the part is released (R263, R436; log entry 169). -/
def execOldVersionRelease (part table version : Nat) (s : State) : Host.Outcome State Fault Refusal :=
  if s.inHove then .next { s with boot := { s.boot with releases := s.boot.releases ++ [(part, table, version)] } }
  else .next (s.countRelease part table version)

/-! ### Hall-wide changes of the directory (R260 to R264) -/

/-- An entry of this part that asked for a hall-wide directory change and stands at a stage: 1 asked, 3 accepted by the vote. -/
def asksFor (op table : Nat) (version : Option Nat) (stage : Nat) (x : Exec) : Bool :=
  opcodeOf x.entry == op && bitsOf x.entry 191 176 == table && version.all (fun v => v == bitsOf x.entry 175 144) && x.stage == stage &&
    x.result.isNone

/-- The vote on a change that this part asked for has accepted it; its entry waits for the effect (R262). -/
def State.acceptTable (s : State) (op table : Nat) (version : Option Nat) : State :=
  { s with execs := updateAll s.execs (asksFor op table version 1) fun x => { x with stage := 3 } }

/-- Files the result of the entry of this part that asked for a hall-wide directory change. -/
def State.finishTable (s : State) (op table : Nat) (version : Option Nat) (stage : Nat) (st : Status) : State :=
  let mine := asksFor op table version stage
  { s with execs := updateAll s.execs mine fun x => { x with result := some (st, 0) } }

/-- A version of a table is retained: its releases are counted from none (R263). -/
def State.countReleases (s : State) (t : Nat) : State :=
  { s with released := s.released.filter fun r => r.1 != t, releases := s.releases.filter fun r => r.1 != t }

/-- TFLIP takes effect: the staged version becomes current, the current one is retained, HOT runs are RETIRED (R263). -/
def State.flipTable (s : State) (t : Nat) : State :=
  let s := ((s.readDir t).countReleases t).retireRuns t
  let d := s.dir t
  let s := s.setDir t { d with
    version := d.nextVersion, base := d.nextBase, nextValid := false
    oldVersion := d.version, oldBase := d.base, oldValid := true, oldReleases := 0 }
  (s.sendRelease t d.version).finishTable 0x85 t (some d.nextVersion) 3 .ok

/-- TOFFLINE takes effect: the current version is retained, with its HOT runs RETIRED, and the table goes OFFLINE; the entry completes when OLD_VALID is 0 (R264). -/
def State.offlineTable (s : State) (t : Nat) : State :=
  let s := ((s.readDir t).countReleases t).retireRuns t
  let d := s.dir t
  let s := s.setDir t { d with state := 2, oldVersion := d.version, oldBase := d.base, oldValid := true, oldReleases := 0 }
  let s := s.sendRelease t d.version
  { s with execs := updateAll s.execs (asksFor 0x86 t none 3) fun x => { x with stage := 2 } }

/-- TONLINE takes effect: the new epoch is current and ONLINE (R264). -/
def State.onlineTable (s : State) (t v : Nat) : State :=
  (((s.readDir t).setDir t { s.dir t with state := 1, version := v }).finishTable 0x87 t (some v) 3 .ok)

/-- An entry whose hall-wide vote has been asked for. -/
def State.asking (s : State) (x : Exec) (cmd : HallCmd) : State :=
  if x.stage = 0 then
    { s with execs := updateAll s.execs (fun y => y.id == x.id) fun y => { y with stage := 1 }
             hallAsked := s.hallAsked ++ [cmd], out := s.out ++ [.hallAsk cmd] }
  else s

/-- Asks for a hall-wide directory change once; reserved bits abort the entry (R260, R262). -/
def State.tableVote (s : State) (q op : Nat) (cmd : Nat → Nat → HallCmd) : State :=
  match s.running q [op] with
  | some x =>
    if !zeroBits x.entry [(137, 0)] then s.finish x.id .aborted
    else s.asking x (cmd (bitsOf x.entry 191 176) (bitsOf x.entry 175 144))
  | none => s

/-- TFLIP: asks the hall to make a staged version current (R262). -/
def execTflip (q : Nat) (s : State) : Host.Outcome State Fault Refusal :=
  .next (s.tableVote q 0x85 HallCmd.tflip)

/-- TOFFLINE: asks the hall to take a table OFFLINE (R264). -/
def execToffline (q : Nat) (s : State) : Host.Outcome State Fault Refusal :=
  .next (s.tableVote q 0x86 fun t _ => HallCmd.toffline t)

/-- TONLINE: asks the hall to bring a table ONLINE with a new epoch (R264). -/
def execTonline (q : Nat) (s : State) : Host.Outcome State Fault Refusal :=
  .next (s.tableVote q 0x87 HallCmd.tonline)

end Sys2Proof.Machine
end

