-- ==== Sys2Proof/Machine/Lookup.lean ====
section
/-! DEFINITION. The lookup engine (R223 to R259): LOOKUP with its pools and remote runs, SCATTER and the leaves it sends, HREFRESH and the flips of rows in motion, and the Keeper's apply. -/

namespace Sys2Proof.Machine

/-! ### Rows -/

/-- HBM offset of the region of a version of a table: current, retained or staged (R236). -/
def regionOf (d : Dir) (v : Nat) : Option Nat :=
  if v = d.version then some d.base
  else if d.oldValid ∧ v = d.oldVersion then some d.oldBase
  else if d.nextValid ∧ v = d.nextVersion then some d.nextBase
  else none

/-- Where a command pinned to a version reads a local slot: its frame when the map lists it for that version, else its HBM slot; runs of a version that is retained, be it that of a table OFFLINE, are RETIRED (R230, R243, R264, Table 7.7). -/
def State.rowPlace (s : State) (table : Nat) (d : Dir) (v base l : Nat) : Bank × Nat × Bool :=
  match s.frameOf table l ((if v = d.version then [1, 3] else []) ++ if d.oldValid ∧ v = d.oldVersion then [4] else []) with
  | some f => (.sram, s.frameAt f + (l - (s.hot f).first) * d.slot, true)
  | none => (.hbm, base + l * d.slot, false)

/-- Elements of a row at a place (R221). -/
def State.rowAt (s : State) (d : Dir) (b : Bank) (off : Nat) : State × Option (List Half) :=
  let (s, l) := s.load false b off (2 * d.rowlen)
  (s, l.map fun l => (chunksOf 2 d.rowlen l).map fun c => BitVec.ofNat 16 (leNat c))

/-- The reads of the hot-set map that a command makes, with what each word's decoding does (R35, R189). -/
def State.readHot (s : State) : State := s.readLed (hotAt 0) (8 * s.hotFrames)

/-- Format of a table's rows. -/
def Dir.format (d : Dir) : Fmt := (Fmt.ofCode d.fmt).getD .u16w

/-- An index names a row of the table (R222). -/
def Dir.valid (d : Dir) (i : Int) : Bool := decide (0 ≤ i ∧ i < d.rows)

/-! ### Pooling (R231 to R233) -/

/-- What a LOOKUP or a home works with: die of the LKE, table, entry, pinned version with its region, whether the table was OFFLINE, TENSOR. -/
structure PoolCtx where
  die : Nat
  table : Nat
  d : Dir
  version : Nat
  base : Nat
  offline : Bool
  tensor : Nat
deriving DecidableEq, Repr

/-- A position of a bag: number, index, weight. -/
structure Pos where
  j : Nat
  index : Int
  weight : Half
deriving DecidableEq, Repr, Inhabited

/-- Where a position's row comes from (R230): the default row, this part, or the home of a shard. -/
inductive Source where
  | default
  | here (l : Nat)
  | away (shard : Nat)
deriving DecidableEq, Repr, Inhabited

/-- This part's copies of a shard serve lookups: no unit over them waits for R291 or R293. -/
def State.serves (s : State) (table shard : Nat) : Bool :=
  !(s.units.any fun u => u.outOfService && u.state != .retired && !u.dense && u.table == table && u.shard == shard)

/-- Source of a position. -/
def State.sourceOf (s : State) (c : PoolCtx) (p : Pos) : Source :=
  if c.offline || !c.d.valid p.index then .default
  else
    let r := p.index.toNat
    if s.holds c.d (c.d.shardOf r) && s.serves c.table (c.d.shard0 + c.d.shardOf r) then .here (c.d.localOf r)
    else .away (c.d.shardOf r)

/-- Key that splits a bag into runs: positions of one home shard stay together, each default position stands alone (R231). -/
def runKey (c : PoolCtx) (p : Pos) : Nat :=
  if c.offline || !c.d.valid p.index then 0x10000 + p.j else c.d.shardOf p.index.toNat

/-- The runs of a bag. -/
def runsOf (c : PoolCtx) (l : List Pos) : List (List Pos) := l.splitBy fun a b => runKey c a == runKey c b

/-- One step of pooling: every element of `part + w × row`, formed exactly and rounded once (R231, R232). -/
def State.poolStep (s : State) (c : PoolCtx) (out : Nat) (pos : Nat) (w : Val) (part : List Partial) (row : List Val) : List Partial :=
  (part.zip row).mapIdx fun e p =>
    let r := roundPartial (p.1.val.add (w.mul p.2)) (s.site c.tensor (out + e) 0x500 (poolWord pos))
    ⟨r.code, p.1.tally.add r.tally⟩

/-- Rows of a run in position order, read on this part, with how many came from the hot set. -/
def State.readRun (s : State) (c : PoolCtx) : List Pos → State × Option (List (List Half) × Nat)
  | [] => (s, some ([], 0))
  | p :: ps =>
    let place : Bank × Nat × Bool :=
      match s.sourceOf c p with
      | .default => (.hbm, c.base - c.d.slot, false)
      | .here l => s.rowPlace c.table c.d c.version c.base l
      | .away _ => s.rowPlace c.table c.d c.version c.base (c.d.localOf p.index.toNat)
    let (s, row) := s.rowAt c.d place.1 place.2.1
    let (s, rest) := s.readRun c ps
    (s, match row, rest with
      | some row, some rest => some (row :: rest.1, rest.2 + if place.2.2 then 1 else 0)
      | _, _ => none)

/-- A run pooled from +0 (R231). -/
def State.poolRun (s : State) (c : PoolCtx) (out : Nat) (ps : List (Pos × List Half)) : List Partial :=
  ps.foldl (fun part p =>
    s.poolStep c out p.1.j (Half.val .u16w p.1.weight) part (p.2.map (Half.val c.d.format))) (List.replicate c.d.rowlen ⟨0, {}⟩)

/-- What the rows of a command cost (Table 7.4, R234). -/
structure LookupStats where
  indices : Nat := 0
  hot : Nat := 0
  hbm : Nat := 0
  remote : Nat := 0
  invalid : Nat := 0
  missing : Nat := 0
deriving DecidableEq, Repr, Inhabited

/-- A run that a remote home pools, as it is sent (R236, R237); a gather's single position travels with pos 0xFFFF and comes back unpooled (log entry 17). -/
def runRequest (me : Nat) (c : PoolCtx) (gather : Bool) (out : Nat) (run : List Pos) : RunRequest where
  part := me
  table := c.table
  epoch := c.version
  tensor := c.tensor
  outIndex := out
  items := run.map fun p => (p.index.toNat, p.weight, if gather then 0xFFFF else p.j)

/-- The other members that hold a copy of a shard, lowest copy first (R237). -/
def State.homesOf (s : State) (d : Dir) (shard : Nat) : List Nat :=
  ((List.range (d.repl + 1)).map fun k => s.copyHolder d shard k).filter fun p => s.isMember p && p != s.me

/-- Where a shard's remote run goes that has passed over `n` of its homes: first the lowest-numbered copy whose part is a member, then the next whose part has not reported Hove-to (R237, R378). -/
def State.homeOf (s : State) (d : Dir) (shard n : Nat) : Option Nat :=
  ((s.homesOf d shard).drop n).find? fun p => n == 0 || s.memberFlags p % 2 == 0

/-- Row of a gather's only position as exact values, with how many came from the hot set: read here, or the next reply of a home (R233). -/
def State.gatherRow (s : State) (c : PoolCtx) (bag : List Pos) (replies : List RunReply) : State × Option (List Val × Nat) × List RunReply :=
  match s.sourceOf c (bag.headD default) with
  | .away _ =>
    (s, match replies with
      | r :: _ => if r.ok ∧ r.row.length = c.d.rowlen then some (r.row.map (Half.val c.d.format), 0) else none
      | [] => none, replies.drop 1)
  | _ =>
    let (s, rows) := s.readRun c (bag.take 1)
    (s, rows.map fun r => ((r.1.headD []).map (Half.val c.d.format), r.2), replies)

/-- Partial row of one run: read and pooled here, or the next reply of a home. What a home rounds for it counts at the home alone, not in this command's record (log entry 157). -/
def State.runPartial (s : State) (c : PoolCtx) (out : Nat) (run : List Pos) (replies : List RunReply) :
    State × Option (List Partial × Nat) × List RunReply :=
  match s.sourceOf c (run.headD default) with
  | .away _ =>
    (s, match replies with
      | r :: _ => if r.ok ∧ r.row.length = c.d.rowlen then some (r.row.map fun h => ⟨h.toNat, {}⟩, 0) else none
      | [] => none, replies.drop 1)
  | _ =>
    let (s, rows) := s.readRun c run
    (s, rows.map fun r => (s.poolRun c out (run.zip r.1), r.2), replies)

/-- The runs of a bag pooled in order: the first is taken exactly, each later one is added at pos 0x8000 + its first position (R231). -/
def State.poolRuns (s : State) (c : PoolCtx) (out : Nat) :
    Option (List Partial) → List (List Pos) → List RunReply → State × Option (Option (List Partial) × Nat) × List RunReply
  | acc, [], replies => (s, some (acc, 0), replies)
  | acc, run :: runs, replies =>
    let (s, p, replies) := s.runPartial c out run replies
    match p with
    | none => (s, none, replies)
    | some (p, hot) =>
      let acc := match acc with
        | none => p
        | some a => (a.zip p).mapIdx fun e x =>
          addPartials x.1 x.2 (s.site c.tensor (out + e) 0x500 (poolWord (0x8000 + (run.headD default).j)))
      let (s, r, replies) := s.poolRuns c out (some acc) runs replies
      (s, r.map fun r => (r.1, r.2 + hot), replies)

/-- The output row of a bag: a row as it stands, or pooled, then converted once at pos 0xFFFF; an empty bag gives +0. A gathered U16n row with an odd fraction is rounded into U16w (R68; R233 calls that conversion exact, log entry 130) (R228, R231, R233). -/
def State.poolBag (s : State) (c : PoolCtx) (gather : Bool) (fo : Fmt) (out : Nat) (bag : List Pos) (replies : List RunReply) :
    State × Option (List Rounded × Tally × Nat) × List RunReply :=
  let convert (s : State) (l : List Val) : List Rounded :=
    l.mapIdx fun e v => fo.round v (eddy (s.site c.tensor (out + e) 0x500 (poolWord 0xFFFF)))
  if gather then
    let (s, r, replies) := s.gatherRow c bag replies
    (s, r.map fun r => (convert s r.1, {}, r.2), replies)
  else
    let (s, r, replies) := s.poolRuns c out none (runsOf c bag) replies
    (s, r.map fun r =>
      let acc := r.1.getD (List.replicate c.d.rowlen ⟨0, {}⟩)
      (convert s (acc.map Partial.val), tallyOf acc, r.2), replies)

/-- Output rows of the bags in order. -/
def State.poolBags (s : State) (c : PoolCtx) (gather : Bool) (fo : Fmt) (out : Nat → Nat) :
    Nat → List (List Pos) → List RunReply → State × Option (List (List Rounded) × Tally × Nat)
  | _, [], _ => (s, some ([], {}, 0))
  | b, bag :: bags, replies =>
    let (s, r, replies) := s.poolBag c gather fo (out b) bag replies
    match r with
    | none => (s, none)
    | some (row, t, hot) =>
      let (s, rest) := s.poolBags c gather fo out (b + 1) bags replies
      (s, rest.map fun x => (row :: x.1, t.add x.2.1, hot + x.2.2))

/-! ### Bags of a command (R228, R250) -/

/-- Reads an array of `n` little-endian elements of `w` bytes in SRAM or HBM space. -/
def State.readArray (s : State) (a w n : Nat) : State × Option (List Nat) :=
  let (s, l) := s.loadAt ⟨0xFF, [.sram, .hbm], false⟩ a (w * n)
  (s, l.map fun l => (chunksOf w n l).map leNat)

/-- The bag offsets hold no decrease and no bag above 32,767 indices (R228). -/
def bagsOk (off : List Nat) : Bool := (off.zip off.tail).all fun p => decide (p.1 ≤ p.2 ∧ p.2 - p.1 ≤ 32767)

/-- The bags of a command as positions: with offsets from PB, or one index per bag for a gather. -/
def State.readBags (s : State) (px pw pb nb : Nat) (gather weighted : Bool) : State × Option (List (List Pos) × Nat) :=
  let (s, off) := if gather then (s, some (List.range (nb + 1))) else s.readArray pb 4 (nb + 1)
  match off with
  | none => (s, none)
  | some off =>
    if !bagsOk off then (s, none)
    else
      let lo := off.headD 0
      let n := off.getLastD 0 - lo
      let (s, idx) := s.readArray (px + 8 * lo) 8 n
      let (s, w) := if weighted then s.readArray (pw + 2 * lo) 2 n else (s, some (List.replicate n 0x3F00))
      match idx, w with
      | some idx, some w =>
        let one (x k : Nat) : Pos := ⟨k, signedField 64 (idx.getD x 0), BitVec.ofNat 16 (w.getD x 0)⟩
        (s, some ((off.zip off.tail).map fun p => (List.range (p.2 - p.1)).map fun k => one (p.1 - lo + k) k, lo))
      | _, _ => (s, none)

/-! ### LOOKUP (R227 to R240) -/

/-- The table's directory word is a fault when its STATE is reserved (R217). -/
def State.badState (s : State) (table : Nat) : State :=
  s.error 0x3001 sevUncorrectable 0xFFF 0xFF (mkAddr 3 (dirAt table)) 0 Status.aborted.code

/-- Counts of the positions that take a default row for their own index (R234). -/
def defaultsOf (c : PoolCtx) (bags : List (List Pos)) : Nat × Nat :=
  let bad := bags.flatten.filter fun p => !c.d.valid p.index
  ((bad.filter fun p => p.index == -1).length, (bad.filter fun p => p.index != -1).length)

/-- The record of Table 7.4. -/
def lookupRecord (st : LookupStats) (t : Tally) (version : Nat) : List Byte :=
  ([st.indices, st.hot, st.hbm, st.remote, st.invalid, st.missing, t.ovf, t.van, version].flatMap fun n => leBytes 4 (cap32 n)) ++
    List.replicate 28 0

/-- Roundings of an LKE at site 0x0500 count in LKE_NUM of its die and in the window (R240, R311). -/
def State.lkeTally (s : State) (die : Nat) (f : Fmt) (t : Tally) : State :=
  ((s.fadd F.lkeNumOvf t.ovf die).fadd F.lkeNumVan t.van die).tallyWindow f t

/-- Requests for the remote runs of a LOOKUP, each with the shard it reads (R236). -/
def State.remoteRuns (s : State) (c : PoolCtx) (gather : Bool) (out : Nat → Nat) (bags : List (List Pos)) : List (Nat × RunRequest) :=
  (bags.mapIdx fun b bag => (runsOf c bag).filterMap fun run =>
    match s.sourceOf c (run.headD default) with
    | .away shard => some (shard, runRequest s.me c gather (out b) run)
    | _ => none).flatten

/-- Copies that run `i` of an entry has passed over. -/
def Exec.passed (x : Exec) (i : Nat) : Nat := assoc 0 x.tried i

/-- Runs of an entry whose homes answered that they are out are sent to the next copy, if every such run has one (R291, R378). -/
def State.tryNextCopy (s : State) (x : Exec) (c : PoolCtx) (requests : List (Nat × RunRequest)) (replies : List RunReply) : State × Bool :=
  let again : List (Nat × Nat × RunRequest) := ((requests.zip replies).zipIdx.filter fun r => r.1.2.out).map fun r => (r.2, r.1.1)
  let next : List (Nat × Nat × Option Nat × RunRequest) := again.map fun r =>
    let homes := s.homesOf c.d r.2.1
    let n := x.passed r.1 + 1
    (r.1, n + (homes.drop n).findIdx (fun p => s.memberFlags p % 2 == 0), s.homeOf c.d r.2.1 n, r.2.2)
  if next.any fun r => r.2.2.1.isNone then (s, false)
  else
    let s := s.fadd F.lkeTrafficRemoteRuns next.length c.die
    let tried := next.foldl (fun t r => assocSet 0 t r.1 r.2.1) x.tried
    ({ s with execs := updateAll s.execs (fun y => y.id == x.id) fun y => { y with tried } }.emits
      (next.map fun (r : Nat × Nat × Option Nat × RunRequest) => .run (r.2.2.1.getD 0) r.2.2.2), true)

/-- An entry's requests have been sent. -/
def State.sentStage (s : State) (x : Exec) : State :=
  { s with execs := updateAll s.execs (fun y => y.id == x.id) fun y => { y with stage := 1 } }

/-- Stores a record where one is asked for. -/
def State.storeRecord (s : State) (reach : Reach) (at_ : Option Nat) (l : List Byte) : State × Bool :=
  match at_ with
  | some a => s.storeAt reach a l
  | none => (s, true)

/-- The end of a LOOKUP whose row and record are written: its counts, the watched elements and its status (R238, Table 7.11). -/
def State.lookupEnd (s : State) (x : Exec) (c : PoolCtx) (fo : Fmt) (st : LookupStats) (inner : Tally) (out : List Rounded) : State :=
  let s := (s.fadd F.lkeDefaultsMissing st.missing c.die).fadd F.lkeDefaultsInvalid st.invalid c.die
  let s := s.fadd F.lkeTrafficHot st.hot c.die
  let s := if c.offline then s.fadd F.lkeReplaceRows st.indices c.die else s
  let s := (s.lkeTally c.die .u16w inner).lkeTally c.die fo ((out.map Rounded.tally).foldl Tally.add {})
  let bad := out.any fun r => Half.nonfinite fo (BitVec.ofNat 16 r.code)
  let s := if bad then s.nonfinite else s
  let s := s.watch c.tensor (out.map fun r => (fo.decode r.code 0).1)
  s.finish x.id (if c.offline then .replacing else if bad then .nonfinite else if 0 < st.missing + st.invalid then .defaultRow else .ok)

/-- A LOOKUP with its bags and its replies: pools, output, counts and status. LOCAL_HBM counts the rows of valid indices that this part holds, not default rows (log entry 157). -/
def State.lookupRun (s : State) (x : Exec) (c : PoolCtx) (gather : Bool) (fo : Fmt) (dc : Desc) (statsAt : Option Nat)
    (bags : List (List Pos)) (replies : List RunReply) : State :=
  let reach : Reach := ⟨0xFF, [.sram, .hbm], false⟩
  let nb := bags.length
  let out (b : Nat) : Nat := dc.index b 0
  let requests := s.remoteRuns c gather out bags
  if requests.any fun r => (s.homeOf c.d r.1 0).isNone then (s.undefineView reach dc fo nb c.d.rowlen).finish x.id .aborted
  else if replies.length ≠ requests.length then
    if x.stage = 0 then
      let s := s.fadd F.lkeTrafficRemoteRuns requests.length c.die
      (s.emits (requests.map fun r => .run ((s.homeOf c.d r.1 0).getD 0) r.2)).sentStage x
    else s
  else if replies.any (·.out) then
    match s.tryNextCopy x c requests replies with
    | (s, true) => s
    | (s, false) => (s.undefineView reach dc fo nb c.d.rowlen).finish x.id .aborted
  else
    let s := s.readHot
    let (s, rows) := s.poolBags c gather fo out 0 bags replies
    match rows with
    | none => (s.undefineView reach dc fo nb c.d.rowlen).finish x.id .aborted
    | some (rows, inner, hot) =>
      let t := inner.add (((rows.flatten).map Rounded.tally).foldl Tally.add {})
      let (missing, invalid) := defaultsOf c bags
      let here := (bags.flatten.filter fun p => match s.sourceOf c p with | .here _ => true | _ => false).length
      let st : LookupStats := ⟨bags.flatten.length, hot, here - hot, requests.length, invalid, missing⟩
      let (s, landed) := s.writeRows reach dc fo 0 (rows.map fun r => { codes := r.map (·.code) })
      let (s, recorded) := if landed then s.storeRecord reach statsAt (lookupRecord st t c.version) else (s, false)
      if !recorded then (s.undefineView reach dc fo nb c.d.rowlen).finish x.id .aborted
      else
        s.lookupEnd x c fo st inner rows.flatten

/-- A LOOKUP that ends ABORTED before its run: its output, where its descriptor names one, holds no defined values (R238). -/
def State.lookupAbort (s : State) (x : Exec) : State :=
  let e := x.entry
  match s.readDesc 0xFF (x.param (bitsOf e 173 168)) with
  | (s, some dc) =>
    let s := if dc.tile then s
      else s.undefineView ⟨0xFF, [.sram, .hbm], false⟩ dc ((Fmt.ofCode (bitsOf e 143 140)).getD .u16w) (bitsOf e 95 80 + 1) (s.dir (bitsOf e 161 146)).rowlen
    s.finish x.id .aborted
  | (s, none) => s.finish x.id .aborted

/-- LOOKUP: the pin, the checks of R228 and R235, then the run. -/
def State.lookup (s : State) (q : Nat) (x : Exec) (replies : List RunReply) : State :=
  let e := x.entry
  let pool := bitsOf e 145 144
  let nb := bitsOf e 95 80 + 1
  match x.pin with
  | none => s.lookupAbort x
  | some (t, v, st) =>
    let d := s.dir t
    if 3 ≤ st % 16 then (s.badState t).lookupAbort x
    else if st = 0 ∨ 16 ≤ st then s.lookupAbort x
    else if pool == 3 || !zeroBits e [(131, 128), (79, 0)] then s.lookupAbort x
    else
      let (s, dc) := s.readDesc 0xFF (x.param (bitsOf e 173 168))
      let (s, bags) := s.readBags (x.param (bitsOf e 191 186)) (x.param (bitsOf e 185 180)) (x.param (bitsOf e 179 174)) nb
        (pool == 0) (pool == 1)
      match dc, bags, regionOf d v with
      | some dc, some (bags, _), some base =>
        if dc.tile || !dc.ok [0, 1] none then s.lookupAbort x
        else
          let c : PoolCtx := ⟨lkeDie q, t, d, v, base, st == 2, bitsOf e 127 96⟩
          s.lookupRun x c (pool == 0) ((Fmt.ofCode (bitsOf e 143 140)).getD .u16w) dc
            (if bitOf e 139 then some (x.param (bitsOf e 167 162)) else none) bags replies
      | _, _, _ => s.lookupAbort x

/-- LOOKUP of the queue's entry in execution; `replies` are the partial rows that the homes of its remote runs returned, in the order of the runs. While they are not all there, the requests go out once. -/
def execLookup (q : Nat) (replies : List RunReply) (s : State) : Host.Outcome State Fault Refusal :=
  match s.running q [0x50] with
  | some x => .next (s.asSeen x fun s => s.lookup q x replies)
  | none => .next s

/-- A remote run at its home: its rows from the region of the named epoch, pooled as the requester would, or sent as they are for a gather (R236). The LKE of the die that holds the run's first row pools it and counts its roundings (log entry 157). -/
def State.serveRun (s : State) (r : RunRequest) : State × RunReply :=
  let s := (s.readDir r.table).readHot
  let d := s.dir r.table
  match regionOf d r.epoch with
  | none => (s, ⟨false, false, []⟩)
  | some base =>
    let ps := r.items.map fun i => (⟨i.2.2, (i.1 : Int), i.2.1⟩ : Pos)
    let die := hbmDie (base + d.localOf ((r.items.headD (0, 0, 0)).1) * d.slot)
    let c : PoolCtx := ⟨die, r.table, d, r.epoch, base, false, r.tensor⟩
    if !(ps.all fun p => d.valid p.index && s.holds d (d.shardOf p.index.toNat)) then (s, ⟨false, false, []⟩)
    else if !(ps.all fun p => s.serves r.table (d.shard0 + d.shardOf p.index.toNat)) then (s, ⟨false, true, []⟩)
    else
      let (s, rows) := s.readRun c ps
      match rows with
      | none => (s, ⟨false, false, []⟩)
      | some (rows, _) =>
        if (r.items.headD (0, 0, 0)).2.2 = 0xFFFF then (s, ⟨true, false, rows.headD []⟩)
        else
          let p := s.poolRun c r.outIndex (ps.zip rows)
          (s.lkeTally die .u16w (tallyOf p), ⟨true, false, codesOf p⟩)

/-- REMOTE_RUN_REQUEST: a member's remote run reaches this part; none is served in Hove-to (R236, R436). -/
def execRemoteRunRequest (run : RunRequest) (s : State) : Host.Outcome State Fault Refusal :=
  if s.inHove then .next (s.emit (.runReply run.part ⟨false, true, []⟩))
  else if !s.isMember run.part then .next (s.emit (.runReply run.part ⟨false, false, []⟩))
  else
    let (s, r) := s.serveRun run
    .next (s.emit (.runReply run.part r))

/-! ### Leaves at their home (R253, R255, R265) -/

/-- This part serves tables in the Keeper role (Table 11.2). -/
def State.keeper (s : State) : Bool := s.role == 2

/-- The group that collects a table's leaves in the Keeper role (R257). -/
def keeperGroup (s : State) (id table : Nat) : Group :=
  { id, keeper := some table, fmt := 0, rowlen := (s.dir table).rowlen, extent := 2 ^ 32, accumulate := false
    tensor := Config.keeperTensor s.boot.config table, spill := 0, spillSlots := 0, spilled := [], faults := [], nodes := [] }

/-- First of the gradient rows behind a table's gradient map (R253). -/
def gradRows (d : Dir) : Nat := (d.gmapBase + d.gsl * 8192 + 255) / 256 * 256

/-- Slots of a gradient map that hold anything: data, an error or poison. -/
def State.gmapTouched (s : State) (d : Dir) : List Nat :=
  (List.range (d.gsl * 1024)).filter fun i =>
    let w := s.homeWord ((d.gmapBase + 8 * i) / 8)
    s.cellWord .hbm w != 0 || Store.get (fun _ => (0 : BitVec 80)) s.errs (wordKey .hbm w) != 0 ||
      Store.get (fun _ => false) s.poison (wordKey .hbm w)

/-- Slots of a gradient map read through the code; none for one that cannot be read (R189, R190). -/
def State.readSlots (s : State) (d : Dir) : List Nat → State × List (Nat × Option Word)
  | [] => (s, [])
  | i :: is =>
    let (s, v) := s.fetchWord .hbm ((d.gmapBase + 8 * i) / 8)
    let (s, r) := s.readSlots d is
    (s, (i, v) :: r)

/-- A slot is VALID (R253). -/
def slotValid (v : Option Word) : Bool := v.any fun w => w.msb

/-- Where a row's slot is: found, or claimed by a CAS at the home SUC; or none is, as the map is full or a slot's word cannot be read, on which a CAS ends ABORTED (R190, R253). -/
inductive SlotEnd where
  | at_ (i : Nat)
  | full
  | unread
deriving DecidableEq, Repr, Inhabited

/-- Finds or claims a row's slot in the gradient map (R253). -/
def State.claimSlot (s : State) (d : Dir) (row : Nat) : State × SlotEnd :=
  let (s, l) := s.readSlots d (s.gmapTouched d)
  match l.find? fun x => slotValid x.2 && x.2.any fun w => w.toNat % 2 ^ 40 == row with
  | some x => (s, .at_ x.1)
  | none =>
    if l.any fun x => x.2.isNone then (s, .unread)
    else
      match (List.range (min (d.gsl * 1024) (l.length + 1))).find? fun i => !(l.any fun x => x.1 == i && slotValid x.2) with
      | none => (s, .full)
      | some i =>
        let old := (((l.find? fun x => x.1 == i).bind (·.2)).getD 0)
        match s.atomicOp false (mkAddr 0 (d.gmapBase + 8 * i)) 7 9 (BitVec.ofNat 64 (2 ^ 63 + row)) old with
        | (s, some _) => (s, .at_ i)
        | (s, none) => (s, .unread)

/-- What becomes of a leaf at its home. -/
inductive LeafEnd where
  | taken | stale | refused | waits
deriving DecidableEq, Repr, Inhabited

/-- Position of a leaf in the tree of a Keeper's window (R258). -/
def keeperPos (l : Leaf) : Nat := (l.part * 65536 + l.pos * 2 ^ l.level % 65536) / 2 ^ l.level

/-- A leaf's part in the late set of the step in progress, once this home holds it (R320). -/
def State.leafLate (s : State) (l : Leaf) : Bool :=
  s.jobRuns && !s.generation && s.f F.tempoCtrlMode == 0 && match s.step.late with
    | some late => late.contains l.part
    | none => false

/-- The sparse reductions of a learning job keep their leaves by part until they close (R320). -/
def State.keepsSources (s : State) : Bool := !s.keeper && s.jobRuns && !s.generation

/-- Home die of a row's slot in its table, whose LKE takes the row's leaves (R253). -/
def rowDie (d : Dir) (row : Nat) : Nat := hbmDie (d.base + d.localOf row * d.slot)

/-- Puts a leaf into its row's tree at the gradient row of its slot, by a GADD of the home die's LKE (R253); refused where the map is full or the SUC refuses the node. -/
def State.addLeaf (s : State) (gid : Nat) (l : Leaf) (level pos : Nat) : State × LeafEnd :=
  let d := s.dir l.table
  let (s, slot) := s.claimSlot d l.row
  match slot with
  | .full => (s.fadd F.lkeGmapFull l.count (rowDie d l.row), .refused)
  | .unread => (s, .refused)
  | .at_ i =>
    let addr := gradRows d + 256 * i
    let (s, ok) := s.gaddAt (rowDie d l.row) ⟨gid, addr, l.row, level, pos, l.vals, 0⟩
    if ok && s.keepsSources then
      ({ s with groups := updateAll s.groups (fun g => g.id == gid) fun g => { g with sources := g.sources ++ [({ l with level, pos }, addr)] } }, .taken)
    else (s, if ok then .taken else .refused)

/-- Number of the group that takes a leaf: the one it names, or its table's in the Keeper role, where the first leaf of a window opens it while a number is free (R196, R257; log entry 158). -/
def State.leafGroup (s : State) (l : Leaf) : State × Option Nat :=
  if s.keeper then
    match s.groups.find? fun g => g.keeper == some l.table with
    | some g => (s, some g.id)
    | none =>
      match (List.range 64).find? fun i => !(s.groups.any fun g => g.id == i) with
      | some i => (s.openGroup (keeperGroup s i l.table), some i)
      | none => (s, none)
  else (s, if s.groups.any (fun g => g.id == l.gid) then some l.gid else none)

/-- A leaf at its home: dropped when its version is no longer current, waiting for its group, else added to its row's tree; a leaf of a late part joins that part's stale set, also one that comes in the step after its own, and a leaf of a step that this part has not begun waits (R253, R255, R257, R265, R320, R322). -/
def State.takeLeaf (s : State) (l : Leaf) : State × LeafEnd :=
  let s := s.readDir l.table
  let d := s.dir l.table
  if d.state ≠ 1 ∨ l.epoch ≠ d.version then (s.fadd F.lkeReplaceStaleUpdates l.count (rowDie d l.row), .stale)
  else if l.row ≥ d.rows || !s.holds d (d.shardOf l.row) then (s, .refused)
  else if s.keepsSources && l.step + 1 == s.f F.stepEpochEpoch then ({ s with staleLeaves := s.staleLeaves ++ [(l.step, l)] }, .taken)
  else if s.keepsSources && decide (l.step < s.f F.stepEpochEpoch) then (s, .refused)
  else if s.keepsSources && decide (s.f F.stepEpochEpoch < l.step) then (s, .waits)
  else if s.leafLate l then ({ s with staleLeaves := s.staleLeaves ++ [(s.f F.stepEpochEpoch, l)] }, .taken)
  else
    match s.leafGroup l with
    | (s, none) => (s, .waits)
    | (s, some gid) => s.addLeaf gid l l.level (if s.keeper then keeperPos l else l.pos)

/-- The acknowledgement or refusal of another part's leaf, which tells that it was dropped as stale. -/
def State.ackLeaf (s : State) (l : Leaf) (ok stale : Bool) : State :=
  match l.queue with
  | none => s.emit (.leafDone l.part ok stale)
  | some _ => s

/-- A leaf of this part was refused, or dropped as stale: its SCATTER ends ABORTED, or REPLACING (R255, R265). -/
def State.markOwn (s : State) (l : Leaf) (refused : Bool) : State :=
  match l.queue with
  | some (_, _, id) =>
    let mine (x : Exec) : Bool := x.id == id && opcodeOf x.entry == 0x51 && x.result.isNone
    { s with execs := updateAll s.execs mine fun x => if refused then { x with bad := true } else { x with stale := true } }
  | none => s

/-- What becomes of a leaf goes back to its SCATTER. -/
def State.answerLeaf (s : State) (l : Leaf) : LeafEnd → State
  | .refused => (s.ackLeaf l false false).markOwn l true
  | .stale => (s.ackLeaf l true true).markOwn l false
  | .taken => s.ackLeaf l true false
  | .waits => s

/-- Leaves whose group is open now send their atomics, which the next tick edge takes in its order (R31). -/
def State.retryLeaves (s : State) : State :=
  let ready (w : Leaf × Nat) : Bool := s.keeper || s.groups.any fun g => g.id == w.1.gid
  { s with waitingLeaves := s.waitingLeaves.filter fun w => !ready w
           arrivals := s.arrivals ++ (s.waitingLeaves.filter ready).map fun w => .again w.1 w.2 }

/-- A leaf that its home takes; one whose group is not open waits until `due` (R255). -/
def State.leafIn (s : State) (l : Leaf) (due : Nat) : State :=
  match s.takeLeaf l with
  | (s, .waits) => { s with waitingLeaves := s.waitingLeaves ++ [(l, due)] }
  | (s, r) => s.answerLeaf l r

/-- A home in Hove-to tells a leaf's sender so (R378); a leaf of this part ends its SCATTER. -/
def State.leafHove (s : State) (l : Leaf) : State :=
  match l.queue with
  | none => s.emit (.leafOut l.part)
  | some _ => s.markOwn l true

/-- A stale leaf enters its group at position X + p, X the fresh extent (R322); one whose version is no longer current is dropped and counted (R265). -/
def State.staleIn (s : State) (gid : Nat) (l : Leaf) : State :=
  let d := s.dir l.table
  let lay := Config.jobLayout s.boot.job
  if d.state = 1 ∧ l.epoch = d.version then (s.addLeaf gid l l.level (lay.1 * lay.2.1 / 2 ^ l.level + l.pos)).1
  else s.fadd F.lkeReplaceStaleUpdates l.count (rowDie d l.row)

/-- LEAF_ARRIVAL: a leaf or node of a SCATTER reaches its home (R253), whose atomic the next tick edge makes (R31); a home in Hove-to says so, and none is taken from a part that is no member (R378). -/
def execLeafArrival (leaf : Leaf) (s : State) : Host.Outcome State Fault Refusal :=
  if s.inHove then .next (s.leafHove leaf)
  else if !s.isMember leaf.part then .next (s.ackLeaf leaf false false)
  else .next (s.arrive (.leaf leaf))

/-- LEAF_GROUP_WAIT_EXPIRY: leaves whose wait has ended complete their SCATTER ABORTED (R255). -/
def execLeafGroupWaitExpiry (s : State) : Host.Outcome State Fault Refusal :=
  let due := s.waitingLeaves.filter fun w => decide (w.2 ≤ s.now)
  let s := { s with waitingLeaves := s.waitingLeaves.filter fun w => !decide (w.2 ≤ s.now) }
  .next (due.foldl (fun s w => s.answerLeaf w.1 .refused) s)

/-- GOPEN (R196, R256). -/
def execGopen (q : Nat) (s : State) : Host.Outcome State Fault Refusal :=
  match s.running q [0x54] with
  | some x =>
    let e := x.entry
    let id := bitsOf e 191 186
    let sp := x.param (bitsOf e 141 136)
    if !zeroBits e [(135, 128), (95, 0)] || sp / 2 ^ 44 % 16 != 0 || s.groups.any (fun g => g.id == id) then .next (s.finish x.id .aborted)
    else
      let g : Group :=
        { id, fmt := bitsOf e 185 182, rowlen := bitsOf e 181 175 + 1, extent := bitsOf e 173 142 + 1, accumulate := bitOf e 174
          tensor := bitsOf e 127 96, spill := sp % 2 ^ 44, spillSlots := sp / 2 ^ 48 * 32768, spilled := [], faults := [], nodes := [] }
      .next (((s.openGroup g).retryLeaves).finish x.id .ok)
  | none => .next s

/-! ### SCATTER (R250 to R254) -/

/-- Maximal aligned spans of a run of positions, as (level, position) (R254). -/
def spansOf : Nat → Nat → Nat → List (Nat × Nat)
  | 0, lo, n => (List.range n).map fun i => (0, lo + i)
  | k + 1, lo, n =>
    if n = 0 then []
    else
      let size := 2 ^ (k + 1)
      let first := (lo + size - 1) / size
      let last := (lo + n) / size
      if last ≤ first then spansOf k lo n
      else
        spansOf k lo (first * size - lo) ++ ((List.range (last - first)).map fun i => (k + 1, first + i)) ++
          spansOf k (last * size) (lo + n - last * size)

/-- A leaf of a SCATTER: row, place in the index array, position and rounded values with their counts. -/
structure RowLeaf where
  row : Nat
  x : Nat
  pos : Nat
  vals : List Partial
deriving DecidableEq, Repr, Inhabited

/-- Leaves of the bags at the positions that `place` gives: w × g of each valid index, rounded to U16w at site 0x0500 (R251). Where g is a U16n value with an odd fraction that U16w does not hold, that rounding acts also on an unweighted leaf, which R251 calls exact (log entry 130). -/
def State.scatterLeaves (s : State) (d : Dir) (tensor : Nat) (place : Nat → Nat) (weighted : Bool) (bags : List (List Pos × List Val)) : List RowLeaf :=
  let flat := bags.flatMap fun b => b.1.map fun p => (p, b.2)
  (flat.zipIdx.filter fun x => d.valid x.1.1.index).map fun x =>
    let leaf := place x.2
    let w := if weighted then Half.val .u16w x.1.1.weight else Half.val .u16w 0x3F00
    ⟨x.1.1.index.toNat, x.2, leaf, x.1.2.mapIdx fun e g =>
      roundPartial (w.mul g) (s.site tensor (Nat.xor (leaf * 256) e) 0x500)⟩

/-- The group at the homes of a SCATTER by whose node rule the requester combines: its own open group of that number, else one whose TENSOR the job image settles (R198, R254). -/
def State.homeGroup (s : State) (gid : Nat) : Group :=
  (s.groups.find? fun g => g.id == gid).getD
    { id := gid, fmt := 0, rowlen := 0, extent := 2 ^ 32, accumulate := false, tensor := Config.groupTensor s.boot.job gid
      spill := 0, spillSlots := 0, spilled := [], faults := [], nodes := [] }

/-- The nodes a row sends, each with the leaves it combines: those over the spans that its command covers alone (R254). -/
def State.rowNodes (s : State) (gid : Nat) (spans : List (Nat × Nat)) (row : Nat) (leaves : List RowLeaf) : List (Node × Nat) × Tally :=
  let nodes := leaves.map fun l => (⟨gid, 0, row, 0, l.pos, codesOf l.vals, 0⟩ : Node)
  let made := spans.filterMap fun sp =>
    let inside := nodes.filter fun n => n.pos / 2 ^ sp.1 == sp.2
    if inside.isEmpty then none
    else some (sp, inside.length, s.subtree { s.homeGroup gid with rowlen := ((inside.headD default).vals).length } row inside sp.1 sp.2)
  (made.map fun m => ((⟨gid, 0, row, m.1.1, m.1.2, codesOf m.2.2, 0⟩ : Node), m.2.1), (made.map fun m => tallyOf m.2.2).foldl Tally.add {})

/-- Sends one node to the home of every copy of its row's shard that is a member; of this part's own copy it arrives at once (R253). -/
def State.sendLeaf (s : State) (x : Exec) (table epoch : Nat) (n : Node × Nat) (homes : List Nat) : State :=
  let leaf (own : Bool) : Leaf :=
    { part := s.me, queue := if own then some (lkeDie x.q, x.q % 128 - 0x44, x.id) else none, table, epoch, row := n.1.lrow
      gid := n.1.group, level := n.1.level, pos := n.1.pos, vals := n.1.vals, count := n.2, step := s.f F.stepEpochEpoch }
  homes.foldl (fun s p =>
    if p = s.me then s.arrive (.leaf (leaf true)) else if s.isMember p then s.emit (.leaf p (leaf false)) else s) s

/-- Sends nodes in turn. -/
def State.sendLeaves (s : State) (x : Exec) (d : Dir) (table epoch : Nat) (l : List (Node × Nat)) : State :=
  l.foldl (fun s n =>
    s.sendLeaf x table epoch n (((List.range (d.repl + 1)).map fun k => s.copyHolder d (d.shardOf n.1.lrow) k).dedup)) s

/-- Leaf position of index x of a SCATTER: LEAF0 + x, or towards a Keeper this part's number times 65,536 with that sum modulo 65,536 below it (R251, R258). -/
def State.leafPlace (s : State) (d : Dir) (leaf0 x : Nat) : Nat :=
  if s.memberRole (s.copyHolder d 0 0) = roleKeeper then s.me * 65536 + (leaf0 + x) % 65536 else leaf0 + x

/-- The runs of indices whose positions rise without a break, as (first index, count): towards a Keeper the positions begin again after 65,535 (R258). -/
def State.leafRuns (s : State) (d : Dir) (leaf0 count : Nat) : List (Nat × Nat) :=
  if s.memberRole (s.copyHolder d 0 0) = roleKeeper then
    let first := min count (65536 - leaf0 % 65536)
    (0, first) :: (List.range ((count - first + 65535) / 65536)).map fun i => (first + 65536 * i, min 65536 (count - first - 65536 * i))
  else [(0, count)]

/-- The copies of a shard that a SCATTER's leaves reach: this part's own, and those of members that have not answered that they are in Hove-to (R378). -/
def State.leafHomes (s : State) (d : Dir) (hove : List Nat) (shard : Nat) : List Nat :=
  ((List.range (d.repl + 1)).map fun k => s.copyHolder d shard k).filter fun p => p == s.me || (s.isMember p && !hove.contains p)

/-- The nodes of a SCATTER, row by row over each run of positions, and what their sums count (R254). -/
def State.scatterNodes (s : State) (gid : Nat) (place : Nat → Nat) (runs : List (Nat × Nat)) (leaves : List RowLeaf) : List (Node × Nat) × Tally :=
  let made := runs.flatMap fun r =>
    let inside := leaves.filter fun l => decide (r.1 ≤ l.x ∧ l.x < r.1 + r.2)
    ((inside.map (·.row)).dedup).map fun row =>
      s.rowNodes gid (spansOf 32 (place r.1) r.2) row (inside.filter fun l => l.row == row)
  (made.flatMap (·.1), (made.map (·.2)).foldl Tally.add {})

/-- The send of a SCATTER once its bags and gradients are read; the sums that it combines count in SUC_NUM of its die (R202, R254). Where no copy of a row's shard is a member's, it ends ABORTED with nothing sent (R378). -/
def State.scatterSend (s : State) (q : Nat) (x : Exec) (t v : Nat) (bags : List (List Pos)) (grads : List (List Val)) : State :=
  let e := x.entry
  let d := s.dir t
  let die := lkeDie q
  let leaf0 := x.param (bitsOf e 167 162) % 2 ^ 32
  let count := bags.flatten.length
  let leaves := s.scatterLeaves d (bitsOf e 127 96) (s.leafPlace d leaf0) (bitOf e 145) (bags.zip grads)
  let shards := (leaves.map fun l => d.shardOf l.row).dedup
  if shards.any fun k => (s.leafHomes d [] k).isEmpty then s.finish x.id .aborted
  else
  let s := s.fadd F.lkeGmapDropped (count - leaves.length) die
  let s := s.lkeTally die .u16w (tallyOf (leaves.flatMap (·.vals)))
  let nodes := s.scatterNodes (bitsOf e 137 132) (s.leafPlace d leaf0) (s.leafRuns d leaf0 count) leaves
  let s := s.sucTally die .u16w nodes.2
  let s := s.sendLeaves x d t v nodes.1
  { s with execs := updateAll s.execs (fun y => y.id == x.id) fun y => { y with stage := 1, tried := shards.map fun k => (k, 0) } }

/-- SCATTER before its leaves have gone: checks, pin, bags and gradients (R250, R265). -/
def State.scatterStart (s : State) (q : Nat) (x : Exec) : State :=
  let e := x.entry
  let nb := bitsOf e 95 80 + 1
  match x.pin with
  | none => s.finish x.id .aborted
  | some (t, v, st) =>
    let d := s.dir t
    if 3 ≤ st % 16 then (s.badState t).finish x.id .aborted
    else if st = 0 ∨ 16 ≤ st ∨ !zeroBits e [(131, 128), (79, 0)] then s.finish x.id .aborted
    else
      let (s, dg) := s.readDesc 0xFF (x.param (bitsOf e 173 168))
      let (s, bags) := s.readBags (x.param (bitsOf e 191 186)) (x.param (bitsOf e 185 180)) (x.param (bitsOf e 179 174)) nb false (bitOf e 145)
      match dg, bags with
      | some dg, some (bags, _) =>
        if dg.tile || !dg.ok [0, 1] none then s.finish x.id .aborted
        else if st = 2 then
          let n := (bags.flatten.filter fun p => d.valid p.index).length
          let s := (s.fadd F.lkeGmapDropped (bags.flatten.length - n) (lkeDie q)).fadd F.lkeReplaceStaleUpdates n (lkeDie q)
          s.finish x.id .replacing
        else
          let (s, g) := s.readView ⟨0xFF, [.sram, .hbm], false⟩ dg nb d.rowlen
          (match g with
            | some g => s.scatterSend q x t v bags (g.map fun r => (rowValues dg.format r).1)
            | none => s.finish x.id .aborted)
      | _, _ => s.finish x.id .aborted

/-- A leaf of an entry of this part has not been taken at its home, or waits for its group there. -/
def State.leafWaits (s : State) (id : Nat) : Bool :=
  let own (l : Leaf) : Bool := l.queue.any fun x => x.2.2 == id
  (s.waitingLeaves.any fun w => own w.1) || s.arrivals.any fun a => match a with | .leaf l | .again l _ => own l | _ => false

/-- Every shard that a SCATTER's leaves went to still has a copy that took them, be it only this part's own (R378; log entry 159). -/
def State.leafReached (s : State) (x : Exec) (hove : List Nat) : Bool :=
  match x.pin with
  | some (t, _, _) => x.tried.all fun k => !(s.leafHomes (s.dir t) hove k.1).isEmpty
  | none => true

/-- SCATTER: sends the leaves once, then completes when each is acknowledged (R255, R265); `acked` says that every remote home took its leaves but those in Hove-to, whose leaves the other copies hold (R378), `stale` that one dropped them as no longer current. -/
def State.scatter (s : State) (q : Nat) (x : Exec) (acked : LeafAcks) (stale : Bool) : State :=
  let s := if x.stage = 0 then s.asSeen x fun s => s.scatterStart q x else s
  match s.execs.find? fun y => y.id == x.id && y.stage == 1 && y.result.isNone with
  | some y =>
    if y.bad || !acked.all || !s.leafReached y acked.hove then s.finish x.id .aborted
    else if s.leafWaits x.id then s
    else s.finish x.id (if stale || y.stale then .replacing else .ok)
  | none => s

/-- SCATTER of the queue's entry in execution. -/
def execScatter (q : Nat) (acked : LeafAcks) (stale : Bool) (s : State) : Host.Outcome State Fault Refusal :=
  match s.running q [0x51] with
  | some x => .next (s.scatter q x acked stale)
  | none => .next s

/-! ### HREFRESH and flips (R244 to R249) -/

/-- A list entry of an HREFRESH (Table 7.6). -/
structure Refresh where
  table : Nat
  out : Bool
  run : Nat
  first : Nat
  frame : Nat
  rsv : Nat
deriving DecidableEq, Repr, Inhabited

/-- Decodes a list entry. -/
def refreshOf (l : List Byte) : Refresh :=
  let w := leNat l
  ⟨w / 2 ^ 112 % 2 ^ 16, w / 2 ^ 111 % 2 == 1, w / 2 ^ 106 % 32 + 1, w / 2 ^ 66 % 2 ^ 40, w / 2 ^ 43 % 2 ^ 23, w % 2 ^ 43⟩

/-- Two runs of local slots of one table share a slot. -/
def runsMeet (t a n u b m : Nat) : Bool := t == u && overlaps a n b m

/-- The conditions of R242 and R245 on a list entry. -/
def State.refreshOk (s : State) (r : Refresh) : Bool :=
  let d := s.dir r.table
  let h := s.hot r.frame
  let slots := d.slots
  decide (r.run * d.slot ≤ 2048 ∧ r.first % 32 + r.run ≤ 32 ∧ r.frame < s.hotFrames ∧ r.rsv = 0 ∧ r.first + r.run ≤ slots) &&
    d.state == 1 && ((List.range d.shards).any fun k => s.holds d k) &&
    if r.out then h.state == 1 && h.table == r.table && h.first == r.first && h.run == r.run
    else h.state == 0 && !((List.range s.hotFrames).any fun f =>
      let g := s.hot f
      [1, 2, 3].contains g.state && runsMeet g.table g.first g.run r.table r.first r.run)

/-- A list entry is rejected; a table with a reserved STATE leaves its record too (R217, R245). -/
def State.rejectRefresh (s : State) (die id : Nat) (r : Refresh) : State :=
  let s := if 3 ≤ (s.dir r.table).state then s.badState r.table else s
  (s.fadd F.lkeMigrateRejected 1 die).markBad id

/-- Starts list entries from the next one on while the rows in motion fit in 65,536 (R245, R249); answers how many were dealt with. -/
def State.refreshList (s : State) (die id : Nat) : Nat → List Refresh → State × Nat
  | n, [] => (s, n)
  | n, r :: rs =>
    let s := s.readDir r.table
    if !s.refreshOk r then (s.rejectRefresh die id r).refreshList die id (n + 1) rs
    else if 65536 < s.movingRows + r.run then (s, n)
    else
      let s := s.setHot r.frame ⟨r.table, r.first, r.run, if r.out then 3 else 2⟩
      let m : Move := ⟨r.table, r.out, r.first, r.run, r.frame, id, []⟩
      State.refreshList { s with moves := s.moves ++ [m] } die id (n + 1) rs

/-- HREFRESH: lists runs to move; called again it goes on with the entries that did not fit (R244 to R249). -/
def State.hrefresh (s : State) (q : Nat) (x : Exec) : State :=
  let e := x.entry
  let n := bitsOf e 185 176 + 1
  if !zeroBits e [(175, 0)] then s.finish x.id .aborted
  else
    let (s, l) := s.loadAt ⟨0xFF, [.sram], false⟩ (x.param (bitsOf e 191 186)) (16 * n)
    match l with
    | none => s.finish x.id .aborted
    | some l =>
      let list := (chunksOf 16 n l).map refreshOf
      let s := s.readHot
      let (s, k) := s.refreshList (lkeDie q) x.id x.stage (list.drop x.stage)
      let s := { s with execs := updateAll s.execs (fun y => y.id == x.id) fun y => { y with stage := k } }
      (s.showMoving).refreshDone x.id n

/-- HREFRESH of the queue's entry in execution. -/
def execHrefresh (q : Nat) (s : State) : Host.Outcome State Fault Refusal :=
  match s.running q [0x52] with
  | some x => .next (s.asSeen x fun s => s.hrefresh q x)
  | none => .next s

/-- Places of a moving run's old and new copies. -/
def State.movePlaces (s : State) (m : Move) : (Bank × Nat) × (Bank × Nat) :=
  let d := s.dir m.table
  let hbm : Bank × Nat := (.hbm, hbmSlot d m.first)
  let frame : Bank × Nat := (.sram, s.frameAt m.frame)
  if m.out then (frame, hbm) else (hbm, frame)

/-- No Castling unit whose outcome is open covers a row of the run (R247, R248). -/
def State.moveFree (s : State) (m : Move) : Bool :=
  let n := m.run * (s.dir m.table).slot
  let ps := s.movePlaces m
  !(s.units.any fun u => u.state != .retired && u.ranges.any fun r =>
    (r.1 == ps.1.1 && overlaps r.2.1 r.2.2 ps.1.2 n) || (r.1 == ps.2.1 && overlaps r.2.1 r.2.2 ps.2.2 n))

/-- Bytes that hold no defined value become free values (log entry 1). -/
def State.scramble (s : State) (b : Bank) (off n : Nat) : State :=
  let l := (List.range n).map fun i => (Config.freeValue (s.free + i)).setWidth 8
  { s.setBytes b off l with free := s.free + n }

/-- A run flips: its new copy is the old copy with its pending lines, the map entry becomes HOT or FREE, and the HBM slot of a HOT row holds no defined value (R243, R246 to R248). -/
def State.flipMove (s : State) (m : Move) : State :=
  let d := s.dir m.table
  let n := m.run * d.slot
  let ps := s.movePlaces m
  let (s, l) := s.readBytes ps.1.1 ps.1.2 n
  match l with
  | none => s.abandonMove m
  | some l =>
    let s := (s.writeBytes ps.2.1 ps.2.2 l).1
    let s := m.lines.foldl (fun s p => (s.writeBytes ps.2.1 (ps.2.2 + (p.1 - m.first) * d.slot) p.2.1).1) s
    let s := if m.out then s.setHot m.frame ⟨0, 0, 1, 0⟩ else (s.setHot m.frame ⟨m.table, m.first, m.run, 1⟩).scramble .hbm ps.1.2 n
    let s := s.fadd F.lkeMigrateFlipped 1 (s.moveDie m)
    { s with moves := s.moves.filter fun x => x != m }

/-- MIGRATION_FLIP: a flip tick; `done` are the frames whose copies have ended, `faulted` those whose old copy gave an uncorrectable read (R246, R247). -/
def execMigrationFlip (done faulted : List Nat) (s : State) : Host.Outcome State Fault Refusal :=
  let lost := s.moves.filter fun m => faulted.contains m.frame
  let s := lost.foldl (fun s m => (s.error 0x3001 sevUncorrectable 0xFFF 0xFF (hallOf (s.movePlaces m).1.1 (s.movePlaces m).1.2)).abandonMove m) s
  let ready := s.moves.filter fun m => done.contains m.frame && s.moveFree m
  let ids := ((lost ++ ready).map (·.id)).dedup
  let s := (ready.foldl State.flipMove s).showMoving
  let length (s : State) (id : Nat) : Nat :=
    match s.execs.find? fun x => x.id == id with
    | some x => bitsOf x.entry 185 176 + 1
    | none => 0
  .next (ids.foldl (fun s id => s.refreshDone id (length s id)) s)

/-! ### The Keeper's apply (R257 to R259) -/

/-- A quotient of an exact sum, truncated far below any rounding bit with its lost part kept as a last bit, so that it rounds as the quotient does. -/
def divVal (v : Val) (n : Nat) : Val :=
  match v with
  | .fin neg m e =>
    let q := m * 2 ^ 320 / n
    .fin neg (2 * q + if m * 2 ^ 320 % n = 0 then 0 else 1) (e - 321)
  | x => x

/-- The row-wise optimiser on one row of a Keeper table (R257): new state and new weights with their counts. -/
def State.keeperRow (s : State) (d : Dir) (tensor r : Nat) (lr eps : Half) (w : List Half) (v : Half) (g : List Half) :
    Rounded × List Rounded :=
  let n := d.rowlen
  let gv := g.map (Half.val .u16w)
  let sum := Val.sum ((Half.val .u16w v).mul (Val.fin false n 0) :: gv.map fun x => x.mul x)
  let v' := Fmt.u16w.round (divVal sum n) (eddy (s.site tensor r 0x300))
  let t := ((Fmt.u16w.decode v'.code 0).1.add (Half.val .u16w eps)).rsqrt
  (v', (w.zip gv).mapIdx fun e p =>
    d.format.round ((Half.val d.format p.1).sub (((Half.val .u16w lr).mul p.2).mul t)) (eddy (s.site tensor (r * n + e) 0x301)))

/-- Applies the root gradient of a gradient-map slot to its row at its home copy and clears the slot; one whose word cannot be read names no row (R190, R257, R259). -/
def State.keeperSlot (s : State) (table : Nat) (slot : Nat × Option Word) : State :=
  let d := s.dir table
  let i := slot.1
  let r := (slot.2.getD 0).toNat % 2 ^ 40
  if !slotValid slot.2 then (s.writeBytes .hbm (d.gmapBase + 8 * i) (List.replicate 8 0)).1
  else
    let (_, lr, eps) := Config.keeperSection s.boot.config
    let place := s.rowPlace table d d.version d.base (d.localOf r)
    let (s, row) := s.readBytes place.1 place.2.1 (2 * d.rowlen + 2)
    let (s, grad) := s.readBytes .hbm (gradRows d + 256 * i) (2 * d.rowlen)
    let halves (n : Nat) (l : List Byte) : List Half := (chunksOf 2 n l).map fun c => BitVec.ofNat 16 (leNat c)
    let s := match row, grad with
      | some row, some grad =>
        let h := halves (d.rowlen + 1) row
        let tensor := Config.keeperTensor s.boot.config table
        let (v', w') := s.keeperRow d tensor r lr eps (h.take d.rowlen) (h.getD d.rowlen 0) (halves d.rowlen grad)
        let s := (s.tallyWindow .u16w v'.tally).tallyWindow d.format ((w'.map Rounded.tally).foldl Tally.add {})
        (s.store false place.1 place.2.1 ((w' ++ [v']).flatMap fun x : Rounded => leBytes 2 x.code)).1
      | _, _ => s
    (s.writeBytes .hbm (d.gmapBase + 8 * i) (List.replicate 8 0)).1

/-- A table's window ends: its group is closed in REPLACE mode, the rows of its gradient map are applied, the map is clear, and the next group is open (R257); a close that a SUC's mismatch ends applies nothing (R203). -/
def State.keeperTable (s : State) (fails : Bool) (g : Group) : State :=
  match g.keeper with
  | none => s
  | some table =>
    let d := s.dir table
    let (s, ok) := if fails then (s.closeGroup g.id, false) else s.closeGroupRows g none
    let (s, slots) := s.readSlots d (s.gmapTouched d)
    let s :=
      if ok then slots.foldl (fun s i => s.keeperSlot table i) s
      else slots.foldl (fun s i => (s.writeBytes .hbm (d.gmapBase + 8 * i.1) (List.replicate 8 0)).1) s
    s.openGroup (keeperGroup s g.id table)

/-- KEEPER_APPLY: the apply that falls due every LKE_CFG.APPLY ticks in the Keeper role, by the register of die 0 (log entry 158); none in Hove-to (R257, R436). -/
def execKeeperApply (s : State) : Host.Outcome State Fault Refusal :=
  if s.keeper && !s.inHove && decide (s.now / s.f F.lkeCfgApply * s.f F.lkeCfgApply = s.now) then
    let s := (s.groups.filter fun g => g.keeper.isSome).foldl (State.keeperTable · false) s.readHot
    .next ({ s with keeperApplies := s.keeperApplies + 1 }.retryLeaves)
  else .next s

/-! ### A SUC's mismatch (R203) -/

/-- The request on which a SUC mismatched twice ends ABORTED: of a GCLOSE or of a Keeper's window the close ends with no row written, an atomic of another part is refused, a leaf is refused (R199, R203). -/
def State.sucAbort (s : State) : SucVictim → State
  | .entry id =>
    match s.execs.find? fun x => x.id == id && x.result.isNone with
    | some x =>
      let s := if opcodeOf x.entry = 0x55 ∧ s.groups.any (fun g => g.id == bitsOf x.entry 191 186) then s.closeGroup (bitsOf x.entry 191 186) else s
      { s with arrivals := s.arrivals.filter fun a => a != Arrival.entry x.q id }.finish id .aborted
    | none => s
  | .atomic req =>
    if s.arrivals.contains (.outside req) then { s with arrivals := s.arrivals.erase (.outside req) }.emit (.atomicDone req.source none) else s
  | .remote req =>
    if s.arrivals.contains (.remote req) then { s with arrivals := s.arrivals.erase (.remote req) }.emit (.reply req.part req.flow .refused) else s
  | .node die _ => s.emit (.nodeDone (die % 8) false)
  | .leaf l =>
    match s.arrivals.find? fun a => match a with | .leaf m | .again m _ => m == l | _ => false with
    | some a => { s with arrivals := s.arrivals.erase a }.answerLeaf l .refused
    | none => s
  | .window table => (s.groups.filter fun g => g.keeper == some table).foldl (State.keeperTable · true) s
  | .nothing => s

/-- SUC_MISMATCH: a repeat that matches is a correctable error; one that mismatches aborts the request and puts the stack domain into recovery (R203). -/
def execSucMismatch (die : Nat) (again : Bool) (victim : SucVictim) (s : State) : Host.Outcome State Fault Refusal :=
  if again then .next ((s.sucFails die).sucAbort victim)
  else .next (s.error 0x7001 sevCorrectable (stackDomain die))

end Sys2Proof.Machine
end

