-- ==== Sys2Proof/Machine/Members.lean ====
section
/-! DEFINITION. Members of the hall (R367 to R372, R386): the changes that decisions make to the member table and the shard map. -/

namespace Sys2Proof.Machine

/-- Membership epoch (Table 11.1). -/
def State.mepoch (s : State) : Nat := s.led 0x03120000 4

/-- HALL_STATUS follows the member table (Table 11.10). -/
def State.showHall (s : State) : State :=
  let s := (s.fset F.hallStatusMembers s.memberParts.length).fset F.hallStatusMepoch (s.mepoch % 2 ^ 16)
  if s.isMember s.me then s.fset F.hallStatusRole (s.memberRole s.me) else s

/-- Writes a member entry with the epoch at which it takes its state. -/
def State.setMember (s : State) (p st role site flags since id : Nat) : State :=
  s.setLed (memberAt p) 16 (st + role * 2 ^ 8 + site * 2 ^ 16 + flags * 2 ^ 24 + since % 2 ^ 32 * 2 ^ 32 + id % 2 ^ 64 * 2 ^ 64)

/-- A membership change takes effect: the epoch rises by one and event 0x4041 is raised (R369, Table 11.17). -/
def State.newEpoch (s : State) : State :=
  ((s.setLed 0x03120000 4 ((s.mepoch + 1) % 2 ^ 32)).showHall).raise 0x4041 748

/-- A part becomes a member (R369). -/
def State.joinMember (s : State) (p role site id : Nat) : State :=
  (s.setMember p memberLive role site 0 (s.mepoch + 1) id).newEpoch

/-- A member leaves; its entry takes STATE NONE, and no release count waits for it (R263). -/
def State.leaveMember (s : State) (p : Nat) : State :=
  let s := (s.setMember p memberNone (s.memberRole p) (s.memberSite p) 0 (s.mepoch + 1) (s.memberId p)).newEpoch
  s.listedTables.foldl (fun s t => s.releaseDone t) s

/-- A member changes its role. -/
def State.changeRole (s : State) (p role : Nat) : State := (s.setLed (memberAt p + 1) 1 role).newEpoch

/-- FLAGS of a member entry. -/
def State.setMemberFlags (s : State) (p v : Nat) : State := s.setLed (memberAt p + 3) 1 v

/-- A part is declared LOST: event 0x4040, and no release count waits for it (R263, R370, Table 11.17). -/
def State.loseMember (s : State) (p : Nat) : State :=
  let s := (s.setMember p memberLost (s.memberRole p) (s.memberSite p) 0 (s.mepoch + 1) (s.memberId p)).newEpoch
  let s := s.latch { code := 0x4040, source := 748, detail := p }
  s.listedTables.foldl (fun s t => s.releaseDone t) s

/-- Logical shards that a part holds in the shard map; only shards with a non-zero entry are listed, since an unlisted one names part 0. -/
def State.shardsOf (s : State) (p : Nat) : List Nat :=
  let n := (Config.jobLayout s.boot.job).1
  (sortNat (List.range n ++ s.listed 0x03100000 2 65536)).filter fun k => s.holder k == p

/-- The spare that replaces a lost part: the lowest SPARE member of its site, else of the hall (R386). -/
def State.spareFor (s : State) (p : Nat) (taken : List Nat) : Option Nat :=
  let spares := s.memberParts.filter fun x => s.memberRole x == roleSpare && !taken.contains x && x != p
  match spares.find? fun x => s.memberSite x == s.memberSite p with
  | some x => some x
  | none => spares.head?

/-- A decision declares a part lost before the next run of step `e`: the member table, then the shard map; the spare becomes JOB with its promotion in progress, which this part notes for the promotion records, and event 0x4042 names it (R371, R386, R388). -/
def State.declareLost (e : Nat) (s : State) (l : Nat × Option Nat) : State :=
  let shards := s.shardsOf l.1
  let s := s.loseMember l.1
  match l.2 with
  | some x =>
    let s := (s.setLed (memberAt x + 1) 1 roleJob).setMemberFlags x (setBit (s.memberFlags x) 1)
    let s := { s with boot := { s.boot with replaced := (s.boot.replaced.filter fun (r : Nat × Nat × Nat) => r.1 != x) ++ [(x, l.1, e)] } }
    let s := shards.foldl (fun s k => s.setLed (0x03100000 + 2 * k) 2 x) s
    (s.showHall).latch { code := 0x4042, source := 748, detail := x }
  | none => s.latch { code := 0x4042, source := 748, detail := 0xFFFF }

/-- A member of the hall's committee counts heartbeats of every member from the change that made it one, or made the member one, and no other part counts any (R370; log entry 168). -/
def State.seedBeats (s : State) : State :=
  if !s.hallCommittee.contains s.me then { s with beats := [] }
  else
    let old := s.beats.filter fun (b : Nat × Nat) => s.isMember b.1
    { s with beats := old ++ (s.memberParts.filter fun p => !old.any fun (b : Nat × Nat) => b.1 == p).map fun p => (p, s.now) }

/-- Some member's promotion is in progress (Table 11.2, R387). -/
def State.promoting (s : State) : Bool := s.memberParts.any fun p => s.memberFlags p / 2 % 2 == 1

end Sys2Proof.Machine
end

