-- ==== Sys2Proof/Machine/Wire.lean ====
section
/-! DEFINITION. Frames on the wire (R331 to R341, R349, R353): the Naelo header, sealing, IP and UDP, the fields that a frame's classifier reads, and the service of a port's classes. -/

namespace Sys2Proof.Machine

/-! ### Fields -/

/-- Fields from the highest down, each with its width, as one number. -/
def packFields (l : List (Nat × Nat)) : Nat := l.foldl (fun a f => a * 2 ^ f.2 + f.1 % 2 ^ f.2) 0

/-- A number as `n` bytes, highest first. -/
def beBytes (n v : Nat) : List Byte := (leBytes n v).reverse

/-- The number of `n` bytes from a place on, highest first. -/
def beAt (l : List Byte) (off n : Nat) : Nat := leNat (sliceAt l off n).reverse

/-! ### The Naelo header (R339) -/

/-- TYPE codes of Table 10.3. -/
def typeCode : PktType → Nat
  | .data => 0 | .ack => 1 | .status => 2 | .handshake => 3 | .beacon => 4 | .probe => 5

/-- The type of a TYPE code; the others are reserved. -/
def typeOf (n : Nat) : Option PktType := [PktType.data, .ack, .status, .handshake, .beacon, .probe].find? fun t => typeCode t == n

/-- The header as a number, bit 383 first (Table 10.3). -/
def headerNat (p : Pkt) : Nat :=
  let b (x : Bool) : Nat := if x then 1 else 0
  packFields [(p.ver, 4), ((p.type.map typeCode).getD 15, 4), (b p.first, 1), (b p.last, 1), (b p.retx, 1), (0, 5), (p.cls, 3), (0, 1),
    (p.dstFlow, 12), (p.dstPart, 16), (p.srcPart, 16), (p.srcFlow, 12), (p.path, 8), (p.key, 4), (b p.feeder, 1), (0, 7), (p.psn, 32),
    (p.ackPsn, 32), (p.win, 32), (p.msg, 32), (p.offset, 32), (p.len, 16), (0, 16), (p.ts, 32), (p.txc, 64)]

/-- The header's 48 bytes: six words, each most significant byte first (R339). -/
def headerOf (p : Pkt) : List Byte := beBytes 48 (headerNat p)

/-- The packet that a header and a payload make (Table 10.3). -/
def pktOf (header payload : List Byte) (sealOk ce : Bool) : Pkt :=
  let h := beAt header 0 48
  let f (hi lo : Nat) : Nat := h / 2 ^ lo % 2 ^ (hi - lo + 1)
  { ver := f 383 380, type := typeOf (f 379 376), first := f 375 375 == 1, last := f 374 374 == 1, retx := f 373 373 == 1, cls := f 367 365
    dstFlow := f 363 352, dstPart := f 351 336, srcPart := f 335 320, srcFlow := f 319 308, path := f 307 300, key := f 299 296
    feeder := f 295 295 == 1, psn := f 287 256, ackPsn := f 255 224, win := f 223 192, msg := f 191 160, offset := f 159 128
    len := f 127 112, ts := f 95 64, txc := f 63 0, payload, sealOk, ce }

/-- Packet types sealed under a session key (R340). -/
def sealedType (t : PktType) : Bool := t == .data || t == .ack || t == .status || t == .probe

/-- Keys of a session's slot. -/
def Session.keysOf (x : Session) (slot : Nat) : SessionKeys := x.keys.getD slot {}

/-- The nonce of a packet: the salt of its key followed by TXC (R340). -/
def nonceOf (salt : BitVec 32) (txc : Nat) : BitVec 96 := salt ++ BitVec.ofNat 64 txc

/-- A sealed packet as UDP carries it: the header, which is the additional data, the encrypted payload and the tag (R334, R340). -/
def sealedBytes (p : Pkt) (k : SessionKeys) : List Byte :=
  headerOf p ++ Config.gcmSeal k.sealKey (nonceOf k.sealSalt p.txc) (headerOf p) p.payload

/-- The packet that a UDP datagram holds: a sealed one opened under its session's key, a signed one with the verdict on its signature; none where it is shorter than its header, LEN and tag say (R339, R340; log entry 136). -/
def openPkt (keys : Pkt → Option SessionKeys) (signed ce : Bool) (l : List Byte) : Option Pkt :=
  let p := pktOf (l.take 48) (l.drop 48) signed ce
  if l.length < 48 then none
  else if !(p.type.any sealedType) then some { p with payload := (l.drop 48).take p.len }
  else if l.length < 48 + p.len + 16 then none
  else
    match keys p with
    | none => some { p with payload := [], sealOk := false }
    | some k =>
      match Config.gcmOpen k.openKey (nonceOf k.openSalt p.txc) (l.take 48) ((l.drop 48).take (p.len + 16)) with
      | some v => some { p with payload := v, sealOk := true }
      | none => some { p with payload := [], sealOk := false }

/-! ### IP and UDP (R334, R349; log entry 136 for the layouts of RFC 768, 791, 826, 4861 and 8200) -/

/-- The one's-complement sum of a list of bytes, two by two. -/
def onesSum (l : List Byte) : Nat :=
  let t := ((chunksOf 2 ((l.length + 1) / 2) l).map fun c => beAt (c ++ List.replicate (2 - c.length) 0) 0 2).sum
  t - 65535 * ((t - 1) / 65535)

/-- The checksum of a list of bytes. -/
def checksum (l : List Byte) : Nat := 65535 - onesSum l

/-- Address of a port: 128 bits over IPv6, the low 32 bits of the first word over IPv4 (R365). -/
def State.portAddress (s : State) (p : Nat) : Nat :=
  let lo := (s.rd ⟨.portPIpN, p, 0⟩).toNat
  if s.fb F.portPCfgIpv6 p then lo + 2 ^ 64 * (s.rd ⟨.portPIpN, p, 1⟩).toNat else lo % 2 ^ 32

/-- The UDP part of an IP packet with its pseudo header: the checksum is zero over IPv4 and computed over IPv6 (R334). -/
def udpBytes (v6 : Bool) (src dst sport dport : Nat) (body : List Byte) : List Byte :=
  let n := body.length + 8
  let head (c : Nat) : List Byte := beBytes 8 (packFields [(sport, 16), (dport, 16), (n, 16), (c, 16)])
  let c := checksum (beBytes 16 src ++ beBytes 16 dst ++ beBytes 4 n ++ beBytes 4 17 ++ head 0 ++ body)
  head (if v6 then (if c = 0 then 65535 else c) else 0) ++ body

/-- An IPv6 header without extension headers, or an IPv4 header without options and with DF; hop limit or TTL 64 (R334). -/
def ipBytes (v6 : Bool) (src dst dscp ecn label n : Nat) : List Byte :=
  if v6 then beBytes 40 (packFields [(6, 4), (dscp, 6), (ecn, 2), (label, 20), (n, 16), (17, 8), (64, 8), (src, 128), (dst, 128)])
  else
    let h (c : Nat) : List Byte :=
      beBytes 20 (packFields [(4, 4), (5, 4), (dscp, 6), (ecn, 2), (n + 20, 16), (0, 16), (2, 3), (0, 13), (64, 8), (17, 8), (c, 16), (src, 32), (dst, 32)])
    h (checksum (h 0))

/-- The MAC address that a port's packets go to: its gateway's; one not yet resolved is a free value (R336; log entry 136). -/
def State.gatewayMac (s : State) (p : Nat) : Nat :=
  match (s.gateways.find? fun g => g.1 == p).bind (·.2) with
  | some m => m
  | none => (Config.unresolvedMac p).toNat

/-- The MAC header of a port's frames to a MAC address, with its tag where the port has one (R331, R334). -/
def State.macBytes (s : State) (p mac : Nat) : List Byte :=
  beBytes 6 mac ++ beBytes 6 (s.f F.portPMacMac p) ++
    (if s.fb F.portPCfgVlan p then beBytes 2 0x8100 ++ beBytes 2 (s.f F.portPCfgVid p) else []) ++
    beBytes 2 (if s.fb F.portPCfgIpv6 p then 0x86DD else 0x0800)

/-- UDP source port and IPv6 flow label of a path of a flow (R349). -/
def entropy (f path : Nat) : Nat := 0xC000 + (f * 16 + path) % 0x4000

/-- ECN field of a packet: ECT(0) on DATA and PROBE, Not-ECT on the others (R338). -/
def ecnOf (t : Option PktType) : Nat := if t = some .data ∨ t = some .probe then 2 else 0

/-- The FCS of a frame: CRC-32 of IEEE 802.3, bit by bit, least significant first (R334; log entry 136). -/
def fcsOf (l : List Byte) : BitVec 32 :=
  let bit (c : BitVec 32) : BitVec 32 := if c.getLsbD 0 then (c >>> 1) ^^^ 0xEDB88320 else c >>> 1
  let byte (c : BitVec 32) (b : Byte) : BitVec 32 := (List.range 8).foldl (fun c _ => bit c) (c ^^^ b.setWidth 32)
  ~~~(l.foldl byte 0xFFFFFFFF)

/-- The frame, up to its FCS, that carries the bytes of a packet out of a port: to a MAC and an IP address, with the UDP source port and flow label of its path and a UDP destination port (R334, R337, R338, R349). -/
def State.frame (s : State) (port mac dst label dport : Nat) (p : Pkt) (body : List Byte) : List Byte :=
  let v6 := s.fb F.portPCfgIpv6 port
  let src := s.portAddress port
  let udp := udpBytes v6 src dst label dport body
  s.macBytes port mac ++ ipBytes v6 src dst (s.f F.classNCfgDscp (port / 16) p.cls) (ecnOf p.type) label udp.length ++ udp

/-- Address of the part or feeder that a packet goes to. -/
def State.peerAddress (s : State) (p : Pkt) : Nat := Config.peerAddress (s.boot.config ++ s.boot.job) p.dstPart p.feeder

/-- The frame of a sealed packet of a flow's path. -/
def State.wire (s : State) (port f : Nat) (p : Pkt) (k : SessionKeys) : List Byte :=
  s.frame port (s.gatewayMac port) (s.peerAddress p) (entropy f p.path) (s.f F.naeloCfgUdpPort (port / 16)) p (sealedBytes p k)

/-- A packet that is signed and not sealed as UDP carries it: its header and its payload, which holds the signature (R340; log entry 165). -/
def signedBytes (p : Pkt) : List Byte := headerOf p ++ p.payload

/-- The all-nodes multicast address ff02::1 with its MAC address, and the port of a BEACON (R458; log entry 39). -/
def allNodes : Nat := 0xFF02 * 2 ^ 112 + 1
@[inherit_doc allNodes] def allNodesMac : Nat := 0x333300000001
@[inherit_doc allNodes] def beaconPort : Nat := 50080

/-! ### What a received frame holds (R331, R334, Table 10.6) -/

/-- EtherType and what follows it, behind one tag where the port's frames carry one; none for a frame whose tag is not the port's, or with stacked tags (R331; log entry 136). -/
def State.untag (s : State) (p : Nat) (l : List Byte) : Option (Nat × List Byte) :=
  if beAt l 12 2 = 0x8808 then some (0x8808, l.drop 14)
  else if s.fb F.portPCfgVlan p then
    if beAt l 12 2 = 0x8100 ∧ beAt l 14 2 % 4096 = s.f F.portPCfgVid p ∧ beAt l 16 2 ≠ 0x8100 then some (beAt l 16 2, l.drop 18) else none
  else if beAt l 12 2 = 0x8100 then none else some (beAt l 12 2, l.drop 14)

/-- The destination MAC address is the port's, the broadcast, or a neighbour-discovery or PTP multicast (Table 10.6; log entry 136). -/
def State.macOk (s : State) (p : Nat) (l : List Byte) : Bool :=
  let a := beAt l 0 6
  a == s.f F.portPMacMac p || (a == 0xFFFFFFFFFFFF && beAt l 12 2 != 0x86DD) || decide (a / 2 ^ 32 = 0x3333) ||
    [0x011B19000000, 0x0180C200000E, 0x01005E000181].contains a || beAt l 12 2 == 0x8808

/-- PTP's multicast addresses over UDP, those of IEEE 1588 in every scope (log entry 136). -/
def ptpGroup (v6 : Bool) (a : Nat) : Bool :=
  if v6 then a / 2 ^ 120 == 0xFF && [0x181, 0x6B].contains (a % 2 ^ 112) else [0xE0000181, 0xE000006B].contains a

/-- A UDP datagram to the port: PTP, Naelo, or reason 4; a wrong checksum over IPv6 is reason 3 (R334; log entry 136). -/
def State.udpBody (s : State) (p : Nat) (v6 : Bool) (src dst ecn : Nat) (signed : Bool) (l : List Byte) : FrameBody :=
  let n := beAt l 4 2
  let dport := beAt l 2 2
  if n < 8 ∨ l.length < n then .drop 3
  else if v6 ∧ onesSum (beBytes 16 src ++ beBytes 16 dst ++ beBytes 4 n ++ beBytes 4 17 ++ l.take n) ≠ 65535 then .drop 3
  else if (dport = 319 ∨ dport = 320) ∧ ptpGroup v6 dst then .ptp ((l.take n).drop 8)
  else if dst ≠ s.portAddress p then .drop 3
  else if dport = 319 ∨ dport = 320 then .ptp ((l.take n).drop 8)
  else if dport ≠ s.f F.naeloCfgUdpPort (p / 16) then .drop 4
  else
    let keys (q : Pkt) : Option SessionKeys :=
      (s.sessions.find? fun x => x.peer == q.srcPart && x.feeder == q.feeder && x.ready).map fun x => x.keysOf q.key
    match openPkt keys signed (ecn == 3) ((l.take n).drop 8) with
    | some q => .naelo q
    | none => .drop 5

/-- A neighbour-discovery packet may go to the port's address or to a multicast (R336). -/
def State.ndTo (s : State) (p a : Nat) : Bool := a == s.portAddress p || a / 2 ^ 120 == 0xFF

/-- An IPv6 packet to a port (R334, R336). -/
def State.ipv6Body (s : State) (p : Nat) (signed : Bool) (l : List Byte) : FrameBody :=
  let n := beAt l 4 2
  let dst := beAt l 24 16
  let next := beAt l 6 1
  let rest := (l.drop 40).take n
  if l.length < 40 + n ∨ beAt l 0 1 / 16 ≠ 6 then .drop 3
  else if next = 58 ∧ !s.ndTo p dst then .drop 3
  else if next = 58 then (if beAt rest 0 1 = 135 ∨ beAt rest 0 1 = 136 then .neighbour (beAt rest 8 16) else if dst = s.portAddress p then .drop 4 else .drop 3)
  else if [0, 43, 44, 50, 51, 60, 135, 139, 140].contains next then .drop 3
  else if next = 17 then s.udpBody p true (beAt l 8 16) dst (beAt l 0 2 / 16 % 4) signed rest
  else if dst = s.portAddress p then .drop 4 else .drop 3

/-- An IPv4 packet to a port (R334). -/
def State.ipv4Body (s : State) (p : Nat) (signed : Bool) (l : List Byte) : FrameBody :=
  let n := beAt l 2 2
  let dst := beAt l 16 4
  if beAt l 0 1 ≠ 0x45 ∨ n < 20 ∨ l.length < n ∨ onesSum (l.take 20) ≠ 65535 ∨ beAt l 6 2 % 2 ^ 14 ≠ 0 then .drop 3
  else if beAt l 9 1 = 17 then s.udpBody p false (beAt l 12 4) dst (beAt l 1 1 % 4) signed ((l.take n).drop 20)
  else if dst = s.portAddress p then .drop 4 else .drop 3

/-- What a frame carries behind its MAC header. -/
def State.frameBody (s : State) (f : Frame) : FrameBody :=
  match s.untag f.port f.bytes with
  | none => .drop 4
  | some (t, l) =>
    if t = 0x0806 then .arp (beAt l 24 4)
    else if t = 0x88F7 then .ptp l
    else if t = 0x86DD then (if s.fb F.portPCfgIpv6 f.port then s.ipv6Body f.port f.signed l else .drop 3)
    else if t = 0x0800 then (if s.fb F.portPCfgIpv6 f.port then .drop 3 else s.ipv4Body f.port f.signed l)
    else .drop 4

/-! ### The classes of a port (R337; log entry 137) -/

/-- Bytes that a port sends in one tick (Table 10.16). -/
def State.lineRate (s : State) (p : Nat) : Nat :=
  match s.f F.portPCfgSpeed p with
  | 1 => 25000 | 2 => 50000 | 3 => 100000 | 4 => 200000 | _ => 0

/-- The largest frame on the wire: 9,216 bytes with preamble and gap; a class of weight w may send w times as much in its turn. -/
def largestFrame : Nat := 9236

/-- The transmit side of a port. -/
def State.line (s : State) (p : Nat) : Line := assoc {} s.lines p

/-- Puts a packet or frame of `n` bytes, FCS included, on a port's queue; preamble and gap take 20 bytes more (R335). -/
def State.enqueue (s : State) (p cls n : Nat) (o : Out) : State :=
  { s with lines := assocSet {} s.lines p { s.line p with waiting := (s.line p).waiting ++ [⟨cls, n + 20, o⟩] } }

/-- PFC holds back a traffic class of a port (R338). -/
def State.classPaused (s : State) (port cls : Nat) : Bool := s.paused.any fun p => p.1 == port && p.2 / 2 ^ cls % 2 == 1

/-- A line that sends its first frame of a class. -/
def Line.send (l : Line) (w : Waiting) : Line :=
  { l with waiting := l.waiting.erase w, budget := l.budget - w.size, reserved := l.reserved - if w.cls = 7 then w.size else 0 }

/-- What a port sends ahead of classes 0 to 6: frames of the port itself, then class 7 as far as 1 % of the rate goes. -/
def Line.urgent (held : Nat → Bool) : Nat → Line → Line × List Out
  | 0, l => (l, [])
  | k + 1, l =>
    let own := l.waiting.find? fun w => w.cls == 8
    let top := (l.waiting.find? fun w => w.cls == 7).filter fun w => !held 7 && decide (w.size ≤ l.reserved)
    match (own.or top).filter fun w => decide (w.size ≤ l.budget) with
    | some w => let r := Line.urgent held k (l.send w); (r.1, w.item :: r.2)
    | none => (l, [])

/-- A class's turn in the deficit round robin is over. -/
def Line.next (l : Line) (d : Nat) : Line :=
  { l with deficits := l.deficits.mapIdx fun i x => if i = l.turn then d else x, turn := (l.turn + 1) % 7, begun := false }

/-- The deficit round robin of classes 0 to 6 with their weights: a class whose turn begins gains its weight in largest frames, sends while its deficit lasts, and loses it where nothing waits. -/
def Line.share (held : Nat → Bool) (weight : Nat → Nat) : Nat → Line → Line × List Out
  | 0, l => (l, [])
  | k + 1, l =>
    if !(l.waiting.any fun w => decide (w.cls < 7) && !held w.cls) then (l, [])
    else
      match if held l.turn then none else l.waiting.find? fun w => w.cls == l.turn with
      | none => Line.share held weight k (l.next 0)
      | some w =>
        let d := l.deficits.getD l.turn 0 + if l.begun then 0 else weight l.turn * largestFrame
        if d < w.size then Line.share held weight k (l.next d)
        else if l.budget < w.size then ({ l with deficits := l.deficits.mapIdx fun i x => if i = l.turn then d else x, begun := true }, [])
        else
          let r := Line.share held weight k
            ({ l with deficits := l.deficits.mapIdx fun i x => if i = l.turn then d - w.size else x, begun := true }.send w)
          (r.1, w.item :: r.2)

/-- A port that is up sends what one tick takes; a frame that does not fit whole waits for the next. -/
def State.serveLine (s : State) (p : Nat) : State :=
  let l := s.line p
  if l.waiting.isEmpty || !s.fb F.portPStatusUp p then s
  else
    let rate := s.lineRate p
    let l := { l with budget := l.budget + rate, reserved := min (l.reserved + rate / 100) (max largestFrame (rate / 100)) }
    let (l, a) := l.urgent (s.classPaused p) l.waiting.length
    let (l, b) := l.share (s.classPaused p) (fun c => s.f F.classNCfgWeight (p / 16) c) (8 * (l.waiting.length + 1))
    let l := { l with budget := if l.waiting.isEmpty then 0 else min l.budget largestFrame }
    ({ s with lines := assocSet {} s.lines p l }.fadd F.portPFramesTx (a ++ b).length p).emits (a ++ b)

/-- Every port sends what one tick takes. -/
def State.serveLines (s : State) : State := (s.lines.map (·.1)).foldl State.serveLine s

end Sys2Proof.Machine
end

