-- ==== Sys2Proof/Machine/Flows.lean ====
section
/-! DEFINITION. Naelo flows as the operations use them (R342 to R352): states, opening and closing, paths, the sending of messages as packets, and failure. -/

namespace Sys2Proof.Machine

/-- Flow states (Table 10.5). -/
def flowClosed : Nat := 0
@[inherit_doc flowClosed] def flowOpening : Nat := 1
@[inherit_doc flowClosed] def flowOpen : Nat := 2
@[inherit_doc flowClosed] def flowDraining : Nat := 3
@[inherit_doc flowClosed] def flowFailed : Nat := 4

/-- Home I/O die of a flow (R342). -/
def flowDie (f : Nat) : Nat := f / 2048 % 2

/-- STATE of a flow. -/
def State.flowState (s : State) (f : Nat) : Nat := s.f F.flowFStatusState f

/-- What a flow holds. -/
def State.flow (s : State) (f : Nat) : Option Flow := (s.flows.find? fun x => x.1 == f).map (·.2)

/-- The state with a flow's record written. -/
def State.setFlow (s : State) (f : Nat) (x : Flow) : State :=
  let s := { s with flows := if s.flows.any (·.1 == f) then updateAll s.flows (·.1 == f) fun _ => (f, x) else s.flows ++ [(f, x)] }
  s.fset F.flowFStatusPaths (x.paths.filter (·.inSpray)).length f

/-- A flow enters a state; NAELO_STATUS.FLOWS of its die counts those not CLOSED. -/
def State.enterFlow (s : State) (f st : Nat) : State :=
  let was := s.flowState f
  let d := flowDie f
  let n := s.f F.naeloStatusFlows d
  let n := if was = flowClosed ∧ st ≠ flowClosed then n + 1 else if was ≠ flowClosed ∧ st = flowClosed then n - 1 else n
  (s.fset F.flowFStatusState st f).fset F.naeloStatusFlows n d

/-- The session with a peer or a feeder (R482). -/
def State.session (s : State) (peer : Nat) (feeder : Bool) : Option Session :=
  s.sessions.find? fun x => x.peer == peer && x.feeder == feeder && x.ready

/-- Ports of a die that are up, in position order (R349). -/
def State.portsUp (s : State) (d : Nat) : List Nat := ((List.range 16).map (d * 16 + ·)).filter fun p => s.fb F.portPStatusUp p

/-- Payload limit of a packet (R335). -/
def State.pmax (s : State) (d : Nat) : Nat := 1024 * 2 ^ s.f F.naeloCfgPmax d

/-- A path at its start (R349, R351). -/
def newPath (port cwnd : Nat) : Path := ⟨port, cwnd, 0, true, false, none, 0, 0, 0, 0, 0⟩

/-- Opens the paths of a flow: path p on in-service port p mod n (R349). -/
def State.newPaths (s : State) (d n : Nat) : List Path :=
  let ports := s.portsUp d
  (List.range n).map fun p => newPath (ports.getD (p % ports.length) 0) (s.f F.ccCfgCwndInit d * 1024)

/-- Time in ns as the TS field carries it; the model's clock shows whole ticks (log entry 18). -/
def State.ns (s : State) : Nat := s.now * 1000 % 2 ^ 32

/-- Takes the next TXC of a session's direction (R340). -/
def State.nextTxc (s : State) (peer : Nat) (feeder : Bool) : State × Nat :=
  match s.session peer feeder with
  | some x => ({ s with sessions := updateAll s.sessions (fun y => y == x) fun y => { y with txc := y.txc + 1 } }, x.txc)
  | none => (s, 0)

/-- Peer of a flow, and whether it is a feeder. -/
def State.flowPeer (s : State) (f : Nat) : Nat × Bool := (s.f F.flowFStatusPeer f, s.fb F.flowFStatusFeeder f)

/-- The reserved class is paced by R337 alone. -/
def State.reservedFlow (s : State) (f : Nat) : Bool := s.f F.flowFStatusClass f == 7

/-- A path whose window has room for a packet. -/
def Path.room (p : Path) (len : Nat) : Bool := decide ((p.inFlight + len : Nat) ≤ p.cwnd)

/-- The pacing lets a packet leave on a path in a tick (R351). -/
def Path.paced (p : Path) (now : Nat) : Bool := decide (p.due < ((now + 1) * 1000 : Nat))

/-- A packet on a path: its bytes are in flight, and the next one is due when they have left at cwnd / SRTT, at once where no SRTT is known (R351; log entry 144). -/
def Path.charge (p : Path) (now len : Nat) (srtt : Option Rat) : Path :=
  { p with inFlight := p.inFlight + len, due := max p.due ((now * 1000 : Nat) : Rat) + len * srtt.getD 0 / p.cwnd }

/-- The next path in round-robin order that is in the spray set, has room, is due and is not paused (R338, R350, R351). -/
def State.nextPath (s : State) (f : Nat) (x : Flow) (len : Nat) : Option Nat :=
  let n := x.paths.length
  ((List.range n).map fun i => (x.turn + i) % n).find? fun i =>
    let p := x.paths.getD i default
    p.inSpray && (s.reservedFlow f || (p.room len && p.paced s.now)) && !s.classPaused p.port (s.f F.flowFStatusClass f)

/-- The path of the spray set with the most free window (R346). -/
def widestPath (x : Flow) : Option Nat :=
  (x.paths.zipIdx).foldl (fun best p =>
    if !p.1.inSpray then best
    else
      match best with
      | none => some p.2
      | some b =>
        let q := x.paths.getD b default
        if q.cwnd - q.inFlight < p.1.cwnd - p.1.inFlight then some p.2 else best) none

/-- A path with one changed. -/
def Flow.setPath (x : Flow) (i : Nat) (g : Path → Path) : Flow := { x with paths := x.paths.mapIdx fun k p => if k = i then g p else p }

/-- A packet of this part on a flow: its type, path, TS, ACK_PSN, WIN and payload (Table 10.3). -/
def State.packetOf (s : State) (f : Nat) (x : Flow) (t : PktType) (path txc ts : Nat) (payload : List Byte) : Pkt where
  ver := 1
  type := some t
  first := false
  last := false
  retx := false
  cls := s.f F.flowFStatusClass f
  dstFlow := x.peerFlow
  dstPart := (s.flowPeer f).1
  srcPart := s.me
  srcFlow := f
  path := path
  key := ((s.session (s.flowPeer f).1 (s.flowPeer f).2).map (·.keySlot)).getD 0
  feeder := (s.flowPeer f).2
  psn := 0
  ackPsn := (x.ackBase + 2 ^ 32 - 1) % 2 ^ 32
  win := x.winIn % 2 ^ 32
  msg := 0
  offset := 0
  ts := ts
  txc := txc
  len := payload.length
  payload := payload
  sealOk := true
  ce := false

/-- A frame with its FCS waits in its class on a port (R334, R337). -/
def State.sendWire (s : State) (f port : Nat) (p : Pkt) (l : List Byte) : State :=
  let l := l ++ leBytes 4 (fcsOf l).toNat
  s.enqueue port p.cls l.length (.packet port f p l)

/-- A packet outside every flow, of a type and class, with its place in its message (R339; log entry 165). -/
def State.loosePkt (s : State) (t : PktType) (cls peer msg off : Nat) (last feeder : Bool) (payload : List Byte) : Pkt where
  ver := 1
  type := some t
  first := off == 0
  last := last
  retx := false
  cls := cls
  dstFlow := 0
  dstPart := peer
  srcPart := s.me
  srcFlow := 0
  path := 0
  key := 0
  feeder := feeder
  psn := 0
  ackPsn := 0
  win := 0
  msg := msg
  offset := off
  ts := 0
  txc := 0
  len := payload.length
  payload := payload
  sealOk := true
  ce := false

/-- A BEACON leaves a port as a whole frame to ff02::1 (R334, R458; log entries 39 and 165). -/
def State.sendBeacon (s : State) (port : Nat) (body : List Byte) : State :=
  let p := s.loosePkt .beacon 0 0xFFFF 0 0 true false body
  s.sendWire 0 port p (s.frame port allNodesMac allNodes (entropy 0 0) beaconPort p (signedBytes p))

/-- A handshake message leaves in HANDSHAKE packets of class 6, in pieces of at most PMAX bytes (R482; log entry 165). -/
def State.sendHandshake (s : State) (peer : Nat) (feeder : Bool) (l : List Byte) : State :=
  match (s.portsUp 0 ++ s.portsUp 1).head? with
  | none => s
  | some port =>
    let n := s.pmax (port / 16)
    let k := max 1 ((l.length + n - 1) / n)
    (List.range k).foldl (fun s i =>
      let p := s.loosePkt .handshake 6 peer (leAt l 0 4) (i * n) (i + 1 == k) feeder (sliceAt l (i * n) (min n (l.length - i * n)))
      s.sendWire 0 port p (s.frame port (s.gatewayMac port) (s.peerAddress p) (entropy 0 0) (s.f F.naeloCfgUdpPort (port / 16)) p (signedBytes p))) s

/-- Seals a packet of a flow and puts its frame on the queue of its path's port (R334, R337, R340). -/
def State.transmit (s : State) (f port : Nat) (p : Pkt) : State :=
  let k := match s.session (s.flowPeer f).1 (s.flowPeer f).2 with
    | some x => x.keysOf p.key
    | none => {}
  s.sendWire f port p (s.wire port f p k)

/-- Bytes at a hall address of this part as a reader sees them now; where a word of them cannot be read they are free (R344; log entry 1). -/
def State.sourceBytes (s : State) (a n : Nat) : State × List Byte :=
  let unread : List Byte := (List.range n).map fun i => Config.payloadUnread (a + i)
  match s.run? a n with
  | some (b, off) => let (s, l) := s.load false b off n; (s, l.getD unread)
  | none => (s, unread)

/-- `n` bytes from an offset of a list of spans. -/
def State.readSpans (s : State) (off n : Nat) : List Span → State × List Byte
  | [] => (s, [])
  | p :: ps =>
    let k := min (p.size - off) n
    let (s, a) :=
      match p with
      | .bytes l => (s, sliceAt l off k)
      | .place a _ => if k = 0 then (s, []) else s.sourceBytes (a + off) k
    let (s, b) := s.readSpans (off - p.size) (n - k) ps
    (s, a ++ b)

/-- The payload of a piece, read again at every transmission (R344). -/
def State.payloadOf (s : State) (u : Piece) : State × List Byte := s.readSpans u.offset u.len u.src

/-- Puts one packet of a flow on a path: its header with PSN, message and time, its TXC and its order. -/
def State.putPacket (s : State) (f : Nat) (u : Unacked) (retx : Bool) : State :=
  let peer := s.flowPeer f
  let (s, txc) := s.nextTxc peer.1 peer.2
  match s.flow f with
  | none => s
  | some x =>
    let u := { u with order := x.order, later := 0, sentAt := s.now }
    let x := x.setPath u.path fun p => p.charge s.now u.piece.len x.srtt
    let x := { x with order := x.order + 1, unacked := x.unacked ++ [u] }
    let s := s.setFlow f x
    let s := if retx then (s.fadd F.naeloStatusRetx 1 (flowDie f)).fadd F.flowFStatusRetx 1 f else s
    let (s, payload) := s.payloadOf u.piece
    s.transmit f (x.paths.getD u.path default).port
      { s.packetOf f x (if u.probe then .probe else .data) u.path txc s.ns payload with
        first := u.piece.offset == 0, last := u.piece.last, retx := retx, psn := u.psn % 2 ^ 32, msg := u.piece.msg, offset := u.piece.offset }

/-- Sends an ACK or STATUS on a path of a flow, out of the path's port. -/
def State.sendPacket (s : State) (f : Nat) (t : PktType) (path ts : Nat) (payload : List Byte) : State :=
  match s.flow f with
  | none => s
  | some x =>
    let peer := s.flowPeer f
    let (s, txc) := s.nextTxc peer.1 peer.2
    match x.paths[path]? with
    | some p => s.transmit f p.port (s.packetOf f x t path txc ts payload)
    | none => s

/-- Payload of a STATUS (Table 10.4). -/
def statusPayload (code psn : Nat) : List Byte := leBytes 4 code ++ leBytes 4 (psn % 2 ^ 32)

/-- STATUS BUSY tells a flow's peer of a changed WIN (R352, Table 10.4). -/
def State.sendBusy (s : State) (f : Nat) : State :=
  match s.flow f with
  | some x => s.sendPacket f .status 0 s.ns (statusPayload 3 (x.winIn + 1))
  | none => s

/-- Sends waiting pieces while the flow, its window and a path allow (R350 to R352). -/
def State.pump (s : State) (f : Nat) : Nat → State
  | 0 => s
  | k + 1 =>
    match s.flow f with
    | none => s
    | some x =>
      match x.backlog with
      | [] => s
      | p :: rest =>
        if (s.flowState f ≠ flowOpen ∧ s.flowState f ≠ flowDraining) ∨ x.winOut < x.nextPsn ∨ 65536 ≤ x.unacked.length then s
        else
          match s.nextPath f x p.len with
          | none => s
          | some i =>
            let s := s.setFlow f { x with backlog := rest, nextPsn := x.nextPsn + 1, turn := (i + 1) % x.paths.length }
            (s.putPacket f ⟨x.nextPsn, i, 0, p, 0, 0, 0, false, 0⟩ false).pump f k

/-- Flows whose pieces wait send what their paths let leave in this tick (R351). -/
def State.pumpAll (s : State) : State :=
  (s.flows.filter fun x => !x.2.backlog.isEmpty).foldl (fun s x => s.pump x.1 x.2.backlog.length) s

/-- Pieces of a message of `n` bytes. -/
def piecesOf (msg n pmax : Nat) (src : List Span) : List Piece :=
  let k := max 1 ((n + pmax - 1) / pmax)
  (List.range k).map fun i => ⟨msg, i * pmax, min pmax (n - i * pmax), i + 1 == k, src⟩

/-- Sends a message on a flow (R344). -/
def State.sendFrom (s : State) (f : Nat) (src : List Span) : State :=
  match s.flow f with
  | none => s
  | some x =>
    let pieces := piecesOf x.nextMsg (src.map Span.size).sum (s.pmax (flowDie f)) src
    (s.setFlow f { x with nextMsg := x.nextMsg + 1, backlog := x.backlog ++ pieces }).pump f pieces.length

/-- Sends a message on a flow whose bytes the part has formed. -/
def State.sendMessage (s : State) (f : Nat) (l : List Byte) : State := s.sendFrom f [.bytes l]

/-- Files the result of an entry that waits for a flow. -/
def State.flowDone (s : State) (id : Nat) (st : Status) : State :=
  { s with execs := updateAll s.execs (fun x => x.id == id && x.result.isNone) fun x => { x with result := some (st, 0) } }

/-- A FLOWCTL CLOSE that waits for its flow to close (R343). -/
def closesFlow (f : Nat) (x : Exec) : Bool :=
  opcodeOf x.entry == 0x79 && bitsOf x.entry 191 190 == 1 && bitsOf x.entry 189 178 == f && x.stage == 1 && x.result.isNone

/-- A flow is CLOSED: its record is gone, each CLOSE that waits for that completes, and an OPEN still waiting ends ABORTED. -/
def State.closeFlow (s : State) (f : Nat) : State :=
  let waiter := (s.flow f).bind (·.waiter)
  let s := { s with
    flows := s.flows.filter fun x => x.1 != f
    execs := updateAll s.execs (closesFlow f) fun x => { x with result := some (.ok, 0) } }
  let s := (s.enterFlow f flowClosed).fset F.flowFStatusPaths 0 f
  match waiter with
  | some id => s.flowDone id .aborted
  | none => s

/-- A DRAINING flow closes once every packet sent is acknowledged (Table 10.5). -/
def State.drain (s : State) (f : Nat) : State :=
  match s.flow f with
  | some x => if s.flowState f = flowDraining ∧ x.unacked.isEmpty ∧ x.backlog.isEmpty then s.closeFlow f else s
  | none => s

/-- FXE entries that name a flow of one peer. -/
def usesFlow (f : Nat) (x : Exec) : Bool :=
  (qClass x.q).any (fun c => match c with | .fxe n => n / 32 == flowDie f | _ => false) &&
    [0x60, 0x61, 0x62, 0x78].contains (opcodeOf x.entry) && bitsOf x.entry 191 180 == f

/-- A run of bytes of this part's SRAM or HBM space. -/
def State.localRun (s : State) (a n : Nat) : Option (Bank × Nat) := (s.run? a n).filter fun p => p.1 == .sram || p.1 == .hbm

/-- Bytes that hold no defined value at a local place (R358, R378). -/
def State.undefineRun (s : State) (a n : Nat) : State :=
  match s.localRun a n with
  | some (b, off) => s.scramble b off n
  | none => s

/-- Place and size of a PULL's destination (R357). -/
def pullDest (x : Exec) : Nat × Nat := (mkAddr 1 (x.param (bitsOf x.entry 157 152) % 2 ^ 44), x.param (bitsOf x.entry 151 146))

/-- What a flow's failure leaves of an operation on it: each counts in FXE_STATUS.ABORTED, but for a PULL, whose destination is undefined (R358, R378, Table 11.8); an RREAD's is too. -/
def State.failOn (s : State) (x : Exec) : State :=
  if opcodeOf x.entry = 0x78 then (let d := pullDest x; if x.stage = 0 then s else s.undefineRun d.1 d.2)
  else
    let s := s.fadd F.fxeStatusAborted 1 (match qClass x.q with | some (.fxe n) => n / 32 | _ => 0)
    if opcodeOf x.entry = 0x60 then s.undefineRun (x.param (bitsOf x.entry 173 168)) (x.param (bitsOf x.entry 167 162)) else s

/-- A flow is FAILED: every operation outstanding on it completes ABORTED (R347, Table 10.5). -/
def State.failFlow (s : State) (f : Nat) : State :=
  let waiter := (s.flow f).bind (·.waiter)
  let s := (s.execs.filter fun x => usesFlow f x && x.result.isNone).foldl State.failOn s
  let s := { s with execs := updateAll s.execs (fun x => (usesFlow f x && x.result.isNone) || closesFlow f x) fun x => { x with result := some (.aborted, 0) } }
  let s := match s.flow f with
    | some x => s.setFlow f { x with unacked := [], backlog := [], waiter := none }
    | none => s
  let s := match waiter with
    | some id => s.flowDone id .aborted
    | none => s
  (s.enterFlow f flowFailed).raise 0x4020 748

/-- Opens a flow record with its peer; OPEN when a session is there, else OPENING (R342, R343). -/
def State.openFlow (s : State) (f peer cls npath : Nat) (feeder : Bool) (waiter : Option Nat) : State :=
  let s := s.setFlow f { paths := s.newPaths (flowDie f) npath, waiter }
  let s := ((s.fset F.flowFStatusPeer peer f).fset F.flowFStatusClass cls f).fset F.flowFStatusFeeder (if feeder then 1 else 0) f
  if (s.session peer feeder).isSome then
    let s := s.enterFlow f flowOpen
    match waiter with
    | some id => s.flowDone id .ok
    | none => s
  else s.enterFlow f flowOpening

/-- Flows with a peer. -/
def State.flowsWith (s : State) (peer : Nat) (feeder : Bool) : List Nat :=
  (s.flows.map (·.1)).filter fun f => s.flowPeer f == (peer, feeder)

/-- The OPEN flow of an I/O die that the job image binds to collectives with a member, if there is one (R373, R379). -/
def State.collectiveTo (s : State) (die peer : Nat) : Option Nat :=
  (s.flowsWith peer false).find? fun f => s.flowState f == flowOpen && flowDie f == die && (Config.collectiveFlows s.boot.job).contains f

/-- An OPEN flow to a member, if there is one. -/
def State.flowTo (s : State) (peer : Nat) : Option Nat := (s.flowsWith peer false).find? fun f => s.flowState f == flowOpen

end Sys2Proof.Machine
end

