-- ==== Sys2Proof/Machine/Image.lean ====
section
/-! DEFINITION. The container of configuration and job images (R444): header fields and sections; certificates, signature blocks and anchors (R472 to R476). -/

namespace Sys2Proof.Machine

/-- Header fields of an image (Table 14.3). -/
def imageKind (img : List Byte) : Nat := leAt img 4 1
@[inherit_doc imageKind] def imageVersion (img : List Byte) : Nat := leAt img 16 4
@[inherit_doc imageKind] def imageJobId (img : List Byte) : Nat := leAt img 20 4
@[inherit_doc imageKind] def imageDevice (img : List Byte) : Nat := leAt img 24 16

/-- Sections of an image as (type, bytes). -/
def imageSections (img : List Byte) : List (Nat × List Byte) :=
  (List.range (leAt img 6 2)).map fun i => (leAt img (64 + 16 * i) 2, sliceAt img (leAt img (64 + 16 * i + 4) 4) (leAt img (64 + 16 * i + 8) 4))

/-- Bytes of a section; none where the image has no such section. -/
def imageSection (img : List Byte) (type : Nat) : List Byte :=
  match (imageSections img).find? fun x => x.1 == type with
  | some x => x.2
  | none => []

/-! ### Certificates and signature blocks (R472, R473) -/

/-- ROLE, issuer digest and key digest of a certificate (Table 15.2). -/
def certRole (c : List Byte) : Nat := leAt c 4 1
@[inherit_doc certRole] def certIssuer (c : List Byte) : BitVec 256 := BitVec.ofNat 256 (leAt c 8 32)
@[inherit_doc certRole] def certKey (c : List Byte) : BitVec 256 := digest256 (sliceAt c 64 1793)

/-- A certificate has its MAGIC and its zero bytes (R472, Table 15.2). -/
def certShape (c : List Byte) : Bool := leAt c 0 4 == 0x5A4D4C43 && leAt c 5 3 == 0 && leAt c 1857 7 == 0

/-- Where the signature block that ends a run of bytes begins, with its NCERT, if one ends it (Table 15.3). -/
def sigBlock (l : List Byte) : Option (Nat × Nat) :=
  let size (n : Nat) : Nat := 16 + 3144 * n + 1280
  let at_ (n : Nat) : Nat := l.length - size n
  let ends (n : Nat) : Bool :=
    decide (size n ≤ l.length) && leAt l (at_ n) 4 == 0x5A4D4C53 && leAt l (at_ n + 4) 1 == 1 && leAt l (at_ n + 5) 1 == n && leAt l (at_ n + 6) 10 == 0
  ([0, 1, 2].find? ends).map fun n => (at_ n, n)

/-- The certificates of that block. -/
def sigCerts (l : List Byte) : Option (List (List Byte)) :=
  (sigBlock l).map fun b => (List.range b.2).map fun i => sliceAt l (b.1 + 16 + 3144 * i) 3144

/-- The block's signature over the first 64 bytes of SHAKE256 over every byte before the block, by the last certificate's key or, where there is none, by one of the anchors (R473, R474). -/
def blockSigned (anchors : List (BitVec 256)) (l : List Byte) : Bool :=
  match sigBlock l with
  | none => false
  | some b =>
    let keys := match (sigCerts l).bind List.getLast? with
      | some c => [certKey c]
      | none => anchors
    keys.any fun k => Config.falconVerify k (shake256 (l.take b.1) 64) (sliceAt l (b.1 + 16 + 3144 * b.2) 1280)

/-- Roles of a chain: the last is the signer's, and below the root key a certificate of role MFG_CA comes before it; with no certificate the anchor signs itself (R474, Table 15.4). -/
def rolesOk (viaCa : Bool) (signer roles : List Nat) : Bool :=
  match roles.reverse with
  | [] => true
  | r :: rest => signer.contains r && (!viaCa || rest == [5])

/-- The issuer's signature over a certificate's first 1,864 bytes verifies (R472). -/
def certSigned (c : List Byte) : Bool := Config.falconVerify (certIssuer c) (c.take 1864) (sliceAt c 1864 1280)

/-- Each certificate is issued and signed by the key before it, the first by one of the anchors (R474). -/
def linked (anchors : List (BitVec 256)) : List (List Byte) → Bool
  | [] => true
  | c :: cs => certShape c && anchors.contains (certIssuer c) && certSigned c && linked [certKey c] cs

/-- The signature block of a run of bytes leads from an anchor to a signer of the role asked for (R474). -/
def chainOk (anchors : List (BitVec 256)) (viaCa : Bool) (signer : List Nat) (l : List Byte) : Bool :=
  match sigCerts l with
  | some cs => rolesOk viaCa signer (cs.map certRole) && linked anchors cs
  | none => false

/-- Fields of the trust anchors section (Table 15.5). -/
def anchors (img : List Byte) : List Byte := imageSection img 0x0001

/-- Keys of the anchors of a role that an image names (R476). -/
def anchorKeys (img : List Byte) (role : Nat) : List (BitVec 256) :=
  ((List.range (min 16 (leAt (anchors img) 0 4))).filter fun i => leAt (anchors img) (64 + 48 * i) 1 == role).map fun i =>
    BitVec.ofNat 256 (leAt (anchors img) (64 + 48 * i + 16) 32)

end Sys2Proof.Machine
end

