-- ==== Sys2Proof/Machine/Sessions.lean ====
section
/-! DEFINITION. Naelo sessions and their handshake (R479 to R486): measurements, the quote, HELLO, REPLY and FINISH, rekeys and the end of a session. -/

namespace Sys2Proof.Machine

/-! ### Measurements (R479 to R481) -/

/-- A measurement. -/
def State.meas (s : State) (n : Nat) : BitVec 256 :=
  BitVec.ofNat 256 (s.f F.measNMValue n 0 + s.f F.measNMValue n 1 * 2 ^ 64 + s.f F.measNMValue n 2 * 2 ^ 128 + s.f F.measNMValue n 3 * 2 ^ 192)

/-- Writes a measurement. -/
def State.setMeas (s : State) (n : Nat) (v : BitVec 256) : State :=
  (List.range 4).foldl (fun s m => s.fset F.measNMValue (v.toNat / 2 ^ (64 * m) % 2 ^ 64) n m) s

/-- One entry of the measurement log (R479). -/
def logEntry (e : Nat × Nat × BitVec 256) : List Byte :=
  leBytes 8 e.1 ++ leBytes 8 e.2.1 ++ leBytes 32 e.2.2.toNat

/-- Writes the mirror of the measurement log into SRAM space (R479, Table 15.15). -/
def State.mirrorLog (s : State) : State :=
  let at_ := s.f F.mlogBase
  let s := (s.store false .sram at_ (leBytes 8 s.mlog.length)).1
  (s.mlog.zipIdx).foldl (fun s e => (s.store false .sram (at_ + 64 + 48 * e.2) (logEntry e.1)).1) s

/-- Extends measurement n with bytes and appends a log entry; a full log counts it in MLOG.LOST; once SRAM holds the mirror, the mirror follows (R479). -/
def State.extendWith (s : State) (n : Nat) (d : List Byte) : State :=
  let s := s.setMeas n (digest256 (leBytes 32 (s.meas n).toNat ++ d))
  if s.mlog.length < 1024 then
    let s := { s with mlog := s.mlog ++ [(n, s.now, BitVec.ofNat 256 (leNat d))] }
    if s.boot.locked || s.f F.bootStatusState != 0 then s.mirrorLog else s
  else s.fadd F.mlogLost

/-- Extends a measurement with a 256-bit digest. -/
def State.extend (s : State) (n : Nat) (d : BitVec 256) : State := s.extendWith n (leBytes 32 d.toNat)

/-- Measurements 0 to 3, which make the attestation key (Table 15.1). -/
def State.akInput (s : State) : List (BitVec 256) := (List.range 4).map s.meas

/-- A quote (Table 15.7). -/
def State.quote (s : State) (nonce : BitVec 256) : List Byte :=
  leBytes 4 0x5A4D4C51 ++ [if s.grade = .psn8128 then 0 else 1, BitVec.ofNat 8 (s.f F.bootStatusState), BitVec.ofNat 8 (s.f F.dbgStatusLevel), 0] ++
    leBytes 8 s.now ++ leBytes 32 nonce.toNat ++ leBytes 16 Config.deviceId.toNat ++
    ((List.range 8).flatMap fun n => leBytes 32 (s.meas n).toNat) ++ List.replicate 64 0

/-! ### Handshake messages (Table 15.8) -/

/-- The attestation key is ready (R480). -/
def State.akReady (s : State) : Bool := s.fb F.secStatusAk

/-- The HELLO without its signature; its quote carries no requester's nonce. -/
def State.helloBody (s : State) (sid : Nat) (nonce seed : BitVec 256) : List Byte :=
  leBytes 8 sid ++ leBytes 32 nonce.toNat ++ Config.kemKey seed ++ s.quote 0 ++ Config.certChain s.akInput

/-- The exchange with a peer or feeder, if one is in progress. -/
def State.exchange (s : State) (peer : Nat) (feeder : Bool) : Option Exchange :=
  s.exchanges.find? fun x => x.peer == peer && x.feeder == feeder

/-- An exchange is over. -/
def State.dropExchange (s : State) (peer : Nat) (feeder : Bool) : State :=
  { s with exchanges := s.exchanges.filter fun x => !(x.peer == peer && x.feeder == feeder) }

/-- Sends a HELLO where no exchange with the peer is in progress and the attestation key is ready (R480, R482). -/
def State.startExchange (s : State) (peer : Nat) (feeder : Bool) : State :=
  if !s.akReady || (s.exchange peer feeder).isSome then s
  else
    let (a, s) := s.draw
    let (nonce, s) := s.draw
    let (seed, s) := s.draw
    let sid : Word := a.setWidth 64
    let body := s.helloBody sid.toNat nonce seed
    let hello := body ++ Config.falconSign s.akInput body
    let x : Exchange := { peer, feeder, initiator := true, sid, since := s.now, rekey := (s.session peer feeder).isSome, nonce, seed, hello }
    { s with exchanges := s.exchanges ++ [x] }.emit (.hello peer feeder hello)

/-- First 64 bytes of SHAKE256 over two messages. -/
def transcript (a b : List Byte) : List Byte := shake256 (a ++ b) 64

/-- The 104 bytes derived from ss and T (R484). -/
def derived (ss : BitVec 256) (t : List Byte) : List Byte :=
  let label : List Byte := [0x4E, 0x41, 0x45, 0x4C, 0x4F, 0x2D, 0x4B, 0x45, 0x59, 0x53]
  shake256 (label ++ leBytes 32 ss.toNat ++ t) 104

/-- CONFIRM, the last 32 of them (R484). -/
def confirmOf (ss : BitVec 256) (t : List Byte) : BitVec 256 := BitVec.ofNat 256 (leNat (sliceAt (derived ss t) 72 32))

/-- K_IR, K_RI, salt_IR and salt_RI, of which the initiator seals with the IR ones (R484). -/
def keysFrom (ss : BitVec 256) (t : List Byte) (initiator : Bool) : SessionKeys :=
  let l := derived ss t
  let k (off : Nat) : BitVec 256 := BitVec.ofNat 256 (leAt l off 32)
  let salt (off : Nat) : BitVec 32 := BitVec.ofNat 32 (beAt l off 4)
  if initiator then ⟨k 0, salt 64, k 32, salt 68⟩ else ⟨k 32, salt 68, k 0, salt 64⟩

/-- The identity digest that the hall list or the feeder list holds for a peer (R471). -/
def State.listedId (s : State) (peer : Nat) (feeder : Bool) : Option (BitVec 128) :=
  if feeder then ((Config.feeders (if s.jobRuns then s.boot.job else s.boot.config)).find? fun x => x.1 == peer).map (·.2)
  else ((Config.hallList s.boot.config).find? fun x => x.1 == peer).map (·.2.1)

/-- FLAGS[1] DEBUG_PEERS of the running anchors (Table 15.5). -/
def State.debugPeers (s : State) : Bool := leAt (imageSection s.boot.config 0x0001) 5 1 / 2 % 2 == 1

/-- Certificate `i` of a HELLO or REPLY: 0 MFG_CA, 1 DIK, 2 AK; and its quote (Table 15.8). -/
def helloCert (h : Handshake) (i : Nat) : List Byte := sliceAt h.bytes (1992 + 3144 * i) 3144
@[inherit_doc helloCert] def helloQuote (h : Handshake) : List Byte := sliceAt h.bytes 1608 384

/-- First 128 bits of the digest of the sender's key: the DIK's, or a feeder's own (R471, R482). -/
def helloId (h : Handshake) : BitVec 128 :=
  digest128 (if h.feeder then sliceAt h.bytes 1608 1793 else sliceAt (helloCert h 1) 64 1793)

/-- The chain runs from the root key through MFG_CA and DIK to the AK (R472, R483). -/
def helloChained (h : Handshake) : Bool :=
  let l := [helloCert h 0, helloCert h 1, helloCert h 2]
  l.map certRole == [5, 6, 7] && linked [Config.rootKey] l

/-- The quote names the nonce that this part sent, if any, and the grade of the DIK certificate, at debug level 0, or 1 where the anchors allow it (R483). -/
def State.quoteOk (s : State) (h : Handshake) (nonce : Option (BitVec 256)) : Bool :=
  let level := leAt (helloQuote h) 6 1
  (nonce.all fun n => leAt (helloQuote h) 16 32 == n.toNat) && leAt (helloQuote h) 4 1 == leAt (helloCert h 1) 48 1 && (level == 0 || (level == 1 && s.debugPeers))

/-- The conditions of R483 on a peer's HELLO or REPLY; a feeder sends neither quote nor certificates. -/
def State.trusts (s : State) (h : Handshake) (nonce : Option (BitVec 256)) : Bool :=
  h.sigOk && s.listedId h.peer h.feeder == some (helloId h) && (h.feeder || (helloChained h && s.quoteOk h nonce))

/-- An exchange is refused or abandoned (R483, R485); a rekey is tried again after 1 s (R486). -/
def State.refuseExchange (s : State) (peer : Nat) (feeder : Bool) : State :=
  let s := (s.dropExchange peer feeder).fadd F.sessCountRefused
  let s := { s with sessions := updateAll s.sessions (fun x => x.peer == peer && x.feeder == feeder) fun x => { x with retryAt := s.now + 1000000 } }
  s.raise 0x4061 748

/-! ### Sessions (R340, R482, R486) -/

/-- Highest TXC accepted under a key slot, with those accepted within its window. -/
def Session.window (x : Session) (key : Nat) : Nat × List Nat := x.rx.getD key (0, [])

/-- SEC_STATUS.SESSIONS follows the sessions formed. -/
def State.showSessions (s : State) : State := s.fset F.secStatusSessions (s.sessions.filter (·.ready)).length

/-- Flows that wait for a session with the peer open (R343). -/
def State.openWaiting (s : State) (peer : Nat) (feeder : Bool) : State :=
  ((s.flowsWith peer feeder).filter fun f => s.flowState f == flowOpening).foldl (fun s f =>
    let waiter := (s.flow f).bind (·.waiter)
    let s := match s.flow f with | some x => s.setFlow f { x with waiter := none } | none => s
    let s := s.enterFlow f flowOpen
    match waiter with
    | some id => s.flowDone id .ok
    | none => s) s

/-- New keys: a session forms, or one that exists takes them in its other key slot with TXC 0 (R484, R486). -/
def State.formSession (s : State) (peer : Nat) (feeder : Bool) (keys : SessionKeys) : State :=
  let s := s.dropExchange peer feeder
  if (s.session peer feeder).isSome then
    let renew (x : Session) : Session :=
      let k := 1 - x.keySlot
      let old := x.window x.keySlot
      { x with keySlot := k, txc := 0, rx := if k = 0 then [(0, []), old] else [old, (0, [])], since := none, formed := s.now, retryAt := 0
               keys := if k = 0 then [keys, x.keysOf 1] else [x.keysOf 0, keys] }
    let s := { s with sessions := updateAll s.sessions (fun x => x.peer == peer && x.feeder == feeder) renew }
    (s.fadd F.sessCountRekeys).raise 0x7500 748
  else if 4096 ≤ s.sessions.length then s
  else
    let x : Session := ⟨peer, feeder, 0, 0, [(0, [])], none, s.now, 0, true, [keys]⟩
    let s := ({ s with sessions := s.sessions ++ [x] }.showSessions).fadd F.sessCountFormed
    (s.raise 0x4060 748).openWaiting peer feeder

/-- HELLO_RECEIVE: a HELLO is verified and answered with REPLY; of two that cross, the lower part's goes on (R483 to R485). A feeder never initiates. -/
def execHelloReceive (h : Handshake) (s : State) : Host.Outcome State Fault Refusal :=
  let own := (s.exchange h.peer h.feeder).any (·.initiator)
  if !s.akReady || h.feeder || (own && decide (s.me < h.peer)) then .next s
  else if !s.trusts h none then .next (s.refuseExchange h.peer h.feeder)
  else
    let s := s.dropExchange h.peer h.feeder
    let (nonce, s) := s.draw
    let (r, s) := s.draw
    let (ct, ss) := Config.kemEncap (sliceAt h.bytes 40 1568) r
    let theirs : BitVec 256 := BitVec.ofNat 256 (leAt h.bytes 8 32)
    let body := leBytes 8 h.sid.toNat ++ leBytes 32 nonce.toNat ++ ct ++ s.quote theirs ++ Config.certChain s.akInput
    let reply := body ++ Config.falconSign s.akInput (transcript h.bytes body)
    let x : Exchange :=
      { peer := h.peer, feeder := h.feeder, initiator := false, sid := h.sid, since := s.now, rekey := (s.session h.peer h.feeder).isSome
        confirm := confirmOf ss (transcript h.bytes reply), keys := keysFrom ss (transcript h.bytes reply) false }
    .next ({ s with exchanges := s.exchanges ++ [x] }.emit (.handshakeReply h.peer h.feeder reply))

/-- REPLY_RECEIVE: a REPLY to this part's HELLO is verified, the keys are derived, FINISH goes out and the session is there (R484). -/
def execReplyReceive (h : Handshake) (s : State) : Host.Outcome State Fault Refusal :=
  match (s.exchange h.peer h.feeder).filter fun x => x.initiator && x.sid == h.sid with
  | none => .next s
  | some x =>
    if !s.trusts h (some x.nonce) then .next (s.refuseExchange h.peer h.feeder)
    else
      let ss := Config.kemDecap x.seed (sliceAt h.bytes 40 1568)
      let c := confirmOf ss (transcript x.hello h.bytes)
      let s := s.emit (.finish h.peer h.feeder (leBytes 8 x.sid.toNat ++ leBytes 32 c.toNat))
      .next (s.formSession h.peer h.feeder (keysFrom ss (transcript x.hello h.bytes) true))

/-- FINISH_RECEIVE: the right CONFIRM forms the session at the responder; a wrong one ends the exchange (R484). -/
def execFinishReceive (h : Handshake) (s : State) : Host.Outcome State Fault Refusal :=
  match (s.exchange h.peer h.feeder).filter fun x => !x.initiator && x.sid == h.sid with
  | none => .next s
  | some x => if h.confirm = x.confirm then .next (s.formSession h.peer h.feeder x.keys) else .next (s.refuseExchange h.peer h.feeder)

/-- HANDSHAKE_TIMEOUT: an exchange without its answer within 50 ms is abandoned (R485). -/
def execHandshakeTimeout (peer : Nat) (feeder : Bool) (s : State) : Host.Outcome State Fault Refusal :=
  match s.exchange peer feeder with
  | some x => if x.since + 50000 ≤ s.now then .next (s.refuseExchange peer feeder) else .next s
  | none => .next s

/-- A session is due for new keys: TXC 2^39, or REKEY_S seconds since its last ones (R486). -/
def State.rekeyDue (s : State) (x : Session) : Bool :=
  (decide (2 ^ 39 ≤ x.txc) || decide (x.formed + s.f F.secCtrlRekeyS * 1000000 ≤ s.now)) && decide (x.retryAt ≤ s.now)

/-- REKEY: a session that is due starts a new exchange; `ok` tells that this part can make one now, and a failure is tried again after 1 s (R486). -/
def execRekey (peer : Nat) (feeder : Bool) (ok : Bool) (s : State) : Host.Outcome State Fault Refusal :=
  match s.session peer feeder with
  | none => .next s
  | some x =>
    if !s.rekeyDue x || (s.exchange peer feeder).isSome then .next s
    else if ok then .next (s.startExchange peer feeder)
    else .next (s.refuseExchange peer feeder)

/-- A session ends and its flows fail (R483, R486). -/
def State.endSession (s : State) (peer : Nat) (feeder : Bool) : State :=
  let s := ((s.flowsWith peer feeder).filter fun f => s.flowState f != flowFailed).foldl State.failFlow s
  { s with sessions := s.sessions.filter fun x => !(x.peer == peer && x.feeder == feeder) }.showSessions

/-- SESSION_TXC_LIMIT: at TXC 2^40 the session ends (R486). -/
def execSessionTxcLimit (peer : Nat) (feeder : Bool) (s : State) : Host.Outcome State Fault Refusal :=
  match s.session peer feeder with
  | some x => if 2 ^ 40 ≤ x.txc then .next (s.endSession peer feeder) else .next s
  | none => .next s

end Sys2Proof.Machine
end

