-- ==== Sys2Proof/Machine/Slots.lean ====
section
/-! DEFINITION. Flash slots (R442, R443, R449), fuses (R475 to R478) and the check of an image (R444 to R448, R473, R474). -/

namespace Sys2Proof.Machine

/-! ### Slots -/

/-- STATE of a slot header (Table 14.2). -/
def slotEmpty : Nat := 0
@[inherit_doc slotEmpty] def slotStaged : Nat := 1
@[inherit_doc slotEmpty] def slotTrial : Nat := 2
@[inherit_doc slotEmpty] def slotTrying : Nat := 3
@[inherit_doc slotEmpty] def slotActive : Nat := 4
@[inherit_doc slotEmpty] def slotInactive : Nat := 5
@[inherit_doc slotEmpty] def slotFailed : Nat := 6

/-- CHECK of a slot header: the first 64 bits of SHAKE256 over its bytes 0 to 55 (Table 14.2). -/
def SlotHeader.sum (h : SlotHeader) : Nat :=
  leNat (shake256 (leBytes 4 h.magic ++ leBytes 4 h.seq ++ leBytes 8 h.state ++ leBytes 8 h.length ++ leBytes 16 h.digest.toNat ++ List.replicate 16 0) 8)

/-- The copy is valid: it has its MAGIC and its CHECK field matches (R443). -/
def SlotHeader.valid (h : SlotHeader) : Bool := h.magic == 0x5A4D4C48 && h.check == h.sum

/-- The header of copy 0 is in force. -/
def Slot.first (x : Slot) : Bool := x.copy0.valid && (!x.copy1.valid || decide (x.copy1.seq ≤ x.copy0.seq))

/-- The header in force: the valid copy with the higher SEQ; EMPTY where neither is valid (R443). -/
def Slot.header (x : Slot) : SlotHeader :=
  if x.first then x.copy0 else if x.copy1.valid then x.copy1 else SlotHeader.empty

/-- A header written over the copy that is not current, with SEQ + 1 (R443). -/
def Slot.write (x : Slot) (h : SlotHeader) : Slot :=
  let h := { h with magic := 0x5A4D4C48, seq := (x.header.seq + 1) % 2 ^ 32 }
  let h := { h with check := h.sum }
  if x.first then { x with copy1 := h } else { x with copy0 := h }

/-- A slot: 0 A, 1 B. -/
def State.slot (s : State) (k : Nat) : Slot := if k = 0 then s.slots.1 else s.slots.2

/-- CFG_SLOT_n follows the headers. -/
def State.showSlots (s : State) : State :=
  [0, 1].foldl (fun s k =>
    let h := (s.slot k).header
    (s.fset F.cfgSlotNVersion (if h.state = slotEmpty then 0 else imageVersion (s.slot k).image) k).fset F.cfgSlotNState h.state k) s

/-- A slot replaced. -/
def State.setSlot (s : State) (k : Nat) (x : Slot) : State :=
  { s with slots := if k = 0 then (x, s.slots.2) else (s.slots.1, x) }.showSlots

/-- The part has failed its qualification: it accepts no image and serves only reads (R457). -/
def State.readsOnly (s : State) : Bool := s.f F.bootStatusQual == 4

/-- STATE of a slot. -/
def State.slotState (s : State) (k : Nat) : Nat := (s.slot k).header.state

/-- A slot takes a state. -/
def State.setSlotState (s : State) (k st : Nat) : State := s.setSlot k ((s.slot k).write { (s.slot k).header with state := st })

/-- The slot that booted, if an image runs. -/
def State.booted (s : State) : Option Nat := if s.boot.config.isEmpty then none else some (s.f F.bootStatusSlot)

/-- Flash bank of a slot. -/
def flashBank (k : Nat) : Bank := if k = 0 then .flashA else .flashB

/-! ### Fuses (R475, R477, R478) -/

/-- Fields of the trust anchors section (Table 15.5). -/
def epochSet (img : List Byte) : Nat := leAt (anchors img) 4 1
@[inherit_doc epochSet] def killSet (img : List Byte) : Bool := leAt (anchors img) 5 1 % 2 == 1
@[inherit_doc epochSet] def jobFloor (img : List Byte) : Nat := leAt (anchors img) 8 4
@[inherit_doc epochSet] def newOwner (img : List Byte) : BitVec 256 := BitVec.ofNat 256 (leAt (anchors img) 32 32)

/-- Burns one fuse with its event 0x7502; whether it passes its check is physical, so a free value says, and a failure raises 0x3040 (R478; log entry 35). -/
def State.burn (s : State) : State × Bool :=
  let (v, s) := s.open_
  let s := s.raise 0x7502 749
  if v.getLsbD 0 then (s.raise 0x3040 749, false) else (s, true)

/-- Burns up to `n` rollback fuses in order; it ends where one fails. -/
def State.burnEpochs : Nat → State → State
  | 0, s => s
  | n + 1, s =>
    let (s, ok) := s.burn
    if ok then State.burnEpochs n (s.fset F.fuseStatusEpoch (s.f F.fuseStatusEpoch + 1)) else s

/-- Burns the rollback fuses above the fused epoch, and the debug kill fuse, that an image names. -/
def State.burnAnchors (s : State) (img : List Byte) : State :=
  let s := State.burnEpochs (epochSet img - s.f F.fuseStatusEpoch) s
  if killSet img && !s.fb F.fuseStatusDbgKill then
    let (s, ok) := s.burn
    if ok then s.fset F.fuseStatusDbgKill 1 else s
  else s

/-- Burns an owner key digest into the next free slot. -/
def State.burnOwner (s : State) (d : BitVec 256) : State :=
  if 4 ≤ s.owners.length then s
  else
    let (s, ok) := s.burn
    if ok then { s with owners := s.owners ++ [d] }.fset F.fuseStatusOwners (s.owners.length + 1) else s

/-- A slot becomes ACTIVE, the other slot's ACTIVE becomes INACTIVE, and the image's fuses are burned (R449, R475, R478); `also` are other states that become INACTIVE too (R464). -/
def State.becomeActive (s : State) (k : Nat) (also : List Nat := []) : State :=
  let s := s.setSlotState k slotActive
  let s := if (slotActive :: also).contains (s.slotState (1 - k)) then s.setSlotState (1 - k) slotInactive else s
  let img := (s.slot k).image
  let s := s.burnAnchors img
  if newOwner img = 0 then s else s.burnOwner (newOwner img)

/-- Digest of the key that signed an image: the subject of the last certificate of its signature block, or the root key where it has none (Tables 15.2, 15.3, 15.4). -/
def signerDigest (img : List Byte) : BitVec 256 :=
  match (sigCerts img).bind List.getLast? with
  | some c => certKey c
  | none => Config.rootKey

/-- The signature block of an image leads to a signer of Table 15.4 and verifies: a configuration image's from the current owner key, or from the root key where no owner is fused, and a job image's from a JOB anchor of the running image (R473 to R475). -/
def State.signerOk (s : State) (kind : Nat) (img : List Byte) : Bool :=
  let ok (keys : List (BitVec 256)) (viaCa : Bool) (roles : List Nat) : Bool := chainOk keys viaCa roles img && blockSigned keys img
  if kind = 1 then
    match s.owners.getLast? with
    | some k => ok [k] false [4, 1]
    | none => ok [Config.rootKey] true [4]
  else ok (anchorKeys s.boot.config 2) false [2]

/-- What reaching its role does to the part's flash and fuses: TRYING becomes ACTIVE, an ACTIVE image's remaining fuses are burned, and an enrolment image's signer becomes owner 0 (R449, R475, R478). -/
def State.roleFuses (s : State) : State :=
  match s.booted with
  | none => s
  | some k =>
    let s :=
      if s.slotState k = slotTrying then s.becomeActive k
      else if s.slotState k = slotActive then s.burnAnchors s.boot.config
      else s
    if s.owners.isEmpty then s.burnOwner (signerDigest s.boot.config) else s

/-! ### Checks of an image -/

/-- Section types by KIND, and those an image must hold (R446). -/
def knownSections (kind : Nat) : List Nat :=
  if kind = 1 then [1, 2, 3, 4, 5, 6, 7, 8] else [0x101, 0x102, 0x103, 0x104, 0x105, 0x106, 0x107]
@[inherit_doc knownSections] def neededSections (kind : Nat) : List Nat := if kind = 1 then [1, 2, 3, 4, 5] else [0x101, 0x103, 0x106]

/-- Rows of a section table as (type, offset, length, reserved bytes). -/
def sectionRows (img : List Byte) : List (Nat × Nat × Nat × Nat) :=
  (List.range (leAt img 6 2)).map fun i =>
    let r := sliceAt img (64 + 16 * i) 16
    (leAt r 0 2, leAt r 4 4, leAt r 8 4, leAt r 2 2 + leAt r 12 4)

/-- The header and section table are as R444 and R446 state: sections lie behind the section table and before the signature block, and a configuration image holds at most 64 MiB (R442). -/
def imageShape (kind : Nat) (img : List Byte) : Bool :=
  let rows := sectionRows img
  leAt img 0 4 == 0x5A4D4C49 && imageKind img == kind && leAt img 5 1 == 1 && decide (1 ≤ rows.length ∧ rows.length ≤ 255) &&
    leAt img 8 8 == img.length && leAt img 40 24 == 0 && (kind == 1 || imageDevice img == 0) && (kind == 2 || imageJobId img == 0) &&
    (kind == 2 || decide (img.length ≤ 0x4000000)) &&
    ((sigBlock img).any fun b => rows.all fun r =>
      (knownSections kind).contains r.1 && r.2.2.2 == 0 && decide (64 + 16 * rows.length ≤ r.2.1 ∧ r.2.1 + r.2.2.1 ≤ b.1)) &&
    ((neededSections kind).all fun t => rows.any fun r => r.1 == t) &&
    rows.zipIdx.all fun a => rows.zipIdx.all fun b => decide (b.2 ≤ a.2) || !overlaps a.1.2.1 a.1.2.2.1 b.1.2.1 b.1.2.2.1

/-- Every entry of a settings section names a register with a field that the loader writes, every such value lies in its field's stated range, a mirror lies in SRAM space, and THR_OFF is below THR_ON (R183, R192, R447, R545, R564). -/
def settingsOk (accs : List Acc) (l : List Byte) : Bool :=
  l.length % 16 == 0 && (chunksOf 16 (l.length / 16) l).all fun c =>
    match Reg.ofOffset (leAt c 0 8) with
    | some r =>
      (r.name.fields.any fun f => accs.contains (r.access f)) &&
        (r.name.fields.all fun f => !accs.contains (r.access f) || fieldTakes r.name f.lo (leAt c 8 8 / 2 ^ f.lo % 2 ^ f.w)) &&
        (r.name != .numMirror || sramArea (leAt c 8 8 % 2 ^ 44) 64 64) &&
        (r.name != .pkgCtrl || decide (leAt c 8 8 / 2 ^ 32 % 2 ^ 8 < leAt c 8 8 / 2 ^ 40 % 2 ^ 8))
    | none => false

/-- PMAX of an I/O die in a configuration image: its NAELO_CFG setting, 8,192 bytes where it has none (R335). -/
def imagePmax (img : List Byte) (die : Nat) : Nat :=
  let l := imageSection img 5
  let entry := (chunksOf 16 (l.length / 16) l).find? fun c => leAt c 0 8 == Reg.offset ⟨.naeloCfg, die, 0⟩
  1024 * 2 ^ (match entry with | some c => leAt c 8 8 / 2 ^ 40 % 4 | none => 3)

/-- Bytes that a full packet of a port adds to PMAX: 130 over IPv6 or 110 over IPv4, and 4 with a tag (R335). -/
def frameOverhead (cfg : Word) : Nat := (if getBits cfg 26 1 = 1 then 130 else 110) + if getBits cfg 25 1 = 1 then 4 else 0

/-- Every enabled port of an image takes a full packet (R335), and its settings lie in their ranges. -/
def portsOk (img : List Byte) : Bool :=
  (Config.portLayout img).all fun p =>
    (RegName.portPCfg.fields.all fun f => fieldTakes .portPCfg f.lo (getBits p.2.1 f.lo f.w)) &&
      (getBits p.2.1 27 3 == 0 || decide (imagePmax img (p.1 / 16) + frameOverhead p.2.1 ≤ getBits p.2.1 40 16))

/-- The trust anchors section is as Table 15.5 states (R476). -/
def anchorsOk (img : List Byte) : Bool :=
  let l := anchors img
  let n := leAt l 0 4
  let entry (i : Nat) : Bool := [1, 2, 3].contains (leAt l (64 + 48 * i) 1) && leAt l (64 + 48 * i + 1) 15 == 0
  decide (n ≤ 16) && decide (64 + 48 * n ≤ l.length) && decide (leAt l 4 1 ≤ 127) && decide (leAt l 5 1 < 4) && leAt l 6 2 == 0 && leAt l 12 20 == 0 &&
    (List.range n).all entry

/-- The hall list names parts and marks one of them the FOUNDER, and the part's site has 8 bits (R453, Tables 11.2, 14.4). -/
def hallOk (img : List Byte) : Bool :=
  let l := Config.hallList img
  (l.all fun h => decide (h.1 < 0xFFFF)) && (l.countP fun h => h.2.2) == 1 && decide ((Config.hallIdentity img).1 < 0xFFFF ∧ (Config.hallIdentity img).2 < 256)

/-- ROLE, JOB_SRC and the peer of the role section have values that R455 names. -/
def roleOk (img : List Byte) : Bool :=
  let (role, src, peer, _) := Config.roleSection img
  decide (role ≤ 3) && decide (src ≤ 3) && decide (peer < 0x10000)

/-- The PTP sources: at most four, each on a port position, and at least one where the hall list names another part (R359, R447). -/
def sourcesOk (img : List Byte) : Bool :=
  let n := Config.ptpSources img
  decide (n ≤ 4) && ((List.range n).all fun i => decide (Config.ptpPort img i < 32)) && (decide ((Config.hallList img).length ≤ 1) || decide (1 ≤ n))

/-- Up to 256 feeders, each index once (R356). -/
def feedersOk (img : List Byte) : Bool :=
  let l := (Config.feeders img).map (·.1)
  decide (l.length ≤ 256) && decide l.Nodup && l.all fun i => decide (i < 256)

/-- What R445 to R448, R475 ask of a configuration image beside its signature. -/
def State.configOk (s : State) (img : List Byte) : Bool :=
  imageShape 1 img && imageDevice img == Config.deviceId.toNat && settingsOk [.rwl, .jobLoader] (imageSection img 5) && portsOk img &&
    anchorsOk img && hallOk img && roleOk img && sourcesOk img && feedersOk img && !(newOwner img != 0 && s.owners.length == 4)

/-- No two watch entries in use name a tensor of one shard twice (R313; log entry 134). -/
def watchesOk (img : List Byte) : Bool :=
  let l := (Config.watchEntries img).filter fun w => getBits w.2.2 0 1 == 1
  let meets (a b : Nat × Word × Word) : Bool :=
    decide (getBits a.2.1 0 32 ≤ getBits b.2.1 32 32 ∧ getBits b.2.1 0 32 ≤ getBits a.2.1 32 32) &&
      decide (getBits a.2.2 48 16 ≤ getBits b.2.2 32 16 ∧ getBits b.2.2 48 16 ≤ getBits a.2.2 32 16)
  l.zipIdx.all fun a => l.zipIdx.all fun b => decide (b.2 ≤ a.2) || !meets a.1 b.1

/-- Flows, classes and path counts of a job image are ones that a FLOWCTL could name (R342, R337, R460). -/
def flowsOk (img : List Byte) : Bool :=
  (Config.jobFlows img).all fun f => decide (f.1 < 4096 ∧ f.2.1 < 0xFFFF ∧ f.2.2.1 < 8 ∧ 1 ≤ f.2.2.2 ∧ f.2.2.2 ≤ 16)

/-- What R313, R342 and R445 to R447 ask of a job image beside its signature. -/
def jobOk (img : List Byte) : Bool :=
  imageShape 2 img && settingsOk [.jobLoader] (imageSection img 0x102) && watchesOk img && flowsOk img && (Config.watchEntries img).all fun w => decide (w.1 < 256)

/-- The check of an image (R445); what no byte layout of the spec lets the part read itself is the verdict's part (log entry 4): BAD_SIGNATURE for a digest, signature or version failure, and ABORTED otherwise; a signature or a chain that fails raises event 0x3040 (R473, R474). -/
def State.checkImage (s : State) (kind : Nat) (img : List Byte) (v : ImageVerdict) (digestOk : Bool := true) : State × Status :=
  if !digestOk then (s, .badSignature)
  else if !s.signerOk kind img then (s.raise 0x3040 749, .badSignature)
  else if (if kind = 1 then decide (imageVersion img / 2 ^ 24 < s.f F.fuseStatusEpoch) else decide (imageVersion img < jobFloor s.boot.config)) then
    (s, .badSignature)
  else if v.sectionsOk && (if kind = 1 then s.configOk img else jobOk img) then (s, .ok)
  else (s, .aborted)

/-- An image that begins an area of bytes: as many as its LENGTH says (Table 14.3). -/
def imageOf (area : List Byte) : List Byte := area.take (leAt area 8 8)

end Sys2Proof.Machine
end

