-- ==== Sys2Proof/Machine/Job.lean ====
section
/-! DEFINITION. Images and jobs: sections and register settings (R444 to R447), Score loads (R160), the step header (R301 to R303), and what the start, the stop and hall-wide commands of a job do on this part (R371, R460 to R463). -/

namespace Sys2Proof.Machine

/-! ### Part states (Table 14.6, R455) -/

/-- Member role of a configuration image: SPARE with JOB_SRC FLASH, else ROLE, or by JOB_SRC for AUTO (R455). -/
def imageRole (img : List Byte) : Nat :=
  let (role, src, _, _) := Config.roleSection img
  match role, src with
  | _, 1 => roleSpare
  | 0, 0 => roleKeeper
  | 0, _ => roleIdle
  | 1, _ => roleKeeper
  | 2, _ => roleSpare
  | _, _ => roleIdle

/-- The part state outside COLD, QUALIFY, ENROL and Hove-to: JOB for a member of ROLE JOB or SPARE and once a job is loaded, else KEEPER (Table 14.6). -/
def State.partState (s : State) : Nat :=
  if (s.isMember s.me && decide (s.memberRole s.me ≤ roleSpare)) || decide (2 ≤ s.f F.jobStatusState) then 4 else 3

/-- The part takes a state; in Hove-to it is the one that a release gives back. -/
def State.setPart (s : State) (v : Nat) : State :=
  if s.f F.bootStatusState = 5 then { s with boot := { s.boot with resumeState := v } } else s.fset F.bootStatusState v

/-- KEEPER and JOB follow the part's role and job. -/
def State.showPart (s : State) : State :=
  let now := if s.f F.bootStatusState = 5 then s.boot.resumeState else s.f F.bootStatusState
  if now = 3 ∨ now = 4 then s.setPart s.partState else s

/-! ### Register settings (R447) -/

/-- Entries of a register settings section: offset and value (R447). -/
def settingsOf (l : List Byte) : List (Nat × Word) :=
  (chunksOf 16 (l.length / 16) l).map fun c => (leAt c 0 8, BitVec.ofNat 64 (leAt c 8 8))

/-- Writes the fields of the given access types of one register. -/
def State.applySetting (accs : List Acc) (s : State) (e : Nat × Word) : State :=
  match Reg.ofOffset e.1 with
  | some r => s.wr r (r.name.fields.foldl (fun w f => if accs.contains (r.access f) then setBits w f.lo f.w (getBits e.2 f.lo f.w) else w) (s.rd r))
  | none => s

/-- Job-loader fields of one register return to their reset values. -/
def State.resetSetting (s : State) (r : Reg) : State :=
  s.wr r (r.name.fields.foldl (fun w f => if f.acc == .jobLoader then setBits w f.lo f.w (getBits (r.resetWord s.grade) f.lo f.w) else w) (s.rd r))

/-- Every job-loader field that settings write returns to its reset value; the queue regions, which Score loads write, stay (R160, R447). -/
def State.clearSettings (s : State) : State :=
  ((s.regs.map (·.1)).filter fun r => r.name != .queueQRegion).foldl State.resetSetting s

/-- Settings of the configuration image; its job-loader values govern while no job is loaded (R447). -/
def State.applyConfigSettings (s : State) : State :=
  (settingsOf (imageSection s.boot.config 0x0005)).foldl (State.applySetting [.rwl, .jobLoader]) s

/-- Settings, areas and watch entries of the job image replace every job-loader value in force (R313, R447, Table 14.4). -/
def State.applyJobSettings (s : State) : State :=
  let s := s.clearSettings
  let s := (settingsOf (imageSection s.boot.job 0x0102)).foldl (State.applySetting [.jobLoader]) s
  let (jrnl, ship, _) := Config.jobAreas s.boot.job
  let s := (s.wr ⟨.castleJrnl, 0, 0⟩ jrnl).wr ⟨.shipArea, 0, 0⟩ ship
  (Config.watchEntries s.boot.job).foldl (fun s w => (s.wr ⟨.numWatchNRange, w.1, 0⟩ w.2.1).wr ⟨.numWatchNCfg, w.1, 0⟩ w.2.2) s

/-- A job stop restores the configuration image's job-loader values (R447). -/
def State.restoreSettings (s : State) : State :=
  (settingsOf (imageSection s.boot.config 0x0005)).foldl (State.applySetting [.jobLoader]) s.clearSettings

/-! ### Score loads (R160) -/

/-- A Score segment: set, global position index, the regions (BASE, SIZE, START) of its four queues, parameter registers (queue, register, value), entries from index 0 up, and digest (log entry 4). -/
abbrev Segment : Type :=
  Nat × Nat × List (Nat × Nat × Nat) × List (Nat × Nat × Word) × List (BitVec 256) × BitVec 128

/-- Setter code of queue `i` of a position. -/
def posQueue (pos i : Nat) : Nat := pos / 17 * 128 + pos % 17 * 4 + i

/-- The four regions are disjoint and lie within indexes 0 to 2,047; one of SIZE 0 holds no index. -/
def regionsOk (l : List (Nat × Nat × Nat)) : Bool :=
  l.all (fun r => decide (r.1 + r.2.1 ≤ 2048)) &&
    (l.zipIdx.all fun a => l.zipIdx.all fun b =>
      decide (a.2 ≥ b.2) || a.1.2.1 == 0 || b.1.2.1 == 0 || !overlaps a.1.1 a.1.2.1 b.1.1 b.1.2.1)

/-- Regions of a position's queues; a missing region has SIZE 0. -/
def State.setRegions (s : State) (pos : Nat) (l : List (Nat × Nat × Nat)) : State :=
  (List.range 4).foldl (fun s i =>
    let r := l.getD i (0, 0, 0)
    ((s.fset F.queueQRegionBase r.1 (posQueue pos i)).fset F.queueQRegionSize r.2.1 (posQueue pos i)).fset F.queueQRegionStart r.2.2 (posQueue pos i)) s

/-- Bytes of a list of entries. -/
def entryBytes (l : List (BitVec 256)) : List Byte := l.flatMap fun e => leBytes 32 e.toNat

/-- Loads one segment (R160); a failed load leaves every region of the core with SIZE 0. A load tried while a queue of the core is not STOPPED fails with ABORTED: DESIGN CHOICE, since R160 gives that case no status (log entry 174). -/
def State.loadSegment (s : State) (g : Segment) : State × Status :=
  let (_, pos, regions, params, entries, digest) := g
  if s.absent (posQueue pos 0) then (s, .engineAbsent)
  else if (List.range 4).any fun i => s.qState (posQueue pos i) != qStopped then (s.setRegions pos [], .aborted)
  else if digest128 (entryBytes entries) ≠ digest then (s.setRegions pos [], .badSignature)
  else if !regionsOk regions || decide (2048 < entries.length) then (s.setRegions pos [], .aborted)
  else
    let core := s.coreAt (pos / 17) (pos % 17)
    let s := (s.writeBytes .score (core * 0x10000) (entryBytes entries)).1
    let s := params.foldl (fun s p => s.fset F.queueQParamMValue p.2.2.toNat (posQueue pos p.1) p.2.1) s
    (s.setRegions pos regions, .ok)

/-- Loads several segments; answers the first status that is not OK. -/
def State.loadSegments (s : State) : List Segment → State × Status
  | [] => (s, .ok)
  | g :: gs =>
    let (s, a) := s.loadSegment g
    let (s, b) := s.loadSegments gs
    (s, if a = .ok then b else a)

/-- Segments of a set of the running job image. -/
def State.segmentSet (s : State) (set : Nat) : List Segment := (Config.scoreSegments s.boot.job).filter fun g => g.1 == set

/-- Segments of a position in the set in force: set 0 from job start, then the set of the phase (R297). -/
def State.segmentsAt (s : State) (pos : Nat) : List Segment := (s.segmentSet s.step.segSet).filter fun g => g.2.1 == pos

/-- Core queues of the grade. -/
def State.coreQueues (s : State) : List Nat := (allQueues.filter isCoreQueue).filter fun q => !s.absent q

/-- STOP of every core queue by the loader. -/
def State.stopCores (s : State) : State := s.coreQueues.foldl (fun s q => if s.qState q = qStopped then s else s.stopQueue q) s

/-- STOP of every queue of the part. -/
def State.stopAll (s : State) : State :=
  (allQueues.filter fun q => !s.absent q).foldl (fun s q => if s.qState q = qStopped then s else s.stopQueue q) s

/-- GO on every STOPPED core queue with a region. -/
def State.goCores (s : State) : State := s.coreQueues.foldl (fun s q => if s.qState q = qStopped && s.goReady q then s.goQueue q else s) s

/-! ### The step header (Table 9.1) -/

/-- LS_EXP of the step header. -/
def State.lsExp (s : State) : Int := signed8 (s.led 0x11 1)

/-- A signed byte as it is stored. -/
def byteOfInt (v : Int) : Nat := (v % 256).toNat

/-- Writes LS_EXP and CLEAN, which NUM_LS shows. -/
def State.setScale (s : State) (exp : Int) (clean : Nat) : State :=
  let s := (s.setLed 0x11 1 (byteOfInt exp)).setLed 0x12 2 clean
  (s.fset F.numLsLsExp (byteOfInt exp)).fset F.numLsClean clean

/-- Writes EPOCH, which STEP_EPOCH shows. -/
def State.setEpoch (s : State) (e : Nat) : State := (s.setLed 0 8 e).fset F.stepEpochEpoch e

/-- Positions reloaded after Hove-to or by Promotion get GO for their queues with a step's start (R433, R439). -/
def State.startReloaded (s : State) : State :=
  let qs := s.coreQueues.filter fun q => s.step.starts.contains (coreOf q) && s.qState q == qStopped && s.goReady q
  { qs.foldl State.goQueue s with step := { s.step with starts := [] } }

/-- A step starts at a tick with deadline length D: the leader is the lowest member of its committee, and a SPARE member votes READY with no units (R283, R319, R368; log entry 19). -/
def State.beginStep (s : State) (tick d : Nat) : State :=
  let s := ((s.setLed 0x20 8 tick).setLed 0x28 4 d).fset F.tempoStatusDeadline d
  let s := s.startReloaded
  let s := { s with step := { s.step with begun := true } }
  let s := (s.fset F.stepStatusLeader (s.committee.headD 0)).fset F.stepStatusState (if !s.step.applying.isEmpty then 5 else 1)
  let s := if s.isMember s.me && s.memberRole s.me == roleSpare then s.sendVote false else s
  if s.step.abortNext then { s with step := { s.step with abortNext := false } }.abortVote else s

/-! ### Job start and stop (R303, R461, R462) -/

/-- Parts of the job's shard map and its spare list. -/
def State.jobParts (s : State) : List Nat × List Nat :=
  let (_, _, _, map, spares) := Config.jobLayout s.boot.job
  ((map.map (·.2)).dedup, spares)

/-- Members that the start names take ROLE JOB or SPARE (R369, R461); the membership epoch does not move (log entry 20). -/
def State.jobRoles (s : State) (parts spares : List Nat) : State :=
  let s := parts.foldl (fun s p => if s.isMember p then s.setLed (memberAt p + 1) 1 roleJob else s) s
  let s := spares.foldl (fun s p => if s.isMember p then s.setLed (memberAt p + 1) 1 roleSpare else s) s
  s.showHall

/-- JSTART takes effect on the parts that it names: every loaded one writes step epoch 0, opens the window of step 0, sets RUNNING and gives GO to every loaded queue (R303, R306, R461). -/
def State.startJob (s : State) (parts spares : List Nat) : State :=
  let s := s.jobRoles parts spares
  if s.f F.jobStatusState ≠ 2 || !(parts ++ spares).contains s.me then s
  else
    let s := { s with step := { committed := 0 }, staleLeaves := [], dirty := [], ships := [] }
    let s := [(0, 8), (8, 8), (0x10, 8), (0x18, 8), (0x30, 64), (0x80, 32), (0x400, 1024)].foldl
      (fun s (f : Nat × Nat) => s.setLed f.1 f.2 0) s
    let s := (s.setEpoch 0).setScale (signed8 (s.f F.numCtrlLsInit)) 0
    let s := (((s.fset F.numStatusNf 0).fset F.numStatusOvf 0).fset F.numStatusWiden 0).fset F.becalmStatusActive 0
    let s := (((s.fset F.jobStatusState 3).showPart).fset F.stepStatusGen 0).fset F.stepStatusLast 0
    let s := { s with boot := { s.boot with loaded := [], firstLoaded := none } }
    ((s.beginStep s.now (s.f F.tempoCtrlInit)).goCores).raise 0x2030 749

/-- The part leaves its job: queues stopped, the job's flows closed, the configuration image's settings back, part state KEEPER (R462, R454). -/
def State.leaveJob (s : State) : State :=
  if s.f F.jobStatusState = 0 then s
  else
    let s := s.stopAll
    let s := ((Config.jobFlows s.boot.job).map (·.1)).foldl (fun s f => if s.flowState f = flowClosed then s else s.closeFlow f) s
    let s := s.restoreSettings
    let s := (((s.fset F.jobStatusState 0).fset F.stepStatusState 0).fset F.stepStatusGen 0).showPart
    { s with boot := { s.boot with job := [], staged := [] } }

/-- The stop of the hall's job takes effect: its parts and spares, those that MCHANGE supplied among them, are IDLE (R368, R462). -/
def State.stopJob (s : State) : State :=
  let was := s.f F.jobStatusState
  let s := s.stepMembers.foldl (fun s p => s.setLed (memberAt p + 1) 1 roleIdle) s
  let s := (s.leaveJob).showHall
  if was = 0 then s else (s.fset F.jobStatusResult Status.ok.code).raise 0x2032 749

/-! ### Hall-wide commands (R262, R297, R369, R371) -/

/-- Files the result of an MCHANGE of this part whose vote has ended. -/
def State.finishMember (s : State) (op part : Nat) (st : Status) : State :=
  let mine (x : Exec) : Bool :=
    opcodeOf x.entry == 0x7A && bitsOf x.entry 191 190 == op && bitsOf x.entry 189 174 == part && x.stage == 1 && x.result.isNone
  { s with execs := updateAll s.execs mine fun x => { x with result := some (st, 0) } }

/-- Files the result of a PHASE of this part. -/
def State.finishPhase (s : State) (gen : Bool) (seg : Nat) (st : Status) : State :=
  let mine (x : Exec) : Bool :=
    opcodeOf x.entry == 0x89 && bitOf x.entry 191 == gen && bitsOf x.entry 190 183 == seg && x.stage == 1 && x.result.isNone
  { s with execs := updateAll s.execs mine fun x => { x with result := some (st, 0) } }

/-- Sessions with a part that is no longer a member end, and their flows fail (R483, R486). -/
def State.endSessions (s : State) (peer : Nat) : State :=
  (s.dropExchange peer false).endSession peer false

/-- Ticks since power-on reset: TICK_COUNT without the steps that PTP has made in it (R361, R450). -/
def State.uptime (s : State) : Nat := ((s.now : Int) - s.boot.stepped).toNat

/-- This part reaches the role that it joined with: the part state, READY_MS once, event 0x7400, the fuses that wait for it, and with JOB_SRC FLASH the load of its job area, which the next tick begins (R450, R454, R455, R478, Table 14.5). -/
def State.reachRole (s : State) : State :=
  let s := s.setPart s.partState
  let s := if s.f F.bootStatusReadyMs = 0 then s.fset F.bootStatusReadyMs (s.uptime / 1000) else s
  let s := { s with boot := { s.boot with loadDue := (Config.roleSection s.boot.config).2.1 == 1 && s.f F.jobStatusState == 0 } }
  (s.raise 0x7400 749).roleFuses

/-- A hall-wide command takes effect on this part. -/
def State.applyHall (s : State) (c : HallCmd) : State :=
  match c with
  | .tflip t v => if (s.dir t).nextValid && (s.dir t).nextVersion == v then s.flipTable t else s.finishTable 0x85 t (some v) 3 .aborted
  | .toffline t => s.offlineTable t
  | .tonline t v => s.onlineTable t v
  | .join p role site id =>
    let s := (s.joinMember p role site id.toNat).finishMember 0 p .ok
    let s := { s with beats := s.beats.filter fun (b : Nat × Nat) => b.1 != p }.seedBeats
    if p = s.me then ((s.raise 0x4050 748).reachRole).emits (s.boot.asked.map fun p => .fetchHeader p) else s
  | .leave p => ((((s.leaveMember p).endSessions p).finishMember 1 p .ok).seedBeats).showPart
  | .role p role => ((s.changeRole p role).finishMember 2 p .ok).showPart
  | .lost p =>
    let s := ((s.loseMember p).endSessions p).seedBeats
    (if p = s.me then s.leaveJob else s).showPart
  | .hove p flag => s.setMemberFlags p ((if flag then setBit else clearBit) (s.memberFlags p) 0)
  | .phase gen seg =>
    let s := s.setLed 0x10 1 (if gen then 1 else 0)
    if s.jobRuns then { s with step := { s.step with phaseTo := some (gen, seg) } } else s
  | .jstart parts spares => s.startJob parts spares
  | .jobStop => s.stopJob
  | .jobUpdate => if s.f F.jobStatusState = 3 ∧ !s.boot.staged.isEmpty then s.fset F.jobStatusState 4 else s

/-- Place of a command in the order of R371: member table first, then the table directory; job commands last. -/
def hallRank (c : HallCmd) : Nat :=
  match c with
  | .join _ _ _ _ | .leave _ | .role _ _ | .lost _ | .hove _ _ => 0
  | .tflip _ _ | .toffline _ | .tonline _ _ => 1
  | .phase _ _ => 2
  | .jstart _ _ | .jobStop | .jobUpdate => 3

/-- Commands of one decision take effect in the order of R371. -/
def State.applyHalls (s : State) (l : List HallCmd) : State :=
  [0, 1, 2, 3].foldl (fun s k => (l.filter fun c => hallRank c == k).foldl State.applyHall s) s

end Sys2Proof.Machine
end

