-- ==== Sys2Proof/Machine/Castling.lean ====
section
/-! DEFINITION. Castling units (R272 to R281, R290, R291): UOPEN, UCLOSE, the apply of a unit from its journal, the rows it wrote, and EXPORT (R295, R296). -/

namespace Sys2Proof.Machine

/-! ### UOPEN (R272 to R274) -/

/-- STEP_STATUS.OPEN shows the units not RETIRED. -/
def State.showUnits (s : State) : State :=
  s.fset F.stepStatusOpen (min 255 (s.units.filter fun u => u.state != .retired).length)

/-- The tables of a unit: its table and the companions bound to it (R272). -/
def State.unitTables (s : State) (table : Nat) : List Nat := table :: Config.companions s.boot.job table

/-- Ranges of a table unit: the regions of its tables and the hot frames that hold rows of them (R272). -/
def State.tableRanges (s : State) (table : Nat) : List (Bank × Nat × Nat) :=
  (s.unitTables table).flatMap fun t =>
    let d := s.dir t
    let frames := (List.range s.hotFrames).filter fun f => [1, 2, 3].contains (s.hot f).state && (s.hot f).table == t
    (Bank.hbm, d.base, d.slots * d.slot) :: frames.map fun f => (Bank.sram, s.frameAt f, (s.hot f).run * d.slot)

/-- Range entries of a dense unit, read from SRAM space (Table 8.2); none where one lies outside this part's HBM or SRAM space. -/
def State.denseRanges (s : State) (a n : Nat) : State × Option (List (Bank × Nat × Nat)) :=
  let (s, l) := s.loadAt ⟨0xFF, [.sram], false⟩ a (16 * n)
  match l with
  | none => (s, none)
  | some l =>
    let ranges := (chunksOf 16 n l).map fun c => (s.run? (leAt c 0 8) (leAt c 8 8), leAt c 8 8)
    if ranges.all fun r => r.1.any fun p => p.1 == .hbm || p.1 == .sram then
      (s, some (ranges.filterMap fun r => r.1.map fun p => (p.1, p.2, r.2)))
    else (s, none)

/-- This part holds the named copy of a table shard or a dense shard (R219, R274). -/
def State.holdsUnit (s : State) (dense : Bool) (table shard copy : Nat) : Bool :=
  if dense then
    let holders := (Config.denseShard s.boot.job table shard).1
    decide (copy < holders.length) && s.holder (holders.getD copy 0) == s.me
  else
    let d := s.dir table
    decide (d.shard0 ≤ shard ∧ shard < d.shard0 + d.shards ∧ copy ≤ d.repl) && s.copyHolder d (shard - d.shard0) copy == s.me

/-- An EXPORT has yet to read the rows of a shard (R295). -/
def State.exporting (s : State) (dense : Bool) (table shard id : Nat) : Bool :=
  s.execs.any fun x => opcodeOf x.entry == 0x88 && x.result.isNone && decide (x.id < id) && bitsOf x.entry 191 176 == table &&
    bitsOf x.entry 175 160 == shard && bitOf x.entry 159 == dense

/-- UOPEN: the checks of R273, R274 and R217, then the unit is OPEN with its ranges. -/
def State.uopen (s : State) (x : Exec) : State :=
  let e := x.entry
  let dense := bitOf e 191
  let copy := bitsOf e 190 189
  let table := bitsOf e 188 173
  let shard := bitsOf e 172 157
  let slot := bitsOf e 156 149
  let d := s.dir table
  let live (p : CUnit → Bool) : Bool := s.units.any fun u => u.state != .retired && p u
  if !zeroBits e [(138, 0)] then s.finish x.id .aborted
  else if s.exporting dense table shard x.id then s
  else if !dense && (d.state == 0 || decide (3 ≤ d.state)) then
    (if 3 ≤ d.state then s.badState table else s).finish x.id .aborted
  else if s.generation || live (fun u => u.slot == slot) ||
      live (fun u => u.dense == dense && u.copy == copy && u.table == table && u.shard == shard) ||
      !s.holdsUnit dense table shard copy then s.finish x.id .aborted
  else
    let (s, ranges) := if dense then s.denseRanges (x.param (bitsOf e 144 139)) (bitsOf e 148 145 + 1) else (s, some (s.tableRanges table))
    match ranges with
    | none => s.finish x.id .aborted
    | some ranges =>
      if ranges.all fun r => decide (r.2.1 + r.2.2 ≤ if r.1 = .hbm then 0x5D00000000 else 0x800000000) then
        let u : CUnit :=
          { slot, dense, copy, table, shard, ranges, state := .opened, failed := false, step := s.f F.stepEpochEpoch
            recs := [], segs := [], digest := 0, count := 0, minority := false }
        (State.showUnits { s with units := s.units ++ [u] }).finish x.id .ok
      else s.finish x.id .aborted

/-- UOPEN of the queue's entry in execution. -/
def execUopen (q : Nat) (s : State) : Host.Outcome State Fault Refusal :=
  match s.running q [0x80] with
  | some x => .next (s.uopen x)
  | none => .next s

/-! ### UCLOSE (R275, R280, R281) -/

/-- Fills the NEW halves of a unit's records and marks them valid; the Boolean tells that every final value could be read. -/
def State.fillNew (s : State) : List JRec → State × Bool
  | [] => (s, true)
  | r :: rs =>
    let at_ := s.journalAt r.index
    let (s, bad) := s.copyWords r.bank (granuleWords r.granule (at_ + 320))
    let (s, flags) := s.readBytes .hbm (at_ + 17) 1
    let (s, ok) := s.writeBytes .hbm (at_ + 17) [BitVec.ofNat 8 (setBit (leNat (flags.getD [])) 0)]
    let (s, rest) := s.fillNew rs
    (s, !bad && ok && rest)

/-- Bytes of one row in a table unit's content stream: its index, its elements and those of its companions (R280). -/
def State.rowStream (s : State) (table : Nat) : Nat := 8 + 2 * ((s.unitTables table).map fun t => (s.dir t).rowlen).sum

/-- COUNT of a unit: touched rows, or elements, as its content stream holds them (R280; log entry 21). -/
def State.unitCount (s : State) (u : CUnit) (nseg : Nat) : Nat :=
  let total := ((u.segs.filter fun g => decide (g.1 < nseg)).map fun g => g.2.2).sum
  if u.dense then total / 2 else total / s.rowStream u.table

/-- Header of the unit digest (R280). -/
def digestHeader (u : CUnit) (count : Nat) : List Byte :=
  leBytes 8 u.step ++ leBytes 2 u.table ++ leBytes 2 u.shard ++ [if u.dense then 1 else 0] ++ List.replicate 3 0 ++ leBytes 8 count ++
    List.replicate 8 0

/-- The unit digest over segments 0 to NSEG − 1 (R280, R281). -/
def unitDigest (u : CUnit) (count nseg : Nat) : BitVec 128 :=
  let segs := (List.range nseg).flatMap fun i =>
    match u.segs.find? fun g => g.1 == i with
    | some g => leBytes 16 g.2.1.toNat
    | none => []
  digest128 (digestHeader u count ++ segs)

/-- UCLOSE: the journal's NEW halves, the digest, and the unit CLOSED; else the unit fails, as it does on a `mismatch` of the duplicated digest unit (R281). -/
def State.uclose (s : State) (x : Exec) (mismatch : Bool) : State :=
  let slot := bitsOf x.entry 191 184
  let nseg := bitsOf x.entry 183 152
  let bad (s : State) : State := (s.failUnit slot).finish x.id .aborted
  if !zeroBits x.entry [(151, 0)] then s.finish x.id .aborted
  else
    match s.units.find? fun u => u.slot == slot && u.state == .opened with
    | none => bad s
    | some u =>
      if u.failed then s.finish x.id .aborted
      else if mismatch then bad s
      else if nseg = 0 ∨ u.segs.length < nseg then bad s
      else if !((List.range nseg).all fun i => u.segs.any fun g => g.1 == i) then bad s
      else
        let (s, ok) := s.fillNew u.recs
        if !ok then bad s
        else
          let count := s.unitCount u nseg
          let digest := unitDigest u count nseg
          let mine (v : CUnit) : Bool := v.slot == slot && v.state == .opened
          let close (v : CUnit) : CUnit :=
            { v with state := .closed, count, digest, recs := v.recs.map fun r => { r with newValid := true } }
          State.finish { s with units := updateAll s.units mine close } x.id .ok

/-- UCLOSE of the queue's entry in execution. -/
def execUclose (c : Closing) (s : State) : Host.Outcome State Fault Refusal :=
  match s.running c.queue [0x81] with
  | some x => .next (s.uclose x c.mismatch)
  | none => .next s

/-! ### The apply (R290, R291) -/

/-- Copies words of the journal into a bank, poisoned where the half is (R277). -/
def State.putWords (s : State) (b : Bank) : List (Nat × Nat) → State
  | [] => s
  | (src, dst) :: l =>
    let (s, v) := s.fetchWord .hbm src
    let s := match v with
      | some v => s.setWord b dst v
      | none => s.setWord b dst (s.word .hbm src) true
    s.putWords b l

/-- Writes the OLD or the NEW half of every record of a unit in place. -/
def State.putHalves (s : State) (new : Bool) (u : CUnit) : State :=
  u.recs.foldl (fun s r => s.putWords r.bank (granuleWords (s.journalAt r.index + if new then 320 else 64) r.granule)) s

/-- Pending lines that a unit wrote take effect with its commit and are discarded by its undo (R248). -/
def State.settleLines (s : State) (new : Bool) (slot : Nat) : State :=
  { s with moves := s.moves.map fun m =>
      { m with lines :=
          if new then m.lines.map fun l => if l.2.2 = some slot then (l.1, l.2.1, none) else l
          else m.lines.filter fun l => l.2.2 != some slot } }

/-- Places `k` of `st` bytes from a base on, of `n`, that a run of bytes touches. -/
def placesIn (base st n off len : Nat) : List Nat :=
  if off + len ≤ base ∨ len = 0 then []
  else
    let lo := (max off base - base) / st
    let hi := min n ((off + len - 1 - base) / st + 1)
    (List.range (hi - lo)).map (lo + ·)

/-- Rows that a unit's sweep wrote, in the row slots of its table and of its companions, in their region or in a hot frame; rows of 128 parameters of a dense unit (R295, R296). -/
def State.unitRows (s : State) (u : CUnit) : List Nat :=
  if u.dense then
    let (_, first, n, tensors, _) := Config.denseShard s.boot.job u.table u.shard
    sortNat (u.writes.flatMap fun w => tensors.flatMap fun a =>
      (placesIn (mkAddr (addrSpace a) (addrOff a)) 256 ((n + 127) / 128) (hallOf w.1 w.2.1) w.2.2).map fun i => first / 128 + i)
  else
    let main := s.dir u.table
    let slots : List Nat := u.writes.flatMap fun w => (s.unitTables u.table).flatMap fun t =>
      let d := s.dir t
      if w.1 = .hbm then placesIn d.base d.slot d.slots w.2.1 w.2.2
      else
        (List.range s.hotFrames).flatMap fun f =>
          let h := s.hot f
          if h.table = t ∧ h.state ≠ 0 ∧ h.state ≠ 4 then (placesIn (s.frameAt f) d.slot h.run w.2.1 w.2.2).map (h.first + ·) else []
    sortNat (slots.map fun l => main.rowOf (u.shard - main.shard0) l)

/-- Rows written by a committed unit are dirty since the decision of its step (R295). -/
def State.markDirty (s : State) (u : CUnit) (rows : List Nat) : State :=
  let key := (u.dense, u.table, u.shard)
  { s with dirty := s.dirty ++ (rows.map fun r => (key, r, u.step)).filter fun x => !s.dirty.contains x }

/-- A unit is RETIRED: its granules hold their final values and its slot is free; entries that took it before keep its records (R279). -/
def State.retire (s : State) (new : Bool) (u : CUnit) : State :=
  let s := (s.putHalves new u).settleLines new u.slot
  (State.dropRetired { s with units := updateAll s.units (fun v => v == u) fun v => { v with state := .retired } }).showUnits

/-- Clears the gradient map of a table and the gradient rows of its slots in use (R253, R290). -/
def State.clearGmap (s : State) (table : Nat) : State :=
  let d := s.dir table
  (s.gmapTouched d).foldl (fun s i => ((s.writeBytes .hbm (d.gmapBase + 8 * i) (List.replicate 8 0)).1.writeBytes .hbm (gradRows d + 256 * i)
    (List.replicate 256 0)).1) s

/-- Ledger offset of the commit record of a step, the latest one if an abort and a re-run left several (R287). -/
def State.recordAt (s : State) (step : Nat) : Option Nat :=
  let n := s.led 8 8
  ((List.range (min n 4096)).find? fun i => s.led (0x1000 + 64 * ((n - 1 - i) % 4096)) 8 == step).map fun i => 0x1000 + 64 * ((n - 1 - i) % 4096)

/-- Outcome of the commit record of a step (R287). -/
def State.recordedOutcome (s : State) (step : Nat) : Option Nat := (s.recordAt step).map fun a => s.led (a + 8) 1

/-- The decision that the commit record of a step holds: the fields of Table 8.6a (R291). -/
def State.recordedDecision (s : State) (step : Nat) : Option Decision :=
  (s.recordAt step).bind fun a =>
    ([.commit, .skip, .abort, .freeze, .resolved].find? fun o => Outcome.code o == s.led (a + 8) 1).map fun o =>
      { step, outcome := o, flags := s.led (a + 9) 1, leader := s.led (a + 10) 2, members := s.led (a + 12) 2, minority := s.led (a + 14) 2
        tick := s.led (a + 16) 8, votes := BitVec.ofNat 128 (s.led (a + 24) 16), kept := [], late := 0, dropped := 0, layers := [], runs := []
        deadline := 0, lost := [], misses := [], hall := [] }

/-- Redo or undo of a unit by the outcome code of its step, none where no decision was made (R291); RESOLVED commits as COMMIT does, and a frozen step decides nothing yet (log entry 23). -/
def State.resolveUnit (s : State) (u : CUnit) (code : Option Nat) : State :=
  if code == some 4 then s
  else
    let new := (code == some 1 || code == some 5) && u.state != .opened && !u.failed
    let s := if new && u.state != .applyingNew then s.markDirty u (s.unitRows u) else s
    ((s.retire new u).fadd F.castleStatusRedone).freeJournal

/-- Units that wait for a resolution (R291). -/
def State.unresolved (s : State) (slot : Nat) : Option CUnit :=
  s.units.find? fun u => u.slot == slot && u.outOfService && !u.minority && u.state != .retired

/-- A released part that still has its job, once its units are resolved, fetches the step header, commit records and hall areas from a committee member and reloads its cores, whose queues start with the next step (Table 13.8). -/
def State.rejoin (s : State) : State :=
  if !s.boot.rejoins || s.units.any (fun u => u.outOfService && !u.minority && u.state != .retired) then s
  else
    let s := { s with boot := { s.boot with rejoins := false } }
    if !s.jobRuns then s
    else
      let s := s.stopCores
      let segs : List Segment := s.segmentSet s.step.segSet
      let s := ((s.loadSegments segs).1).applyJobSettings
      let s := { s with step := { s.step with resync := true, starts := segs.map fun (g : Segment) => g.2.1 } }
      match s.committee.find? fun p => p != s.me with
      | some p => { s with boot := { s.boot with asked := [p] } }.emit (.fetchHeader p)
      | none => s

/-- UNIT_RESOLUTION: a unit left behind by Hove-to or a recovery is redone from its NEW halves when its step committed, else undone (R291). Where the Ledger holds no record the part asks the committee; `committee` is its answer, once it has come: the final decision that it holds, or that it holds none. -/
def execUnitResolution (slot : Nat) (committee : Option (Option Outcome)) (s : State) : Host.Outcome State Fault Refusal :=
  if s.inHove then .next s
  else
    match s.unresolved slot with
    | none => .next s.rejoin
    | some u =>
      match s.recordedOutcome u.step, committee with
      | some c, _ => .next (s.resolveUnit u (some c)).rejoin
      | none, some o => .next (s.resolveUnit u (o.map Outcome.code)).rejoin
      | none, none => .next (s.emits ((s.committee.filter fun p => p != s.me).map fun p => .askDecision p u.step))

/-! ### EXPORT (R295, R296) -/

/-- What an export takes its rows from: rows with their state slots' hall addresses, the row length, slots per row and format. -/
structure ExportPlan where
  copy : Nat
  version : Nat
  fmt : Nat
  rowlen : Nat
  nstate : Nat
  rows : List (Nat × List Nat)
deriving DecidableEq, Repr, Inhabited

/-- Where this part holds the rows of a shard's copy; none where it holds none. -/
def State.exportPlan (s : State) (dense : Bool) (table shard : Nat) : Option ExportPlan :=
  if dense then
    let (holders, first, n, tensors, fmt) := Config.denseShard s.boot.job table shard
    match holders.zipIdx.find? fun h => s.holder h.1 == s.me with
    | none => none
    | some h =>
      let rows := (List.range ((n + 127) / 128)).map fun i => (first / 128 + i, tensors.map fun a => a + 256 * i)
      some ⟨h.2, 0, fmt, 128, tensors.length, rows⟩
  else
    let d := s.dir table
    if shard < d.shard0 ∨ d.shard0 + d.shards ≤ shard then none
    else
      match (List.range (d.repl + 1)).find? fun k => s.copyHolder d (shard - d.shard0) k == s.me with
      | none => none
      | some k =>
        let tables := s.unitTables table
        let rows := ((List.range d.slots).map fun l => (d.rowOf (shard - d.shard0) l, l)).filter fun r => decide (r.1 < d.rows)
        some ⟨k, d.version, d.fmt, d.rowlen, tables.length, rows.map fun r =>
          (r.1, tables.map fun t =>
            let p := s.rowPlace t (s.dir t) (s.dir t).version (s.dir t).base r.2
            hallOf p.1 p.2.1)⟩

/-! ### A minority copy (R293) -/

/-- The unit digest over a content stream (R280). -/
def streamDigest (u : CUnit) (count : Nat) (stream : List Byte) : BitVec 128 :=
  digest128 (digestHeader u count ++ (chunksOf 65536 ((stream.length + 65535) / 65536) stream).flatMap fun c => leBytes 16 (digest128 c).toNat)

/-- Writes fetched rows in place: each state slot of a row at its address. -/
def State.putRows (s : State) (p : ExportPlan) (rows : List (Nat × List (List Byte))) : State :=
  rows.foldl (fun s r =>
    match p.rows.find? fun x => x.1 == r.1 with
    | none => s
    | some x => (x.2.zip r.2).foldl (fun s c =>
        match s.run? c.1 (2 * p.rowlen) with
        | some (b, off) => (s.writeBytes b off (c.2.take (2 * p.rowlen))).1
        | none => s) s) s

/-- The elements of a dense shard's state tensors, one tensor after the other; one that cannot be read gives none. -/
def State.denseStream (s : State) (n : Nat) : List Nat → State × List Byte
  | [] => (s, [])
  | a :: as =>
    let (s, l) := match s.run? a (2 * n) with
      | some (b, off) => let (s, l) := s.readBytes b off (2 * n); (s, l.getD [])
      | none => (s, [])
    let (s, r) := s.denseStream n as
    (s, l ++ r)

/-- The content stream after a refetch with its count: the fetched rows of a table unit, the whole of a dense one (R280). -/
def State.refetchStream (s : State) (u : CUnit) (p : ExportPlan) (rows : List (Nat × List (List Byte))) : State × List Byte × Nat :=
  if u.dense then
    let (_, _, n, tensors, _) := Config.denseShard s.boot.job u.table u.shard
    let (s, l) := s.denseStream n tensors
    (s, l, n * tensors.length)
  else
    let sorted := (sortNat (rows.map (·.1))).filterMap fun r => rows.find? fun x => x.1 == r
    (s, sorted.flatMap fun r => leBytes 8 r.1 ++ r.2.flatMap fun c => c.take (2 * p.rowlen), rows.length)

/-- The copies that may hold the committed rows: the parts of the unit's other copies (R219, R293). -/
def State.otherCopies (s : State) (u : CUnit) : List Nat :=
  let l := if u.dense then (Config.denseShard s.boot.job u.table u.shard).1.map s.holder
    else let d := s.dir u.table; (List.range (d.repl + 1)).map fun k => s.copyHolder d (u.shard - d.shard0) k
  (l.filter fun p => p != s.me && s.isMember p).dedup

/-- A minority copy asks the other copies for the rows of the committed digest, which a copy that holds it sends (R293). -/
def State.askRows (s : State) (u : CUnit) : State :=
  match u.committed with
  | some g => s.emits ((s.otherCopies u).map fun p => .fetchRows p u.step { unitEntry u with digest := g })
  | none => s

/-- MINORITY_REFETCH: the committed rows of a step that a majority copy sent, each with its state slots, land in place; the digest recomputed by R280 retires the unit, its rows dirty, or puts the owning domain into recovery; in Hove-to none land (R293, R295, R436). -/
def execMinorityRefetch (slot step : Nat) (rows : List (Nat × List (List Byte))) (s : State) : Host.Outcome State Fault Refusal :=
  match (s.units.find? fun u => u.slot == slot && u.step == step && u.minority && u.asked && u.state != .retired).filter fun _ => !s.inHove with
  | none => .next s
  | some u =>
    match s.exportPlan u.dense u.table u.shard with
    | none => .next s
    | some p =>
      let s := s.putRows p rows
      let (s, l, n) := s.refetchStream u p rows
      if u.committed = some (streamDigest u n l) then
        .next (State.showUnits { s.markDirty u (sortNat (rows.map (·.1))) with units := s.units.filter fun v => v != u })
      else .next (s.faultDomain (unitDomain u))

/-- State slots of one row, each padded to 8 bytes. -/
def State.exportSlots (s : State) (bytes : Nat) : List Nat → State × Option (List Byte)
  | [] => (s, some [])
  | a :: as =>
    let (s, l) := s.loadAt ⟨0xFF, [.hbm, .sram], false⟩ a bytes
    let (s, r) := s.exportSlots bytes as
    (s, match l, r with
      | some l, some r => some (l ++ List.replicate ((8 - bytes % 8) % 8) 0 ++ r)
      | _, _ => none)

/-- Payload rows (R296). -/
def State.exportRows (s : State) (bytes : Nat) : List (Nat × List Nat) → State × Option (List Byte)
  | [] => (s, some [])
  | r :: rs =>
    let (s, a) := s.exportSlots bytes r.2
    let (s, b) := s.exportRows bytes rs
    (s, match a, b with | some a, some b => some (leBytes 8 r.1 ++ a ++ b) | _, _ => none)

/-- Where the payload rows of a record lie, from which each transmission reads them (R296, R344). -/
def exportSpans (bytes : Nat) (rows : List (Nat × List Nat)) : List Span :=
  rows.flatMap fun r =>
    .bytes (leBytes 8 r.1) :: r.2.flatMap fun a => [.place a bytes, .bytes (List.replicate ((8 - bytes % 8) % 8) 0)]

/-- Header of a record (Table 8.8). -/
def exportHeader (step table shard since : Nat) (dense dirty : Bool) (p : ExportPlan) (rows : List (Nat × List Nat)) (payload : List Byte) :
    List Byte :=
  let bit (b : Bool) : Nat := if b then 1 else 0
  leBytes 64 (packFields [(step, 64), (p.version, 32), (table, 16), (shard, 16), (p.copy, 2), (bit dense, 1), (bit dirty, 1), (p.fmt, 4),
    (p.rowlen - 1, 7), (p.nstate - 1, 3), ((rows.headD (0, [])).1, 40), (rows.length, 32), (0, 38), ((digest128 payload).toNat, 128),
    (since, 64), (0, 64)])

/-- The records of an export, as bytes and as what is sent of them; a boundary falls every 65,536 rows. -/
def State.exportRecords (s : State) (step table shard since : Nat) (dense dirty : Bool) (p : ExportPlan) :
    List (List (Nat × List Nat)) → State × Option (List Byte × List Span)
  | [] => (s, some ([], []))
  | c :: cs =>
    let (s, l) := s.exportRows (2 * p.rowlen) c
    let (s, r) := s.exportRecords step table shard since dense dirty p cs
    (s, match l, r with
      | some l, some r =>
        let h := exportHeader step table shard since dense dirty p c l
        some (h ++ l ++ r.1, .bytes h :: exportSpans (2 * p.rowlen) c ++ r.2)
      | _, _ => none)

/-- Bytes, and what is sent of them, of an export of this part's copy of a shard as committed at the COMMIT or RESOLVED record of `epoch`, the latest one as the export starts; none where it holds no copy or a word cannot be read. -/
def State.exportBytes (s : State) (dense dirty : Bool) (table shard since epoch : Nat) : State × Option (List Byte × List Span) :=
  match s.exportPlan dense table shard with
  | none => (s, none)
  | some p =>
    let fresh (r : Nat) : Bool := s.dirty.any fun x => x.1 == (dense, table, shard) && x.2.1 == r && decide (since < x.2.2) && decide (x.2.2 ≤ epoch)
    let rows := p.rows.filter fun r => !dirty || fresh r.1
    let pieces := chunksOf 65536 ((rows.length + 65535) / 65536) rows
    s.exportRecords epoch table shard (if dirty then since else 0) dense dirty p pieces

/-- Length of the export record at the start of a list, where its digest matches its payload (Table 8.8). -/
def recordLen (l : List Byte) : Option Nat :=
  let h := leNat (l.take 64)
  let rows := h / 2 ^ 294 % 2 ^ 32
  let slot := (2 * (h / 2 ^ 369 % 2 ^ 7 + 1) + 7) / 8 * 8
  let n := rows * (8 + (h / 2 ^ 366 % 8 + 1) * slot)
  let payload := (l.drop 64).take n
  if 64 + n ≤ l.length ∧ digest128 payload = BitVec.ofNat 128 (h / 2 ^ 128) then some (64 + n) else none

/-- The bytes are export records end to end (R295, R296). -/
def isExport : Nat → List Byte → Bool
  | 0, _ => false
  | k + 1, l =>
    match recordLen l with
    | some n => n == l.length || isExport k (l.drop n)
    | none => false

/-- Fields of the header of a record (Table 8.8): STEP, TABLE, SHARD, DENSE and DIRTY. -/
def recordStep (l : List Byte) : Nat := leNat (l.take 64) / 2 ^ 448
@[inherit_doc recordStep] def recordTable (l : List Byte) : Nat := leNat (l.take 64) / 2 ^ 400 % 2 ^ 16
@[inherit_doc recordStep] def recordShard (l : List Byte) : Nat := leNat (l.take 64) / 2 ^ 384 % 2 ^ 16
@[inherit_doc recordStep] def recordDense (l : List Byte) : Bool := leNat (l.take 64) / 2 ^ 381 % 2 == 1
@[inherit_doc recordStep] def recordDirty (l : List Byte) : Bool := leNat (l.take 64) / 2 ^ 380 % 2 == 1

/-- The payload rows of a record, each with its state slots (R296). -/
def recordRows (l : List Byte) : List (Nat × List (List Byte)) :=
  let h := leNat (l.take 64)
  let slot := (2 * (h / 2 ^ 369 % 2 ^ 7 + 1) + 7) / 8 * 8
  let n := h / 2 ^ 366 % 8 + 1
  (chunksOf (8 + n * slot) (h / 2 ^ 294 % 2 ^ 32) (l.drop 64)).map fun c => (leAt c 0 8, chunksOf slot n (c.drop 8))

/-- The rows of a record land in place (R387). -/
def State.putRecord (s : State) (l : List Byte) : State :=
  match s.exportPlan (recordDense l) (recordTable l) (recordShard l) with
  | some p => s.putRows p (recordRows l)
  | none => s

/-- A shard from its checkpoint of epoch C and the ward records above C, applied in epoch order, with the last epoch that they hold; none where a record's DIGEST does not match (Table 11.5, R388). -/
def State.putRecords (s : State) (l : List (List Byte)) : State × Option Nat :=
  if !(l.all fun r => recordLen r == some r.length) then (s, none)
  else
    let c := ((l.filter fun r => !recordDirty r).map recordStep).foldl max 0
    let use := l.filter fun r => !recordDirty r || decide (c < recordStep r)
    let order := ((sortNat (use.map recordStep)).dedup).flatMap fun e => use.filter fun r => recordStep r == e
    (order.foldl State.putRecord s, some ((use.map recordStep).foldl max 0))

/-- EXPORT (R295): records into a buffer in SRAM space or onto a flow. -/
def State.exportEntry (s : State) (x : Exec) : State :=
  let e := x.entry
  let table := bitsOf e 191 176
  let dense := bitOf e 159
  let d := s.dir table
  let dest := x.param (bitsOf e 156 151)
  if !zeroBits e [(144, 0)] then s.finish x.id .aborted
  else if !dense && (d.state == 0 || decide (3 ≤ d.state)) then
    (if 3 ≤ d.state then s.badState table else s).finish x.id .aborted
  else if bitOf e 157 && s.flowState (dest % 4096) != flowOpen then s.finish x.id .aborted
  else
    let (s, l) := s.exportBytes dense (bitOf e 158) table (bitsOf e 175 160) (x.param (bitsOf e 150 145)) x.epoch
    match l with
    | none => s.finish x.id .aborted
    | some l =>
      if bitOf e 157 then
        (((s.sendFrom (dest % 4096) l.2).emit (.exported (dest % 4096) l.1))).finish x.id .ok
      else
        let (s, ok) := s.storeAt ⟨0xFF, [.sram], false⟩ (mkAddr 1 (dest % 2 ^ 44)) l.1
        s.finish x.id (if ok then .ok else .aborted)

/-- EXPORT of the queue's entry in execution. -/
def execExportShard (q : Nat) (s : State) : Host.Outcome State Fault Refusal :=
  match s.running q [0x88] with
  | some x => .next (s.asSeen x fun s => s.exportEntry x)
  | none => .next s

end Sys2Proof.Machine
end

