-- ==== Sys2Proof/Machine/StepOps.lean ====
section
/-! DEFINITION. The vote and the decision (R282 to R294, R303 to R324, R385, R386): VOTE, the leader's decision, what a final decision does on this part, FREEZE and RESOLVE, and PHASE. -/

namespace Sys2Proof.Machine

/-! ### Vote records (Table 8.5) -/

/-- A vote record with its unit entries. -/
def voteBytes (v : Vote) : List Byte :=
  leBytes 8 v.step ++ leBytes 2 v.part ++ [if v.abort then 1 else 0, BitVec.ofNat 8 v.flags] ++ leBytes 2 v.units.length ++
    List.replicate 18 0 ++
    v.units.flatMap fun u =>
      leBytes 2 u.table ++ leBytes 2 u.shard ++ [BitVec.ofNat 8 ((if u.dense then 1 else 0) + 2 * u.copy)] ++ List.replicate 3 0 ++
        leBytes 8 u.count ++ leBytes 16 u.digest.toNat

/-- The vote record that bytes spell. -/
def voteOf (l : List Byte) : Vote :=
  let n := leAt l 12 2
  { step := leAt l 0 8, part := leAt l 8 2, abort := decide (leAt l 10 1 ≠ 0), flags := leAt l 11 1
    units := (chunksOf 32 n (l.drop 32)).map fun c =>
      { table := leAt c 0 2, shard := leAt c 2 2, dense := decide (leAt c 4 1 % 2 = 1), copy := leAt c 4 1 / 2 % 4, count := leAt c 8 8
        digest := BitVec.ofNat 128 (leAt c 16 16) } }

/-- Bytes of a vote record. -/
def voteSize (v : Vote) : Nat := 32 + 32 * v.units.length

/-- Votes as the leader's Ledger gives them, in order of arrival from offset 0x0010_0000 on; one that lies beyond the area, or that neither copy gives while the part goes to Hove-to, stands as it came (R33, Table 8.10). -/
def State.votesFrom (s : State) (at_ : Nat) : List Vote → State × List Vote
  | [] => (s, [])
  | v :: vs =>
    let (s, w) :=
      if at_ + voteSize v ≤ 0xF00000 then
        let (s, l) := s.readBytes .ledgerE (0x00100000 + at_) (voteSize v)
        (s, match l with | some l => voteOf l | none => v)
      else (s, v)
    let (s, ws) := s.votesFrom (at_ + voteSize v) vs
    (s, w :: ws)

/-- The leader reads the votes that it decides from (R33). -/
def State.readVotes (s : State) : State :=
  let (s, l) := s.votesFrom 0 s.step.votes
  { s with step := { s.step with votes := l } }

/-- Votes in part-number order. -/
def sortVotes (l : List Vote) : List Vote := (sortNat (l.map (·.part))).filterMap fun p => l.find? fun v => v.part == p

/-- First 128 bits of SHAKE256 over the counted vote records (Table 8.6a). -/
def votesDigest (l : List Vote) : BitVec 128 := digest128 ((sortVotes l).flatMap voteBytes)

/-! ### Units across the votes (R284, R293) -/

/-- READY copies of the units, as (part, entry). -/
def readyCopies (l : List Vote) : List (Nat × VoteUnit) := (l.filter fun v => !v.abort).flatMap fun v => v.units.map fun u => (v.part, u)

/-- Two entries name copies of one unit. -/
def sameUnit (a b : VoteUnit) : Bool := a.dense == b.dense && a.table == b.table && a.shard == b.shard

/-- One entry for each unit. -/
def unitsOf : List (Nat × VoteUnit) → List VoteUnit
  | [] => []
  | c :: cs => let rest := unitsOf cs; if rest.any (sameUnit c.2) then rest else c.2 :: rest

/-- The digest held by more than half of a unit's READY copies. -/
def majorityDigest (copies : List (Nat × VoteUnit)) (u : VoteUnit) : Option (BitVec 128) :=
  let ds := (copies.filter fun c => sameUnit c.2 u).map fun c => c.2.digest
  ds.find? fun d => decide (ds.length < 2 * (ds.filter (· == d)).length)

/-- The units with the digest that commits; `pick` chooses for a unit with no majority. -/
def keptUnits (copies : List (Nat × VoteUnit)) (pick : VoteUnit → Option (BitVec 128)) : Option (List VoteUnit) :=
  (unitsOf copies).mapM fun u => ((majorityDigest copies u).or (pick u)).map fun d => { u with digest := d }

/-- The digest of a numbered copy of a unit. -/
def copyDigest (copies : List (Nat × VoteUnit)) (k : Nat) (u : VoteUnit) : Option (BitVec 128) :=
  (copies.find? fun c => sameUnit c.2 u && c.2.copy == k).map fun c => c.2.digest

/-- Copies whose digest is not the one that commits. -/
def minorityCount (copies : List (Nat × VoteUnit)) (kept : List VoteUnit) : Nat :=
  (copies.filter fun c => (kept.find? (sameUnit c.2)).any fun k => k.digest != c.2.digest).length

/-- A unit of a part declared lost has no READY copy at another part (R284); so has a logical shard of a member lost before, still in the shard map, whose table copies are all lost or whose dense unit no vote carries (log entry 24). -/
def State.lostUnit (s : State) (votes : List Vote) (lost : List Nat) : Bool :=
  let copies := readyCopies votes
  let stranded (u : VoteUnit) : Bool := !(copies.any fun c => sameUnit c.2 u && !lost.contains c.1)
  let gone := (s.listed (memberAt 0) 16 65536).filter fun p => s.memberState p == memberLost
  let shards := (List.range (Config.jobLayout s.boot.job).1).filter fun k => gone.contains (s.holder k)
  let orphan (k : Nat) : Bool :=
    (copies.any (·.2.dense) && !(copies.any fun c => c.2.dense && c.2.shard == k)) ||
      s.listedTables.any fun t =>
        let d := s.dir t
        d.state == 1 && decide (d.shard0 ≤ k ∧ k < d.shard0 + d.shards) &&
          (List.range (d.repl + 1)).all fun c => gone.contains (s.copyHolder d (k - d.shard0) c)
  (copies.any fun c => lost.contains c.1 && stranded c.2) || shards.any orphan

/-! ### The leader's decision (R284, R285, R316, R319, R324, R386) -/

/-- Miss count of a part (R326). -/
def State.missCount (s : State) (p : Nat) : Nat := s.led (0x02200000 + p) 1

/-- Parts that the decision declares lost: misses that reach TEMPO_CTRL.MISSES, and resignations; a FREEZE has counted the step's misses already (R324, R431). -/
def State.partsLost (s : State) (misses : List Nat) : List Nat :=
  let more := if s.step.frozen.isSome then 0 else 1
  let out := (misses.filter fun p => s.f F.tempoCtrlMisses ≤ s.missCount p + more) ++ s.step.resigned
  sortNat (out.filter fun p => s.stepMembers.contains p)

/-- The spares that take the lost parts' shards, one each. -/
def State.nameSpares (s : State) : List Nat → List Nat → List (Nat × Option Nat)
  | _, [] => []
  | taken, p :: ps =>
    let x := s.spareFor p taken
    (p, x) :: s.nameSpares (taken ++ x.toList) ps

/-- Becalmed run of a layer in the step header. -/
def State.becalmedRun (s : State) (l : Nat) : Nat := s.led (0x400 + 4 * l) 4

/-- Becalmed runs after a COMMIT or RESOLVED decision, for the layers it moves (R316). -/
def State.nextRuns (s : State) (o : Outcome) (layers : List Layer) : List (Nat × Nat) :=
  if o = .commit ∨ o = .resolved then
    (layers.filter fun l => decide (0 < l.elems ∧ l.layer < 256)).map fun l =>
      if s.f F.becalmCtrlZeroPpm * l.elems < l.zeros * 1000000 ∨ l.globalSq = 0 then
        (l.layer, min (s.becalmedRun l.layer + 1) 0xFFFFFFFF)
      else (l.layer, 0)
  else []

/-- Step durations in HISTORY, oldest first; a zero holds none (Table 9.1; log entry 25). -/
def State.history (s : State) : List Nat := ((List.range 16).map fun i => s.led (0x30 + 4 * i) 4).filter (· ≠ 0)

/-- HISTORY with one more duration. -/
def pushHistory (h : List Nat) (d : Nat) : List Nat := (h ++ [d]).drop ((h ++ [d]).length - 16)

/-- A number put in its place in an ascending list. -/
def insertUp (n : Nat) : List Nat → List Nat
  | [] => [n]
  | m :: l => if n ≤ m then n :: m :: l else m :: insertUp n l

/-- An ascending list, repeats kept. -/
def sortUp (l : List Nat) : List Nat := l.foldl (fun a n => insertUp n a) []

/-- Outcomes whose step is over (R288, R319, R303). -/
def Outcome.ends (o : Outcome) : Bool := o == .commit || o == .skip || o == .resolved

/-- Deadline length of the next step, or of the re-run (R319). -/
def State.nextLength (s : State) (o : Outcome) (tick : Nat) : Nat :=
  if !Outcome.ends o then s.stepLength
  else
    let h := pushHistory s.history (tick - s.stepStart)
    if h.length < 16 then s.f F.tempoCtrlInit
    else
      let d := sortUp h
      s.f F.tempoCtrlFactor * (d.getD 7 0 + d.getD 8 0) / 16

/-- A postponed hall-wide command takes effect with a decision: one of a phase or of the job with every outcome but FREEZE, a change of a table or of the members with the commit of a step, which RESOLVED is too (R262, R294, R297, R369, R462, R463; log entry 138). -/
def ripe (o : Outcome) (c : HallCmd) : Bool := if hallRank c ≤ 1 then o == .commit || o == .resolved else o != .freeze

/-- A decision of this leader, before it is final. -/
def State.makeDecision (s : State) (o : Outcome) (missing : List Nat) (kept : List VoteUnit) : Decision :=
  let votes := s.step.votes
  let (late, stale) := s.step.fixed.getD ([], [])
  let misses := sortNat (late ++ missing)
  let layers := s.step.hallLayers
  let dropped := if s.step.fixed.isSome ∧ s.step.frozen.isNone then (s.step.lateBefore.filter fun p => !stale.contains p).length else 0
  { step := s.f F.stepEpochEpoch, outcome := o
    flags := (votes.map (·.flags)).foldl orNat 0, leader := s.me, members := votes.length
    minority := minorityCount (readyCopies votes) kept, tick := 0, votes := votesDigest votes, kept, late := late.length, dropped
    layers, runs := s.nextRuns o layers, deadline := 0, lost := s.nameSpares [] (s.partsLost misses), misses, hall := s.step.postponed.filter (ripe o) }

/-- The commit record of Table 8.6a. -/
def commitRecord (d : Decision) : List Byte :=
  leBytes 8 d.step ++ [BitVec.ofNat 8 d.outcome.code, BitVec.ofNat 8 d.flags] ++ leBytes 2 d.leader ++ leBytes 2 d.members ++
    leBytes 2 d.minority ++ leBytes 8 d.tick ++ leBytes 16 d.votes.toNat ++ List.replicate 24 0

/-- COMMIT_SEQ: decisions recorded since job start. -/
def State.commitSeq (s : State) : Nat := s.led 8 8

/-- Writes a commit record at the slot of the next decision (R302). -/
def State.writeCommit (s : State) (d : Decision) : State := (s.writeBytes .ledgerE (0x1000 + 64 * (s.commitSeq % 4096)) (commitRecord d)).1

/-- A decision on its way down the gather tree: to the children of this part (R384). -/
def State.passDecision (s : State) (d : Decision) : State := s.emits ((s.treeDown 6 s.me).map fun p => .decision p d)

/-- A final decision leaves the leader for every member, itself included: down the tree to the members of the step, and straight to the others (R285, R384). One that was final before keeps its tick. -/
def State.sendDecision (s : State) (d : Decision) : State :=
  let d := if d.tick = 0 then { d with tick := s.now, deadline := s.nextLength d.outcome s.now } else d
  let others := s.memberParts.filter fun p => !s.stepMembers.contains p
  (({ s with step := { s.step with held := none } }.emit (.decision s.me d)).passDecision d).emits (others.map fun p => .decision p d)

/-- A Ledger copy of this part is in recovery, or the bridge that its writes to copy W take (R25, R36, R286). -/
def State.ledgerBusy (s : State) : Bool := s.inRecovery 0x300 || s.inRecovery 0x301 || s.bridgeOut

/-- A committee member writes the decision that it holds into its Ledger: the leader then sends it to the committee members above it, and with none of those it is final at once; another member tells the leader of its write. The record stands at the slot of the next decision, with no tick, until the final one is recorded (R285; log entry 118). -/
def State.writeHeld (s : State) : State :=
  match s.step.held with
  | none => s
  | some d =>
    if s.ledgerBusy then s
    else
      let s := s.writeCommit d
      let others := s.committee.filter fun p => decide (s.me < p)
      if !s.leads then s.emit (.written (s.f F.stepStatusLeader) d.step)
      else if others.isEmpty then s.sendDecision d
      else s.emits (others.map fun p => .proposal p d)

/-- The leader proposes a decision to the committee (R285); its write waits for a Ledger copy in recovery (R36). -/
def State.propose (s : State) (d : Decision) : State :=
  ({ s with step := { s.step with held := some d } }.fset F.stepStatusState 3).writeHeld

/-- The leader may decide: no decision of it waits, the step is not frozen, and no Ledger copy is in recovery (R36). -/
def State.mayDecide (s : State) : Bool := s.leads && s.step.held.isNone && s.step.frozen.isNone && !s.ledgerBusy

/-- ABORT, with the members whose missing votes caused it. -/
def State.decideAbort (s : State) (missing : List Nat) : State := let s := s.readVotes; s.propose (s.makeDecision .abort missing [])

/-- The rules of R284 once every member's vote is in. -/
def State.decideAll (s : State) : State :=
  let s := s.readVotes
  let votes := s.step.votes
  let copies := readyCopies votes
  let lost := s.partsLost (s.step.fixed.getD ([], [])).1
  if s.lostUnit votes lost then s.propose (s.makeDecision .abort [] [])
  else if votes.any fun v => v.flags % 2 == 1 then s.propose (s.makeDecision .skip [] [])
  else
    match keptUnits copies fun _ => none with
    | some kept => s.propose (s.makeDecision .commit [] kept)
    | none => s.propose (s.makeDecision .freeze [] [])

/-! ### Votes -/

/-- VOTE: READY once every unit is CLOSED, or ABORT (R282); none runs in generation phase or with no step in progress. -/
def State.voteEntry (s : State) (x : Exec) : State :=
  if !zeroBits x.entry [(190, 0)] || s.generation || !s.stepRuns then s.finish x.id .aborted
  else if s.step.voted.isSome then s.finish x.id .ok
  else
    let mine := s.units.filter fun u => u.step == s.f F.stepEpochEpoch && (u.state == .opened || u.state == .closed)
    if bitOf x.entry 191 || mine.any (·.failed) then (s.sendVote true).finish x.id .ok
    else if mine.any fun u => u.state == .opened then s
    else (s.sendVote false).finish x.id .ok

/-- VOTE of the queue's entry in execution. -/
def execVote (q : Nat) (s : State) : Host.Outcome State Fault Refusal :=
  match s.running q [0x82] with
  | some x => .next (s.voteEntry x)
  | none => .next s

/-- The leader stores a vote: its Ledger holds the votes in order of arrival (Table 8.10). -/
def State.storeVote (s : State) (v : Vote) : State :=
  let at_ := (s.step.votes.map voteSize).sum
  let bytes := voteBytes v
  let s := if at_ + bytes.length ≤ 0xF00000 then (s.writeBytes .ledgerE (0x00100000 + at_) bytes).1 else s
  { s with step := { s.step with votes := s.step.votes ++ [v] } }

/-- Votes of a message that count for the step in progress and are not among the parts named. -/
def State.newVotes (s : State) (m : VoteMsg) (known : List Nat) : List Vote :=
  m.votes.filter fun v => v.step == s.f F.stepEpochEpoch && s.stepMembers.contains v.part && !known.contains v.part

/-- The leader holds every member's vote. -/
def State.votesIn (s : State) : Bool := s.stepMembers.all fun p => s.step.votes.any fun w => w.part == p

/-- What the votes settle about a frozen step: a named copy is kept, or the step aborts; nothing where a unit has no such copy (R294). -/
def State.settle (s : State) (keep : Nat) (abort : Bool) : State × Bool :=
  let s := s.readVotes
  let copies := readyCopies s.step.votes
  if abort then (s.propose (s.makeDecision .abort [] []), true)
  else
    match keptUnits copies (copyDigest copies keep) with
    | some kept => (s.propose (s.makeDecision .resolved [] kept), true)
    | none => (s, false)

/-- The leader settles a FREEZE by policy: 1 keeps copy 0 and aborts where a unit has none, 2 aborts, others wait (R294; log entry 138). -/
def State.settleFreeze (s : State) : State :=
  if !s.leads || s.step.held.isSome || s.step.frozen.isNone || !s.votesIn then s
  else
    match s.f F.commitCtrlPairPolicy with
    | 1 =>
      (match s.settle 0 false with
        | (s, true) => s
        | (s, false) => s.decideAbort [])
    | 2 => s.decideAbort []
    | _ => s

/-- The leader decides as the votes that it holds allow. -/
def State.reconsider (s : State) : State :=
  if s.step.frozen.isSome then s.settleFreeze
  else if !s.mayDecide then s
  else if s.step.votes.any (·.abort) then s.decideAbort []
  else if s.votesIn then s.decideAll
  else s

/-- The leader stores the new votes of a message and adds its layer entries (R283, R315). -/
def State.takeVotes (s : State) (m : VoteMsg) : State :=
  let new := s.newVotes m (s.step.votes.map (·.part))
  if new.isEmpty then s
  else
    let s := new.foldl State.storeVote s
    { s with step := { s.step with hallLayers := sumLayers (s.step.hallLayers ++ m.layers) } }.reconsider

/-- A node of the gather tree holds the votes of a message that do not wait with it yet and sends them on, one that a part sends again too (R283, R384). -/
def State.gatherVotes (s : State) (m : VoteMsg) : State :=
  let new := s.newVotes m (s.step.gather.flatMap fun (g : VoteMsg) => g.votes.map (·.part))
  if new.isEmpty then s
  else { s with step := { s.step with gather := s.step.gather ++ [{ m with votes := new }] } }.pumpVotes

/-- VOTE_RECEIVE: votes reach the leader, where ABORT decides at once and the last vote decides by R284, or a node of the gather tree on their way to it. -/
def execVoteReceive (m : VoteMsg) (s : State) : Host.Outcome State Fault Refusal :=
  if s.leads then .next (s.takeVotes m)
  else if s.jobRuns && !s.inHove then .next (s.gatherVotes m)
  else .next s

/-- VOTE_LIMIT_EXPIRY: VOTE_LIMIT ticks after the deadline a missing vote aborts the step; deadlines are suspended while frozen (R284, R294). -/
def execVoteLimitExpiry (s : State) : Host.Outcome State Fault Refusal :=
  let missing := s.stepMembers.filter fun p => !(s.step.votes.any fun w => w.part == p)
  if s.mayDecide && !missing.isEmpty && decide (s.stepDue + s.f F.commitCtrlVoteLimit ≤ s.now) then .next (s.decideAbort missing) else .next s

/-- This part sends its vote again: it starts up the tree as a vote that no node has sent on yet. -/
def State.resendVote (s : State) (v : Vote × List Layer) : State :=
  { s with step := { s.step with
    gathered := []
    gather := (s.step.gather.filter fun (m : VoteMsg) => !(m.votes.any fun w => w.part == s.me)) ++ [VoteMsg.mk [v.1] v.2] } }.pumpVotes

/-- The final decision of a step that this part has recorded: the last one whole, an earlier one as its commit record gives it (R285, R291). -/
def State.decisionOf (s : State) (step : Nat) : Option Decision := (s.step.last.filter fun d => d.step == step).or (s.recordedDecision step)

/-- VOTE_REQUEST_RECEIVE: a leader asks again for this part's vote or for a decision it holds, or a part for the outcome of a step; the member learns who leads from a request of the step in progress (R283, R285, R291). -/
def execVoteRequestReceive (r : VoteRequest) (s : State) : Host.Outcome State Fault Refusal :=
  if s.inHove then .next s
  else
    let s := if s.stepRuns && r.step == s.f F.stepEpochEpoch && s.committee.contains r.part then s.fset F.stepStatusLeader r.part else s
    let s := s.emits ((s.decisionOf r.step).toList.map fun d => .decision r.part d)
    let s := s.emits ((s.step.held.filter fun d => d.step == r.step).toList.map fun d => .held r.part d)
    .next (match s.step.voted.filter fun v => v.1.step == r.step with
      | some v => s.resendVote v
      | none => s)

/-- DECISION_FINAL: a committee member has written the decision; the leader sends it to every member (R285). -/
def execDecisionFinal (part : Nat) (s : State) : Host.Outcome State Fault Refusal :=
  match s.step.held with
  | some d => if s.leads && part != s.me && s.committee.contains part then .next (s.sendDecision d) else .next s
  | none => .next s

/-- LEADER_TAKEOVER: the next committee member leads and asks every member for a decision of the step; it adopts one that a member or it itself holds, or gathers the votes again (R285). -/
def execLeaderTakeover (held : Option Decision) (s : State) : Host.Outcome State Fault Refusal :=
  let old := s.f F.stepStatusLeader
  let next := s.committee.find? fun p => decide (old < p)
  if !s.stepRuns || s.inHove || next != some s.me then .next s
  else
    let step := s.f F.stepEpochEpoch
    let s := (s.fset F.stepStatusLeader s.me).emits (s.stepMembers.map fun p => .askVotes p step)
    match (held.filter fun d => d.step == step).or s.step.held with
    | some d => .next (s.propose d)
    | none => .next { s with step := { s.step with votes := [], hallLayers := [] } }

/-! ### What a final decision does on this part -/

/-- Writes the commit record and the late set of decision n and counts it (R287, R302, R326). -/
def State.writeRecord (s : State) (d : Decision) : State :=
  let n := s.commitSeq
  let late := sortNat (s.step.late.getD [])
  let s := s.writeCommit d
  let s := (s.writeBytes .ledgerE (0x02000000 + 512 * (n % 4096)) (leBytes 2 late.length ++ late.flatMap fun p => leBytes 2 p)).1
  let s := s.setLed 8 8 (n + 1)
  let s := s.fset F.stepStatusLast d.outcome.code
  match d.outcome with
  | .commit | .resolved => s.fadd F.voteCountCommits
  | .skip => s.fadd F.voteCountSkips
  | .abort => s.fadd F.voteCountAborts
  | .freeze => s.fadd F.voteCountFreezes

/-- The loss scale after a decision (Table 9.2, R304). -/
def State.moveScale (s : State) (d : Decision) : State :=
  let exp := s.lsExp
  let clean := s.led 0x12 2
  let fixed := s.fb F.numCtrlLsFixed
  if !Outcome.ends d.outcome then s
  else if d.flags % 32 ≠ 0 then
    if fixed then s.setScale exp 0
    else if exp = -32 then ((s.setScale exp 0).fadd F.numLsFloorHits).raise 0x7101 747
    else s.setScale (exp - 1) 0
  else if d.outcome = .skip then s
  else if clean + 1 = s.f F.numCtrlGrow then
    if fixed then s.setScale exp 0
    else if exp = 32 then (s.setScale exp 0).fadd F.numLsCeilHits
    else s.setScale (exp + 1) 0
  else s.setScale exp (clean + 1)

/-- Miss counts: one more for each part that the decision names, 0 for the others; a step counts once, at its FREEZE where it has one (R324, R326). -/
def State.moveMisses (s : State) (d : Decision) : State :=
  if s.step.frozen.isSome then s else
  let old := s.listed 0x02200000 1 65536
  let s := (old.filter fun p => !d.misses.contains p).foldl (fun s p => s.setLed (0x02200000 + p) 1 0) s
  let s := d.misses.foldl (fun s p => s.setLed (0x02200000 + p) 1 (min (s.missCount p + 1) 255)) s
  let late := (s.step.late.getD []).contains s.me
  let s := if d.misses.contains s.me && !late then s.raise 0x7102 747 else s
  s.fset F.tempoStatusMisses (min (s.missCount s.me) 15)

/-- Becalmed runs and the alarm (R316, R317); each layer that reaches a multiple counts one (log entry 22). -/
def State.moveRuns (s : State) (d : Decision) : State :=
  let steps := s.f F.becalmCtrlSteps
  let hit := d.runs.filter fun r => s.becalmedRun r.1 != r.2 && decide (0 < r.2) && decide (0 < steps) && r.2 % steps == 0
  let s := d.runs.foldl (fun s r =>
    let s := s.setLed (0x400 + 4 * r.1) 4 r.2
    let w := s.led (0x80 + r.1 / 8) 1
    s.setLed (0x80 + r.1 / 8) 1 (if steps ≤ r.2 then setBit w (r.1 % 8) else clearBit w (r.1 % 8))) s
  let s := s.fset F.becalmStatusActive (if s.led 0x80 32 = 0 then 0 else 1)
  match sortNat (hit.map (·.1)) with
  | [] => s
  | l :: _ =>
    let s := (s.fadd F.becalmStatusAlarms hit.length).fset F.becalmStatusLayer l
    if s.fb F.becalmCtrlEn then s.raise 0x7100 747 else s

/-- Bytes of a layer entry (Table 9.6). -/
def layerBytes (l : Layer) : List Byte :=
  leBytes 8 l.localSq ++ leBytes 8 l.globalSq ++ leBytes 8 l.elems ++ leBytes 8 l.zeros ++ leBytes 4 l.lparts ++ leBytes 4 l.flags ++
    List.replicate 8 0

/-- The numerics record of Table 9.5, with the exponent after the decision and the window that the part's vote closed, or the open one where it has not voted. -/
def State.numRecord (s : State) (d : Decision) : List Byte :=
  let voted := s.step.voted.isSome
  let w := if voted then s.step.closed else s.step.window
  let widen := min (if voted then s.step.closedWiden else s.step.widens) 0xFFFFFFFF
  let layer (l : Nat) : Layer := (d.layers.find? fun x => x.layer == l).getD (emptyLayer l)
  leBytes 8 d.step ++ [BitVec.ofNat 8 d.outcome.code, BitVec.ofNat 8 d.flags, BitVec.ofNat 8 (s.led 0x11 1), 0] ++ leBytes 4 widen ++
    ((List.range 4).flatMap fun n => leBytes 8 (w.rounded.getD n 0) ++ leBytes 8 (w.ovf.getD n 0) ++ leBytes 8 (w.van.getD n 0)) ++
    leBytes 2 d.late ++ leBytes 2 d.dropped ++ List.replicate 140 0 ++ ((List.range 256).flatMap fun l => layerBytes (layer l)) ++
    List.replicate 3840 0

/-- Writes the numerics record of decision n into its ring (R312). -/
def State.writeNumerics (s : State) (d : Decision) (n : Nat) : State :=
  if s.fb F.numRingEn then
    (s.store false .sram (s.f F.numRingBase + n % 2 ^ s.f F.numRingSz * 16384) (s.numRecord d)).1
  else s

/-- Units take the state that decision n gives them (R290, R293, Table 8.4): NEW where the committed digest is theirs, and their rows are dirty from it on (R295), OLD otherwise; a FREEZE leaves them CLOSED. -/
def State.turnUnits (s : State) (d : Decision) (n : Nat) : State :=
  if d.outcome = .freeze then s
  else
    let commits := d.outcome == .commit || d.outcome == .resolved
    let kept (u : CUnit) : Option (BitVec 128) :=
      (d.kept.find? fun k => k.dense == u.dense && k.table == u.table && k.shard == u.shard).map (·.digest)
    let mine (u : CUnit) : Bool := u.step == d.step && (u.state == .opened || u.state == .closed)
    let new (u : CUnit) : Bool := commits && u.state == .closed && !u.failed && kept u == some u.digest
    let minor (u : CUnit) : Bool := commits && u.state == .closed && !u.failed && (kept u).isSome && kept u != some u.digest
    let turn (u : CUnit) : CUnit :=
      if new u then { u with state := .applyingNew, decided := n }
      else if minor u then { u with state := .applyingOld, minority := true, outOfService := true, committed := kept u, decided := n }
      else { u with state := .applyingOld, decided := n }
    let s := (s.units.filter fun u => mine u && new u).foldl (fun s u => s.markDirty u (s.unitRows u)) s
    let minors := (s.units.filter fun u => mine u && minor u)
    let s := { s with units := updateAll s.units mine turn }
    let s := s.fadd F.digestStatusMinority minors.length
    minors.foldl (fun s u => s.error 0x7001 sevCorrectable (unitDomain u)) s

/-- Units of this part whose digests the decision compared (Table 8.18). -/
def State.countCompared (s : State) (d : Decision) : State :=
  if d.outcome = .commit ∨ d.outcome = .freeze then
    s.fadd F.digestStatusCompared (match s.step.voted with | some v => if v.1.abort then 0 else v.1.units.length | none => 0)
  else s

/-- Stale sets after the decision: the set that entered this step is used up by its COMMIT, SKIP or RESOLVED and kept by an ABORT; the late parts' sets of an aborted run are void, since its re-run sends them again (R322, R323). -/
def State.settleStale (s : State) (d : Decision) : State :=
  let late (c : Nat × TreeNode) : Bool := (s.step.late.getD []).contains (s.holder c.2.pos)
  if d.outcome = .freeze then s
  else if Outcome.ends d.outcome then
    { s with staleLeaves := s.staleLeaves.filter fun x => x.1 == d.step
             collectives := s.collectives.filter fun c => decide (d.step < c.2.epoch) || (c.2.epoch == d.step && c.2.level == 0 && !c.2.gather && late c) }
  else
    { s with staleLeaves := s.staleLeaves.filter fun x => x.1 != d.step
             collectives := s.collectives.filter fun c => c.2.epoch != d.step }

/-- What the CME keeps of a step for the next run; a window that no vote has closed stays open (R306). -/
def State.freshStep (s : State) (d : Decision) (n : Nat) : StepRt :=
  let ends := Outcome.ends d.outcome
  let r := s.step
  { last := some d, applying := r.applying ++ [(n, d)]
    waiting := r.waiting
    widens := r.widens
    sentOwed := if ends && !r.sentDone then some d.step else r.sentOwed.filter fun _ => !ends
    edgeUnits := r.edgeUnits
    edgeCommitted := r.edgeCommitted
    sentPrev := if ends then r.sent.filter fun p => (r.late.getD []).contains p else r.sentPrev
    lateBefore := if ends then r.late.getD [] else if r.late.isSome then r.lateBefore.filter fun p => r.stale.contains p else r.lateBefore
    window := r.window
    layers := r.layers
    phaseTo := r.phaseTo
    segSet := r.segSet
    starts := r.starts
    postponed := r.postponed.filter fun c => !d.hall.contains c
    committed := if d.outcome = .commit ∨ d.outcome = .resolved then d.step else r.committed
    shipped := r.shipped }

/-- The ward area of a shard's keeper peer has room for more records above the checkpoint epoch. A ward holds the records of that one shard, so the sender knows what its peer holds (R385; log entry 26). -/
def State.wardRoom (s : State) (shard n : Nat) : Bool :=
  decide (((s.ships.filter fun r => r.1 == shard && decide (s.f F.hallCkptEpoch < r.2.1)).map (·.2.2)).sum + n ≤ s.f F.shipAreaSize * 0x40000000)

/-- Logical shard of the copy of a unit that this part holds (R219, R272). -/
def State.unitShard (s : State) (k : Bool × Nat × Nat) : Option Nat :=
  if k.1 then ((Config.denseShard s.boot.job k.2.1 k.2.2).1.find? fun h => s.holder h == s.me)
  else
    let d := s.dir k.2.1
    ((List.range (d.repl + 1)).map fun c => k.2.2 + c * d.shards).find? fun h => s.holder h == s.me

/-- Exports of units that this part holds, dirty since the last shipped epoch; none where a word cannot be read. A unit with no dirty row has no record. -/
def State.shipBytes (s : State) : List (Bool × Nat × Nat) → State × Option (List Byte × List Span)
  | [] => (s, some ([], []))
  | k :: ks =>
    let (s, a) := s.exportBytes k.1 true k.2.1 k.2.2 s.step.shipped s.step.committed
    let (s, b) := s.shipBytes ks
    (s, match a, b with | some a, some b => some (a.1 ++ b.1, a.2 ++ b.2) | _, _ => none)

/-- The rows of one own logical shard go to its keeper peer; a full ward area, a word that cannot be read or a flow that is not OPEN fails the ship, as the Boolean tells (R385; log entry 26). -/
def State.shipShard (s : State) (d : Decision) (shard : Nat) : State × Bool :=
  let peer := s.holder ((shard + s.f F.shipCtrlKeepOffset) % max 1 (Config.jobLayout s.boot.job).1)
  let (s, l) := s.shipBytes (((s.dirty.map (·.1)).dedup).filter fun k => s.unitShard k == some shard)
  match l, s.flowTo peer with
  | some l, some f =>
    if s.wardRoom shard l.1.length then
      let s := ((s.sendFrom f l.2).emit (.exported f l.1)).fadd F.shipStatusShips
      ({ s with ships := s.ships ++ [(shard, d.step, l.1.length)] }, true)
    else ((s.fadd F.shipStatusFull).raise 0x7301 748, false)
  | _, _ => ((s.fadd F.shipStatusFull).raise 0x7301 748, false)

/-- The ships of a list of shards; the Boolean tells that none failed. -/
def State.shipShards (s : State) (d : Decision) : List Nat → State × Bool
  | [] => (s, true)
  | k :: ks =>
    let (s, a) := s.shipShard d k
    let (s, b) := s.shipShards d ks
    (s, a && b)

/-- SHIP: at each decision of a step E with E mod 2^LOG_INTERVAL = 2^LOG_INTERVAL − 1 a JOB member sends the dirty rows of each shard that it holds to that shard's keeper peer; a ship that fails leaves the last shipped epoch (R385; log entry 26). -/
def State.ship (s : State) (d : Decision) : State :=
  let interval := 2 ^ s.f F.shipCtrlLogInterval
  if !Outcome.ends d.outcome || s.f F.shipCtrlKeepOffset == 0 || s.memberRole s.me != roleJob || d.step % interval != interval - 1 then s
  else
    let (s, ok) := s.shipShards d s.shards
    if ok then { s with step := { s.step with shipped := d.step } }.fset F.shipStatusLast (d.step % 2 ^ 32) else s

/-- A PROMOTE waits that can start between this step and the next, and delays this part's next start (R466). -/
def State.promoteDue (s : State) : Bool :=
  (s.boot.live.any fun l => l.op == 7 && !l.running) && !s.fb F.recovJBusy 0 && !s.fb F.recovJBusy 1 && s.f F.hoveStatusCauses == 0

/-- The next run of the step starts at the decision's tick, except in generation phase, after the job's stop, or while a promotion of a spare part or of a spare core defers it (R297, R319, R387, R466). -/
def State.nextStep (s : State) (d : Decision) : State :=
  let gen := match s.step.phaseTo with | some p => p.1 | none => false
  if !s.jobRuns then s.fset F.stepStatusState 0
  else if gen || s.promoting || s.promoteDue then ((s.setLed 0x20 8 d.tick).setLed 0x28 4 d.deadline).fset F.stepStatusState 5
  else s.beginStep d.tick d.deadline

/-- A part that the decision declares lost leaves the job (R439, R454). -/
def State.loseSelf (s : State) (d : Decision) : State :=
  if d.lost.any fun l => l.1 == s.me then s.leaveJob.showPart else s

/-- The hall-wide commands of a decision: changes of the table directory take effect at the next tick edge, ahead of its engine events (R229), the others with it. -/
def State.decideHalls (s : State) (l : List HallCmd) : State :=
  let flips := (l.filter fun c => hallRank c == 1).map fun c => (c, s.now + 1)
  { s with hallPending := s.hallPending ++ flips }.applyHalls (l.filter fun c => hallRank c != 1)

/-- The copies of a table's shard at other members that are not in promotion, from which a spare has its rows (Table 11.5). -/
def State.readyCopies (s : State) (holders : List Nat) : List Nat :=
  (holders.filter fun p => p != s.me && s.isMember p && s.memberFlags p / 2 % 2 == 0).dedup

/-- The units that a logical shard holds: each with the parts that hold its copies (R219, R272). -/
def State.unitsOf (s : State) (k : Nat) : List (VoteUnit × List Nat) :=
  let tables := s.listedTables.filterMap fun t =>
    let d := s.dir t
    if d.shard0 ≤ k ∧ k < d.shard0 + d.shards * (d.repl + 1) then
      let i := (k - d.shard0) % d.shards
      some (⟨t, d.shard0 + i, false, (k - d.shard0) / d.shards, 0, 0⟩, (List.range (d.repl + 1)).map fun c => s.copyHolder d i c)
    else none
  tables ++ (Config.denseUnits s.boot.job k).map fun u =>
    (⟨u.1, u.2, true, 0, 0, 0⟩, (Config.denseShard s.boot.job u.1 u.2).1.map s.holder)

/-- An RREAD to a part leaves on an OPEN flow to it. -/
def State.readFrom (s : State) (p addr n : Nat) : State :=
  match s.flowTo p with
  | some f =>
    let r : RemoteReq := ⟨s.me, f, BitVec.ofNat 64 (p * 2 ^ 48 + addr % 2 ^ 48), .read n⟩
    (s.emit (.remote f r)).sendMessage f (Config.requestBytes r)
  | none => s

/-- The checkpoint stream that the job image names is asked for by a PULL on an OPEN flow to its feeder (R387). -/
def State.pullCheckpoint (s : State) : State :=
  let (feeder, stream) := Config.ckptStream s.boot.job
  match (s.flowsWith feeder true).find? fun f => s.flowState f == flowOpen with
  | some f => (s.sendMessage f (Config.pullBytes stream 0)).emit (.pullRequest f stream 0)
  | none => s

/-- A spare asks for what a logical shard held: the rows of units with a READY copy from that copy's part, and for the others the checkpoint and the ward of the shard's keeper peer (Table 11.5). -/
def State.askShard (s : State) (e : Nat) (k : Nat) : State :=
  let off := s.f F.shipCtrlKeepOffset
  let s := (s.unitsOf k).foldl (fun s u =>
    match (s.readyCopies u.2).head? with
    | some p => s.emit (.fetchRows p (e - 1) u.1)
    | none => s) s
  if (s.unitsOf k).all fun u => !(s.readyCopies u.2).isEmpty then s
  else
    let s := s.pullCheckpoint
    if off = 0 then s else s.readFrom (s.holder ((k + off) % max 1 (Config.jobLayout s.boot.job).1)) (s.f F.shipAreaBase) (s.f F.shipAreaSize * 0x40000000)

/-- The losses that a decision declares take effect before the next run of its step, the sessions with the parts end, and the spare that is named here asks for its shards (R386, R387). -/
def State.declareLosses (s : State) (d : Decision) : State :=
  let e := if Outcome.ends d.outcome then d.step + 1 else d.step
  let s := d.lost.foldl (State.declareLost e) s
  let s := ((d.lost.map (·.1)).foldl State.endSessions s)
  let s := if d.lost.isEmpty then s else s.seedBeats
  if s.jobRuns && d.lost.any (fun l => l.2 == some s.me) then (s.shardsOf s.me).foldl (State.askShard · e) s else s

/-- A final decision is recorded and starts to apply (R285 to R288, R290, R301 to R308, R312, R317, R319, R371). -/
def State.recordDecision (s : State) (d : Decision) : State :=
  let n := s.commitSeq
  let s := (s.countCompared d).writeRecord d
  let s := if d.outcome = .skip then s.raise 0x2010 747 else s
  let s := (s.setLed 0x14 1 d.flags).moveScale d
  let s := (s.moveMisses d).moveRuns d
  let s := s.writeNumerics d n
  let s := s.turnUnits d n
  if d.outcome = .freeze then
    { s with step := { s.step with frozen := some (d, s.now), last := some d, held := none } }.fset F.stepStatusState 4
  else
    let s := if Outcome.ends d.outcome then
        (pushHistory s.history (d.tick - s.stepStart)).zipIdx.foldl (fun s h => s.setLed (0x30 + 4 * h.2) 4 h.1) s
      else s
    let s := if Outcome.ends d.outcome then s.setEpoch (d.step + 1) else s
    let s := s.settleStale d
    let s := { s with step := s.freshStep d n }
    let s := s.declareLosses d
    let s := s.decideHalls d.hall
    ((s.ship d).loseSelf d).nextStep d

/-- The step that the next decision is of, and whether it is frozen: those that wait for a Ledger copy count as recorded (R286). -/
def State.nextDecided (s : State) : Nat × Bool :=
  match s.step.waiting.getLast? with
  | some d => (if Outcome.ends d.outcome then d.step + 1 else d.step, d.outcome == .freeze)
  | none => (s.f F.stepEpochEpoch, s.step.frozen.isSome)

/-- The decision is one this part acts on: of its step, or of a later one where it fetches the step header after Hove-to (Table 13.8); a second FREEZE of the step is not. -/
def State.awaits (s : State) (d : Decision) : Bool :=
  let (step, frozen) := s.nextDecided
  s.jobRuns && (d.step == step || s.step.resync && decide (step ≤ d.step)) && !(frozen && d.outcome == .freeze)

/-- A decision that this part takes: recorded, or held behind those that wait while a Ledger copy is rebuilt (R286). -/
def State.takeDecision (s : State) (d : Decision) : State :=
  if s.ledgerBusy then { s with step := { s.step with waiting := s.step.waiting ++ [d] } }
  else
    let s := if s.step.resync && d.step != s.f F.stepEpochEpoch then s.setEpoch d.step else s
    let s := s.recordDecision d
    if d.outcome = .freeze then s.settleFreeze else s

/-- A member with no job takes from a decision the changes of the hall areas alone (R285, R367, R371). -/
def State.hearDecision (s : State) (d : Decision) : State :=
  let s := { s with step := { s.step with postponed := s.step.postponed.filter fun c => !d.hall.contains c } }
  ((s.declareLosses d).decideHalls d.hall).showPart

/-- A decision that is not final reaches this part: a committee member writes it and tells the leader, again where the leader that took over proposes it anew; a leader that took over adopts it (R285); one that aborts a step which waits for a promotion is heard too (R387). -/
def State.hearProposal (s : State) (d : Decision) : State :=
  if s.jobRuns && !s.generation && (s.stepRuns || s.promoting) && s.committee.contains s.me && s.step.held.all (fun h => h.step == d.step) && d.step == s.f F.stepEpochEpoch then
    { s with step := { s.step with held := some d } }.writeHeld
  else s

/-- DECISION_RECEIVE: a decision reaches this part; a final one is passed down the tree, recorded and applied, and none is applied in Hove-to (R285, R384, R435). -/
def execDecisionReceive (m : DecisionMsg) (s : State) : Host.Outcome State Fault Refusal :=
  if s.inHove then .next s
  else if !m.final then .next (s.hearProposal m.decision)
  else if !s.jobRuns then .next (if s.isMember s.me && m.decision.outcome != .freeze then s.hearDecision m.decision else s)
  else if s.generation || !s.awaits m.decision then .next s
  else .next ((if s.leads && m.decision.leader == s.me then s else s.passDecision m.decision).takeDecision m.decision)

/-! ### The end of the apply (R290, R305) -/

/-- U16w code of 2^k for −32 ≤ k ≤ 32 (R305). -/
def powerCode (k : Int) : Nat := (k + 63).toNat * 0x100

/-- The mirror of Table 9.3. -/
def State.mirrorBytes (s : State) (d : Decision) : List Byte :=
  let exp := s.lsExp
  leBytes 8 (s.f F.stepEpochEpoch) ++ leBytes 8 s.stepStart ++ leBytes 8 (s.stepStart + s.stepLength) ++
    [BitVec.ofNat 8 (byteOfInt exp), BitVec.ofNat 8 d.flags] ++ leBytes 2 (powerCode exp) ++ leBytes 2 (powerCode (-exp)) ++
    [BitVec.ofNat 8 d.outcome.code, 0] ++ leBytes 8 s.commitSeq ++ List.replicate 24 0

/-- Writes the mirror and adds 1 to its flag on every compute die (R305). -/
def State.writeMirror (s : State) (d : Decision) : State :=
  if s.fb F.numMirrorEn then
    let s := (s.store false .sram (s.f F.numMirrorBase) (s.mirrorBytes d)).1
    (List.range 8).foldl (fun s die => s.flagAdd die (s.f F.numMirrorFlag) 1) s
  else s

/-- One unit's apply: RETIRED, or for a minority copy back at its old values and out of service until it is refetched, for which it asks the other copies' holders (R290, R293). -/
def State.applyUnit (s : State) (u : CUnit) : State :=
  if u.minority then
    let s := (s.putHalves false u).settleLines false u.slot
    { s with units := updateAll s.units (fun v => v == u) fun v => { v with recs := [], asked := true } }.askRows u
  else s.retire (u.state == .applyingNew) u

/-- UNIT_APPLY_DONE: every granule of the units of the oldest decision being applied is in place; gradient maps are cleared, the journal is freed, the mirror is written and its flag added (R290, R305). -/
def execUnitApplyDone (s : State) : Host.Outcome State Fault Refusal :=
  match s.step.applying with
  | [] => .next s
  | (n, d) :: rest =>
    if s.inHove then .next s
    else
      let due := s.units.filter fun u => u.decided == n && (u.state == .applyingNew || u.state == .applyingOld) && !u.asked
      let s := (due.foldl State.applyUnit s).freeJournal
      let s := s.listedTables.foldl State.clearGmap s
      let s := { s with step := { s.step with applying := rest } }
      let s := if s.f F.stepStatusState = 5 ∧ rest = [] then s.fset F.stepStatusState (if !s.jobRuns || !s.step.begun then 0 else if s.step.voted.isSome then 2 else 1) else s
      .next (s.writeMirror d)

/-! ### FREEZE and RESOLVE (R294) -/

/-- RESOLVE: keeps a named copy or aborts the frozen step; a part that does not lead passes it to the leader, which waits for the votes where it took over (log entry 27). -/
def State.resolveEntry (s : State) (x : Exec) : State :=
  let keep := bitsOf x.entry 191 190
  let abort := bitOf x.entry 189
  if !zeroBits x.entry [(188, 0)] || s.step.frozen.isNone then s.finish x.id .aborted
  else if !s.leads then (s.emit (.resolve (s.f F.stepStatusLeader) (s.f F.stepEpochEpoch) keep abort)).finish x.id .ok
  else if s.step.held.isSome then s.finish x.id .aborted
  else if !s.votesIn then s
  else
    match s.settle keep abort with
    | (s, true) => s.finish x.id .ok
    | (s, false) => s.finish x.id .aborted

/-- The RESOLVE of another member reaches the leader (R294; log entry 27). -/
def State.resolveRemote (s : State) (part step keep : Nat) (abort : Bool) : State :=
  if s.leads && s.stepMembers.contains part && s.step.frozen.isSome && s.step.held.isNone && step == s.f F.stepEpochEpoch && s.votesIn then
    (s.settle keep abort).1
  else s

/-- RESOLVE of the queue's entry in execution, or of another member. -/
def execResolve (by_ : Resolver) (s : State) : Host.Outcome State Fault Refusal :=
  match by_ with
  | .entry q =>
    match s.running q [0x83] with
    | some x => .next (s.resolveEntry x)
    | none => .next s
  | .member part step keep abort => .next (s.resolveRemote part step keep abort)

/-- FREEZE_LIMIT_EXPIRY: FREEZE_LIMIT seconds of a HOLD abort the step (R294). -/
def execFreezeLimitExpiry (s : State) : Host.Outcome State Fault Refusal :=
  match s.step.frozen with
  | some (_, since) =>
    if s.leads && s.step.held.isNone && s.f F.commitCtrlPairPolicy == 0 && decide (since + s.f F.commitCtrlFreezeLimit * 1000000 ≤ s.now) then
      .next (s.decideAbort [])
    else .next s
  | none => .next s

/-! ### PHASE (R297, R298) -/

/-- PHASE: asks the hall to switch phase; the phase in force or an absent segment set completes ABORTED. -/
def execPhase (q : Nat) (s : State) : Host.Outcome State Fault Refusal :=
  match s.running q [0x89] with
  | some x =>
    let gen := bitOf x.entry 191
    let seg := bitsOf x.entry 190 183
    if !zeroBits x.entry [(182, 0)] || !s.jobRuns || gen == s.generation || !Config.hasSegment s.boot.job seg then .next (s.finish x.id .aborted)
    else .next (s.asking x (.phase gen seg))
  | none => .next s

/-- PHASE_SWITCH: not in Hove-to (R436), the loader stops the core queues, loads the phase's Score and gives GO (Table 8.9); learning resumes with a step that starts now (R298). -/
def execPhaseSwitch (s : State) : Host.Outcome State Fault Refusal :=
  match s.step.phaseTo.filter fun _ => !s.inHove with
  | none => .next s
  | some (gen, seg) =>
    let s := s.stopCores
    let (s, st) := s.loadSegments (s.segmentSet seg)
    let s := { s with step := { s.step with phaseTo := none, segSet := seg } }
    let s := (s.goCores).fset F.stepStatusGen (if gen then 1 else 0)
    let s := if gen then s.fset F.stepStatusState 0 else s.beginStep s.now s.stepLength
    let s := if st = .ok ∨ gen then s else s.abortVote
    .next (s.finishPhase gen seg .ok)

end Sys2Proof.Machine
end

