-- ==== Sys2Proof/Machine/Tempo.lean ====
section
/-! DEFINITION. Tempo (R319 to R325, R528): SENT markers, the late set, and the close of a reduction that leaves late parts out and takes stale sets in. -/

namespace Sys2Proof.Machine

/-- TEMPO_CTRL.MODE is WAIT (R325). -/
def State.waitMode (s : State) : Bool := s.fb F.tempoCtrlMode

/-! ### SENT markers and the late set -/

/-- A contribution that this part has yet to send: of a SCATTER that executes, or of a REDSCAT with leaves to send; with `before`, one of the steps before the one in progress alone. -/
def State.contributes (s : State) (before : Bool) : Bool :=
  s.execs.any fun x => (opcodeOf x.entry == 0x51 || (opcodeOf x.entry == 0x68 && x.stage == 0)) && x.result.isNone &&
    (!before || decide (x.start < s.stepStart))

/-- SENT_MARKER_SEND: every contribution of this part to the step has been acknowledged, so its SENT goes to the leader once (R320); a part that recorded the decision of a step before sends the SENT that it owes for it first (R323). None goes in Hove-to, or while the part has contributions to send: once those are sent, the command tells that they are acknowledged. -/
def execSentMarkerSend (s : State) : Host.Outcome State Fault Refusal :=
  if !s.jobRuns || s.generation || !s.stepRuns || s.inHove then .next s
  else
    match s.step.sentOwed.filter fun _ => !s.contributes true with
    | some e => .next ({ s with step := { s.step with sentOwed := none } }.emit (.sent (s.f F.stepStatusLeader) e))
    | none =>
    if s.step.sentDone || s.contributes false then .next s
    else
    .next ({ s with step := { s.step with sentDone := true } }.emit (.sent (s.f F.stepStatusLeader) (s.f F.stepEpochEpoch)))

/-- Late parts of the step before whose SENT came in time: their stale sets enter this step (R323). -/
def State.staleParts (s : State) : List Nat := sortNat (s.step.lateBefore.filter fun p => s.step.sentPrev.contains p)

/-- The leader fixes the late set and sends it to every member, itself included (R320). -/
def State.fixLate (s : State) (late : List Nat) : State :=
  { s with step := { s.step with fixed := some (late, s.staleParts) } }.emit (.lateSet (s.f F.stepEpochEpoch) late s.staleParts)

/-- Every member of the step has sent SENT. -/
def State.allMarked (s : State) : Bool := s.stepMembers.all fun p => s.step.sent.contains p

/-- A SENT of the step in progress: the last one before the deadline fixes the empty late set in its tick (R528); in WAIT mode the last one after it tells the homes that every contribution is in (R325). -/
def State.markSent (s : State) (part : Nat) : State :=
  let s := { s with step := { s.step with sent := s.step.sent ++ [part] } }
  if !s.allMarked then s
  else
    match s.step.fixed with
    | none => if s.now < s.stepDue then s.fixLate [] else s
    | some _ => if s.waitMode then s.emit (.lateSet (s.f F.stepEpochEpoch) [] []) else s

/-- SENT_RECEIVE: the leader takes a marker of the step in progress, or one of the step before that a late part sends (R320, R323). -/
def execSentReceive (part step : Nat) (s : State) : Host.Outcome State Fault Refusal :=
  if !s.leads || s.generation || !s.stepMembers.contains part then .next s
  else if step = s.f F.stepEpochEpoch then
    .next (if s.step.sent.contains part then s else s.markSent part)
  else if step + 1 = s.f F.stepEpochEpoch ∧ s.step.fixed.isNone ∧ s.step.lateBefore.contains part then
    .next { s with step := { s.step with sentPrev := sortNat (part :: s.step.sentPrev) } }
  else .next s

/-- TEMPO_DEADLINE: from the deadline a node of the gather tree holds no vote back (R384; log entry 118), and at it the leader fixes the late set; one that is too large extends the deadline once, then aborts the step (R320, R321); deadlines are suspended while the step is frozen (R319). -/
def execTempoDeadline (s : State) : Host.Outcome State Fault Refusal :=
  if s.generation || s.step.frozen.isSome || decide (s.now < s.stepDue) then .next s
  else if !s.leads || s.step.fixed.isSome then .next (if s.jobRuns && !s.inHove then s.pumpVotes else s)
  else
    let late := s.stepMembers.filter fun p => !s.step.sent.contains p
    if late.length ≤ s.f F.tempoCtrlLateMax then .next (s.fixLate late)
    else if !s.step.extended then
      .next ({ s with step := { s.step with extended := true } }.fadd F.tempoCountExtended)
    else if s.mayDecide then .next (s.decideAbort [])
    else .next s

/-- A home takes the late set and the stale parts of the step (R320, R323): stale sets of the step before that are not listed are dropped, and a part named late or dropped counts it. -/
def State.takeLateSet (s : State) (late stale : List Nat) : State :=
  let before := s.f F.stepEpochEpoch - 1
  let s := { s with
    step := { s.step with late := some late, stale, allSent := late.isEmpty }
    staleLeaves := s.staleLeaves.filter fun x => x.1 != before || stale.contains x.2.part
    collectives := s.collectives.filter fun c => c.2.epoch != before || stale.contains (s.holder c.2.pos) }
  let s := s.fset F.tempoStatusLate (min late.length 255)
  let s := if s.step.lateBefore.contains s.me && !stale.contains s.me then s.fadd F.tempoCountDropped else s
  if late.contains s.me then (s.fadd F.tempoCountLate).raise 0x7102 747 else s

/-- LATE_SET_RECEIVE: the late set of the step reaches this part; in WAIT mode an empty one that follows says that every contribution is in. -/
def execLateSetReceive (step : Nat) (late stale : List Nat) (s : State) : Host.Outcome State Fault Refusal :=
  if !s.jobRuns || s.generation || !s.stepRuns || step != s.f F.stepEpochEpoch then .next s
  else if s.step.late.isNone then .next (s.takeLateSet late stale)
  else if late.isEmpty && s.waitMode then .next { s with step := { s.step with allSent := true } }
  else .next s

/-! ### Closing a reduction (R199, R320, R322) -/

/-- The group holds contributions to the step in progress. -/
def State.ofStep (s : State) (g : Group) : Bool :=
  s.keepsSources && s.stepRuns && decide (g.id < 64) && (!g.sources.isEmpty || (g.nodes.isEmpty && g.spilled.isEmpty))

/-- A reduction of the step may close: the late set is held, and in WAIT mode every contribution is in (R320, R325). -/
def State.mayClose (s : State) : Bool := s.step.late.isSome && (!s.waitMode || s.step.allSent)

/-- The node that a leaf makes in its group. -/
def leafNode (g : Group) (l : Leaf × Nat) : Node := ⟨g.id, l.2, l.1.row, l.1.level, l.1.pos, l.1.vals, 0⟩

/-- The group without the late parts' leaves: its nodes formed again from the others, their roundings not counted again. -/
def State.regroup (s : State) (g : Group) (late : List Nat) : Group :=
  let kept := g.sources.filter fun x => !late.contains x.1.part
  kept.foldl (fun g x => (s.enterNode (hbmDie x.2) 33 g (leafNode g x)).2) { g with nodes := [], spilled := [], sources := kept }

/-- Late leaves leave the group and join their parts' stale sets (R320). -/
def State.dropLate (s : State) (g : Group) : State :=
  let late := s.step.late.getD []
  let out := g.sources.filter fun x => late.contains x.1.part
  if out.isEmpty then s
  else
    let epoch := s.f F.stepEpochEpoch
    let s := s.setGroup (s.regroup g late)
    { s with staleLeaves := s.staleLeaves ++ out.map fun x => (epoch, x.1) }

/-- Stale leaves of the step before that enter the group (R322). -/
def State.staleFor (s : State) (g : Group) : List Leaf :=
  let before := s.f F.stepEpochEpoch - 1
  (s.staleLeaves.filter fun l =>
    l.1 == before && l.1 != s.f F.stepEpochEpoch && s.step.stale.contains l.2.part && l.2.gid == g.id).map (·.2)

/-- Before a group of the step closes in STALE mode, late leaves leave it (R320), and stale ones send their atomics, which the next tick edge takes in its order (R31, R322); the Boolean tells that some were sent. -/
def State.settleGroup (s : State) (x : Exec) (g : Group) : State × Bool :=
  if s.ofStep g && !s.waitMode then
    let s := s.dropLate g
    let l := if x.stage = 0 then s.staleFor g else []
    if l.isEmpty then (s, false)
    else ({ s with arrivals := s.arrivals ++ l.map fun l => Arrival.stale g.id l
                   execs := updateAll s.execs (fun y => y.id == x.id) fun y => { y with stage := 1 } }, true)
  else (s, false)

/-- Stale leaves on their way into a group wait for the tick edge. -/
def State.staleWaits (s : State) (gid : Nat) : Bool := s.arrivals.any fun a => match a with | .stale g _ => g == gid | _ => false

/-- GCLOSE: closes a group, or waits for the late set and the stale leaves where it holds contributions to the step; `mismatch` names a die whose SUC mismatched during stage 1 (R199, R203, R320). -/
def State.gclose (s : State) (x : Exec) (mismatch : Option Nat) : State :=
  let id := bitsOf x.entry 191 186
  if !zeroBits x.entry [(185, 0)] then s.finish x.id .aborted
  else
    match s.groups.find? fun g => g.id == id with
    | none => s.finish x.id .aborted
    | some g =>
      if (s.ofStep g && !s.mayClose) || s.staleWaits id then s
      else
        let (s, sent) := s.settleGroup x g
        if sent then s
        else
        let g := (s.groups.find? fun g => g.id == id).getD g
        let (s, ok) := s.closeGroupRows g mismatch
        s.finish x.id (if ok then .ok else .aborted)

/-- GCLOSE of the queue's entry in execution. -/
def execGclose (q : Nat) (mismatch : Option Nat) (s : State) : Host.Outcome State Fault Refusal :=
  match s.running q [0x55] with
  | some x => .next (s.gclose x mismatch)
  | none => .next s

end Sys2Proof.Machine
end

