-- ==== Sys2Proof/Machine/Fabric.lean ====
section
/-! DEFINITION. Operations of the FXE (R343, R357, R358, R369, R373 to R383): remote reads, writes and atomics, collectives, intake, and the opening and closing of flows. -/

namespace Sys2Proof.Machine

/-! ### Common parts -/

/-- I/O die of an FXE queue (R373). -/
def fxeDie (q : Nat) : Nat := match qClass q with | some (.fxe n) => n / 32 | _ => 0

/-- The oldest entry of a queue in execution with one opcode and one of the codes in its OP field. -/
def State.runningOp (s : State) (q op : Nat) (codes : List Nat) : Option Exec :=
  s.execs.find? fun x => x.q == q && opcodeOf x.entry == op && codes.contains (bitsOf x.entry 191 190) && x.result.isNone

/-- Marks an entry as having sent its requests. -/
def State.staged (s : State) (x : Exec) (n : Nat) : State :=
  { s with execs := updateAll s.execs (fun y => y.id == x.id) fun y => { y with stage := n } }

/-- A remote operation ends OK (Table 11.8). -/
def State.remoteOk (s : State) (q : Nat) (x : Exec) : State := (s.fadd F.fxeStatusOps 1 (fxeDie q)).finish x.id .ok

/-- A remote operation ends ABORTED. -/
def State.remoteBad (s : State) (q : Nat) (x : Exec) : State := (s.fadd F.fxeStatusAborted 1 (fxeDie q)).finish x.id .aborted

/-- A remote operation that its home answered with STATUS HOVE_TO. -/
def State.remoteHove (s : State) (q : Nat) (x : Exec) : State := (s.fadd F.fxeStatusHoveTo 1 (fxeDie q)).remoteBad q x

/-- The flow of an entry is OPEN, of the queue's die, and leads to a part (R373, R375). -/
def State.flowOk (s : State) (q f : Nat) : Bool :=
  flowDie f == fxeDie q && s.flowState f == flowOpen && !s.fb F.flowFStatusFeeder f

/-- A remote address that names the flow's peer and a current member, in an access that this part need not refuse (R40, R375, R378). -/
def State.peerOk (s : State) (f a n : Nat) (write : Bool) : Bool :=
  addrPart a == s.f F.flowFStatusPeer f && s.place a == .remote (addrPart a) && reachOk a n write

/-- Length and addresses that RREAD and RWRITE accept (R375). -/
def moveOk (a b n : Nat) : Bool := a % 64 == 0 && b % 64 == 0 && n % 64 == 0 && decide (64 ≤ n ∧ n ≤ 0x1000000)

/-- Sends a message of a collective to a member, where an I/O die has a flow for it (R373, R379). -/
def State.sendTo (s : State) (die p : Nat) (l : List Span) : State :=
  match s.collectiveTo die p with
  | some f => s.sendFrom f l
  | none => s

/-! ### RREAD, RWRITE, RATOMIC (R375 to R378, Table 11.4) -/

/-- A request leaves for its home (R375); a write's data follow from their source, which a retransmission reads again (R344). -/
def State.ask (s : State) (f : Nat) (r : RemoteReq) (data : List Span := []) : State :=
  let head : RemoteReq := match r.kind with | .write _ note => { r with kind := .write [] note } | _ => r
  (s.sendFrom f (.bytes (Config.requestBytes head) :: data)).emit (.remote f r)

/-- A request that its home did not perform: a home in Hove-to counts, and an address that the home refused leaves its record here (R40, R378). -/
def State.remoteEnd (s : State) (q : Nat) (x : Exec) (a : Nat) : RemoteReply → State
  | .hoveTo => s.remoteHove q x
  | .refused => (s.addressFault a).remoteBad q x
  | _ => s.remoteBad q x

/-- RREAD. -/
def State.rreadEntry (s : State) (q : Nat) (x : Exec) (reply : RemoteReply) : State :=
  let e := x.entry
  let f := bitsOf e 191 180
  let src := x.param (bitsOf e 179 174)
  let dst := x.param (bitsOf e 173 168)
  let n := x.param (bitsOf e 167 162)
  if !zeroBits e [(161, 0)] || !s.flowOk q f || !moveOk src dst n then s.remoteBad q x
  else if !s.peerOk f src n false then (s.refuse40 src n false).remoteBad q x
  else if (s.localRun dst n).isNone then (s.refuse40 dst n true).remoteBad q x
  else
    let s := s.ask f ⟨s.me, f, BitVec.ofNat 64 src, .read n⟩
    match reply with
    | .ok data =>
      if data.length = n then
        let (s, ok) := s.storeAt ⟨0xFF, [.sram, .hbm], false⟩ dst data
        if ok then s.remoteOk q x else (s.undefineRun dst n).remoteBad q x
      else (s.undefineRun dst n).remoteBad q x
    | .failed => (s.undefineRun dst n).remoteBad q x
    | r => s.remoteEnd q x src r

/-- RREAD of the queue's entry in execution; `reply` is what came back from the home. -/
def execRread (q : Nat) (reply : RemoteReply) (s : State) : Host.Outcome State Fault Refusal :=
  match s.running q [0x60] with
  | some x => .next (s.asSeen x fun s => s.rreadEntry q x reply)
  | none => .next s

/-- RWRITE; its source is read as this part's other readers see it. -/
def State.rwriteEntry (s : State) (q : Nat) (x : Exec) (reply : RemoteReply) : State :=
  let e := x.entry
  let f := bitsOf e 191 180
  let src := x.param (bitsOf e 179 174)
  let dst := x.param (bitsOf e 173 168)
  let n := x.param (bitsOf e 167 162)
  let note := if bitOf e 161 then some (bitsOf e 154 152, bitsOf e 151 140, bitsOf e 139 138 + 1, bitsOf e 160 155) else none
  if !zeroBits e [(137, 0)] || !s.flowOk q f || !moveOk src dst n then s.remoteBad q x
  else if !s.peerOk f dst n true then (s.refuse40 dst n true).remoteBad q x
  else if (s.localRun src n).isNone then (s.refuse40 src n false).remoteBad q x
  else
    let (s, l) := s.loadAt ⟨0xFF, [.sram, .hbm], false⟩ src n
    match l with
    | none => s.remoteBad q x
    | some l =>
      let s := s.ask f ⟨s.me, f, BitVec.ofNat 64 dst, .write l note⟩ [.place src n]
      match reply with
      | .ok _ => s.remoteOk q x
      | r => s.remoteEnd q x dst r

/-- RWRITE of the queue's entry in execution. -/
def execRwrite (q : Nat) (reply : RemoteReply) (s : State) : Host.Outcome State Fault Refusal :=
  match s.running q [0x61] with
  | some x => .next (s.asSeen x fun s => s.rwriteEntry q x reply)
  | none => .next s

/-- RATOMIC; the old value goes to SRAM space as ATOMIC's does (R256). -/
def State.ratomicEntry (s : State) (q : Nat) (x : Exec) (reply : RemoteReply) : State :=
  let e := x.entry
  let f := bitsOf e 191 180
  let a := x.param (bitsOf e 179 174)
  let type := bitsOf e 169 166
  let dest := x.param (bitsOf e 153 148)
  if !zeroBits e [(147, 0)] || !s.flowOk q f then s.remoteBad q x
  else if !s.peerOk f a (atomicBytes type) true then (s.refuse40 a (atomicBytes type) true).remoteBad q x
  else if !((s.run? dest 8).any fun p => p.1 == .sram) then (s.refuse40 dest 8 true).remoteBad q x
  else
    let req : RemoteReq := ⟨s.me, f, BitVec.ofNat 64 a, .atomic (bitsOf e 173 170) type (BitVec.ofNat 64 (x.param (bitsOf e 165 160)))
      (BitVec.ofNat 64 (x.param (bitsOf e 159 154)))⟩
    let s := s.ask f req
    match reply with
    | .ok data =>
      let (s, l) := s.oldBytes type (BitVec.ofNat 64 (leNat (data.take (atomicBytes type))))
      let (s, ok) := s.storeAt ⟨0xFF, [.sram], false⟩ dest l
      if ok then s.remoteOk q x else s.remoteBad q x
    | r => s.remoteEnd q x a r

/-- RATOMIC of the queue's entry in execution. -/
def execRatomic (q : Nat) (reply : RemoteReply) (s : State) : Host.Outcome State Fault Refusal :=
  match s.running q [0x62] with
  | some x => .next (s.asSeen x fun s => s.ratomicEntry q x reply)
  | none => .next s

/-! ### The home of a remote request -/

/-- I/O die that receives a part's packets of one of its flows: the die of this part's flow with that peer. -/
def State.homeFlowDie (s : State) (part flow : Nat) : Nat :=
  match s.flows.find? fun x => s.flowPeer x.1 == (part, false) && x.2.peerFlow == flow with
  | some x => flowDie x.1
  | none => match s.flowTo part with | some f => flowDie f | none => flowDie flow

/-- Remote accesses that R40 allows: reads of HBM, SRAM, SUC and Ledger space, writes of the first three (Table 1.6). -/
def State.remoteRun (s : State) (a n : Nat) (write : Bool) : Option (Bank × Nat) :=
  (s.run? a n).filter fun p => !write || p.1 == .hbm || p.1 == .sram || p.1 == .suc

/-- The notify of an RWRITE: its queue must be present at the home (R376). -/
def State.notify (s : State) (n : Nat × Nat × Nat × Nat) : State × Bool :=
  let q := 0x400 + n.2.2.2
  if (qClass q).isSome && !s.absent q then (s.flagAdd n.1 n.2.1 n.2.2.1, true) else (s, false)

/-- A remote request at its home: its reply, `refused` where R40 refuses the address and `failed` where the request ends ABORTED for another cause (R375 to R378). Reads see what every reader sees of a Castling unit (R278). -/
def State.serveRemote (s : State) (r : RemoteReq) : State × RemoteReply :=
  let a := r.addr.toNat
  let drop (s : State) : State := s.fadd F.fxeStatusAborted 1 (s.homeFlowDie r.part r.flow)
  match r.kind with
  | .read n =>
    match s.remoteRun a n false with
    | some (b, off) =>
      let (s, l) := s.load false b off n
      (s, match l with | some l => .ok l | none => .failed)
    | none => (drop s, .refused)
  | .write data note =>
    match s.remoteRun a data.length true with
    | some (b, off) =>
      let (s, ok) := s.store false b off data
      match ok, note with
      | true, some n =>
        let (s, ok) := s.notify n
        if ok then (s, .ok []) else (drop s, .failed)
      | true, none => (s, .ok [])
      | false, _ => (s, .failed)
    | none => (drop s, .refused)
  | .atomic op type v cmp =>
    match s.remoteRun a (atomicBytes type) true with
    | some _ =>
      let (s, old) := s.atomicOp true a op type v cmp
      (s, match old with | some old => .ok (leBytes (atomicBytes type) old.toNat) | none => .failed)
    | none => (drop s, .refused)

/-- A remote request is performed and answered. -/
def State.answerRemote (s : State) (req : RemoteReq) : State :=
  let (s, r) := s.serveRemote req
  s.emit (.reply req.part req.flow r)

/-- REMOTE_REQUEST: a member's remote read, write or atomic reaches this part, an atomic to be taken with those of its tick; in Hove-to it answers STATUS HOVE_TO (R31, R355, R377, R378). -/
def execRemoteRequest (req : RemoteReq) (s : State) : Host.Outcome State Fault Refusal :=
  if s.inHove then .next (s.emit (.reply req.part req.flow .hoveTo))
  else if !s.isMember req.part then
    .next ((s.fadd F.fxeStatusAborted 1 (s.homeFlowDie req.part req.flow)).emit (.reply req.part req.flow .refused))
  else
    match req.kind with
    | .atomic _ _ _ _ => .next (s.arrive (.remote req))
    | _ => .next (s.answerRemote req)

/-! ### Collectives (R379 to R383) -/

/-- Logical shards of the job, S. -/
def State.jobShards (s : State) : Nat := (Config.jobLayout s.boot.job).1

/-- Epoch or generation round that arrivals of a collective carry (R379). -/
def State.round (s : State) : Nat := if s.generation then s.led 0x18 8 else s.f F.stepEpochEpoch

/-- The elements of chunk o: from o × C to min((o + 1) × C, N) − 1 with C = ceil(N / S) (R380). -/
def chunkSpan (n shards o : Nat) : Nat × Nat :=
  let c := (n + shards - 1) / shards
  (min (o * c) n, min ((o + 1) * c) n)

/-- Value of a node (level, p) for one element with its counts: a node held as it stands, an absent subtree as +0, an odd last node carried (R131, R380). -/
def State.collNode (s : State) (tensor i ext : Nat) (nodes : List (Nat × Nat × Val)) : Nat → Nat → Val × Tally
  | 0, p =>
    match nodes.find? fun n => n.1 == 0 && n.2.1 == p with
    | some n => (n.2.2, {})
    | none => (Val.zero, {})
  | l + 1, p =>
    match nodes.find? fun n => n.1 == l + 1 && n.2.1 == p with
    | some n => (n.2.2, {})
    | none =>
      let inside := nodes.filter fun n => decide (n.1 ≤ l) && n.2.1 / 2 ^ (l + 1 - n.1) == p
      if inside.isEmpty then (Val.zero, {})
      else
        let a := s.collNode tensor i ext inside l (2 * p)
        if ext ≤ (2 * p + 1) * 2 ^ l then a
        else
          let b := s.collNode tensor i ext inside l (2 * p + 1)
          let r := roundPartial (a.1.add b.1) (s.site tensor i 0x600 (nodeWord (l + 1) p))
          (r.val, (a.2.add b.2).add r.tally)

/-- Values of one element in a list of nodes: leaves in the input format, nodes in U16w. -/
def elementOf (leaf : Fmt) (nodes : List TreeNode) (k : Nat) : List (Nat × Nat × Val) :=
  nodes.map fun n => (n.level, n.pos, Half.val (if n.level = 0 then leaf else .u16w) (n.vals.getD k 0))

/-- A node of the elements `lo` to `hi − 1` of a tensor. -/
def State.collRow (s : State) (leaf : Fmt) (tensor lo hi ext : Nat) (nodes : List TreeNode) (level p : Nat) : List (Val × Tally) :=
  (List.range (hi - lo)).map fun k => s.collNode tensor (lo + k) ext (elementOf leaf nodes k) level p

/-- Counts of a row. -/
def rowTally (l : List (Val × Tally)) : Tally := (l.map (·.2)).foldl Tally.add {}

/-- Nodes that an I/O die holds for a chunk of a REDSCAT, and the chunk of an ALLGATHER that it holds. -/
def State.heldNodes (s : State) (die tensor epoch chunk : Nat) (gather : Bool := false) : List TreeNode :=
  (s.collectives.filter fun c => c.1 == die && c.2.gather == gather && c.2.tensor == tensor && c.2.epoch == epoch && c.2.chunk == chunk).map (·.2)

/-- Bytes of the arrivals that an I/O die holds, of one collective or of all. -/
def State.heldBytes (s : State) (die : Nat) (of_ : TreeNode → Bool := fun _ => true) : Nat :=
  ((s.collectives.filter fun c => c.1 == die && of_ c.2).map fun c => 2 * c.2.vals.length).sum

/-- The flows on which a node comes are held back: WIN falls to the highest PSN received, and STATUS BUSY says so (R352, R379, R381). -/
def State.holdBack (s : State) (die : Nat) (n : TreeNode) : State :=
  match s.collectiveTo die (s.holder (if n.gather then n.chunk else n.pos * 2 ^ n.level)) with
  | none => s
  | some f =>
    match s.flow f with
    | none => s
    | some x => (s.setFlow f { x with winIn := x.received.foldl max (x.ackBase - 1) }).sendBusy f

/-- Holds arrivals, each while its room lasts, and holds back the flow of one that finds none; a repeat of a node is not held again (R379). -/
def State.hold (s : State) (die : Nat) (room : State → TreeNode → Bool) : List TreeNode → State
  | [] => s
  | n :: ns =>
    let dup := s.collectives.any fun c => c.1 == die && c.2.gather == n.gather && c.2.tensor == n.tensor && c.2.epoch == n.epoch &&
      c.2.chunk == n.chunk && c.2.level == n.level && c.2.pos == n.pos
    if dup then s.hold die room ns
    else if room s n then State.hold { s with collectives := s.collectives ++ [(die, n)] } die room ns
    else (s.holdBack die n).hold die room ns

/-- Room for what this part adds itself. -/
def ownRoom (_ : State) (_ : TreeNode) : Bool := true

/-- Room of an I/O die for arrivals of collectives not yet issued here: 4 MiB (R379). -/
def earlyRoom (die : Nat) (s : State) (n : TreeNode) : Bool := decide (s.heldBytes die + 2 * n.vals.length ≤ 0x400000)

/-- Room of the buffer of pending nodes of a REDSCAT in execution; what is no arrival of its own has the room of the early ones (R381; log entry 161). -/
def pendingRoom (die tensor epoch pb : Nat) (s : State) (n : TreeNode) : Bool :=
  if n.tensor = tensor ∧ n.epoch = epoch ∧ !n.gather then
    decide (s.heldBytes die (fun m => m.tensor == tensor && m.epoch == epoch && !m.gather) + 2 * n.vals.length ≤ Config.pendingRoom pb)
  else earlyRoom die s n

/-- Positions of logical shards whose contributions the step's close leaves out (R320). -/
def State.lateShards (s : State) : List Nat :=
  if s.generation || s.waitMode then [] else (List.range s.jobShards).filter fun k => (s.step.late.getD []).contains (s.holder k)

/-- The close of the step's reductions has come; a generation round has no deadline (R320, R383). -/
def State.collMayClose (s : State) : Bool := s.generation || s.mayClose

/-- Every position of a range that is not late lies in some node. -/
def covered (nodes : List TreeNode) (late : List Nat) (lo hi : Nat) : Bool :=
  (List.range (hi - lo)).all fun k =>
    let p := lo + k
    late.contains p || nodes.any fun n => decide (n.pos * 2 ^ n.level ≤ p ∧ p < (n.pos + 1) * 2 ^ n.level)

/-- Nodes without the late leaves. -/
def dropLateNodes (late : List Nat) (l : List TreeNode) : List TreeNode := l.filter fun n => n.level != 0 || !late.contains n.pos

/-- Logical shard to which a leaf of chunk o from shard k goes: the owner, or the delegate of its group (R381). -/
def delegateOf (shards gk o k : Nat) : Nat :=
  if gk = 0 then o
  else
    let d := k / 2 ^ gk * 2 ^ gk + o % 2 ^ gk
    if shards ≤ d then o else d

/-- A REDSCAT's operands: entry fields, descriptors, and this part's logical shard. -/
structure Coll where
  tensor : Nat
  gk : Nat
  stale : Bool
  fo : Fmt
  pi : Desc
  po : Desc
  own : Nat
  n : Nat
deriving DecidableEq, Repr

/-- Value of element i of the part's gradient view (R380); an element before COL0 is +0. -/
def gradAt (c : Coll) (row : List Half) (i : Nat) : Half := if i < c.pi.col0 then 0 else row.getD (i - c.pi.col0) 0

/-- Sends a node of a collective to a part. -/
def State.sendNode (s : State) (die dest : Nat) (n : TreeNode) : State := (s.sendTo die dest [.bytes (Config.treeBytes n)]).emit (.leafShard dest n)

/-- Elements `lo` to `hi − 1` of a one-row view of 16-bit elements, as each transmission reads them: zeros before COL0, then the view's bytes (R344, R380). -/
def rowSpans (d : Desc) (lo hi : Nat) : List Span :=
  let a := max lo (min hi d.col0)
  [.bytes (List.replicate (2 * (a - lo)) 0), .place (d.ebase + 2 * (a - d.col0)) (2 * (hi - a))]

/-- Sends a leaf of this part: its place in the tree, and its values from their source. -/
def State.sendLeafOf (s : State) (die dest : Nat) (n : TreeNode) (l : List Span) : State :=
  (s.sendTo die dest (.bytes (Config.treeBytes { n with vals := [] }) :: l)).emit (.leafShard dest n)

/-- Sends the part's leaves: each chunk's leaf to its delegate or owner, this part's own held here (R380, R381). -/
def State.sendLeavesOf (s : State) (die : Nat) (c : Coll) (row : List Half) : State :=
  (List.range s.jobShards).foldl (fun s o =>
    let (lo, hi) := chunkSpan c.n s.jobShards o
    let node : TreeNode := ⟨c.tensor, s.round, o, 0, c.own, (List.range (hi - lo)).map fun k => gradAt c row (lo + k), false⟩
    let dest := s.holder (delegateOf s.jobShards c.gk o c.own)
    if dest = s.me then s.hold die ownRoom [node]
    else s.sendLeafOf die dest node (rowSpans c.pi lo hi)) s

/-- The largest whole nodes, as (level, position), that make up `m` positions from a multiple of 2^k on, m at most 2^k. -/
def spanBlocks (first m : Nat) : Nat → List (Nat × Nat)
  | 0 => if m = 0 then [] else [(0, first)]
  | k + 1 =>
    if 2 ^ (k + 1) ≤ m then [(k + 1, first / 2 ^ (k + 1))]
    else if 2 ^ k ≤ m then (k, first / 2 ^ k) :: spanBlocks (first + 2 ^ k) (m - 2 ^ k) k
    else spanBlocks first m k

/-- Nodes that a delegate of a group forms: (K, g); a group that the last shard cuts short forms the node that is carried up from it, or, where stale leaves follow at the positions behind it, the largest nodes that hold none of those (R322, R381). -/
def delegateNodes (shards : Nat) (c : Coll) : List (Nat × Nat) :=
  let first := c.own / 2 ^ c.gk * 2 ^ c.gk
  if c.stale then spanBlocks first (min (2 ^ c.gk) (shards - first)) c.gk
  else
    let level := min c.gk (Nat.clog 2 (shards - first))
    [(level, first / 2 ^ level)]

/-- One node of a delegate with its counts; a leaf stays as it came. -/
def State.delegateNode (s : State) (c : Coll) (o : Nat) (held : List TreeNode) (p : Nat × Nat) : List TreeNode × Tally :=
  let (lo, hi) := chunkSpan c.n s.jobShards o
  if p.1 = 0 then (held.filter fun n => n.level == 0 && n.pos == p.2, {})
  else
    let vals := s.collRow c.pi.format c.tensor lo hi s.jobShards held p.1 p.2
    ([⟨c.tensor, s.round, o, p.1, p.2, vals.map fun v => BitVec.ofNat 16 (Fmt.u16w.round v.1 0).code, false⟩], rowTally vals)

/-- Forms a delegate's nodes of one chunk and sends them to the owner, the late leaves going there as they are (R381). -/
def State.delegate (s : State) (die : Nat) (c : Coll) (o : Nat) : State :=
  let late := s.lateShards
  let held := s.heldNodes die c.tensor s.round o
  let made := (delegateNodes s.jobShards c).map (s.delegateNode c o (dropLateNodes late held))
  let t : Tally := (made.map (·.2)).foldl Tally.add {}
  let s := ((s.fadd F.fxeNumOvf t.ovf die).fadd F.fxeNumVan t.van die).tallyWindow .u16w t
  let out := made.flatMap (·.1) ++ held.filter fun n => n.level == 0 && late.contains n.pos
  let s : State := { s with collectives := s.collectives.filter fun x => !(x.1 == die && held.contains x.2) }
  let dest := s.holder o
  if dest = s.me then s.hold die ownRoom out
  else out.foldl (fun s n => s.sendNode die dest n) s

/-- Chunks for which this part is the delegate of its group. -/
def State.delegated (s : State) (c : Coll) : List Nat :=
  if c.gk = 0 then [] else (List.range s.jobShards).filter fun o => delegateOf s.jobShards c.gk o c.own == c.own

/-- A delegate's group is complete but for late leaves. -/
def State.groupReady (s : State) (die : Nat) (c : Coll) (o : Nat) : Bool :=
  let lo := c.own / 2 ^ c.gk * 2 ^ c.gk
  covered (s.heldNodes die c.tensor s.round o) s.lateShards lo (min s.jobShards (lo + 2 ^ c.gk))

/-- Stale leaves of the step before, at positions S + s (R322, R380). -/
def State.staleNodes (s : State) (die : Nat) (c : Coll) : List TreeNode :=
  if c.stale && !s.generation && !s.waitMode && decide (0 < s.round) then
    ((s.heldNodes die c.tensor (s.round - 1) c.own).filter fun n => n.level == 0 && s.step.stale.contains (s.holder n.pos)).map
      fun n => { n with pos := s.jobShards + n.pos }
  else []

/-- Reduces the part's chunk and writes it through PO (R314, R380). -/
def State.reduceChunk (s : State) (q : Nat) (x : Exec) (c : Coll) : State :=
  let die := fxeDie q
  let (lo, hi) := chunkSpan c.n s.jobShards c.own
  let ext := if c.stale then 2 * s.jobShards else s.jobShards
  let held := s.heldNodes die c.tensor s.round c.own
  let late := s.lateShards
  let nodes := dropLateNodes late held ++ s.staleNodes die c
  let root := s.collRow c.pi.format c.tensor lo hi ext nodes (Nat.clog 2 ext) 0
  let out := root.mapIdx fun k p => c.fo.round p.1 (eddy (s.site c.tensor (lo + k) 0x600 (nodeWord 63 0)))
  let t := (out.map Rounded.tally).foldl Tally.add {}
  let inner := rowTally root
  let s := (s.fadd F.fxeNumOvf (inner.ovf + t.ovf) die).fadd F.fxeNumVan (inner.van + t.van) die
  let s := (s.tallyWindow .u16w inner).tallyWindow c.fo t
  let s := { s with collectives := s.collectives.filter fun y =>
    !(y.1 == die && held.contains y.2 && !(y.2.level == 0 && late.contains y.2.pos)) }
  let reach : Reach := ⟨0xFF, [.sram, .hbm], false⟩
  let (s, ok) := s.writeRow reach c.po c.fo 0 { codes := out.map (·.code), offsets := [] }
  let s := if out.any fun r => Half.nonfinite c.fo (BitVec.ofNat 16 r.code) then s.nonfinite else s
  let s := if ok then s.watch c.tensor (out.map fun r => Half.val c.fo (BitVec.ofNat 16 r.code)) else s
  if ok then s.finish x.id .ok else (s.undefineView reach c.po c.fo 1 (hi - lo)).finish x.id .aborted

/-- Operands of a collective; none where a descriptor breaks R86 or this part holds no logical shard. -/
def State.collOf (s : State) (x : Exec) (reduce : Bool) : State × Option Coll :=
  let e := x.entry
  let (s, di) := s.readDesc 0xFF (x.param (bitsOf e 191 186))
  let (s, dc) := s.readDesc 0xFF (x.param (bitsOf e 185 180))
  let zero := if reduce then zeroBits e [(163, 128), (95, 0)] else zeroBits e [(179, 128), (95, 0)]
  (s, match di, dc, s.shards with
    | some di, some dc, own :: _ =>
      if zero && s.jobRuns && !di.tile && !dc.tile && di.ok [0, 1] none && dc.ok [0, 1] none then
        some ⟨bitsOf e 127 96, if reduce then bitsOf e 169 165 else 0, reduce && bitOf e 164,
          if reduce then (Fmt.ofCode (bitsOf e 173 170)).getD .u16w else di.format, di, dc, own, if reduce then di.lext else dc.lext⟩
      else none
    | _, _, _ => none)

/-- Codes of the first row of a view. -/
def State.firstRow (s : State) (d : Desc) (n : Nat) : State × Option (List Half) :=
  let (s, r) := s.readRow ⟨0xFF, [.sram, .hbm], false⟩ d 0 n
  (s, r.map fun l => l.map fun c => BitVec.ofNat 16 c.1)

/-- A leaf of a late part that is not for this part's own chunk: it goes straight to the owner (R322, R381). -/
def State.straight (s : State) (n : TreeNode) : Bool :=
  let from_ := s.holder n.pos
  n.level == 0 && !n.gather && s.holder n.chunk != s.me && !s.generation &&
    ((n.epoch == s.round && (s.step.late.getD []).contains from_) || (n.epoch + 1 == s.round && s.step.lateBefore.contains from_))

/-- Arrivals of a collective: those that go straight to their owner go on, the others are held. -/
def State.takeNodes (s : State) (die : Nat) (room : State → TreeNode → Bool) (l : List TreeNode) : State :=
  ((l.filter s.straight).foldl (fun s n => s.sendNode die (s.holder n.chunk) n) s).hold die room (l.filter fun n => !s.straight n)

/-- REDSCAT: leaves out once; delegate's nodes when its groups are complete; the own chunk when every contribution that counts is in. -/
def State.redscatEntry (s : State) (q : Nat) (x : Exec) (arrivals : List TreeNode) : State :=
  let die := fxeDie q
  let (s, c) := s.collOf x true
  match c with
  | none => s.finish x.id .aborted
  | some c =>
    let (s, row) := if x.stage = 0 then s.firstRow c.pi c.n else (s, some [])
    match row with
    | none => s.finish x.id .aborted
    | some row =>
      let s := if x.stage = 0 then (s.sendLeavesOf die c row).staged x 1 else s
      let s := s.takeNodes die (pendingRoom die c.tensor s.round (x.param (bitsOf x.entry 179 174))) (arrivals.filter fun n => !n.gather)
      let jobs := s.delegated c
      let ready := s.collMayClose && jobs.all fun o => s.groupReady die c o
      let s := if x.stage < 2 && ready then (jobs.foldl (fun s o => s.delegate die c o) s).staged x 2 else s
      if s.collMayClose && (ready || x.stage == 2) &&
          covered (s.heldNodes die c.tensor s.round c.own) s.lateShards 0 s.jobShards then
        s.reduceChunk q x c
      else s

/-- REDSCAT of the queue's entry in execution; `arrivals` are nodes that have come in. With none in execution they are held for the collective to come (R379). -/
def execRedscat (q : Nat) (arrivals : List TreeNode) (s : State) : Host.Outcome State Fault Refusal :=
  match s.running q [0x68] with
  | some x => .next (s.asSeen x fun s => s.redscatEntry q x arrivals)
  | none => .next (s.takeNodes (fxeDie q) (earlyRoom (fxeDie q)) (arrivals.filter fun n => !n.gather))

/-- Writes chunks of a view as they are (R382). -/
def State.writeChunks (s : State) (c : Coll) : List (Nat × List Byte) → State × Bool
  | [] => (s, true)
  | (o, l) :: cs =>
    let (lo, hi) := chunkSpan c.n s.jobShards o
    let skip := c.po.col0 - lo
    let at_ := c.po.ebase + 2 * (lo - c.po.col0)
    let (s, a) := s.storeAt ⟨0xFF, [.sram, .hbm], false⟩ at_ ((l.take (2 * (hi - lo))).drop (2 * skip))
    let (s, b) := s.writeChunks c cs
    (s, a && b)

/-- Room for the chunks of an ALLGATHER in execution, and for early ones of another. -/
def gatherRoom (die tensor epoch : Nat) (s : State) (n : TreeNode) : Bool := (n.tensor == tensor && n.epoch == epoch) || earlyRoom die s n

/-- The elements of a chunk that lie in the output view. -/
def viewHalves (c : Coll) (shards : Nat) (k : Nat × List Byte) : List Half :=
  let (lo, hi) := chunkSpan c.n shards k.1
  let l := ((k.2.take (2 * (hi - lo))).drop (2 * (c.po.col0 - lo)))
  (List.range (l.length / 2)).map fun i => BitVec.ofNat 16 (leAt l (2 * i) 2)

/-- ALLGATHER: sends the part's chunk once; it completes when the chunk of every logical shard is written, sets the non-finite flag for an infinity or NaN that it writes (R307), and its elements count in the layers that watch its TENSOR (R314); the step's close ends the wait for late ones (R382, R383). -/
def State.allgatherEntry (s : State) (x : Exec) (chunks : List TreeNode) : State :=
  let die := fxeDie x.q
  let (s, c) := s.collOf x false
  match c with
  | none => s.finish x.id .aborted
  | some c =>
    let (lo, hi) := chunkSpan c.n s.jobShards c.own
    let (s, row) := s.firstRow c.pi (hi - lo)
    match row with
    | none => s.finish x.id .aborted
    | some row =>
      let node (vals : List Half) : TreeNode := ⟨c.tensor, s.round, c.own, 0, c.own, vals, true⟩
      let others := (((List.range s.jobShards).map s.holder).dedup).filter fun p => p != s.me
      let s := if x.stage = 0 then
          (others.foldl (fun s p =>
            (s.sendTo die p [.bytes (Config.treeBytes (node [])), .place c.pi.ebase (2 * (hi - lo))]).emit (.chunk p (node row))) s).staged x 1
        else s
      let s := s.hold die (gatherRoom die c.tensor s.round) (chunks.filter (·.gather))
      let held (o : Nat) : List TreeNode := s.heldNodes die c.tensor s.round o true
      let got (o : Nat) : Bool := o == c.own || !(held o).isEmpty
      let closed := !s.generation && s.mayClose
      if (List.range s.jobShards).all fun o => got o || (closed && s.lateShards.contains o) then
        let all := (c.own, row.flatMap fun h => leBytes 2 h.toNat) ::
          (((List.range s.jobShards).filter (· ≠ c.own)).flatMap held).map fun n => (n.chunk, n.vals.flatMap fun h => leBytes 2 h.toNat)
        let (s, ok) := s.writeChunks c all
        let vals := all.flatMap (viewHalves c s.jobShards)
        let s := if vals.any (Half.nonfinite c.po.format) then s.nonfinite else s
        let s := if ok then s.watch c.tensor (vals.map (Half.val c.po.format)) else s
        let s := { s with collectives := s.collectives.filter fun y => !(y.1 == die && y.2.gather && y.2.tensor == c.tensor && y.2.epoch == s.round) }
        if ok then s.finish x.id .ok else (s.undefineView ⟨0xFF, [.sram, .hbm], false⟩ c.po c.po.format 1 c.n).finish x.id .aborted
      else s

/-- ALLGATHER of the queue's entry in execution; `chunks` are those that have come in. With none in execution they are held for the collective to come (R379). -/
def execAllgather (q : Nat) (chunks : List TreeNode) (s : State) : Host.Outcome State Fault Refusal :=
  match s.running q [0x69] with
  | some x => .next (s.asSeen x fun s => s.allgatherEntry x chunks)
  | none => .next (s.hold (fxeDie q) (earlyRoom (fxeDie q)) (chunks.filter (·.gather)))

/-- An entry of a queue with one of the opcodes that has run for PULL_LIMIT (Table 10.13). -/
def State.overdue (s : State) (q id : Nat) (ops : List Nat) : Option Exec :=
  s.execs.find? fun x => x.q == q && x.id == id && ops.contains (opcodeOf x.entry) && x.result.isNone &&
    decide (x.start + s.f F.naeloTimersPullLimit (fxeDie q) * 1000 ≤ s.now)

/-- COLLECTIVE_TIMEOUT: a collective of a generation round that has not completed within PULL_LIMIT (R383). -/
def execCollectiveTimeout (q id : Nat) (s : State) : Host.Outcome State Fault Refusal :=
  match s.overdue q id [0x68, 0x69] with
  | some x => if s.generation then .next (s.finish x.id .aborted) else .next s
  | none => .next s

/-! ### PULL (R357, R358) -/

/-- Feeders listed by the job image, or by the configuration image when no job runs (R356). -/
def State.feederIds (s : State) : List Nat := (Config.feeders (if s.jobRuns then s.boot.job else s.boot.config)).map (·.1)

/-- A PULL ends ABORTED with its destination undefined (R358). -/
def State.pullBad (s : State) (x : Exec) : State := (s.undefineRun (pullDest x).1 (pullDest x).2).finish x.id .aborted

/-- The header of a feeder's message names the stream and the cursor of a PULL, and its length keeps to the limit (R358, Table 10.7). -/
def pullMatches (x : Exec) (l : List Byte) : Bool :=
  decide (64 ≤ l.length) && leAt l 0 2 == bitsOf x.entry 179 164 && leAt l 8 8 == x.param (bitsOf x.entry 163 158) &&
    decide (64 + leAt l 24 8 ≤ (pullDest x).2)

/-- Bytes of a feeder's message land at a PULL's destination; with the whole message the PULL completes (R357, R358). -/
def State.pullLand (s : State) (x : Exec) (off : Nat) (l : List Byte) (whole : Option (List Byte)) : State :=
  if (pullDest x).2 < off + l.length then s.pullBad x
  else
    match s.storeAt ⟨0xFF, [.sram], false⟩ ((pullDest x).1 + off) l, whole with
    | (s, false), _ => s.pullBad x
    | (s, true), some m => if pullMatches x m then s.finish x.id .ok else s.pullBad x
    | (s, true), none => s

/-- A DATA payload of a feeder lands for the oldest PULL that waits on its flow (R357). -/
def State.feederData (s : State) (f off : Nat) (l : List Byte) (whole : Option (List Byte)) : State :=
  match s.execs.find? fun x => usesFlow f x && opcodeOf x.entry == 0x78 && x.stage == 1 && x.result.isNone with
  | some x => s.pullLand x off l whole
  | none => s

/-- PULL: asks a feeder once for the next examples of a stream; its reply is written as it comes: here whole, or by DATA_RECEIVE (R357, R358). -/
def State.pullEntry (s : State) (q : Nat) (x : Exec) (reply : Option RemoteReply) : State :=
  let e := x.entry
  let f := bitsOf e 191 180
  let dst := x.param (bitsOf e 157 152)
  let d := pullDest x
  let flowOk := flowDie f == fxeDie q && s.flowState f == flowOpen && s.fb F.flowFStatusFeeder f
  let asks := x.stage = 0
  if asks ∧ (!zeroBits e [(145, 0)] || !flowOk || dst % 64 != 0) then s.finish x.id .aborted
  else if asks ∧ (2 ^ 44 ≤ dst ∨ (s.localRun d.1 d.2).isNone) then (s.addressFault d.1).finish x.id .aborted
  else
    let stream := bitsOf e 179 164
    let cursor := BitVec.ofNat 64 (x.param (bitsOf e 163 158))
    let s := if asks then ((s.sendMessage f (Config.pullBytes stream cursor)).emit (.pullRequest f stream cursor)).staged x 1 else s
    match reply with
    | none => s
    | some (.ok data) => s.pullLand x 0 data (some data)
    | some _ => s.pullBad x

/-- PULL of the queue's entry in execution. -/
def execPull (q : Nat) (reply : Option RemoteReply) (s : State) : Host.Outcome State Fault Refusal :=
  match s.running q [0x78] with
  | some x => .next (s.asSeen x fun s => s.pullEntry q x reply)
  | none => .next s

/-- PULL_LIMIT_EXPIRY: a PULL that does not complete within PULL_LIMIT; its destination is undefined (R358). -/
def execPullLimitExpiry (q id : Nat) (s : State) : Host.Outcome State Fault Refusal :=
  match s.overdue q id [0x78] with
  | some x => .next (if x.stage = 0 then s.finish x.id .aborted else s.pullBad x)
  | none => .next s

/-! ### FLOWCTL (R343) -/

/-- FLOWCTL OPEN: opens a flow to a member or a listed feeder; without a session it waits for one. -/
def State.flowOpenEntry (s : State) (q : Nat) (x : Exec) : State :=
  let e := x.entry
  let f := bitsOf e 189 178
  let feeder := bitOf e 177
  let peer := bitsOf e 175 160
  let npath := bitsOf e 156 152
  if x.stage ≠ 0 then s
  else if !zeroBits e [(176, 176), (151, 0)] || flowDie f != fxeDie q || s.flowState f != flowClosed ||
      !(if feeder then s.feederIds.contains peer else s.isMember peer) || npath == 0 || decide (16 < npath) ||
      decide ((s.portsUp (flowDie f)).length * 16 < npath) then s.finish x.id .aborted
  else
    let s := (s.staged x 1).openFlow f peer (bitsOf e 159 157) npath feeder (some x.id)
    if s.flowState f = flowOpening then s.startExchange peer feeder else s

/-- FLOWCTL_OPEN of the queue's entry in execution. -/
def execFlowctlOpen (q : Nat) (s : State) : Host.Outcome State Fault Refusal :=
  match s.runningOp q 0x79 [0] with
  | some x => .next (s.flowOpenEntry q x)
  | none => .next s

/-- FLOWCTL CLOSE: the flow drains and closes once every packet sent is acknowledged (Table 10.5). -/
def State.flowCloseEntry (s : State) (q : Nat) (x : Exec) : State :=
  let e := x.entry
  let f := bitsOf e 189 178
  if x.stage ≠ 0 then s
  else if !zeroBits e [(176, 176), (151, 0)] || flowDie f != fxeDie q then s.finish x.id .aborted
  else if s.flowState f = flowClosed then s.finish x.id .ok
  else if s.flowState f = flowFailed then s.finish x.id .aborted
  else if s.flowState f = flowOpening then (s.staged x 1).closeFlow f
  else ((s.staged x 1).enterFlow f flowDraining).drain f

/-- FLOWCTL_CLOSE of the queue's entry in execution. -/
def execFlowctlClose (q : Nat) (s : State) : Host.Outcome State Fault Refusal :=
  match s.runningOp q 0x79 [1] with
  | some x => .next (s.flowCloseEntry q x)
  | none => .next s

/-- FLOWCTL RESET: a FAILED flow returns to CLOSED; any other state and the reserved OP code end ABORTED. -/
def State.flowResetEntry (s : State) (q : Nat) (x : Exec) : State :=
  let e := x.entry
  let f := bitsOf e 189 178
  if bitsOf e 191 190 ≠ 2 || !zeroBits e [(176, 176), (151, 0)] || flowDie f != fxeDie q || s.flowState f != flowFailed then
    s.finish x.id .aborted
  else (s.closeFlow f).finish x.id .ok

/-- FLOWCTL_RESET of the queue's entry in execution. -/
def execFlowctlReset (q : Nat) (s : State) : Host.Outcome State Fault Refusal :=
  match s.runningOp q 0x79 [2, 3] with
  | some x => .next (s.flowResetEntry q x)
  | none => .next s

/-- FLOW_OPEN_TIMEOUT: no session has formed within 100 ms, so the OPEN ends ABORTED and the flow is CLOSED (R343). -/
def execFlowOpenTimeout (q id : Nat) (s : State) : Host.Outcome State Fault Refusal :=
  match s.execs.find? fun x => x.q == q && x.id == id && opcodeOf x.entry == 0x79 && bitsOf x.entry 191 190 == 0 && x.stage == 1 &&
      x.result.isNone && decide (x.start + 100000 ≤ s.now) with
  | some x => .next ((s.closeFlow (bitsOf x.entry 189 178)).finish x.id .aborted)
  | none => .next s

/-! ### MCHANGE (R369) -/

/-- Site and first 64 bits of the identity digest of a part that is to join, as this part's configuration image has them. -/
def State.joinerOf (s : State) (part : Nat) : Nat × Word :=
  if part = s.me then (s.f F.hallStatusSite, Config.deviceId.setWidth 64)
  else
    (s.memberSite part, match (Config.hallList s.boot.config).find? fun h => h.1 == part with
      | some h => h.2.1.setWidth 64
      | none => 0)

/-- A role that MCHANGE may name: IDLE, SPARE, or KEEPER where this part's configuration image names it. -/
def State.roleOk (s : State) (role : Nat) : Bool :=
  role == roleIdle || role == roleSpare || (role == roleKeeper && imageRole s.boot.config == roleKeeper)

/-- MCHANGE_JOIN of the queue's entry in execution. -/
def execMchangeJoin (q : Nat) (s : State) : Host.Outcome State Fault Refusal :=
  match s.runningOp q 0x7A [0] with
  | some x =>
    let part := bitsOf x.entry 189 174
    let role := bitsOf x.entry 173 172
    if !zeroBits x.entry [(171, 0)] || !s.roleOk role then .next (s.finish x.id .aborted)
    else .next (s.asking x (.join part role (s.joinerOf part).1 (s.joinerOf part).2))
  | none => .next s

/-- MCHANGE_LEAVE of the queue's entry in execution. -/
def execMchangeLeave (q : Nat) (s : State) : Host.Outcome State Fault Refusal :=
  match s.runningOp q 0x7A [1] with
  | some x =>
    if !zeroBits x.entry [(171, 0)] then .next (s.finish x.id .aborted)
    else .next (s.asking x (.leave (bitsOf x.entry 189 174)))
  | none => .next s

/-- MCHANGE_ROLE of the queue's entry in execution; the reserved OP code ends ABORTED. -/
def execMchangeRole (q : Nat) (s : State) : Host.Outcome State Fault Refusal :=
  match s.runningOp q 0x7A [2, 3] with
  | some x =>
    let role := bitsOf x.entry 173 172
    if bitsOf x.entry 191 190 = 3 || !zeroBits x.entry [(171, 0)] || !s.roleOk role then .next (s.finish x.id .aborted)
    else .next (s.asking x (.role (bitsOf x.entry 189 174) role))
  | none => .next s

end Sys2Proof.Machine
end

