-- ==== Sys2Proof/Machine/Hall.lean ====
section
/-! DEFINITION. The hall (R262, R367 to R371, R386 to R388, R431): hall-wide votes and when what they decide takes effect, heartbeats, lost members, and the promotion of a spare part. -/

namespace Sys2Proof.Machine

/-! ### Hall-wide votes (R262, R297, R298, R369, R461 to R463) -/

/-- A job runs in the hall: some member holds ROLE JOB. -/
def State.hallJob (s : State) : Bool := s.memberParts.any fun p => s.memberRole p == roleJob

/-- The hall's job is in its generation phase, as the step header of every member shows. -/
def State.hallGen (s : State) : Bool := s.led 0x10 1 == 1

/-- Files RESULT of JOB_STATUS. -/
def State.jobResult (s : State) (st : Status) : State := s.fset F.jobStatusResult st.code

/-- A loaded job is given up before it starts: STATE NONE with RESULT ABORTED on the parts that its start names, and the leader holds no marker (R461). -/
def State.dropLoaded (s : State) (named : Bool) : State :=
  if named && s.f F.jobStatusState == 2 then
    let s := ((s.restoreSettings).fset F.jobStatusState 0).jobResult .aborted
    { s with boot := { s.boot with job := [], loaded := [], firstLoaded := none } }.showPart
  else { s with boot := { s.boot with loaded := [], firstLoaded := none } }

/-- The hall refused a command of this part: its entry completes ABORTED (R262). -/
def State.refuseEntry (s : State) (c : HallCmd) : State :=
  match c with
  | .tflip t v => s.finishTable 0x85 t (some v) 1 .aborted
  | .toffline t => s.finishTable 0x86 t none 1 .aborted
  | .tonline t v => s.finishTable 0x87 t (some v) 1 .aborted
  | .join p _ _ _ => s.finishMember 0 p .aborted
  | .leave p => s.finishMember 1 p .aborted
  | .role p _ => s.finishMember 2 p .aborted
  | .phase gen seg => s.finishPhase gen seg .aborted
  | .lost _ | .hove _ _ | .jstart _ _ | .jobStop | .jobUpdate => s

/-- The hall accepted a command of this part: a table command's entry now waits for its effect (R262). -/
def State.acceptEntry (s : State) (c : HallCmd) : State :=
  match c with
  | .tflip t v => s.acceptTable 0x85 t (some v)
  | .toffline t => s.acceptTable 0x86 t none
  | .tonline t v => s.acceptTable 0x87 t (some v)
  | _ => s

/-- A member refused the command: it completes ABORTED on the part that issued it, and nothing changes (R262). -/
def State.refuseHall (s : State) (c : HallCmd) (mine : Bool) : State :=
  let s := if mine then s.refuseEntry c else s
  match c with
  | .jstart parts spares => s.dropLoaded ((parts ++ spares).contains s.me)
  | .jobStop =>
    let s := if s.f F.jobStatusState = 5 then s.fset F.jobStatusState 3 else s
    if mine then s.jobResult .aborted else s
  | .jobUpdate => { (if s.boot.staged.isEmpty then s else s.jobResult .aborted) with boot := { s.boot with staged := [] } }
  | _ => s

/-- Tick of the effect of a command where no step carries it: its decision's tick for a phase, a stop or an update in generation (R298, R463), FLIP_LEAD later otherwise (R262). -/
def State.effectTick (s : State) (c : HallCmd) (tick : Nat) : Nat :=
  if s.hallJob && decide (2 ≤ hallRank c) then tick else tick + s.f F.lkeCfgFlipLead 0

/-- HALL_VOTE_DECISION: a command that `part` issued is decided at a hall tick; a refused one ends, and an accepted one waits for the decision of the step in progress where a job learns, and for its tick otherwise (R262, R298). -/
def execHallVoteDecision (v : HallVote) (accepted : Bool) (s : State) : Host.Outcome State Fault Refusal :=
  let mine := v.part == s.me && s.hallAsked.contains v.cmd
  let s := if mine then { s with hallAsked := s.hallAsked.erase v.cmd } else s
  if !accepted then .next (s.refuseHall v.cmd mine)
  else
    let s := if mine then s.acceptEntry v.cmd else s
    if s.hallJob && !s.hallGen then .next { s with step := { s.step with postponed := s.step.postponed ++ [v.cmd] } }
    else .next { s with hallPending := s.hallPending ++ [(v.cmd, s.effectTick v.cmd v.tick)] }

/-- The commands whose tick has come take effect in the order of R371; none does in Hove-to (R436). -/
def State.applyDue (s : State) : State :=
  if s.inHove then s
  else
    let due := (s.hallPending.filter fun c => decide (c.2 ≤ s.now)).map (·.1)
    { s with hallPending := s.hallPending.filter fun c => decide (s.now < c.2) }.applyHalls due

/-- HALL_CHANGE_EFFECT: commands whose tick has come take effect; a tick edge applies its own ahead of the events of its tick (R229). -/
def execHallChangeEffect (s : State) : Host.Outcome State Fault Refusal := .next s.applyDue

/-- This part accepts a hall-wide command (R262, R297, R369, R461, R463). -/
def State.acceptsHall (s : State) (c : HallCmd) : Bool :=
  match c with
  | .tflip t v => (s.dir t).nextValid && (s.dir t).nextVersion == v
  | .toffline _ => true
  | .tonline t _ => (s.dir t).state == 2 && !(s.dir t).oldValid
  | .join p _ _ id => ((Config.hallList s.boot.config).any fun h => h.1 == p && h.2.1.setWidth 64 == id) && (s.session p false).isSome
  | .leave _ | .role _ _ | .lost _ | .hove _ _ => true
  | .phase gen seg => !s.jobRuns || (gen != s.generation && Config.hasSegment s.boot.job seg)
  | .jstart _ _ => !s.hallJob
  | .jobStop => true
  | .jobUpdate => !s.jobRuns || !s.boot.staged.isEmpty

/-- HALL_VOTE_REQUEST_RECEIVE: a member votes on a hall-wide command by its own state, but not in Hove-to (R262, R435). -/
def execHallVoteRequestReceive (part : Nat) (cmd : HallCmd) (s : State) : Host.Outcome State Fault Refusal :=
  if s.isMember s.me && !s.inHove then .next (s.emit (.hallAnswer part cmd (s.acceptsHall cmd))) else .next s

/-! ### Heartbeats (R370, R435) -/

/-- MEMBER_HEARTBEAT: every BEAT × 1,000 ticks a member tells each committee member that it lives, with its Hove-to flag. -/
def execMemberHeartbeat (s : State) : Host.Outcome State Fault Refusal :=
  if !s.isMember s.me || decide (s.now < s.lastBeat + s.f F.hallCtrlBeat * 1000) then .next s
  else
    let dests := s.hallCommittee.filter fun p => p != s.me
    .next ({ s with lastBeat := s.now }.emits (dests.map fun p => .heartbeat p s.inHove))

/-- HEARTBEAT_RECEIVE: a committee member starts the sender's count of missed intervals again, and the leader of the hall committee asks the hall to record a Hove-to flag that differs from FLAGS[0], which only a vote writes (R367, R370, Table 13.7; log entry 167). -/
def execHeartbeatReceive (part : Nat) (hove : Bool) (s : State) : Host.Outcome State Fault Refusal :=
  if s.inHove || !s.hallCommittee.contains s.me || !s.isMember part then .next s
  else
    let s := { s with beats := assocSet 0 s.beats part s.now }
    let cmd : HallCmd := .hove part hove
    if s.memberFlags part % 2 = (if hove then 1 else 0) || s.hallCommittee.head? != some s.me || s.hallAsked.contains cmd then .next s
    else .next ({ s with hallAsked := s.hallAsked ++ [cmd] }.emit (.hallAsk cmd))

/-- MEMBER_LOST_TIMEOUT: with no job, the leader of the hall committee asks the hall to declare a member LOST that has sent no heartbeat for BEATS_LOST intervals (R370). -/
def execMemberLostTimeout (part : Nat) (s : State) : Host.Outcome State Fault Refusal :=
  let quiet := (s.beats.find? fun b => b.1 == part).any fun b =>
    decide (b.2 + s.f F.hallCtrlBeatsLost * (s.f F.hallCtrlBeat * 1000) ≤ s.now)
  if s.inHove || s.hallJob || s.hallCommittee.head? != some s.me || part == s.me || !s.isMember part || !quiet ||
      s.hallAsked.contains (HallCmd.lost part) then .next s
  else .next ({ s with hallAsked := s.hallAsked ++ [HallCmd.lost part] }.emit (.hallAsk (.lost part)))

/-! ### Promotion of a spare part (R386 to R388, R431) -/

/-- The promotion of a part is in progress and has failed, as its resignation tells the leader (R387; log entry 145). -/
def State.promotionFails (s : State) (part : Nat) : Bool :=
  s.jobRuns && !s.inHove && !s.generation && s.committee.head? == some s.me && !s.step.begun && s.step.held.isNone && !s.ledgerBusy &&
    s.isMember part && s.memberFlags part / 2 % 2 == 1

/-- The leader names the next spare: a decision that aborts the step again, declares the failed spare lost and moves its shards (R386, R387; log entry 145). -/
def State.nextSpare (s : State) (part : Nat) : State :=
  ({ s with step := { s.step with resigned := s.step.resigned ++ [part] } }.fset F.stepStatusLeader s.me).decideAbort []

/-- RESIGN_RECEIVE: the leader declares the part lost in its next decision (R431); where the part is a spare whose promotion has failed, that decision comes at once (R387). -/
def execResignReceive (part : Nat) (s : State) : Host.Outcome State Fault Refusal :=
  if s.leads && s.stepMembers.contains part && !s.step.resigned.contains part then
    .next { s with step := { s.step with resigned := s.step.resigned ++ [part] } }
  else if s.promotionFails part then .next (s.nextSpare part)
  else .next s

/-- Every flag of the part reads 0 (R169). -/
def State.clearFlags (s : State) : State := { s with flags := [] }

/-- This part is a spare whose promotion is in progress (Table 11.2). -/
def State.beingPromoted (s : State) : Bool := s.isMember s.me && s.memberFlags s.me / 2 % 2 == 1

/-- Restored rows written to HBM space, each at its offset. -/
def State.restoreRows (s : State) (rows : List (Nat × List Byte)) : State :=
  rows.foldl (fun s r => (s.writeBytes .hbm r.1 r.2).1) s

/-- The part that a spare replaces and the step that runs again, as the decision that named the spare told them (R386, R388). -/
def State.replaced (s : State) (spare : Nat) : Nat × Nat :=
  match s.boot.replaced.find? fun r => r.1 == spare with
  | some r => r.2
  | none => (0xFFFF, s.f F.stepEpochEpoch)

/-- The shards restored from records, each with its E_k: the last epoch that its records hold, or the step before the one that runs again where READY copies gave its rows; none where a record fails its check (Table 11.5, R388; log entry 170). -/
def State.restoreShards (s : State) : List RestoredShard → State × Option (List (Nat × Nat))
  | [] => (s, some [])
  | r :: rs =>
    let (s, e) := if r.records.isEmpty then (s, some ((s.replaced s.me).2 - 1)) else s.putRecords r.records
    let (s, l) := s.restoreShards rs
    (s, match e, l with
      | some e, some l => some ((r.shard, e) :: l)
      | _, _ => none)

/-- A promotion that fails raises event 0x4044 and tells the leader (R387; log entry 145). -/
def State.promotionFailed (s : State) : State := (s.raise 0x4044 748).emit (.resign (s.committee.headD s.me))

/-- PART_PROMOTION_RESTORE: the spare's loader loads Score, flags and registers from the job image, its units' rows come back, from READY copies and from checkpoint and ward records, and it sends PROMOTED; a restore that fails, or a record whose DIGEST does not match, fails the promotion (R387, Table 11.5). -/
def execPartPromotionRestore (ok : Bool) (shards : List RestoredShard) (rows : List (Nat × List Byte)) (s : State) :
    Host.Outcome State Fault Refusal :=
  if !s.jobRuns || s.inHove || !s.beingPromoted then .next s
  else if !ok then .next s.promotionFailed
  else
    let s := s.stopCores
    let (s, _) := s.loadSegments (s.segmentSet s.step.segSet)
    let s := (s.clearFlags).applyJobSettings
    match (s.restoreRows rows).restoreShards shards with
    | (s, some marks) => .next (s.emit (.promoted (s.committee.headD s.me) ⟨marks, 0⟩))
    | (s, none) => .next s.promotionFailed

/-- One promotion record (R388): shard, lost part, spare, E_k, E and the tick. -/
def State.promotionRecord (s : State) (lost spare e tick : Nat) (x : Nat × Nat) : State :=
  let l := leBytes 2 x.1 ++ leBytes 2 lost ++ leBytes 2 spare ++ leBytes 2 0 ++ leBytes 8 x.2 ++ leBytes 8 e ++ leBytes 8 tick
  { (s.writeBytes .ledgerE (0x03200000 + 32 * (s.promotions % 256)) l).1 with promotions := s.promotions + 1 }

/-- The spare's promotion ends: records with the tick at which the leader made them, FLAGS[1] clear and event 0x4043 (Table 11.5, R388). -/
def State.endPromotion (s : State) (part : Nat) (mark : PromotedMark) : State :=
  let r := s.replaced part
  let s := mark.shards.foldl (State.promotionRecord · r.1 part r.2 mark.tick) s
  let s := { s with boot := { s.boot with replaced := s.boot.replaced.filter fun (x : Nat × Nat × Nat) => x.1 != part } }
  (s.setMemberFlags part (clearBit (s.memberFlags part) 1)).latch { code := 0x4043, source := 748, detail := part }

/-- The deferred run of the step starts at a tick once no promotion is in progress (R387). -/
def State.startDeferred (s : State) (tick : Nat) : State :=
  if !s.jobRuns || s.promoting || s.step.begun || s.step.phaseTo.isSome || s.generation then s else s.beginStep tick s.stepLength

/-- PROMOTED_RECEIVE: the leader records the promotion and passes PROMOTED on with its tick, at which every member starts the deferred run; the spare's queues start with it (R387). -/
def execPromotedReceive (part : Nat) (mark : PromotedMark) (s : State) : Host.Outcome State Fault Refusal :=
  if s.inHove || !s.isMember part || s.memberFlags part / 2 % 2 == 0 then .next s
  else
    let lead := s.committee.head? == some s.me
    let others := s.memberParts.filter fun p => p != s.me
    let mark := if lead then { mark with tick := s.now } else mark
    let s := if lead then s.emits (others.map fun p => .promoted p mark) else s
    let s := (s.endPromotion part mark).startDeferred mark.tick
    .next (if part = s.me then s.goCores else s)

end Sys2Proof.Machine
end

