-- ==== Sys2Proof/Machine/Naelo.lean ====
section
/-! DEFINITION. Naelo packets and timers (R339 to R356): what a frame's classifier drops, the receiver's acknowledgements, the sender's loss detection, its timers and its paths. -/

namespace Sys2Proof.Machine

/-! ### Acceptance (R340, R353, Table 10.6) -/

/-- A key slot takes packets: the one in use, or the older one up to 1 ms after the first packet under the newer (R340). -/
def Session.keyOk (x : Session) (now key : Nat) : Bool :=
  key == x.keySlot ||
    (decide (key < x.rx.length) && match x.since with | none => true | some t => decide (now ≤ t + 1000))

/-- A TXC not accepted before, and not older than the window of 4,096 (R340). -/
def Session.txcOk (x : Session) (now key txc : Nat) : Bool :=
  let w := x.window key
  x.keyOk now key && (decide (w.1 < txc) || (decide (w.1 ≤ txc + 4096) && !w.2.contains txc))

/-- The TXC is accepted. -/
def Session.takeTxc (x : Session) (now key txc : Nat) : Session :=
  let w := x.window key
  let high := max w.1 txc
  let seen := (txc :: w.2).filter fun t => decide (high ≤ t + 4096)
  { x with rx := x.rx.mapIdx fun i v => if i = key then (high, seen) else v
           since := if key = x.keySlot ∧ x.since.isNone then some now else x.since }

/-- The flow sends and receives. -/
def State.flowLive (s : State) (f : Nat) : Bool := s.flowState f == flowOpen || s.flowState f == flowDraining

/-- A PULL is outstanding on a flow. -/
def State.pulling (s : State) (f : Nat) : Bool := s.execs.any fun x => usesFlow f x && opcodeOf x.entry == 0x78 && x.result.isNone

/-- PSN of a packet on the receiver's own count; none for one below every PSN still awaited. -/
def psnAt (base psn : Nat) : Option Nat :=
  let d := (psn + 2 ^ 32 - base % 2 ^ 32) % 2 ^ 32
  if d < 2 ^ 31 then some (base + d) else none

/-- Verdict on a packet's PSN: 11 above WIN, 12 duplicate, 0 new. -/
def Flow.psnReason (x : Flow) (psn : Nat) : Nat :=
  match psnAt x.ackBase psn with
  | none => 12
  | some n => if x.winIn < n then 11 else if x.received.contains n then 12 else 0

/-- HANDSHAKE packets that a port has taken in the second in progress (R354). -/
def State.hsCount (s : State) (port : Nat) : Nat :=
  match s.hsSeen.find? fun h => h.1 == port && h.2.1 == s.now / 1000000 with
  | some h => h.2.2
  | none => 0

/-- One HANDSHAKE packet more for a port. -/
def State.countHs (s : State) (port : Nat) : State :=
  { s with hsSeen := (s.hsSeen.filter fun h => h.1 != port) ++ [(port, s.now / 1000000, s.hsCount port + 1)] }

/-- Drop reason of a sealed packet from reason 5 on (Table 10.6). -/
def State.sealedReason (s : State) (p : Pkt) (t : PktType) : Option Nat :=
  match s.session p.srcPart p.feeder, s.flow p.dstFlow with
  | some x, some f =>
    if !s.flowLive p.dstFlow || s.flowPeer p.dstFlow != (p.srcPart, p.feeder) then some 5
    else if !p.sealOk || decide (2 ≤ p.key) then some 6
    else if !x.txcOk s.now p.key p.txc then some 7
    else if p.feeder && (!(t == .data || t == .ack) || (t == .data && !s.pulling p.dstFlow)) then some 9
    else if t == .data || t == .probe then (if f.psnReason p.psn = 0 then none else some (f.psnReason p.psn))
    else none
  | _, _ => some 5

/-- Drop reason of a signed packet: a HANDSHAKE above the port's rate, a wrong signature, or a feeder's BEACON (R354, Table 10.6; log entry 162). -/
def State.signedReason (s : State) (port : Nat) (p : Pkt) (t : PktType) : Option Nat :=
  if t = .handshake ∧ s.f F.naeloCfgHsRate (port / 16) ≤ s.hsCount port then some 8
  else if !p.sealOk then some 6
  else if p.feeder && t == .beacon then some 9
  else none

/-- Drop reason of a Naelo packet. -/
def State.pktReason (s : State) (port : Nat) (p : Pkt) : Option Nat :=
  match p.type with
  | none => some 5
  | some t =>
    if p.ver ≠ 1 ∨ (p.dstPart ≠ s.me ∧ t ≠ .beacon) then some 5
    else if sealedType t then s.sealedReason p t
    else s.signedReason port p t

/-- The first drop reason that applies to a frame; none for one that passes (Table 10.6). -/
def State.dropReason (s : State) (f : Frame) : Option Nat :=
  if f.bad ∨ 0 < f.uncorrectable then some 0
  else if f.bytes.length + 4 < 64 ∨ s.f F.portPCfgMtu f.port < f.bytes.length + 4 then some 1
  else if !s.macOk f.port f.bytes then some 2
  else
    match s.frameBody f with
    | .drop n => some n
    | .arp _ | .neighbour _ => none
    | .ptp m => if (Config.ptpSource s.boot.config m).isNone || !s.fb F.portPCfgPtp f.port then some 10 else none
    | .naelo p => s.pktReason f.port p

/-- A HANDSHAKE that its port takes below the rate reaches the signature checker. -/
def State.takesHs (s : State) (f : Frame) : Bool :=
  match s.frameBody f with
  | .naelo p => p.type == some .handshake && (s.dropReason f == none || s.dropReason f == some 6)
  | _ => false

/-- The codewords of a frame count in the port's PORT_p_FEC (R332). -/
def State.countFec (s : State) (f : Frame) : State :=
  let s := (s.fadd F.portPFecCorrected f.corrected f.port).fadd F.portPFecUncorrectable f.uncorrectable f.port
  s.fset F.portPFecMaxSymbols (max (s.f F.portPFecMaxSymbols f.port) (min f.symbols 15)) f.port

/-- The port sends PFC for its enabled classes whose receive buffer a frame takes past three quarters (R338). -/
def State.sendPfc (s : State) (f : Frame) : State :=
  (f.full.filter fun c => decide (c < 8) && s.f F.portPCfgPfcEn f.port / 2 ^ c % 2 == 1).foldl (fun s c => s.enqueue f.port 8 64 (.pfc f.port c)) s

/-- FRAME_RECEIVE: a frame is classified and counted; one that passes is handled by the command of its kind (R353). -/
def execFrameReceive (f : Frame) (s : State) : Host.Outcome State Fault Refusal :=
  let r := s.dropReason f
  let s := if s.takesHs f then s.countHs f.port else s
  let s := (s.countFec f).sendPfc f
  match r with
  | some n => .next (s.fadd F.portPDropNCount 1 f.port n)
  | none => .next (s.fadd F.portPFramesRx 1 f.port)

/-! ### Sending (R340, R341) -/

/-- Runs of consecutive numbers of an ascending list, as (first, last). -/
def runsUp : List Nat → List (Nat × Nat)
  | [] => []
  | n :: l =>
    match runsUp l with
    | (a, b) :: r => if a = n + 1 then (n, b) :: r else (n, n) :: (a, b) :: r
    | [] => [(n, n)]

/-- SACK ranges of a flow, at most 64, in the order of the most recent PSN that each holds, the most recent first (R341). -/
def Flow.sacks (x : Flow) : List (Nat × Nat) :=
  let runs := runsUp (sortNat x.received)
  ((x.received.filterMap fun n => runs.find? fun r => decide (r.1 ≤ n ∧ n ≤ r.2)).eraseDups).take 64

/-- Payload of an ACK: CE counts per path, then the SACK ranges (R341). -/
def Flow.ackPayload (x : Flow) : List Byte :=
  ((List.range 16).flatMap fun p => leBytes 2 (x.ce.getD p 0 % 2 ^ 16)) ++
    x.sacks.flatMap fun r => leBytes 4 (r.1 % 2 ^ 32) ++ leBytes 4 (r.2 % 2 ^ 32)

/-- Sends an ACK on the path of the packet that triggers it, with its TS. -/
def State.sendAck (s : State) (f path ts : Nat) : State :=
  match s.flow f with
  | none => s
  | some x => (s.setFlow f { x with sinceAck := [] }).sendPacket f .ack path ts x.ackPayload

/-! ### The sender's view of an acknowledgement (R345 to R348, R351) -/

/-- PSN at or below another, modulo 2^32. -/
def psnLe (a b : Nat) : Bool := decide ((b % 2 ^ 32 + 2 ^ 32 - a % 2 ^ 32) % 2 ^ 32 < 2 ^ 31)

/-- PSN within a range, modulo 2^32. -/
def psnIn (a : Nat) (r : Nat × Nat) : Bool := psnLe r.1 a && psnLe a r.2

/-- A path after some of its packets are acknowledged; an acknowledged PROBE ends its hold. -/
def Path.acknowledge (p : Path) (l : List Unacked) : Path :=
  { p with inFlight := p.inFlight - (l.map fun u => u.piece.len).sum, acked := p.acked + l.length
           held := if l.any (·.probe) then none else p.held }

/-- The flow after PSNs up to `cum` and those of the ranges are acknowledged, with what is acknowledged now. -/
def Flow.acknowledge (x : Flow) (cum : Nat) (ranges : List (Nat × Nat)) : Flow × List Unacked :=
  let done (u : Unacked) : Bool := psnLe u.psn cum || ranges.any (psnIn u.psn)
  let acked := x.unacked.filter done
  let after (u : Unacked) : Nat := (acked.filter fun w => w.path == u.path && decide (u.order < w.order)).length
  ({ x with
      unacked := (x.unacked.filter fun u => !done u).map fun u => { u with later := u.later + after u }
      paths := x.paths.mapIdx fun i p => p.acknowledge (acked.filter fun u => u.path == i) }, acked)

/-- SRTT and RTTVAR after a sample in ns (R347, RFC 6298). -/
def Flow.measure (x : Flow) (r : Nat) : Flow :=
  match x.srtt with
  | none => { x with srtt := some r, rttvar := (r : Rat) / 2 }
  | some v => { x with srtt := some (v + ((r : Rat) - v) / 8), rttvar := x.rttvar + (abs (v - (r : Rat)) - x.rttvar) / 4 }

/-- Retransmission timeout in ns for a packet that has expired `n` times (R347); RTO_MAX before the first sample. -/
def State.rto (s : State) (f : Nat) (x : Flow) (n : Nat) : Rat :=
  let lo : Rat := s.f F.naeloTimersRtoMin (flowDie f) * 1000
  let hi : Rat := s.f F.naeloTimersRtoMax (flowDie f) * 1000
  let base := match x.srtt with
    | some v => max lo (v + 4 * x.rttvar)
    | none => hi
  min hi (base * 2 ^ n)

/-- The end of a round of a path (R351). -/
def State.roundEnd (s : State) (f : Nat) (p : Path) (ce order : Nat) : Path :=
  let pmax : Rat := s.pmax (flowDie f)
  let top : Rat := s.f F.ccCfgCwndMax (flowDie f) * 1048576
  let g : Rat := ((ce + 2 ^ 16 - p.ceBase % 2 ^ 16) % 2 ^ 16 : Nat) / (p.acked : Rat)
  let alpha := p.alpha + (g - p.alpha) / 16
  let cwnd := if p.slow && g == 0 then 2 * p.cwnd else if 0 < g then p.cwnd * (1 - alpha / 2) else p.cwnd + pmax
  { p with alpha, slow := p.slow && !decide (0 < g), cwnd := min (max cwnd pmax) top, acked := 0, ceBase := ce, roundPsn := order }

/-- Rounds that an ACK ends: it covers a packet sent on the path after the round began. -/
def State.endRounds (s : State) (f : Nat) (x : Flow) (acked : List Unacked) (ce : List Nat) : Flow :=
  let ends (i : Nat) (p : Path) : Bool := acked.any fun u => u.path == i && decide (p.roundPsn ≤ u.order)
  { x with paths := x.paths.mapIdx fun i p => if ends i p then s.roundEnd f p (ce.getD i 0) x.order else p }

/-- A lost packet is sent again with RETX on the path with the most free window; without a path, or past WIN, it waits for its timer, and past RETX_LIMIT the flow fails (R346, R347, R350). -/
def State.resend (s : State) (f : Nat) (u : Unacked) : State :=
  if s.f F.naeloTimersRetxLimit (flowDie f) ≤ u.retx then s.failFlow f
  else
    match s.flow f with
    | none => s
    | some x =>
      let rest := x.unacked.filter fun w => w.psn != u.psn
      let u := { u with retx := u.retx + 1 }
      match (widestPath x).filter fun _ => decide (u.psn ≤ x.winOut) with
      | none => s.setFlow f { x with unacked := rest ++ [{ u with later := 0, sentAt := s.now }] }
      | some i =>
        let x := x.setPath u.path fun p => { p with inFlight := p.inFlight - u.piece.len }
        (s.setFlow f { x with unacked := rest }).putPacket f { u with path := i } true

/-- A packet lost by R346's first case: its path's window is halved. -/
def State.loseByAck (s : State) (f : Nat) (u : Unacked) : State :=
  match s.flow f with
  | some x => (s.setFlow f (x.setPath u.path fun p => { p with cwnd := p.cwnd / 2, slow := false })).resend f u
  | none => s

/-- Packets that an ACK shows lost are sent again, in PSN order of sending. -/
def State.resendLost (s : State) (f : Nat) : State :=
  match s.flow f with
  | some x => (x.unacked.filter fun u => decide (2 ≤ u.later)).foldl (fun s u => if s.flowLive f then s.loseByAck f u else s) s
  | none => s

/-- Highest PSN the peer accepts, on this part's count. -/
def winAt (next win : Nat) : Nat :=
  let d := (win % 2 ^ 32 + 2 ^ 32 - next % 2 ^ 32) % 2 ^ 32
  if d < 2 ^ 31 then next + d else next - (2 ^ 32 - d)

/-- SRTT of a flow shows in µs (Table 10.22). -/
def State.showSrtt (s : State) (f : Nat) (x : Flow) : State :=
  match x.srtt with
  | some v => s.fset F.flowFStatusSrtt (min 65535 (v / 1000).floor.toNat) f
  | none => s

/-- Acknowledgement data of a packet: ACK_PSN and WIN, and for an ACK its CE counts, ranges and TS; an ACK for what is acknowledged already changes nothing (R348). -/
def State.takeAck (s : State) (p : Pkt) (ack : Bool) : State :=
  let f := p.dstFlow
  match s.flow f with
  | none => s
  | some x =>
    let ranges := if ack then (chunksOf 8 ((p.payload.length - 32) / 8) (p.payload.drop 32)).map fun c => (leAt c 0 4, leAt c 4 4) else []
    let (x, acked) := x.acknowledge p.ackPsn ranges
    if ack && acked.isEmpty then s
    else
    let x := { x with winOut := winAt x.nextPsn p.win }
    let x := if ack then x.measure ((s.ns + 2 ^ 32 - p.ts % 2 ^ 32) % 2 ^ 32) else x
    let x := if ack then s.endRounds f x acked ((List.range 16).map fun i => leAt p.payload (2 * i) 2) else x
    let s := ((s.setFlow f x).showSrtt f x).resendLost f
    let n := match s.flow f with | some x => x.backlog.length | none => 0
    (s.pump f n).drain f

/-- The TXC of a packet that this part takes is accepted. -/
def State.acceptTxc (s : State) (p : Pkt) : State :=
  { s with sessions := updateAll s.sessions (fun x => x.peer == p.srcPart && x.feeder == p.feeder && x.ready) fun x => x.takeTxc s.now p.key p.txc }

/-- A sealed packet of a type passes the checks of Table 10.6 up to reason 9, and its PSN does not lie above WIN. -/
def State.takesPkt (s : State) (p : Pkt) (t : PktType) : Bool :=
  p.ver == 1 && p.dstPart == s.me && p.type == some t && (s.sealedReason p t == none || s.sealedReason p t == some 12)

/-- ACK_RECEIVE (R346 to R348, R351). -/
def execAckReceive (p : Pkt) (s : State) : Host.Outcome State Fault Refusal :=
  if s.takesPkt p .ack then .next ((s.acceptTxc p).takeAck p true) else .next s

/-! ### The receiver (R344, R345, R355) -/

/-- PSNs received after one more: the base moves over those without a gap. -/
def Flow.advanceBase : Nat → Flow → Flow
  | 0, x => x
  | k + 1, x =>
    if x.received.contains x.ackBase then
      Flow.advanceBase k { x with received := x.received.filter fun n => n != x.ackBase, ackBase := x.ackBase + 1, winIn := x.winIn + 1 }
    else x

/-- A new PSN is received; the Boolean tells that its arrival opens or fills a gap: it is not the one after the highest received. -/
def Flow.receive (x : Flow) (n : Nat) : Flow × Bool :=
  let next := if x.received.isEmpty then x.ackBase else x.received.foldl max 0 + 1
  let y := { x with received := n :: x.received }
  (y.advanceBase y.received.length, n != next)

/-- A message whose every byte up to its end has been delivered (R344). -/
def Message.complete (m : Message) : Bool := m.fin == some ((m.pieces.map fun p => p.2.length).sum)

/-- Bytes of a complete message. -/
def Message.bytes (m : Message) : List Byte :=
  ((sortNat (m.pieces.map (·.1))).filterMap fun o => (m.pieces.find? fun p => p.1 == o).map (·.2)).flatten

/-- One DATA payload enters its message; a complete message leaves, with its bytes. -/
def Flow.deliver (x : Flow) (p : Pkt) : Flow × Option (List Byte) :=
  let m := (x.messages.find? fun m => m.num == p.msg).getD ⟨p.msg, [], none⟩
  let m := { m with pieces := m.pieces ++ [(p.offset, p.payload)], fin := if p.last then some (p.offset + p.payload.length) else m.fin }
  let rest := x.messages.filter fun m => m.num != p.msg
  if m.complete then ({ x with messages := rest }, some m.bytes) else ({ x with messages := rest ++ [m] }, none)

/-- This part is the keeper peer of a part (R385). -/
def State.keeps (s : State) (part : Nat) : Bool :=
  let off := s.f F.shipCtrlKeepOffset
  s.jobRuns && off != 0 && (s.shardsOf part).any fun k => decide (k < s.jobShards) && s.holder ((k + off) % max 1 s.jobShards) == s.me

/-- A place of `n` bytes in the ward area beside the records it holds; none where the area is full. -/
def State.wardPlace (s : State) (l : List (Nat × Nat × Nat)) (n : Nat) : Option Nat :=
  (0 :: l.map fun r => r.2.1 + r.2.2).find? fun o =>
    decide (o + n ≤ s.f F.shipAreaSize * 0x40000000) && l.all fun r => !overlaps o n r.2.1 r.2.2

/-- Ward records that a part ships are appended to the ward area; those at or below the checkpoint epoch are discarded first (R385). -/
def State.takeWard (s : State) (part : Nat) (l : List Byte) : State :=
  if s.keeps part && isExport l.length l then
    let kept := s.ward.filter fun r => decide (s.f F.hallCkptEpoch < r.1)
    match s.wardPlace kept l.length with
    | some o =>
      { (s.writeBytes .hbm (s.f F.shipAreaBase + o) l).1 with ward := kept ++ [(leNat (l.take 64) / 2 ^ 448, o, l.length)] }
    | none => { s with ward := kept }
  else s

/-- The answer of a member that this part asked: the words of the step header, the commit records and the hall areas land in the Ledger, the registers that show them follow, the Keeper's own entries stay, and a part that finds itself declared lost leaves its job (R367, R372, R439; log entry 107). -/
def State.takeLedger (s : State) (part : Nat) (l : List Byte) : State :=
  if !s.boot.asked.contains part then s
  else
    match Config.ledgerAreas l with
    | none => s
    | some areas =>
      let s := { s with boot := { s.boot with asked := [] } }
      let s := (areas.filter fun a => decide (a.1 + a.2.length ≤ 0x10000000)).foldl (fun s a => (s.writeBytes .ledgerE a.1 a.2).1) s
      let s := (Config.keeperShards s.boot.config).foldl (fun s m => s.setLed (0x03100000 + 2 * (m.1 % 65536)) 2 m.2) s
      let s := ((s.setEpoch (s.led 0 8)).setScale s.lsExp (s.led 0x12 2)).showHall
      let s := if s.memberState s.me == memberLost then s.leaveJob else s
      (s.seedBeats).showPart

/-- A DATA packet carries new work: its message has not begun, and it is a request, or no operation of this part waits for a reply on its flow (R355). -/
def State.newWork (s : State) (p : Pkt) (x : Flow) : Bool :=
  !(x.messages.any fun m => m.num == p.msg) &&
    (!(s.execs.any fun e => usesFlow p.dstFlow e && e.result.isNone) || (p.offset == 0 && Config.isRequest p.payload))

/-- The packet's arrival waits for an ACK, which goes at once for a gap and with the sixteenth packet (R345). -/
def State.noteArrival (s : State) (p : Pkt) (gap : Bool) : State :=
  match s.flow p.dstFlow with
  | none => s
  | some x =>
    let x := { x with sinceAck := x.sinceAck ++ [(s.now, p.path, p.ts)] }
    let s := s.setFlow p.dstFlow x
    if gap || decide (16 ≤ x.sinceAck.length) then s.sendAck p.dstFlow p.path p.ts else s

/-- A CE mark on a path (R341). -/
def Flow.mark (x : Flow) (p : Pkt) : Flow := if p.ce then { x with ce := addAt x.ce p.path 1 } else x

/-- A new DATA packet: delivered, or in Hove-to answered with STATUS HOVE_TO where it carries new work (R344, R355). -/
def State.takeData (s : State) (p : Pkt) (x : Flow) (n : Nat) : State :=
  let (x, gap) := ({ x with peerFlow := p.srcFlow }.mark p).receive n
  if s.inHove && s.newWork p x then
    ((s.setFlow p.dstFlow x).sendPacket p.dstFlow .status p.path p.ts (statusPayload 1 p.psn)).noteArrival p gap
  else
    let (x, whole) := x.deliver p
    let s := s.setFlow p.dstFlow x
    let s := if p.feeder then s.feederData p.dstFlow p.offset p.payload whole else s
    let s := match whole with
      | some l => if p.feeder || s.inHove then s else (s.takeWard p.srcPart l).takeLedger p.srcPart l
      | none => s
    s.noteArrival p gap

/-- A duplicate DATA packet: its CE mark counts, and it is acknowledged at once (R341, R345). -/
def State.repeated (s : State) (p : Pkt) (x : Flow) : State := (s.setFlow p.dstFlow (x.mark p)).sendAck p.dstFlow p.path p.ts

/-- A DATA packet of a flow that has a new place is taken; one that has none is a duplicate (R344, R345). -/
def State.placeData (s : State) (p : Pkt) (x : Flow) : Option Nat → State
  | none => s.repeated p x
  | some n =>
    let s := s.takeAck p false
    match s.flow p.dstFlow with
    | some x => s.takeData p x n
    | none => s

/-- DATA_RECEIVE: a DATA packet is accepted once; a duplicate is acknowledged at once and not delivered again (R344, R345). -/
def execDataReceive (p : Pkt) (s : State) : Host.Outcome State Fault Refusal :=
  if !s.takesPkt p .data then .next s
  else
    let s := s.acceptTxc p
    match s.flow p.dstFlow with
    | none => .next s
    | some x => .next (s.placeData p x ((psnAt x.ackBase p.psn).filter fun n => !x.received.contains n))

/-- PROBE_RECEIVE: a PROBE takes its PSN and is acknowledged at once (R350). -/
def execProbeReceive (p : Pkt) (s : State) : Host.Outcome State Fault Refusal :=
  if !s.takesPkt p .probe then .next s
  else
    let s := s.acceptTxc p
    match s.flow p.dstFlow with
    | none => .next s
    | some x =>
      let x := { x with peerFlow := p.srcFlow }.mark p
      let x := match psnAt x.ackBase p.psn with
        | some n => if x.received.contains n then x else (x.receive n).1
        | none => x
      .next ((s.setFlow p.dstFlow x).sendAck p.dstFlow p.path p.ts)

/-- ACK_DELAY_EXPIRY: 1 µs after the first packet not yet acknowledged, an ACK goes on its path (R345). -/
def execAckDelayExpiry (flow : Nat) (s : State) : Host.Outcome State Fault Refusal :=
  match (s.flow flow).bind fun x => x.sinceAck.head? with
  | some (t, path, ts) => if t + 1 ≤ s.now ∧ s.flowLive flow then .next (s.sendAck flow path ts) else .next s
  | none => .next s

/-- STATUS HOVE_TO ends the oldest operation outstanding on the flow (Table 11.4). -/
def State.hoveAnswer (s : State) (f : Nat) : State :=
  match s.execs.find? fun x => usesFlow f x && x.result.isNone with
  | some x => s.remoteHove x.q x
  | none => s

/-- STATUS_RECEIVE: HOVE_TO ends an operation, BUSY lowers WIN; NO_FLOW leaves the packets to their timers (Table 10.4, R352). -/
def execStatusReceive (p : Pkt) (s : State) : Host.Outcome State Fault Refusal :=
  if !s.takesPkt p .status then .next s
  else
    let s := s.acceptTxc p
    match leAt p.payload 0 1, s.flow p.dstFlow with
    | 1, _ => .next (s.hoveAnswer p.dstFlow)
    | 3, some x => .next (s.setFlow p.dstFlow { x with winOut := winAt x.nextPsn p.win })
    | _, _ => .next s

/-! ### Timers and paths (R347, R350) -/

/-- A path is held: its window is one packet, event 0x7200 reports it, and PATH_HOLD ticks pass before its PROBE (R350, R351). -/
def State.holdPath (s : State) (f i : Nat) : State :=
  match s.flow f with
  | none => s
  | some x =>
    let until_ := s.now + s.f F.naeloTimersPathHold (flowDie f)
    (s.setFlow f (x.setPath i fun p => { p with cwnd := s.pmax (flowDie f), held := some until_ })).raise 0x7200 748

/-- A flow that was held back takes packets again once its die has room: WIN is what it was, and a STATUS tells of it (R352). -/
def State.reopenFlow (s : State) (f : Nat) : State :=
  match s.flow f with
  | some x =>
    if x.winIn < x.ackBase + 65535 ∧ s.flowLive f ∧ s.heldBytes (flowDie f) < 0x400000 then
      (s.setFlow f { x with winIn := x.ackBase + 65535 }).sendBusy f
    else s
  | none => s

/-- The flows that were held back, at a tick edge. -/
def State.reopenFlows (s : State) : State := (s.flows.map (·.1)).foldl State.reopenFlow s

/-- RTO_EXPIRY: a packet's timer expires, its path is held and it is sent again (R346, R347, R350). -/
def execRtoExpiry (flow psn : Nat) (s : State) : Host.Outcome State Fault Refusal :=
  match s.flow flow with
  | none => .next s
  | some x =>
    match x.unacked.find? fun u => u.psn % 2 ^ 32 == psn % 2 ^ 32 with
    | none => .next s
    | some u =>
      if s.flowLive flow && decide (s.rto flow x u.expiries ≤ ((s.now - u.sentAt) * 1000 : Nat)) then
        .next ((s.holdPath flow u.path).resend flow { u with expiries := u.expiries + 1 })
      else .next s

/-- PATH_HOLD_EXPIRY: a held path sends a PROBE, and returns once it is acknowledged (R350). -/
def execPathHoldExpiry (flow path : Nat) (s : State) : Host.Outcome State Fault Refusal :=
  match s.flow flow with
  | none => .next s
  | some x =>
    match x.paths[path]? with
    | none => .next s
    | some p =>
      if s.flowLive flow && decide (x.nextPsn ≤ x.winOut) && decide (x.unacked.length < 65536) && !p.down && p.held.any (fun t => decide (t ≤ s.now)) && !x.unacked.any fun u => u.probe && u.path == path then
        .next ((s.setFlow flow { x with nextPsn := x.nextPsn + 1 }).putPacket flow ⟨x.nextPsn, path, 0, ⟨0, 0, 0, false, []⟩, 0, 0, 0, true, 0⟩ false)
      else .next s

end Sys2Proof.Machine
end

