-- ==== Sys2Proof/Machine/Ports.lean ====
section
/-! DEFINITION. Ethernet ports (R329 to R338): neighbour and gateway resolution, PFC, links going down and coming up, and port groups. -/

namespace Sys2Proof.Machine

/-! ### Addresses (R336, R365) -/

/-- The port exists in the grade and its link is up. -/
def State.portUp (s : State) (p : Nat) : Bool := decide (p < 32) && s.fb F.portPStatusUp p

/-- Sends one frame of the port itself. -/
def State.sendFrame (s : State) (p : Nat) (o : Out) : State := s.enqueue p 8 64 o

/-- ARP_REQUEST: an IPv4 port answers for its own address only (R336). -/
def execArpRequest (port target : Nat) (s : State) : Host.Outcome State Fault Refusal :=
  if s.portUp port && !s.fb F.portPCfgIpv6 port && target == s.portAddress port then .next (s.sendFrame port (.arpReply port)) else .next s

/-- NEIGHBOUR_SOLICITATION: an IPv6 port answers for its own address only (R336). -/
def execNeighbourSolicitation (port target : Nat) (s : State) : Host.Outcome State Fault Refusal :=
  if s.portUp port && s.fb F.portPCfgIpv6 port && target == s.portAddress port then .next (s.sendFrame port (.neighbourAdvert port))
  else .next s

/-- Ten seconds have passed since a port last resolved its gateway, or it never has (R336). -/
def State.gatewayDue (s : State) (port : Nat) : Bool :=
  s.gatewayAt.all fun g => g.1 != port || decide (g.2 + 10000000 ≤ s.now)

/-- GATEWAY_RESOLVE: the resolution of a port's gateway every 10 s; an answer gives the MAC address that every packet goes to (R336). -/
def execGatewayResolve (port : Nat) (mac : Option Nat) (s : State) : Host.Outcome State Fault Refusal :=
  if !s.portUp port || !s.gatewayDue port then .next s
  else
    let at_ := (s.gatewayAt.filter fun (g : Nat × Nat) => g.1 != port) ++ [(port, s.now)]
    let s := ({ s with gatewayAt := at_ } : State).sendFrame port (.gatewayQuery port)
    match mac with
    | some m => .next { s with gateways := (s.gateways.filter fun g => g.1 != port) ++ [(port, some m)] }
    | none => .next s

/-! ### PFC (R338) -/

/-- Sends what a flow has waiting. -/
def State.pumpFlow (s : State) (f : Nat) : State := s.pump f (match s.flow f with | some x => x.backlog.length | none => 0)

/-- Sends what the flows of a port's die have waiting. -/
def State.pumpDie (s : State) (port : Nat) : State :=
  ((s.flows.map (·.1)).filter fun f => flowDie f == port / 16).foldl State.pumpFlow s

/-- PFC_FRAME: the classes enabled in PFC_EN that it names pause, and the others go on (R338). -/
def execPfcFrame (port classes : Nat) (s : State) : Host.Outcome State Fault Refusal :=
  if !s.portUp port then .next s
  else
    let held := Nat.land classes (s.f F.portPCfgPfcEn port)
    let rest := s.paused.filter fun p => p.1 != port
    .next ({ s with paused := if held = 0 then rest else rest ++ [(port, held)] }.pumpDie port)

/-! ### Links (R329, R333, R349, R350) -/

/-- Lanes that a port's SPEED uses (Table 10.1). -/
def State.lanesUsed (s : State) (p : Nat) : Nat :=
  match s.f F.portPCfgSpeed p with
  | 1 => 1 | 2 => 2 | 3 => 4 | 4 => 8 | _ => 0

/-- Paths of a flow on a port go down or come up again; what was last sent on a path that goes down is sent again at once on others (R350). -/
def State.turnPaths (s : State) (port : Nat) (down : Bool) (f : Nat) : State :=
  match s.flow f with
  | none => s
  | some x =>
    if !x.paths.any (fun p => p.port == port) then s
    else
      let s := s.setFlow f { x with paths := x.paths.map fun p => if p.port = port then { p with down } else p }
      let lost := x.unacked.filter fun u => down && (x.paths.getD u.path default).port == port
      lost.foldl (fun s u => if s.flowLive f then s.resend f u else s) s

/-- Every flow of a port's die takes the port's change. -/
def State.turnFlows (s : State) (port : Nat) (down : Bool) : State :=
  ((s.flows.map (·.1)).filter fun f => flowDie f == port / 16).foldl (fun s f => s.turnPaths port down f) s

/-- A link that is up is lost: DOWNS counts it, event 0x4010 reports it, and its paths leave every spray set (R333). -/
def State.portDown (s : State) (p : Nat) : State :=
  if !s.portUp p then s
  else
    let s := (s.fset F.portPStatusUp 0 p).fset F.portPStatusState 4 p
    let s := ((s.fset F.portPStatusLocked 0 p).fadd F.portPStatusDowns 1 p).latch { code := 0x4010, source := 748, detail := p }
    { s with paused := s.paused.filter fun x => x.1 != p, lines := s.lines.filter fun x => x.1 != p }.turnFlows p true

/-- PORT_LINK_DOWN: the PCS of a port loses lock on a lane that it uses; which lanes it keeps is free (R333, Table 10.17; log entry 173). -/
def execPortLinkDown (port : Nat) (s : State) : Host.Outcome State Fault Refusal :=
  if !s.portUp port then .next s
  else
    let old := s.f F.portPStatusLocked port
    let (v, s) := s.open_
    let kept := Nat.land old v.toNat
    .next ((s.portDown port).fset F.portPStatusLocked (if kept = old then clearBit old 0 else kept) port)

/-- PORT_LINK_UP: lanes of an enabled port that is not up are locked: with every lane that it uses the port is up, with fewer it trains (R333, Table 10.17). -/
def execPortLinkUp (port lanes : Nat) (s : State) : Host.Outcome State Fault Refusal :=
  let n := s.lanesUsed port
  let st := s.f F.portPStatusState port
  if 32 ≤ port ∨ Reg.absent s.grade ⟨.portPStatus, port, 0⟩ ∨ n = 0 ∨ s.portUp port ∨ st = 0 ∨ st = 5 ∨ s.fb F.portPStatusFault port ∨ lanes % 2 ^ n = 0 then .next s
  else if lanes % 2 ^ n ≠ 2 ^ n - 1 then .next ((s.fset F.portPStatusState 2 port).fset F.portPStatusLocked (lanes % 2 ^ n) port)
  else
    let s := (s.fset F.portPStatusUp 1 port).fset F.portPStatusState 3 port
    let s := (s.fset F.portPStatusLocked (lanes % 2 ^ n) port).latch { code := 0x4011, source := 748, detail := port }
    .next ((s.turnFlows port false).pumpDie port)

/-! ### Port groups (R330, R333, Table 13.4) -/

/-- Domain of a port group. -/
def groupDomain (g : Nat) : Nat := 0x200 + g % 8

/-- Port positions of a group that the grade has. -/
def State.groupPorts (s : State) (g : Nat) : List Nat :=
  ((List.range 4).map fun i => g % 8 * 4 + i).filter fun p => !Reg.absent s.grade ⟨.portPStatus, p, 0⟩

/-- The group enters recovery: its ports are down and show FAULT (Table 10.17). -/
def State.groupFaults (s : State) (g : Nat) : State :=
  (s.groupPorts g).foldl (fun s p => (s.portDown p).fset F.portPStatusFault 1 p) s

/-- The group's ports are disabled; a lost group shows FUSED (Tables 13.4, 14.9). -/
def State.groupOff (s : State) (g st : Nat) : State :=
  (s.groupPorts g).foldl (fun s p => ((s.portDown p).fset F.portPStatusFault 0 p).fset F.portPStatusState st p) s

/-- The group's enabled ports negotiate again. -/
def State.groupRetry (s : State) (g : Nat) : State :=
  (s.groupPorts g).foldl (fun s p =>
    let s := s.fset F.portPStatusFault 0 p
    if s.portUp p then s else s.fset F.portPStatusState (if s.lanesUsed p = 0 then 0 else 1) p) s

/-- PORT_GROUP_FAULT: a fault in a group's SerDes or MAC logic; the tick edge that takes it puts the domain into recovery (R333, R427). -/
def execPortGroupFault (group : Nat) (s : State) : Host.Outcome State Fault Refusal :=
  if (s.groupPorts group).isEmpty then .next s else .next (s.faultDomain (groupDomain group) 0xFF (group % 8))

/-- A live operation on the group ends with its domain's recovery (Table 14.9). -/
def State.endGroupOp (s : State) (g : Nat) (st : Status) : State :=
  if s.liveOn 4 (g % 8) || s.liveOn 6 (g % 8) then s.liveDone st else s

/-- PORT_GROUP_RECOVERY_END: the group returns to service, or is lost (Table 13.4). -/
def execPortGroupRecoveryEnd (group : Nat) (ok : Bool) (s : State) : Host.Outcome State Fault Refusal :=
  let d := groupDomain group
  if !s.inRecovery d then .next s
  else if ok then
    let live := s.liveOn 4 (group % 8) || s.liveOn 6 (group % 8)
    let s := s.groupRetry group
    .next (if live then (s.releaseSlot d).endGroupOp group .ok else s.domainBack d)
  else .next ((s.loseDomain d).endGroupOp group .aborted)

end Sys2Proof.Machine
end

