-- ==== Sys2Proof/Machine/Inputs.lean ====
section
/-! DEFINITION. The sampled sideband inputs (R408, R409): their levels, transitions, windows of 1,000 ticks, and masking. -/

namespace Sys2Proof.Machine

/-- A sideband input is masked (R409). -/
def State.masked (s : State) (i : Nat) : Bool := s.f F.sbStatusMasked / 2 ^ i % 2 == 1

/-- The last level taken of a sideband input (Table 12.13). -/
def State.setLevel (s : State) (i : Nat) (high : Bool) : State :=
  let v := s.f F.sbStatusLevel
  s.fset F.sbStatusLevel (if high then setBit v i else clearBit v i)

/-- Last level taken of an input. -/
def State.levelHigh (s : State) (i : Nat) : Bool := s.f F.sbStatusLevel / 2 ^ i % 2 == 1

/-- Transitions of an input in the last 1,000 ticks. -/
def Sideband.window (b : Sideband) (i : Nat) : Nat := ((b.edges.filter fun e => e.1 == i).map fun e => e.2.2).sum

/-- WINDOW of an input, which stops at 255 (Table 12.14). -/
def State.showWindow (s : State) (i : Nat) : State := s.fset F.sbCountIWindow (min (s.sideband.window i) 255) i

/-- Masks an input; the windows that may unmask it start afresh. -/
def State.maskInput (s : State) (i : Nat) : State :=
  { s with sideband := { s.sideband with quiets := (s.sideband.quiets.filter fun (w : QuietRun) => w.input != i) ++ [({ input := i } : QuietRun)] } }.fset
    F.sbStatusMasked (setBit (s.f F.sbStatusMasked) i)

/-- More than 8 transitions in 1,000 ticks mask PTP_PPS_IN or HOLD_N, and report PERST_N once until a window of at most 2 (R409, R410). -/
def State.chatter (s : State) (i : Nat) : State :=
  if s.sideband.window i ≤ 8 then s
  else if i = 0 then
    if s.sideband.perstReported then s
    else ({ s with sideband := { s.sideband with perstReported := true } }.fadd F.sbCountIMaskings 1 0).raise 0x3020 745
  else if s.masked i then s
  else ((s.maskInput i).fadd F.sbCountIMaskings 1 i).raise (0x3020 + i) 745

/-- Counts `n` transitions of an input, masked or not (R408, R409). -/
def State.countEdges (s : State) (i n : Nat) : State :=
  let s := s.fadd F.sbCountITransitions n i
  let b := s.sideband
  let s := { s with sideband := { b with
    edges := b.edges ++ [(i, 0, n)]
    quiets := b.quiets.map fun (w : QuietRun) => if w.input == i then { w with transitions := w.transitions + n } else w } }
  (s.showWindow i).chatter i

/-- Transitions of a pulse that is too short to be taken: two changes, or one firing of the edge latch where the synchroniser saw none, which a length of 0 ticks stands for (R408; log entry 80). -/
def pulseEdges (ticks : Nat) : Nat := if ticks = 0 then 1 else 2

/-- A masked input's windows, one tick on: each spans 1,000 ticks and is quiet with at most 2 transitions (R409). -/
def QuietRun.tick (w : QuietRun) : QuietRun :=
  if w.ticks + 1 < 1000 then { w with ticks := w.ticks + 1 }
  else { input := w.input, quiet := if w.transitions ≤ 2 then w.quiet + 1 else 0 }

/-- The inputs one tick on: transitions leave the windows after 1,000 ticks, and PERST_N may be reported again after a window of at most 2 (R409, R410). -/
def State.ageInputs (s : State) : State :=
  let b := s.sideband
  let edges := (b.edges.map fun e => (e.1, e.2.1 + 1, e.2.2)).filter fun e => decide (e.2.1 < 1000)
  let s := { s with sideband := { b with
    edges, quiets := b.quiets.map QuietRun.tick
    perstReported := b.perstReported && decide (2 < { b with edges }.window 0) } }
  (List.range 3).foldl State.showWindow s

/-- An input is unmasked: event 0x7028 + i; its next level is taken afresh. -/
def State.unmask (s : State) (i : Nat) : State :=
  if s.masked i then
    ({ s with sideband := { s.sideband with quiets := s.sideband.quiets.filter fun (w : QuietRun) => w.input != i } }.fset
      F.sbStatusMasked (clearBit (s.f F.sbStatusMasked) i)).raise (0x7028 + i) 745
  else s

/-- A masked input has been quiet for 1,000 windows in a row. -/
def State.longQuiet (s : State) (i : Nat) : Bool := s.sideband.quiets.any fun w => w.input == i && decide (1000 ≤ w.quiet)

end Sys2Proof.Machine
end

