-- ==== Sys2Proof/Machine/Time.lean ====
section
/-! DEFINITION. Time (R359 to R363, R396, R399): the PTP state machine, its messages, the PPS input and the loss of AON_REFCLK. -/

namespace Sys2Proof.Machine

/-! ### PTP states (Table 10.24) -/

/-- PTP states. -/
def ptpFree : Nat := 0
@[inherit_doc ptpFree] def ptpAcquiring : Nat := 1
@[inherit_doc ptpFree] def ptpLocked : Nat := 2
@[inherit_doc ptpFree] def ptpHoldover : Nat := 3
@[inherit_doc ptpFree] def ptpFault : Nat := 4

/-- STATE of PTP_STATUS. -/
def State.ptpState (s : State) : Nat := s.f F.ptpStatusState

/-- PTP enters a state: leaving LOCKED clears HALL and raises 0x4030, entering it sets HALL unless the internal oscillator drives the tick, FAULT raises 0x4031, and FAULT and HOLDOVER begin without slewing (R360, R361, R399). -/
def State.enterPtp (s : State) (st : Nat) : State :=
  let was := s.ptpState
  let s := { s.fset F.ptpStatusState st with ptp := { s.ptp with
    good := if st = was then s.ptp.good else 0
    target := if st = ptpFault ∨ st = ptpHoldover then 0 else s.ptp.target } }
  let s := if was = ptpLocked ∧ st ≠ ptpLocked then (s.fset F.tickStatusHall 0).raise 0x4030 748 else s
  let s := if st = ptpLocked ∧ !s.fb F.tickStatusBackup then s.fset F.tickStatusHall 1 else s
  if st = ptpFault ∧ was ≠ ptpFault then (s.fset F.tickStatusHall 0).raise 0x4031 748 else s

/-- A signed number held to the range of a field of `w` bits. -/
def saturate (w : Nat) (v : Int) : Int := max (-(2 ^ (w - 1) : Int)) (min v (2 ^ (w - 1) - 1))

/-- Slews toward the source: single tick periods are lengthened or shortened by 1.25 ns each until the offset is gone (R360, R397). -/
def State.slew (s : State) (off : Int) : State := { s with ptp := { s.ptp with target := (-off * 4).tdiv 5 } }

/-- Slew that steps of 1.25 ns, each with its sign, add up to, in whole ns (R397; log entry 164). -/
def slewNs (l : List (Nat × Int)) : Int := ((l.map (·.2)).sum * 5).tdiv 4

/-- One tick of slewing: one step of 1.25 ns where one is due and fewer than 80 steps, 100 ns, lie in the last 1,000 ticks, which ADJ_NS adds up (R397, Table 12.8). -/
def State.slewTick (s : State) : State :=
  let p := s.ptp
  let l := (p.slews.map fun x => (x.1 + 1, x.2)).filter fun x => decide (x.1 < 1000)
  let p := if p.target = 0 ∨ 80 ≤ l.length then { p with slews := l }
    else { p with slews := l ++ [(0, p.target.sign)], target := p.target - p.target.sign }
  { s with ptp := p }.fset F.tickStatusAdjNs (slewNs p.slews % 2 ^ 16).toNat

/-- Steps TICK_COUNT to the source's time in whole ticks and sets STEPPED; the Announce timeouts go on from the new count (R361, R399). -/
def State.stepTick (s : State) (off : Int) : State :=
  let t := (((s.now : Int) * 1000 - off) / 1000).toNat
  let announced := s.ptp.announced.map fun a => (a.1, a.2.1, a.2.2 - s.now + t)
  ({ s with ptp := { s.ptp with announced }, boot := { s.boot with stepped := s.boot.stepped + (t - s.now : Int) } }.fset F.tickCountTicks t).fraise F.tickStatusStepped

/-- One more offset: consecutive ones below 200 ns lock PTP at 16 (R360). -/
def State.countGood (s : State) (off : Int) : State :=
  let good := if off.natAbs < 200 then s.ptp.good + 1 else 0
  let s := { s with ptp := { s.ptp with good } }
  if 16 ≤ good ∧ s.ptpState ≠ ptpLocked then s.enterPtp ptpLocked else s

/-- FAULT with an offset: without a job the tick is stepped once two offsets agree within 200 ns; with one it is slewed until 16 offsets lie below 200 ns (R361). -/
def State.faultOffset (s : State) (off : Int) : State :=
  if s.jobRuns then (s.slew off).countGood off
  else
    match s.ptp.last with
    | some o => if (off - o).natAbs ≤ 200 then (s.stepTick off).enterPtp ptpAcquiring else s
    | none => s

/-- A usable offset from the selected source, in ns, local time less the source's: FREE and HOLDOVER go to ACQUIRING, and beyond 10 µs to FAULT (R360, R361). -/
def State.takeOffset (s : State) (off : Int) : State :=
  let s := s.fset F.ptpStatusOffset ((saturate 32 off) % 2 ^ 32).toNat
  let st := s.ptpState
  let s :=
    if st = ptpFault then s.faultOffset off
    else if 10000 < off.natAbs then s.enterPtp ptpFault
    else ((if st = ptpFree ∨ st = ptpHoldover then s.enterPtp ptpAcquiring else s).slew off).countGood off
  { s with ptp := { s.ptp with lastSync := s.now, last := if s.ptpState = ptpFault then some off else none } }

/-- Port of a source. -/
def State.ptpPortOf (s : State) (source : Nat) : Nat := Config.ptpPort s.boot.config source % 32

/-- The image lists the source and its port runs PTP (R359). -/
def State.ptpSource (s : State) (source : Nat) : Bool := decide (source < s.f F.ptpCfgSources) && s.fb F.portPCfgPtp (s.ptpPortOf source)

/-- The source is one that may speak, still announces itself and is the one selected (R359). -/
def State.selected (s : State) (source : Nat) : Bool :=
  s.ptpSource source && source == s.f F.ptpStatusSource && s.ptp.announced.any fun a => a.1 == source

/-- Asymmetry of the path that a source's messages take, in ns: ASYM of the source's port, signed (R363). -/
def State.asymmetry (s : State) (source : Nat) : Int :=
  let v := s.f F.portPCfgAsym (s.ptpPortOf source)
  if v < 2048 then v else (v : Int) - 4096

/-- The offset from a source: what a Sync measured, the difference of its two timestamps, less the measured delay of its path and the asymmetry of the port (R359, R363; log entry 135). -/
def State.compensated (s : State) (source : Nat) (offset : Int) : Int := offset - s.ptp.delay - s.asymmetry source

/-- PTP_SYNC: a one-step Sync gives an offset; a two-step one waits for its Follow_Up (R359, R360). -/
def execPtpSync (source : Nat) (offset : Int) (twoStep : Bool) (s : State) : Host.Outcome State Fault Refusal :=
  if !s.selected source then .next s
  else if twoStep then .next { s with ptp := { s.ptp with twoStep := some source } }
  else .next (s.takeOffset (s.compensated source offset))

/-- PTP_FOLLOW_UP: completes a two-step Sync. -/
def execPtpFollowUp (source : Nat) (offset : Int) (s : State) : Host.Outcome State Fault Refusal :=
  if s.selected source && s.ptp.twoStep == some source then .next ({ s with ptp := { s.ptp with twoStep := none } }.takeOffset (s.compensated source offset))
  else .next s

/-- PTP_DELAY_RESP: the answer to the part's Delay_Req gives the path delay to the selected source. -/
def execPtpDelayResp (source : Nat) (delay : Int) (s : State) : Host.Outcome State Fault Refusal :=
  if s.selected source && s.ptp.asked == some source then .next { s with ptp := { s.ptp with delay, asked := none } } else .next s

/-- What the best master clock algorithm compares of two grandmasters, in its order (R359; log entry 163). -/
def announceRank (a : Announce) : List Nat := [a.priority1, a.clockClass, a.accuracy, a.variance, a.priority2, a.identity, a.steps]

/-- The first of two ranks that differ decides; lower is better. -/
def rankLt : List Nat → List Nat → Bool
  | a :: l, b :: m => decide (a < b) || (a == b && rankLt l m)
  | _, _ => false

/-- The best of the sources that announce themselves, the lower index among equals (R359). -/
def bestSource (l : List (Nat × Announce × Nat)) : Option Nat :=
  (l.foldl (fun (b : Option (Nat × Announce × Nat)) x =>
    match b with
    | none => some x
    | some y => if rankLt (announceRank x.2.1 ++ [x.1]) (announceRank y.2.1 ++ [y.1]) then some x else some y) none).map (·.1)

/-- The best master clock algorithm: sources that no longer announce themselves are left out, and a change of source begins its measurements anew (R359). -/
def State.elect (s : State) : State :=
  let l := s.ptp.announced.filter fun a => decide (s.now < a.2.2)
  let s := { s with ptp := { s.ptp with announced := l } }
  match bestSource l with
  | none => s
  | some b =>
    if b = s.f F.ptpStatusSource ∧ s.ptpPortOf b = s.f F.ptpStatusPort then s
    else
      ({ s with ptp := { s.ptp with delay := 0, asked := none, twoStep := none, last := none } }.fset F.ptpStatusSource b).fset
        F.ptpStatusPort (s.ptpPortOf b)

/-- PTP_ANNOUNCE: the best master clock algorithm chooses among the listed sources, each of which holds for three of its Announce intervals (R359; log entry 163). -/
def execPtpAnnounce (source : Nat) (message : Announce) (s : State) : Host.Outcome State Fault Refusal :=
  if !s.ptpSource source then .next s
  else
    let announced := (s.ptp.announced.filter fun p => p.1 != source) ++ [(source, message, s.now + 3 * message.interval)]
    .next { s with ptp := { s.ptp with announced } }.elect

/-- PTP_DELAY_REQ_SEND: the part asks the selected source for its delay (R359). -/
def execPtpDelayReqSend (source : Nat) (s : State) : Host.Outcome State Fault Refusal :=
  if s.selected source then .next ({ s with ptp := { s.ptp with asked := some source } }.emit (.ptpDelayReq source)) else .next s

/-- PTP_HOLDOVER_ENTRY: no usable Sync for 4 s (R360). -/
def execPtpHoldoverEntry (s : State) : Host.Outcome State Fault Refusal :=
  let st := s.ptpState
  if (st = ptpAcquiring ∨ st = ptpLocked ∨ st = ptpFault) ∧ s.ptp.lastSync + 4000000 ≤ s.now then
    .next (s.enterPtp ptpHoldover)
  else .next s

/-- The part slews in this state: not in FREE and HOLDOVER, and in FAULT only while a job runs (R360, R361). -/
def State.slews (s : State) : Bool :=
  s.ptpState == ptpAcquiring || s.ptpState == ptpLocked || (s.ptpState == ptpFault && s.jobRuns)

/-- PPS_EDGE: a pulse of PTP_PPS_IN, whose two transitions count, and whose rising edge is the start of the PTP second; once LOCKED, one more than 1 µs away is ignored (R362, R408; log entry 80). -/
def execPpsEdge (error : Int) (s : State) : Host.Outcome State Fault Refusal :=
  let s := s.countEdges 1 2
  if !s.fb F.ptpCfgPpsEn || s.masked 1 then .next s
  else if s.ptpState = ptpLocked ∧ 1000 < error.natAbs then .next (s.fadd F.ptpStatusPpsIgnored)
  else if s.slews then .next (s.slew error)
  else .next s

/-- AON_REFCLK_LOSS: the internal oscillator drives the tick until power-on reset, and the part enters Hove-to with cause CLOCK (R396). -/
def execAonRefclkLoss (s : State) : Host.Outcome State Fault Refusal :=
  if s.fb F.tickStatusBackup then .next s
  else .next ((((s.fset F.tickStatusBackup 1).fset F.tickStatusHall 0).raise 0x1021 745).askHove 6)

end Sys2Proof.Machine
end

