-- ==== Sys2Proof/Machine/Sideband.lean ====
section
/-! DEFINITION. Core sleep and sideband inputs (R403 to R412, R498, R499, R539): Lull and Deep Lull, PERST_N and the host link, HOLD_N, and chattering inputs. -/

namespace Sys2Proof.Machine

/-! ### Core sleep (R403 to R407) -/

/-- Cores in a power state. -/
def State.coresIn (s : State) (v : Nat) : Nat := ((List.range 136).filter fun c => s.corePwr c == v).length

/-- A core enters a power state, which PWR_STATUS counts; trained stacks are in self-refresh while no core is awake (Tables 6.7, 12.3; log entry 32). -/
def State.setCorePwr (s : State) (core v : Nat) : State :=
  let w := s.f F.corePwrDState (core / 17)
  let k := 4 ^ (core % 17)
  let s := s.fset F.corePwrDState (w - w / k % 4 * k + v * k) (core / 17)
  let s := (s.fset F.pwrStatusLull (s.coresIn 1)).fset F.pwrStatusDeep (s.coresIn 2)
  let asleep := s.coresIn 2 + s.coresIn 3 == 136
  (List.range 8).foldl (fun s d => s.fset F.hbmStatusSelfRefresh (if asleep && s.fb F.hbmStatusTrained d then 1 else 0) d) s

/-- No such core in the grade (R4). -/
def State.absentCore (s : State) (c : Nat) : Bool := decide (136 ≤ c) || (s.grade == .psn8112 && (c % 17 == 14 || c % 17 == 15))

/-- Cores of the grade that have not been retired. -/
def State.liveCores (s : State) : List Nat := (List.range 136).filter fun c => !s.absentCore c && !s.retired.contains c

/-- Position that a core serves; none for an idle spare and for a core that has been replaced (R152). -/
def State.positionOf (s : State) (core : Nat) : Option Nat :=
  let d := core / 17
  ((List.range 17).find? fun p => s.coreAt d p == core && !s.absent (posQueue (d * 17 + p) 0)).map fun p => d * 17 + p

/-- Queues of a core. -/
def State.queuesOf (s : State) (core : Nat) : List Nat :=
  match s.positionOf core with
  | some p => (List.range 4).map (posQueue p)
  | none => []

/-- An entry of the queue could start now. -/
def State.canStart (s : State) (q : Nat) : Bool :=
  !s.inHove && !s.sideband.holdActive &&
    (s.qState q == qRunning ||
      (s.qState q == qWaiting && waitReached (s.flag (s.homeDie q) (s.f F.queueQWaitFlag q)) (s.f F.queueQWaitTarget q)))

/-- No queue of a core executes, and none can start an entry. -/
def State.coreQuiet (s : State) (core : Nat) : Bool := (s.queuesOf core).all fun q => (s.execsOf q).isEmpty && !s.canStart q

/-- Core cycles in a tick of 1 µs at 850 MHz (R541). -/
def cyclesPerTick : Nat := 850

/-- The core has been quiet for LULL_CYCLES core cycles, counted by the ticks that its quiet spans (R404; log entry 146). -/
def State.quietLong (s : State) (core : Nat) : Bool := decide (s.f F.pwrCtrlLullCycles < cyclesPerTick * (assoc 0 s.quiet core + 1))

/-- The quiet of each awake core, one tick edge on. -/
def State.countQuiet (s : State) : State :=
  if !s.boot.powered then s
  else { s with quiet := ((List.range 136).filter fun c => s.corePwr c == 0 && s.coreQuiet c).map fun c => (c, min (assoc 0 s.quiet c + 1) 65536) }

/-- LULL_ENTRY: a core none of whose queues has executed or could start an entry for LULL_CYCLES core cycles, unless a wake condition reaches it at the same time (R404, R406). -/
def execLullEntry (core : Nat) (s : State) : Host.Outcome State Fault Refusal :=
  if s.fb F.pwrCtrlLullEn && decide (core < 136) && s.corePwr core == 0 && s.coreQuiet core && s.quietLong core && !s.sideband.woken.contains core then
    .next ({ s with lullSince := assocSet 0 s.lullSince core (s.now + 1) }.setCorePwr core 1)
  else .next s

/-- DEEP_LULL_ENTRY: a core that has stayed in Lull for DEEP_TICKS begins the entry, which the next tick edge completes (R404, R406). -/
def execDeepLullEntry (core : Nat) (s : State) : Host.Outcome State Fault Refusal :=
  if s.fb F.pwrCtrlDeepEn && decide (core < 136) && s.corePwr core == 1 &&
      decide (assoc 0 s.lullSince core + s.f F.pwrCtrlDeepTicks ≤ s.now + 1) && !s.sideband.deep.any fun e => e.1 == core then
    .next { s with sideband := { s.sideband with deep := s.sideband.deep ++ [(core, false)] } }
  else .next s

/-- A sleeping core wakes and WAKES counts it; a core that enters Deep Lull holds the wake, and one in Run enters no Lull in this tick (R405, R406). -/
def State.wake (s : State) (core : Nat) : State :=
  if s.sideband.deep.any fun e => e.1 == core then
    { s with sideband := { s.sideband with deep := s.sideband.deep.map fun e => if e.1 == core then (core, true) else e } }
  else if s.corePwr core = 1 ∨ s.corePwr core = 2 then
    ({ s with lullSince := assocSet 0 s.lullSince core 0 }.setCorePwr core 0).fadd F.pwrStatusWakes
  else { s with sideband := { s.sideband with woken := s.sideband.woken ++ [core] } }

/-- Deep Lull entries complete after 1 tick, and a core for which a wake is held wakes at once (R404, R406). -/
def State.finishDeep (s : State) : State :=
  let l := s.sideband.deep
  l.foldl (fun s e =>
    let s := if s.corePwr e.1 = 1 then s.setCorePwr e.1 2 else s
    if e.2 then s.wake e.1 else s) { s with sideband := { s.sideband with deep := [], woken := [] } }

/-- The core is a spare that has not been promoted (R407). -/
def State.idleSpare (s : State) (core : Nat) : Bool := core % 17 == 16 && !s.promoted (core / 17)

/-- CORE_WAKE: a wake condition of R405 reaches a core; a spare that is not promoted stays in Deep Lull (R407). -/
def execCoreWake (core : Nat) (s : State) : Host.Outcome State Fault Refusal :=
  if core < 136 ∧ (s.positionOf core).isSome ∧ !s.idleSpare core then .next (s.wake core) else .next s

/-! ### The host link (R497 to R499, R539) -/

/-- Registers of the MSI-X table and PBA. -/
def msixRegs : List RegName := [.msixAddrV, .msixDataV, .msixPbaK]

/-- The host link is down: its state fields read 0 (Table 16.15). -/
def State.hostLinkDown (s : State) : State :=
  [F.hostLinkReversed, F.hostLinkFlit, F.hostLinkWidth, F.hostLinkRate, F.hostLinkUp].foldl (fun s f => s.fset f 0) s

/-- The host link trains up; rate, width, lane order and FLIT mode are what the partner allows, which the spec leaves open within Table 16.1. -/
def State.hostLinkTrain (s : State) : State :=
  let (v, s) := s.open_
  let rate := 1 + v.toNat % 7
  let width := [1, 4, 8].getD (v.toNat / 8 % 3) 8
  let flit := if 6 ≤ rate then 1 else v.toNat / 64 % 2
  let s := ((s.fset F.hostLinkRate rate).fset F.hostLinkWidth width).fset F.hostLinkFlit flit
  (s.fset F.hostLinkReversed (v.toNat / 128 % 2)).fset F.hostLinkUp 1

/-- The IDE stream ends (R490). -/
def State.endIde (s : State) : State := if s.fb F.secStatusIde then (s.fset F.secStatusIde 0).raise 0x7503 749 else s

/-- A PERST_N assertion taken: host-link state, MSI-X, the window, ring enables, IDE and the SPDM sessions over DOE (R490, R499). -/
def State.resetLink (s : State) : State :=
  let s := { s with
    regs := s.regs.filter fun r => !msixRegs.contains r.1.name && r.1.name != RegName.hostWin
    msixOn := false, msixMask := false, msixRaised := [], spdmDoe := {} }
  let s := (List.range 64).foldl (fun s n => (s.fset F.hringNCfgEn 0 n).fset F.hringNStatusState (if s.f F.hringNStatusState n = 3 then 3 else 0) n) s
  (s.hostLinkDown.endIde).setLevel 0 false

/-- PERST_N_ASSERT: an assertion of 4 ticks resets the endpoint; a shorter pulse only counts as transitions (R408, R410). -/
def execPerstNAssert (ticks : Nat) (s : State) : Host.Outcome State Fault Refusal :=
  if ticks < 4 then .next (s.countEdges 0 (pulseEdges ticks)) else .next ((s.countEdges 0 1).resetLink)

/-- PERST_N_DEASSERT: the link starts where its clock is there and the part has power (R452, R539). -/
def execPerstNDeassert (s : State) : Host.Outcome State Fault Refusal :=
  let s := (s.countEdges 0 1).setLevel 0 true
  if s.pcieClock && s.boot.powered && !s.fb F.hostLinkUp then .next s.hostLinkTrain else .next s

/-- PCIE_REFCLK_MISSING: the host link goes down and nothing else changes (R539). -/
def execPcieRefclkMissing (s : State) : Host.Outcome State Fault Refusal := .next { s with pcieClock := false }.hostLinkDown

/-- PCIE_REFCLK_RETURN: the link trains up again (R539). -/
def execPcieRefclkReturn (s : State) : Host.Outcome State Fault Refusal :=
  let was := s.pcieClock
  let s := { s with pcieClock := true }
  if !was && s.levelHigh 0 && s.boot.powered then .next ((s.fadd F.hostLinkRetrains).hostLinkTrain) else .next s

/-! ### HOLD_N (R411, R412) -/

/-- The hold ends: queues start entries again, and event 0x7022 is raised. -/
def State.endHold (s : State) : State :=
  let s := (s.fset F.sbStatusHeld 0).fset F.sbStatusEscalated 0
  let s := if s.f F.pwrStatusPart = 1 then s.fset F.pwrStatusPart 0 else s
  { s with sideband := { s.sideband with holdSince := none, holdActive := false } }.raise 0x7022 745

/-- HOLD_N_LOW: HOLD_N is taken low after 4 ticks; during Hove-to the change is only counted and its level kept (R408, R411, R412). -/
def execHoldNLow (ticks : Nat) (s : State) : Host.Outcome State Fault Refusal :=
  if ticks < 4 then .next (s.countEdges 2 (pulseEdges ticks))
  else
    let s := s.countEdges 2 1
    if s.masked 2 then .next s
    else
      let s := s.setLevel 2 false
      if s.inHove || s.fb F.sbStatusHeld then .next s
      else
        let s := (s.fset F.sbStatusHeld 1).fset F.sbStatusEscalated 0
        .next ({ s with sideband := { s.sideband with holdSince := some s.now, holdSeq := s.commitSeq } }.raise 0x7021 745)

/-- The part has applied the decision of the step in progress when HOLD_N was taken, or is in no step (R411, R452). -/
def State.holdDue (s : State) : Bool :=
  if s.jobRuns && !s.generation && s.stepRuns then decide (s.sideband.holdSeq < s.commitSeq) && s.step.applying.isEmpty
  else s.step.applying.isEmpty && decide (3 ≤ s.f F.bootStatusState)

/-- HOLD_TAKE_EFFECT: core queues start no entry from now on (R411). -/
def execHoldTakeEffect (s : State) : Host.Outcome State Fault Refusal :=
  if s.fb F.sbStatusHeld && !s.sideband.holdActive && !s.inHove && s.holdDue then
    .next ({ s with sideband := { s.sideband with holdActive := true } }.fset F.pwrStatusPart 1)
  else .next s

/-- HOLD_N_HIGH: HOLD_N is taken high after 4 ticks; during Hove-to the change is only counted and its level kept. -/
def execHoldNHigh (ticks : Nat) (s : State) : Host.Outcome State Fault Refusal :=
  if ticks < 4 then .next (s.countEdges 2 (pulseEdges ticks))
  else
    let s := s.countEdges 2 1
    if s.masked 2 then .next s
    else
      let s := s.setLevel 2 true
      if s.inHove || !s.fb F.sbStatusHeld then .next s else .next s.endHold

/-- HOLD_LIMIT_EXPIRY: HOLD_N low for HOLD_LIMIT ms raises 0x1020 and applies HOLD_POLICY; the reserved policy keeps the hold (R412). -/
def execHoldLimitExpiry (s : State) : Host.Outcome State Fault Refusal :=
  match s.sideband.holdSince with
  | none => .next s
  | some t =>
    if !s.fb F.sbStatusHeld || s.fb F.sbStatusEscalated || decide (s.now < t + s.f F.sbCtrlHoldLimit * 1000) then .next s
    else
      let s := (s.fset F.sbStatusEscalated 1).raise 0x1020 745
      match s.f F.sbCtrlHoldPolicy with
      | 1 => .next (s.askHove 2)
      | 2 => .next ((s.maskInput 2).setLevel 2 true).endHold
      | _ => .next s

/-! ### Chatter (R409, R410) -/

/-- SIDEBAND_CHATTER: transitions of an input that no other command shows; more than 8 in 1,000 ticks mask PTP_PPS_IN or HOLD_N, and report PERST_N (R409, R410). -/
def execSidebandChatter (input transitions : Nat) (s : State) : Host.Outcome State Fault Refusal :=
  if 3 ≤ input ∨ transitions = 0 then .next s else .next (s.countEdges input transitions)

/-- SIDEBAND_AUTO_UNMASK: 1,000 quiet windows in a row unmask an input where AUTO_UNMASK allows it. -/
def execSidebandAutoUnmask (input : Nat) (s : State) : Host.Outcome State Fault Refusal :=
  if input < 3 && s.fb F.sbCtrlAutoUnmask && s.longQuiet input then .next (s.unmask input) else .next s

/-- SB_UNMASK: software unmasks inputs; the part clears the bits. -/
def execSbUnmask (mask : Nat) (s : State) : Host.Outcome State Fault Refusal :=
  .next (((List.range 3).filter fun i => mask / 2 ^ i % 2 == 1).foldl State.unmask (s.fset F.sbCtrlUnmask 0))

end Sys2Proof.Machine
end

