-- ==== Sys2Proof/Machine/Monitor.lean ====
section
/-! DEFINITION. The safety monitor (chapter Dangerous Failures, Errors and Hove-to): what the part does with an event that a tick edge takes, error records, recovery slots, Promotion, losses, package links, the Ledger rebuild, and Hove-to. -/

namespace Sys2Proof.Machine

/-! ### Interrupt sources and vectors (R511 to R514) -/

/-- MSI-X vector of an interrupt source, for the sources that have one (Table 16.5). -/
def sourceVector (n : Nat) : Option Nat :=
  if 544 ≤ n ∧ n < 608 then some (n - 416)
  else if 608 ≤ n ∧ n < 672 then some (n - 544)
  else if 676 ≤ n ∧ n < 740 then some (n - 676)
  else none

/-- A vector is raised: it sets its PBA bit where it is masked, waits to send one message of this tick otherwise, and is not kept while MSI-X is not enabled (R512). -/
def State.raiseVector (s : State) (v : Nat) : State :=
  if !s.msixOn then s
  else if s.msixMask || s.fb F.msixDataVMask v then
    s.fset F.msixPbaKPending (setBit (s.f F.msixPbaKPending (v / 64)) (v % 64)) (v / 64)
  else if s.msixRaised.contains v then s
  else { s with msixRaised := s.msixRaised ++ [v] }

/-- A rising edge of an interrupt source: PENDING and its vector; internal sources latch nothing (R514, R562). -/
def State.pend (s : State) (n : Nat) : State :=
  if 745 ≤ n ∧ n ≤ 751 then s
  else
    let s := s.fraise F.intcSrcNPending n
    match sourceVector n with
    | some v => s.raiseVector v
    | none => s

/-- An event taken at an edge raises its source, and its class its own source and vector (Tables 16.5, 16.6). -/
def State.signal (s : State) (source code : Nat) : State :=
  let c := code / 0x1000
  let s := (s.pend source).pend (752 + c)
  if s.f F.msixEvtEn / 2 ^ c % 2 = 1 then s.raiseVector (192 + c) else s

/-! ### Error records (R420 to R424) -/

/-- Records in the ring that software has not read. -/
def State.unread (s : State) : Nat := (s.f F.errRingWritten + 2 ^ 32 - s.f F.errRingRead) % 2 ^ 32

/-- Highest severity among the primary record and the unread ring records (R424). -/
def State.topSev (s : State) : Nat :=
  let ring := (List.range (min s.unread 8)).map fun i => s.f F.errsecN0Sev ((s.f F.errRingRead + i) % 8)
  ((if s.fb F.errStatusValid then [s.f F.errlog0Sev] else []) ++ ring).foldl max 0

/-- TOP_SEV follows the records. -/
def State.showTop (s : State) : State := s.fset F.errStatusTopSev s.topSev

/-- The four words of a record (Tables 13.10 to 13.13): the error's own severity and source, and the repeats of its tick. -/
def State.recordWords (s : State) (e : Event) (sev n : Nat) : List Word :=
  [packFields [(e.code, 16), (sev, 4), (e.domain, 12), (740 + sev, 10), (0, 6), (e.core, 8), (min n 255, 8)],
   s.now, e.addr, packFields [(e.detail, 32), (e.status, 8), (0, 24)]].map (BitVec.ofNat 64)

/-- Offers an error with its `n` repeats to the error-record file: counted, then the primary record, the ring, or the overflow count, whose run of drops raises 0x7003 once (R420 to R423). -/
def State.fileRecord (s : State) (e : Event) (sev n : Nat) : State :=
  let w := s.recordWords e sev n
  let s := s.fadd F.errCountSErrors n sev
  if !s.fb F.errStatusValid then
    let s := [RegName.errlog0, .errlog1, .errlog2, .errlog3].zip w |>.foldl (fun s p => s.wr ⟨p.1, 0, 0⟩ p.2) s
    (s.fraise F.errStatusValid).showTop
  else if 8 ≤ s.unread then
    let s := s.fadd F.errOverflowDropped
    if s.dropRun then s else { s with dropRun := true }.raise 0x7003 751
  else
    let k := s.f F.errRingWritten % 8
    let s := [RegName.errsecN0, .errsecN1, .errsecN2, .errsecN3].zip w |>.foldl (fun s p => s.wr ⟨p.1, k, 0⟩ p.2) s
    ({ s with dropRun := false }.fwrap F.errRingWritten).showTop

/-- An error is taken: its record and the source of its severity. -/
def State.post (s : State) (e : Event) (sev n : Nat) : State := (s.fileRecord e sev n).signal (740 + sev) e.code

/-- ERR_RECORD_UNLOCK: the primary record is empty until the next error is taken (R421); one filled in the tick of the unlock stays (R15). -/
def execErrRecordUnlock (s : State) : Host.Outcome State Fault Refusal := .next (s.fclear F.errStatusValid).showTop

/-- ERR_RING_READ_ADVANCE: a write that would put READ above WRITTEN is ignored (Table 13.18). -/
def execErrRingReadAdvance (read : Nat) (s : State) : Host.Outcome State Fault Refusal :=
  let ahead := (read + 2 ^ 32 - s.f F.errRingWritten) % 2 ^ 32
  if 0 < ahead ∧ ahead < 2 ^ 31 then .next s else .next (s.fset F.errRingRead read).showTop

/-- STALE_RECORD_UNLOCK: the Stalemate record is free for the next one (R178); one written in the tick of the unlock stays locked (R15). -/
def execStaleRecordUnlock (s : State) : Host.Outcome State Fault Refusal :=
  .next (s.fclear F.staleStatusValid)

/-! ### Hove-to taken at an edge (R434 to R437) -/

/-- A cause of Hove-to taken while an edge is handled: entry at once, with event 0x1001 where the part was not in Hove-to. -/
def State.hoveTaken (s : State) (cause : Nat) : State :=
  if s.inHove then s.enterHove cause else (s.enterHove cause).signal 751 0x1001

/-- A fault that recovery cannot confine: a record of severity SAFETY for its domain, and Hove-to (R428; log entry 29). -/
def State.safetyFault (s : State) (e : Event) (n cause : Nat) : State :=
  (s.post { e with code := 0x1001 } sevSafety n).hoveTaken cause

/-! ### Losses (Table 13.4, R431) -/

/-- The live operation that runs on a domain (Table 14.9). -/
def liveDomain (l : LiveOp) : Option Nat :=
  match l.op with
  | 2 | 3 => some (stackDomain (l.arg / 32))
  | 4 | 5 | 6 => some (groupDomain l.arg)
  | 7 | 8 => some l.arg
  | _ => none

/-- A live operation on the domain ends ABORTED. -/
def State.endLiveOn (s : State) (domain : Nat) : State :=
  if s.boot.live.any fun l => l.running && liveDomain l == some domain then s.liveDone .aborted else s

/-- A part with a job resigns: event 0x4045 and a RESIGN marker to the leader (R431). -/
def State.resignNow (s : State) : State :=
  if s.jobRuns then (s.raise 0x4045 748).emit (.resign (s.f F.stepStatusLeader)) else s

/-- The domain is lost for good and its slot is free. -/
def State.markLost (s : State) (domain : Nat) : State :=
  { s with lost := if s.lost.contains domain then s.lost else s.lost ++ [domain] }.releaseSlot domain

/-- Recovery records of cores other than one. -/
def State.otherRecs (s : State) (core : Nat) : List CoreRec := s.coreRecs.filter fun r => r.core != core

/-- A core is retired and powered off. -/
def State.retireCore (s : State) (core : Nat) : State :=
  { s with retired := if s.retired.contains core then s.retired else s.retired ++ [core] }.setCorePwr core 3

/-- The spare of a die can replace a core (R432): not promoted, not retired, and not in recovery or on its way to another position. -/
def State.spareFree (s : State) (die : Nat) : Bool :=
  let spare := die * 17 + 16
  s.f F.featCoresSpareFree / 2 ^ die % 2 == 1 && !s.promoted die && !s.retired.contains spare && !s.inRecovery spare &&
    s.coreRecs.all fun r => r.core / 17 != die || r.stage == .testing

/-- A core that the spare of its die can replace: it serves one of positions 0 to 15 and is not itself a promoted spare (R432). -/
def State.replaceable (s : State) (core : Nat) : Bool :=
  core % 17 != 16 && (s.positionOf core).isSome && s.spareFree (core / 17)

/-- A retired core's place goes to the spare, which wakes and is tested; the slot stays held (Table 13.5, T + 7). -/
def State.bringSpare (s : State) (core : Nat) : State :=
  let r := (s.coreRecs.find? fun r => r.core == core).getD ⟨core, s.now, true, true, .testing⟩
  let s := { s with coreRecs := s.otherRecs core ++ [{ r with stage := .spareTest }]
                    retired := if s.retired.contains core then s.retired else s.retired ++ [core] }
  s.setCorePwr (core / 17 * 17 + 16) 0

/-- A core is lost with no spare for it: its position is left without a core, and a part with a job resigns (R431, R433). -/
def State.coreGone (s : State) (core : Nat) : State :=
  let served := (s.positionOf core).any fun p => p % 17 != 16
  let s := (({ s with coreRecs := s.otherRecs core }.retireCore core).markLost core).endLiveOn core
  if served then s.resignNow else s

/-- The loss of a core domain: Promotion where the spare is free; nothing more once the spare is being brought in (R427, Table 13.4). -/
def State.loseCore (s : State) (core : Nat) : State :=
  match s.coreRecs.find? fun r => r.core == core && r.stage != .testing with
  | some _ => if s.retired.contains (core / 17 * 17 + 16) then s.coreGone core else s
  | none => if s.replaceable core then s.bringSpare core else s.coreGone core

/-- Links whose loss the part cannot route around: I/O links and the bridge (R25). -/
def ioLink (i : Nat) : Bool := decide (10 ≤ i)

/-- Entries in execution whose words name a stack as a die: those of the die's LKE queue end ABORTED with it (Table 13.7; log entry 171). -/
def State.abortIn (s : State) (die : Nat) : State :=
  (s.execs.filter fun x => x.result.isNone && (match qClass x.q with | some (.lke d _) => d == die | _ => false)).foldl (fun s x => s.finish x.id .aborted) s

/-- What the loss of a domain does, by kind (Table 13.4). -/
def State.applyLoss (s : State) (domain : Nat) : State :=
  let i := domain % 0x100
  match domain / 0x100 with
  | 0 => s.loseCore i
  | 1 => ((((({ s with retrains := s.retrains.filter fun r => r.die != i }.markLost domain).endLiveOn domain).abortIn i).resignNow).hoveTaken 7)
  | 2 => ((s.groupOff i 5).markLost domain).endLiveOn domain
  | 3 => (s.markLost domain).hoveTaken 4
  | _ => if ioLink i then (s.markLost domain).hoveTaken 10 else s.markLost domain

/-- A record of severity DOMAIN_LOST, and the loss; a domain already lost changes nothing more (R427). -/
def State.takeLoss (s : State) (e : Event) (n : Nat) : State :=
  let s := s.post { e with code := 0x3003 } sevLost n
  if s.lost.contains e.domain then s else s.applyLoss e.domain

/-! ### Recovery (R426 to R430) -/

/-- A domain takes a free recovery slot. -/
def State.takeSlot (s : State) (domain : Nat) : State :=
  match s.freeSlot with
  | some j => ((s.fset F.recovJBusy 1 j).fset F.recovJDomain domain j).fset F.recovJSince (s.now % 2 ^ 32) j
  | none => s

/-- The core entered a counted recovery within REPEAT_HOURS before now (R430). -/
def State.repeats (s : State) (core : Nat) : Bool :=
  s.recovered.any fun r => r.1 == core && decide (s.now < r.2 + s.f F.safeCtrlRepeatHours * 3600000000)

/-- Stops the four queues of the position that a core serves (Table 13.5, T). -/
def State.stopCore (s : State) (core : Nat) : State :=
  match s.positionOf core with
  | some p => s.stopPosition p
  | none => s

/-- Shows the vector-engine mode of the position that a core serves. -/
def State.showCoreMode (s : State) (core : Nat) : State :=
  match s.positionOf core with
  | some p => s.showVxeMode p
  | none => s

/-- A core's recovery starts: its test decides, unless the core is retired whatever it shows, which is a repeat or an operator's PROMOTE (R430, Table 14.9). -/
def State.coreRecovers (s : State) (core : Nat) (counted forced : Bool) : State :=
  let forced := forced || (counted && s.repeats core)
  let recovered := if counted then assocSet 0 s.recovered core s.now else s.recovered
  let r : CoreRec := ⟨core, s.now, counted, forced, .testing⟩
  { s with recovered, coreRecs := s.otherRecs core ++ [r] }.showCoreMode core

/-- A retrain that waits for its slot starts to evacuate (Table 6.11, T0). -/
def State.startEvacuation (s : State) (die : Nat) : State :=
  match s.retrains.find? fun r => r.die == die with
  | some r =>
    let s := (s.fset F.hbmStatusReserve 1 die).fset F.hbmStatusRchan r.channel die
    { s with retrains := updateAll s.retrains (fun r => r.die == die) fun r => { r with start := s.now } }.fset F.hbmChanNState 2 die r.channel
  | none => s

/-- A link leaves service; a second row or column link out while another is out, or a second I/O link, cannot be routed around (R25; log entry 30). -/
def State.linkOut (s : State) (i : Nat) : State :=
  let other := s.linksOut.any fun k => k != i && k != 18 && i != 18 && ioLink k == ioLink i
  let s := { s with linksOut := if s.linksOut.contains i then s.linksOut else s.linksOut ++ [i] }
  if other then s.hoveTaken 10 else s

/-- The recovery of a domain that holds its slot starts, by kind (Table 13.4). -/
def State.startRecovery (s : State) (e : Event) : State :=
  let i := e.domain % 0x100
  match e.domain / 0x100 with
  | 0 => s.coreRecovers i (!e.policy) false
  | 1 => s.startEvacuation i
  | 2 => s.groupFaults i
  | 3 => s
  | _ => s.linkOut i

/-- The fault touches both Ledger copies: the other copy is in recovery or lost (R428). -/
def State.bothCopies (s : State) (domain : Nat) : Bool :=
  let other := if domain = 0x300 then 0x301 else 0x300
  domain / 0x100 == 3 && (s.inRecovery other || s.lost.contains other)

/-- A fault of a domain taken at an edge: recorded only where the domain is lost, a loss where it is in recovery, Hove-to where no slot is free, else recovery with its slot; a part whose domain enters recovery votes ABORT (R282, R427, R428). -/
def State.takeFault (s : State) (e : Event) (n : Nat) : State :=
  if s.lost.contains e.domain then s.post e sevRecovery n
  else if s.inRecovery e.domain then s.takeLoss e n
  else
    let s := if e.domain < 0x100 then s.stopCore e.domain else s
    if s.bothCopies e.domain then s.safetyFault e n 4
    else if s.freeSlot.isNone then { s with retrains := s.retrains.filter fun r => stackDomain r.die != e.domain }.safetyFault e n 5
    else (((s.post e sevRecovery n).takeSlot e.domain).startRecovery e).abortVote

/-- What the part does with one event of an edge and its repeats. -/
def State.handle (s : State) (e : Event) (n : Nat) : State :=
  let s :=
    match e.sev with
    | none => if e.hove.isSome && s.inHove then s else s.signal e.source e.code
    | some 2 => if e.domain = 0xFFF then s.post e sevRecovery n else s.takeFault e n
    | some 3 => s.takeLoss e n
    | some v => s.post e v n
  match e.hove with
  | some c => s.enterHove c
  | none => s

/-! ### Order of an edge (R401, R423) -/

/-- Place of an event in the order of R401: class, source, domain with events that name none last, code. -/
def eventRank (e : Event) : Nat :=
  packFields [(e.code / 0x1000, 4), (e.source, 12), (if e.domain = 0xFFF then 0x1000 else e.domain, 16), (e.code, 16)]

/-- Two events are the same error of one source. -/
def sameError (a b : Event) : Bool :=
  a.code == b.code && a.source == b.source && a.domain == b.domain && a.core == b.core && a.addr == b.addr && a.hove == b.hove

/-- Puts an event into an ordered list of events with their repeats. -/
def insertEvent (e : Event) : List (Event × Nat) → List (Event × Nat)
  | [] => [(e, 1)]
  | (f, n) :: l =>
    if sameError e f then (f, n + 1) :: l
    else if eventRank e < eventRank f then (e, 1) :: (f, n) :: l
    else (f, n) :: insertEvent e l

/-- The events of an edge in the order in which they are handled. -/
def ordered (l : List Event) : List (Event × Nat) := l.foldl (fun a e => insertEvent e a) []

/-! ### Tests and Promotion (R418, R432, R433) -/

/-- The core is present in the grade, not retired, not under recovery or in a logic session, and has power (R418, R551). -/
def State.testable (s : State) (core : Nat) : Bool :=
  decide (core < 136) && s.boot.powered && !s.retired.contains core && !s.inRecovery core &&
    (s.positionOf core).isSome && s.corePwr core != 3 && !s.bist.contains (2, core)

/-- ROTATING_SELF_TEST: a sleeping core wakes for it and is counted in WAKES, a spare goes back to Deep Lull; a failed test is a fault of the core's domain (R407, R418). -/
def execRotatingSelfTest (core : Nat) (pass : TestPass) (s : State) : Host.Outcome State Fault Refusal :=
  if !s.testable core then .next s
  else
    let s := if s.idleSpare core then (if s.corePwr core = 2 then s.fadd F.pwrStatusWakes else s) else s.wake core
    let s := ({ s with tested := assocSet 0 s.tested core s.now }.fadd F.stestStatusTests).fset F.stestStatusLastCore core
    if pass then .next s else .next ((s.fadd F.stestStatusFails).faultDomain core core)

/-- A step that waited for a PROMOTE starts once that has ended, with the start tick of its header (R466). -/
def State.afterPromote (s : State) : State :=
  if s.inHove || s.boot.live.any fun l => l.op == 7 then s else s.startDeferred s.stepStart

/-- CORE_RECOVERY_TEST_END: a pass returns the core with its queues STOPPED; otherwise the core is retired and the spare wakes, or the domain is lost (R430, Table 13.5). -/
def execCoreRecoveryTestEnd (core : Nat) (pass : TestPass) (s : State) : Host.Outcome State Fault Refusal :=
  match s.coreRecs.find? fun r => r.core == core && r.stage == .testing with
  | none => .next s
  | some r =>
    if pass && !r.forced then .next (({ s with coreRecs := s.otherRecs core }.domainBack core).showCoreMode core)
    else if s.replaceable core then .next (s.bringSpare core)
    else .next (s.loseDomain core core).afterPromote

/-- Registers of a core block whose counters a read clears (R558). -/
def coreCounters : List RegName := RegName.all.filter fun n =>
  match n.shape with
  | .core _ | .coreArr _ _ => n.fields.any fun f => f.acc == .rc
  | _ => false

/-- Adds the RC fields of one register to another's, stopping at all ones. -/
def addCounters (fs : List RField) (a b : Word) : Word :=
  fs.foldl (fun v f =>
    if f.acc = .rc then setBits v f.lo f.w (min (getBits a f.lo f.w + getBits b f.lo f.w) (2 ^ f.w - 1)) else v) a

/-- Places of a register name in one core block. -/
def coreSpan (n : RegName) : Nat := match n.shape with | .coreArr _ k => k | _ => 1

/-- The IDLE counters of a retired core go on in the spare's (R558). -/
def State.mergeIdle (s : State) (pos spare : Nat) : State :=
  { s with idle := (List.range 16).foldl (fun l n =>
      assocSet 0 (assocSet 0 l (pos * 16 + n) (min (assoc 0 l (pos * 16 + n) + assoc 0 l (spare * 16 + n)) (2 ^ 64 - 1))) (spare * 16 + n) 0) s.idle }

/-- The counters that block `k` showed of the retired core go on in the spare's (R558). -/
def State.mergeCounters (s : State) (pos spare : Nat) : State :=
  coreCounters.foldl (fun s n =>
    (List.range (coreSpan n)).foldl (fun s j =>
      (s.wr ⟨n, pos, j⟩ (addCounters n.fields (s.rd ⟨n, pos, j⟩) (s.rd ⟨n, spare, j⟩))).wr ⟨n, spare, j⟩ 0) s) (s.mergeIdle pos spare)

/-- Promotion ends: the die's SPARE_FREE bit and EDDY_FAILED are cleared, event 0x7004 is raised, and the slot is free (Table 13.5, T + 25). -/
def State.endCorePromotion (s : State) (r : CoreRec) : State :=
  let die := r.core / 17
  let s := s.fset F.featCoresSpareFree (clearBit (s.f F.featCoresSpareFree) die)
  let s := { s with coreRecs := s.otherRecs r.core }.latch { code := 0x7004, source := 751, core := r.core }
  let s := (s.fset F.vxeModeEddyFailed 0 r.core).markLost r.core
  let s := if s.liveOn 7 r.core then s.liveDone .ok else s
  s.showVxeMode r.core

/-- The slice port of position k switches to the spare, whose test has passed (R143), and the retired core is powered off; with no job, Promotion ends here (Table 13.5, T + 17). -/
def State.switchSpare (s : State) (r : CoreRec) : State :=
  let s := s.mergeCounters r.core (r.core / 17 * 17 + 16)
  let spare := r.core / 17 * 17 + 16
  let s := { s with promotedAt := s.promotedAt ++ [(r.core / 17, r.core % 17)]
                    vxeReady := if s.vxeReady.contains spare then s.vxeReady else s.vxeReady ++ [spare] }.setCorePwr r.core 3
  if s.f F.jobStatusState = 0 then s.endCorePromotion r
  else { s with coreRecs := s.otherRecs r.core ++ [{ r with stage := .loading }] }

/-- SPARE_TEST_END: a pass switches the slice port; a spare that fails is retired and the position is lost (R433). -/
def execSpareTestEnd (die : Nat) (pass : TestPass) (s : State) : Host.Outcome State Fault Refusal :=
  match s.coreRecs.find? fun r => r.core / 17 == die && r.stage == .spareTest with
  | none => .next s
  | some r =>
    if pass then .next (s.switchSpare r).afterPromote else .next ((s.retireCore (die * 17 + 16)).loseDomain r.core r.core).afterPromote

/-- PROMOTION_COMPLETE: the job loader loads the position's Score and parameter registers, and its queues start with the next step (R160, R433). -/
def execPromotionComplete (die : Nat) (s : State) : Host.Outcome State Fault Refusal :=
  match s.coreRecs.find? fun r => r.core / 17 == die && r.stage == .loading with
  | none => .next s
  | some r =>
    let s := (s.loadSegments (s.segmentsAt r.core)).1
    .next ({ s with step := { s.step with starts := s.step.starts ++ [r.core] } }.endCorePromotion r).afterPromote

/-! ### Hove-to (R434, R438, R439) -/

/-- HOVE_TO_ENTRY: a cause of Table 13.6 is taken; causes 3 and up are errors of severity SAFETY with their record, but for a monitor of which neither copy passes its self-check, which writes none (R425, R434, R435; log entry 29). -/
def execHoveToEntry (c : HoveCause) (s : State) : Host.Outcome State Fault Refusal :=
  if 11 ≤ c.cause then .next s
  else if 3 ≤ c.cause ∧ (c.cause ≠ 8 ∨ c.healthy) then .next (s.safetyFault { code := 0x1001, source := 744 } 1 c.cause)
  else .next (s.hoveTaken c.cause)

/-- HOVE_ENTER: the host's write acts at the edge ahead of the tick's events (R435). -/
def execHoveEnter (s : State) : Host.Outcome State Fault Refusal := .next ((s.fset F.hoveCtrlEnter 0).hoveNow 0)

/-- A cause allows a release (Table 13.6); `cme` is the result of the CME self-test run at release. -/
def State.causeAllows (s : State) (cme : Bool) (c : Nat) : Bool :=
  match c with
  | 0 | 1 | 5 => true
  | 2 => s.levelHigh 2
  | 3 => cme
  | 9 => decide (s.f F.pkgStatusTj < s.f F.pkgCtrlHoveT)
  | _ => false

/-- The causes set. -/
def State.causes (s : State) : List Nat := (List.range 11).filter fun c => s.f F.hoveStatusCauses / 2 ^ c % 2 == 1

/-- A release would be accepted (R438). -/
def State.releasable (s : State) (cme : Bool) : Bool :=
  s.inHove && s.causes.all (s.causeAllows cme) && !s.fb F.recovJBusy 0 && !s.fb F.recovJBusy 1

/-- ALERT_N: Hove-to, the shutdown of R536, or throttling where ALERT_THROTTLE says so (Table 18.7). -/
def State.showAlert (s : State) : State :=
  { s with alert := s.inHove || (!s.boot.powered && !s.boot.tripped) || (s.fb F.pkgCtrlAlertThrottle && decide (s.f F.pkgStatusDuty < 16)) }

/-- At a release HOLD_N acts by the level taken in Hove-to: low holds the part as when it is taken low, high ends a hold (R411, R412; log entry 31). -/
def State.resumeHold (s : State) : State :=
  if s.fb F.sbStatusHeld then
    if s.levelHigh 2 then (s.fset F.pwrStatusPart 0).endHold else s.fset F.pwrStatusPart (if s.sideband.holdActive then 1 else 0)
  else if s.levelHigh 2 then s.fset F.pwrStatusPart 0
  else
    let s := ((s.fset F.sbStatusHeld 1).fset F.sbStatusEscalated 0).fset F.pwrStatusPart 0
    { s with sideband := { s.sideband with holdSince := some s.now, holdSeq := s.commitSeq } }.raise 0x7021 745

/-- The decisions that waited for the Ledger are taken in their order (R286). -/
def State.takeWaiting (s : State) : State := s.step.waiting.foldl State.takeDecision { s with step := { s.step with waiting := [] } }

/-- What reached the part in Hove-to and waited for its release: decisions, releases of table versions, and the rows of minority copies, which it asks for again (R293, R436; log entry 169). -/
def State.catchUp (s : State) : State :=
  let s := s.boot.releases.foldl (fun s r => s.countRelease r.1 r.2.1 r.2.2) { s with boot := { s.boot with releases := [] } }
  let s := (s.units.filter fun u => u.minority && u.asked).foldl State.askRows s
  if s.ledgerBusy then s else s.takeWaiting

/-- A release is accepted (R439): causes cleared, event 0x1002, ALERT_N released, the part state held before, the units to be resolved, and then the job's reload. -/
def State.release (s : State) : State :=
  let s := ((s.fset F.hoveStatusCauses 0).fset F.hoveStatusActive 0).raise 0x1002 751
  let s := (s.fset F.bootStatusState s.boot.resumeState).suspendUnits fun _ => true
  let s := { s with boot := { s.boot with rejoins := true } }
  ((s.resumeHold.rejoin).catchUp).showAlert

/-- HOVE_RELEASE: the supervisor releases only where AUTO_RELEASE has every cause and the conditions hold; a host's release that they do not allow is refused and counted (R438). -/
def execHoveRelease (who : Sender) (cmeTest : TestPass) (s : State) : Host.Outcome State Fault Refusal :=
  match who with
  | .supervisor =>
    let auto := s.causes.all fun c => s.f F.safeCtrlAutoRelease / 2 ^ c % 2 == 1
    if auto && s.releasable cmeTest then .next s.release else .next s
  | .host =>
    let s := s.fset F.hoveCtrlRelease 0
    if !s.inHove then .next s
    else if s.releasable cmeTest then .next s.release
    else .next ((s.fadd F.hoveStatusRefusedReleases).raise 0x7005 751)

/-! ### Package links (R25) -/

/-- LINK_FLIT_CRC_FAIL: a flit is replayed; 16 failed replays in a row put the link's domain into recovery. -/
def execLinkFlitCrcFail (link : Nat) (replayOk : Bool) (s : State) : Host.Outcome State Fault Refusal :=
  if 19 ≤ link ∨ s.linksOut.contains link then .next s
  else if replayOk then .next ({ s with linkFails := assocSet 0 s.linkFails link 0 }.error 0x7001 sevCorrectable (0x400 + link))
  else
    let n := assoc 0 s.linkFails link + 1
    if n < 16 then .next { s with linkFails := assocSet 0 s.linkFails link n }
    else .next ({ s with linkFails := assocSet 0 s.linkFails link 0 }.faultDomain (0x400 + link))

/-! ### The Ledger rebuild (R36) -/

/-- Words of a bank that hold errors or poison. -/
def State.badWords (s : State) (b : Bank) : List Nat :=
  (((s.errs.map (·.1)) ++ s.poison.map (·.1)).filter fun k => k / 2 ^ 41 == b.num).map (· % 2 ^ 41) |>.dedup

/-- A bank without errors or poison. -/
def State.cleanBank (s : State) (b : Bank) : State :=
  { s with errs := s.errs.filter fun e => e.1 / 2 ^ 41 != b.num, poison := s.poison.filter fun e => e.1 / 2 ^ 41 != b.num }

/-- Storage with the cells of one bank in another's place. -/
def copyBank (m : List Host.Cell) (src dst : Bank) : List Host.Cell :=
  let at_ (b : Bank) (c : Host.Cell) : Bool := c.1 / 2 ^ 44 == b.num
  (m.filter fun c => decide (c.1 / 2 ^ 44 < dst.num)) ++
    ((m.filter (at_ src)).map fun c => (dst.num * 2 ^ 44 + c.1 % 2 ^ 44, c.2)) ++ m.filter fun c => decide (dst.num < c.1 / 2 ^ 44)

/-- The decisions that waited for the Ledger are taken in their order, or the leader decides from its votes (R36, R286); none is in Hove-to (R436). -/
def State.afterRebuild (s : State) : State :=
  if s.inHove then s
  else
    match s.step.waiting with
    | [] => s.writeHeld.reconsider
    | _ => s.takeWaiting

/-- LEDGER_REBUILD: the copy in recovery is written from the other; the rebuild goes over the bridge, for which it waits (R25), and a word there that cannot be read, or a corrected one whose rewrite fails, is the second fault of R36. -/
def execLedgerRebuild (copy : Nat) (s : State) : Host.Outcome State Fault Refusal :=
  let d := 0x300 + copy
  if 2 ≤ copy ∨ !s.inRecovery d ∨ s.bridgeOut then .next s
  else
    let src := ledgerBank (1 - copy)
    let s := (s.badWords src).foldl (fun s w => (s.fetchCopy (1 - copy) w).1) s
    if s.latched.any fun e => e.hove == some 4 then .next s
    else
      let s := s.cleanBank (ledgerBank copy)
      .next ({ s with mem := copyBank s.mem src (ledgerBank copy) }.domainBack d).afterRebuild

/-- LINK_RETRAIN_END: the link returns to service, or is lost; the writes that waited for the bridge land, and so does a decision (R25). -/
def execLinkRetrainEnd (link : Nat) (pass : TestPass) (s : State) : Host.Outcome State Fault Refusal :=
  if !s.inRecovery (0x400 + link) then .next s
  else if pass then
    let s := { s with linksOut := s.linksOut.filter fun k => k != link }.domainBack (0x400 + link)
    .next (if link = 18 then s.flushBridge.afterRebuild else s)
  else .next (s.loseDomain (0x400 + link))

end Sys2Proof.Machine
end

