-- ==== Sys2Proof/Machine/Care.lean ====
section
/-! DEFINITION. Care of the memories (R207 to R215): patrol, retunes, and the full retrain of an HBM channel with its evacuation. -/

namespace Sys2Proof.Machine

/-! ### Patrol (R207, R208) -/

/-- Words in one pass of a die's patrol by memory (Tables 1.2, 6.9): 0 SRAM slices, tile registers and Score, 1 SUC, 2 HBM with its reserve; 3 the Ledger copy of I/O die `die`. -/
def patrolWords (memory : Nat) : Nat :=
  match memory with
  | 0 => 0x100000000 / 8 + 17 * 0x8000 + 17 * 0x2000
  | 1 => 96 * 0x100000 / 8
  | 2 => 48 * 0x40000000 / 8
  | _ => 0x10000000 / 8

/-- The `i`-th word of a pass, a place of storage: of HBM every word of the stack, its reserve's among them (R29). -/
def patrolWord (die memory i : Nat) : Bank × Nat :=
  match memory with
  | 0 =>
    if i < 0x20000000 then (.sram, die * 0x20000000 + i)
    else if i < 0x20000000 + 17 * 0x8000 then (.tile, die * 17 * 0x8000 + (i - 0x20000000))
    else (.score, die * 17 * 0x2000 + (i - 0x20000000 - 17 * 0x8000))
  | 1 => (.suc, die * 0x1000000 + i)
  | 2 => (.hbm, (i / 32 * 8 + die) * 32 + i % 32)
  | _ => (ledgerBank die, i)

/-- A pass ends: PASSES and its length in minutes, on the dies that have SCRUB registers. -/
def State.endPass (s : State) (die memory began : Nat) : State :=
  if memory < 3 then
    (s.fadd F.scrubMPasses 1 die memory).fset F.scrubMLastMin (min ((s.now - began) / 60000000) 65535) die memory
  else s

/-- The patrol's read of a word of storage; a Ledger copy under rebuild is not read (R36). -/
def State.patrolCell (s : State) (die memory : Nat) (p : Bank × Nat) : State :=
  if memory ≠ 3 then (s.fetchCell p.1 p.2).1
  else if s.inRecovery (0x300 + die) then s
  else (s.fetchCopy die p.2).1

/-- PATROL_READ: the next word of a memory is read by Table 6.4; a stack in self-refresh is read when it leaves it (R208). -/
def execPatrolRead (die memory : Nat) (s : State) : Host.Outcome State Fault Refusal :=
  if 4 ≤ memory ∨ (if memory = 3 then 2 else 8) ≤ die ∨ (memory = 2 ∧ s.fb F.hbmStatusSelfRefresh die) then .next s
  else
    let key := memory * 8 + die
    let i := assoc 0 s.patrol key
    let s := if i = 0 then { s with patrol := assocSet 0 s.patrol (64 + key) s.now } else s
    let s := s.patrolCell die memory (patrolWord die memory i)
    if i + 1 < patrolWords memory then .next { s with patrol := assocSet 0 s.patrol key (i + 1) }
    else .next ({ s with patrol := assocSet 0 s.patrol key 0 }.endPass die memory (assoc 0 s.patrol (64 + key)))

/-- Reads the words of storage of a list through their code. -/
def State.sweepCells (s : State) (b : Bank) (l : List Nat) : State := l.foldl (fun s w => (s.fetchCell b w).1) s

/-- SELF_REFRESH_PATROL_EXIT: a stack leaves self-refresh for a patrol of the whole stack, which counts as a pass (R208). -/
def execSelfRefreshPatrolExit (die : Nat) (s : State) : Host.Outcome State Fault Refusal :=
  if die < 8 ∧ s.fb F.hbmStatusSelfRefresh die then
    .next ((s.sweepCells .hbm ((s.badWords .hbm).filter fun w => hbmDie (8 * w) == die)).endPass die 2 s.now)
  else .next s

/-! ### Full retrain (R211 to R213) -/

/-- The stack's reserve is in use or about to be (R211). -/
def State.reserveTaken (s : State) (die : Nat) : Bool := decide (s.f F.hbmStatusReserve die ≠ 0) || s.retrains.any fun r => r.die == die

/-- A trigger of a full retrain: the stack domain enters recovery at the next edge, or is lost where its reserve is in use (R211, R429). -/
def State.triggerRetrain (s : State) (die channel : Nat) : State :=
  if s.reserveTaken die then s.loseDomain (stackDomain die)
  else
    let r : Retrain := { die, channel, keep := s.fb F.hbmCfgKeepRemap die, start := s.now }
    { s with retrains := s.retrains ++ [r] }.faultDomain (stackDomain die) 0xFF channel

/-- The first channel of a list that a retune may run on: none that is evacuating, remapped, copying back or retired (R209). -/
def State.retunable (s : State) (die : Nat) (l : List Nat) : Option Nat := l.find? fun c => s.f F.hbmChanNState die c == chanNormal

/-- The stack's temperature has moved 5 °C from its value at the last retune (R209). -/
def State.tempMoved (s : State) (die : Nat) : Bool :=
  match s.retuneTemps.find? fun t => t.1 == die with
  | some t => let now := s.f F.hbmStatusTemp die; decide (t.2 + 5 ≤ now ∨ now + 5 ≤ t.2)
  | none => false

/-- Channel from which a sweep of the whole stack goes on; a temperature that has moved starts one (R209). -/
def State.sweepFrom (s : State) (die : Nat) : Option Nat :=
  match s.sweeps.find? fun x => x.1 == die with
  | some x => some x.2
  | none => if s.tempMoved die then some 0 else none

/-- The channel that the controller of a stack retunes next with the earliest tick: in a sweep every channel 4 µs apart, otherwise the next of the rotation 8 ms after the last (R209). -/
def State.nextRetune (s : State) (die : Nat) : Option (Nat × Nat) :=
  let since (n : Nat) : Nat := match s.retuneAt.find? fun x => x.1 == die with | some x => x.2 + n | none => 0
  match (s.sweepFrom die).bind fun c => s.retunable die ((List.range 32).drop c) with
  | some c => some (c, since 4)
  | none => (s.retunable die ((List.range 32).map fun i => (assoc 0 s.retuneNext die + i) % 32)).map fun c => (c, since 8000)

/-- RETUNE: one channel of a stack at a time, in the controller's order and at its pace; a sweep leaves the rotation where it was (R209). -/
def execRetune (die channel : Nat) (s : State) : Host.Outcome State Fault Refusal :=
  if 8 ≤ die ∨ 32 ≤ channel ∨ (List.range 32).any fun c => s.f F.hbmChanNState die c == chanRetuning then .next s
  else
    match s.nextRetune die with
    | none => .next s
    | some (c, at_) =>
      if c ≠ channel ∨ s.now < at_ then .next s
      else
        let sweep := (s.sweepFrom die).any fun k => (s.retunable die ((List.range 32).drop k)).isSome
        let last := (s.retunable die ((List.range 32).drop (channel + 1))).isNone
        let others (l : List (Nat × Nat)) : List (Nat × Nat) := l.filter fun x => x.1 != die
        .next ({ s with
          retuneNext := if sweep then s.retuneNext else assocSet 0 s.retuneNext die ((channel + 1) % 32)
          sweeps := others s.sweeps ++ if sweep && !last then [(die, channel + 1)] else []
          retuneTemps := others s.retuneTemps ++ [(die, s.f F.hbmStatusTemp die)]
          retuneAt := others s.retuneAt ++ [(die, s.now)] }.fset F.hbmChanNState chanRetuning die channel)

/-- RETUNE_END: the margin is written, RETUNES counts, and a margin below 8 units triggers the full retrain (R210, Table 6.10). -/
def execRetuneEnd (die channel margin : Nat) (s : State) : Host.Outcome State Fault Refusal :=
  if 8 ≤ die ∨ 32 ≤ channel ∨ s.f F.hbmChanNState die channel ≠ chanRetuning then .next s
  else
    let s := ((s.fset F.hbmChanNState chanNormal die channel).fset F.hbmChanNMargin (min margin 255) die channel).fadd F.hbmChanNRetunes 1 die channel
    if margin < 8 then .next (s.triggerRetrain die channel) else .next s

/-- CE_LIMIT_EXCEEDED: more than CE_LIMIT correctable errors on a channel within its minute (R211). -/
def execCeLimitExceeded (die channel : Nat) (s : State) : Host.Outcome State Fault Refusal :=
  if die < 8 ∧ channel < 32 ∧ s.f F.hbmCfgCeLimit die < s.f F.hbmChanNCeMin die channel then .next (s.triggerRetrain die channel)
  else .next s

/-- Uncorrectable words that a channel returned within the last 1 ms. -/
def State.badCount (s : State) (die channel : Nat) : Nat :=
  (s.badReads.filter fun r => r.1 == die * 32 + channel && decide (s.now < r.2 + 1000)).length

/-- CHANNEL_DEAD: more than 16 uncorrectable words within 1 ms lose the stack's domain (R211). -/
def execChannelDead (die channel : Nat) (s : State) : Host.Outcome State Fault Refusal :=
  if die < 8 ∧ channel < 32 ∧ 16 < s.badCount die channel then .next (s.loseDomain (stackDomain die) 0xFF) else .next s

/-- The retrain of a die whose channel is in a state. -/
def State.retrainIn (s : State) (die st : Nat) : Option Retrain :=
  s.retrains.find? fun r => r.die == die && s.f F.hbmChanNState die r.channel == st

/-- Words of HBM storage that hold data, errors or poison; every other one reads as zero. -/
def State.hbmCells (s : State) : List Nat :=
  let of_ (k : Nat) : List Nat := if k / 2 ^ 41 = Bank.hbm.num then [k % 2 ^ 41] else []
  ((s.mem.flatMap fun c => of_ (c.1 / 8)) ++ (s.errs.flatMap fun e => of_ e.1) ++ s.poison.flatMap fun e => of_ e.1).dedup

/-- Words of slots `lo` to `hi − 1` of a channel that hold anything there or where they go in the reserves. -/
def State.slotWords (s : State) (die channel lo hi : Nat) : List Nat :=
  let home (w : Nat) : List Nat :=
    let p := hbmPlace (8 * w)
    if p.stack ≠ die then []
    else if 8 * w < hbmSpace then (if p.channel = channel then [w] else [])
    else if p.channel = channel then [] else [reservedFor channel w]
  ((s.hbmCells.flatMap home).filter fun w => let q := (hbmPlace (8 * w)).slot; decide (lo ≤ q ∧ q < hi)).dedup

/-- Slots of a channel copied to their places in the reserves, an uncorrectable word poisoned and recorded (R212, R214). -/
def State.evacuate (s : State) (die channel lo hi : Nat) : State :=
  (s.slotWords die channel lo hi).foldl (fun s w => s.copyCell w (reserveWord w)) s

/-- The channel's slots copied back from the reserves (Table 6.11). -/
def State.copyBack (s : State) (die channel : Nat) : State :=
  (s.slotWords die channel 0 spaceSlots).foldl (fun s w => s.copyCell (reserveWord w) w) s

/-- Slots that an evacuation copies in one tick at 64 GB/s: 64,000 bytes. -/
def slotsPerTick : Nat := 250

/-- The copies of one tick: each channel that evacuates moves its copy pointer on (Table 6.11). -/
def State.copyOn (s : State) : State :=
  (s.retrains.filter fun r => s.f F.hbmChanNState r.die r.channel == chanEvacuating).foldl (fun s r =>
    let to_ := min (r.pointer + slotsPerTick) spaceSlots
    let s := s.evacuate r.die r.channel r.pointer to_
    { s with retrains := updateAll s.retrains (fun x => x.die == r.die) fun x => { x with pointer := to_ } }) s

/-- EVACUATION_DONE: what is left is copied, with uncorrectable words poisoned and recorded, and the remap flips (R212 to R214). -/
def execEvacuationDone (die : Nat) (s : State) : Host.Outcome State Fault Refusal :=
  match s.retrainIn die chanEvacuating with
  | none => .next s
  | some r =>
    let s := s.evacuate die r.channel r.pointer spaceSlots
    let s := { s with retrains := updateAll s.retrains (fun x => x.die == die) fun x => { x with pointer := spaceSlots } }
    .next ((s.fset F.hbmStatusReserve 2 die).fset F.hbmChanNState chanRemapped die r.channel)

/-- The patterns of the verify have written the whole channel: no error or poison of it is left (Table 6.11). -/
def State.patterned (s : State) (die channel : Nat) : State :=
  let mine (k : Nat) : Bool :=
    k / 2 ^ 41 == Bank.hbm.num && hbmDie (8 * (k % 2 ^ 41)) == die && hbmChannel (8 * (k % 2 ^ 41)) == channel
  { s with errs := s.errs.filter fun e => !mine e.1, poison := s.poison.filter fun e => !mine e.1 }

/-- The retrain is over: its domain leaves recovery, and a live operation on it completes (R429, Table 14.9). -/
def State.endRetrain (s : State) (r : Retrain) : State :=
  let s := { s with retrains := s.retrains.filter fun x => x.die != r.die }
  let live := s.boot.live.any fun l => l.running && liveDomain l == some (stackDomain r.die)
  let s := if live then (s.releaseSlot (stackDomain r.die)).suspendUnits fun u => (unitDomains u).contains (stackDomain r.die) else s.domainBack (stackDomain r.die)
  if live then s.liveDone .ok else s

/-- RETRAIN_VERIFY_END: training and patterns are over, and a failed verify retires the channel into the reserve; a passed one keeps the remap where it is to be kept, else the copy back starts (Table 6.11). -/
def execRetrainVerifyEnd (die : Nat) (pass : TestPass) (s : State) : Host.Outcome State Fault Refusal :=
  match s.retrainIn die chanRemapped with
  | none => .next s
  | some r =>
    let s := s.patterned die r.channel
    if !pass then .next ((s.fset F.hbmChanNState chanRetired die r.channel).endRetrain r)
    else if r.keep then .next (s.endRetrain r)
    else .next ((s.fset F.hbmStatusReserve 3 die).fset F.hbmChanNState chanCopying die r.channel)

/-- COPY_BACK_DONE: the channel holds its slots again, the remap flips back and the reserve is free (Table 6.11). -/
def execCopyBackDone (die : Nat) (s : State) : Host.Outcome State Fault Refusal :=
  match s.retrainIn die chanCopying with
  | none => .next s
  | some r => .next (((((s.copyBack die r.channel).fset F.hbmStatusReserve 0 die).fset F.hbmStatusRchan 0 die).fset F.hbmChanNState chanNormal die r.channel).endRetrain r)

end Sys2Proof.Machine
end

