-- ==== Sys2Proof/Machine/Power.lean ====
section
/-! DEFINITION. Package power (R533 to R546): throttling, the thermal trip, loss of supplies and rails, and missing Ethernet clocks. -/

namespace Sys2Proof.Machine

/-! ### Throttling (R541, R542, R544) -/

/-- The duty after a reading (R542). -/
def State.nextDuty (s : State) (r : Reading) : Nat :=
  let d := s.f F.pkgStatusDuty
  if s.f F.pkgCtrlThrOn < r.tj ∨ s.f F.pkgCtrlPwrLimit < r.watts then max (d - 1) (s.f F.pkgCtrlDutyMin)
  else if r.tj < s.f F.pkgCtrlThrOff ∧ r.watts ≤ s.f F.pkgCtrlPwrLimit then min (d + 1) 16
  else d

/-- Shows the readings: PKG_STATUS and each stack's temperature with HOT above 85 °C (Tables 6.17, 18.10). -/
def State.showReading (s : State) (r : Reading) : State :=
  let s := ((s.fset F.pkgStatusPIn (min r.watts 65535)).fset F.pkgStatusVIn (min r.mv 65535)).fset F.pkgStatusTj (min r.tj 255)
  let s := s.fset F.pkgStatusTstack (min (r.stackTemps.foldl max 0) 255)
  (List.range 8).foldl (fun s d =>
    let t := r.stackTemps.getD d 0
    (s.fset F.hbmStatusTemp (min t 255) d).fset F.hbmStatusHot (if 85 < t then 1 else 0) d) s

/-- The duty takes a value: why it last stepped down, and the events of leaving 16 and of returning to it. -/
def State.setDuty (s : State) (r : Reading) (d : Nat) : State :=
  let was := s.f F.pkgStatusDuty
  let s := s.fset F.pkgStatusDuty d
  let s := if d < was then
      (s.fset F.pkgStatusTempLim (if s.f F.pkgCtrlThrOn < r.tj then 1 else 0)).fset F.pkgStatusPwrLim (if s.f F.pkgCtrlPwrLimit < r.watts then 1 else 0)
    else s
  let s := if d < 16 then s.fadd F.pkgCountThrottleMs else s
  if was = 16 ∧ d < 16 then s.raise 0x7600 745 else if was < 16 ∧ d = 16 then s.raise 0x7601 745 else s

/-- THROTTLE_READING: the reading of one millisecond; at HOVE_T the part enters Hove-to with cause THERMAL (R542). -/
def execThrottleReading (r : Reading) (s : State) : Host.Outcome State Fault Refusal :=
  let s := (s.showReading r).setDuty r (s.nextDuty r)
  if s.f F.pkgCtrlHoveT ≤ r.tj ∧ !s.causes.contains 9 ∧ !s.latched.any fun e => e.hove == some 9 then .next (s.askHove 9) else .next s

/-! ### Off (R536, R543) -/

/-- Registers that the SVD keeps in Off: TICK_COUNT, the error records, the spares promoted, the shutdown counts and the fuses, and what only a power-on reset clears: the debug level and the measurements (R479, R491, R536). -/
def keptInOff : List RegName :=
  [.tickCount, .tickStatus, .errlog0, .errlog1, .errlog2, .errlog3, .errsecN0, .errsecN1, .errsecN2, .errsecN3, .errStatus, .errCountS,
   .errOverflow, .errRing, .featCores, .pkgCount, .fuseStatus, .dbgStatus, .measNM, .mlog]

/-- The contents of the two flashes, job areas included, which no loss of power changes (R442). -/
def State.flashes (s : State) : List Host.Cell := s.mem.filter fun c => decide (Bank.score.num < c.1 / 2 ^ 44)

/-- Every rail but VAON is removed: the part is in Off, and everything outside the SVD is lost; RWL fields stay locked, since this is no power-on reset, and PTP is not LOCKED (R14, R399, R536; log entry 33). -/
def State.powerOff (s : State) : State :=
  let s := s.fset F.tickStatusHall 0
  { State.reset with
    grade := s.grade
    slots := s.slots
    owners := s.owners
    retired := s.retired
    promotedAt := s.promotedAt
    regs := s.regs.filter fun r => keptInOff.contains r.1.name
    latched := s.latched
    dropRun := s.dropRun
    mlog := s.mlog
    fullDebug := s.fullDebug
    ptp := { slews := s.ptp.slews }
    tickAdds := s.tickAdds.filter fun r => keptInOff.contains r.1.name
    mem := s.flashes
    boot := { powered := false, tripped := s.boot.tripped, railFaults := s.boot.railFaults, locked := s.boot.locked, memory := s.boot.memory
              stepped := s.boot.stepped }
    thermtrip := s.thermtrip
    pcieClock := s.pcieClock
    alert := true
    out := s.out
    free := s.free
    draws := s.draws
    pending := s.pending }

/-- THERMAL_TRIP: THERMTRIP_N is asserted and the part goes to Off until P3V3_AON is removed (R543). -/
def execThermalTrip (s : State) : Host.Outcome State Fault Refusal :=
  let s := ((s.fadd F.pkgCountTrips).error 0x1032 sevSafety)
  .next { s with thermtrip := true, boot := { s.boot with tripped := true } }.powerOff

/-- P12V_LOSS: the part goes to Off with event 0x1030 (R536). -/
def execP12vLoss (s : State) : Host.Outcome State Fault Refusal :=
  if s.boot.powered then .next (s.error 0x1030 sevSafety).powerOff else .next s

/-- RAIL_FAULT: as P12V_LOSS with event 0x1031 and the rail in DETAIL; VAON is not watched (R536). -/
def execRailFault (rail : Nat) (s : State) : Host.Outcome State Fault Refusal :=
  if 44 ≤ rail ∨ !s.boot.powered then .next s
  else
    let s := (s.fadd F.pkgCountRailFaults).error 0x1031 sevSafety 0xFFF 0xFF 0 rail
    .next { s with boot := { s.boot with railFaults := s.boot.railFaults + 1 } }.powerOff

/-- P12V_ABSENT_AT_BOOT: after 1 s of waiting in COLD, once (R535). -/
def execP12vAbsentAtBoot (s : State) : Host.Outcome State Fault Refusal :=
  if s.f F.bootStatusState = 0 ∧ !s.boot.waiting then .next ({ s with boot := { s.boot with waiting := true } }.raise 0x3050 745)
  else .next s

/-- What a power-on reset leaves: every register at its reset value and every store empty; flashes and fuses stay (R17, R537). -/
def State.coldReset (s : State) : State :=
  { State.reset with
    grade := s.grade
    slots := s.slots
    mem := s.flashes
    owners := s.owners
    regs := s.regs.filter fun r => r.1.name == RegName.fuseStatus
    pcieClock := s.pcieClock
    out := s.out
    free := s.free
    draws := s.draws
    pending := s.pending }

/-- P3V3_AON_LOSS: a power-on reset of the whole part (R537). -/
def execP3v3AonLoss (s : State) : Host.Outcome State Fault Refusal := .next s.coldReset

/-! ### Ethernet clocks (R539) -/

/-- ETH_REFCLK_MISSING: the I/O die's ports stop, and each of its port groups has a fault (R333, R539). -/
def execEthRefclkMissing (iod : Nat) (s : State) : Host.Outcome State Fault Refusal :=
  if 2 ≤ iod then .next s
  else
    let groups := ((List.range 4).map fun g => iod * 4 + g).filter fun g => !(s.groupPorts g).isEmpty
    .next (groups.foldl (fun s g => ((s.groupPorts g).foldl State.portDown s).faultDomain (groupDomain g) 0xFF g) s)

end Sys2Proof.Machine
end

