-- ==== Sys2Proof/Machine/Debug.lean ====
section
/-! DEFINITION. Debug authorisation (R491 to R494), the test access port (R547 to R550), self-test sessions (R551, R552) and the test multiplexer (R553, R554). -/

namespace Sys2Proof.Machine

/-! ### Challenges and tokens (R492) -/

/-- DBG_STATUS.LEVEL. -/
def State.dbgLevel (s : State) : Nat := s.f F.dbgStatusLevel

/-- Draws a new challenge, which DBG_CHAL shows, and voids the old one. -/
def State.newChallenge (s : State) : State :=
  let (c, s) := s.draw
  (List.range 4).foldl (fun s m => s.fset F.dbgChalMNonce (c.toNat / 2 ^ (64 * m) % 2 ^ 64) m) { s with challenge := some c }

/-- NEW_CHAL: DBG_CTRL.NEW_CHAL written. -/
def execNewChal (s : State) : Host.Outcome State Fault Refusal := .next (s.fset F.dbgCtrlNewChal 0).newChallenge

/-- A token is refused with a result; a failed signature raises event 0x3040. -/
def State.refuseToken (s : State) (st : Status) : State :=
  let s := (s.fadd F.dbgStatusRefused).fset F.dbgStatusResult st.code
  if st = .badSignature then s.raise 0x3040 750 else s

/-- Fields of a token that must be as R492 has them, with the challenge as its nonce and no closed group at level 1 (R492, R554). -/
def State.tokenOk (s : State) (t : List Byte) : Bool :=
  let level := leAt t 4 1
  decide (64 ≤ t.length) && leAt t 0 4 == 0x5A4D4C44 && (level == 1 || level == 2) && leAt t 5 3 == 0 && leAt t 58 6 == 0 &&
    leAt t 8 16 == Config.deviceId.toNat && s.challenge == some (BitVec.ofNat 256 (leAt t 24 32)) &&
    !(level == 2 && s.fb F.fuseStatusDbgKill) && !(level == 1 && decide (2 ^ 14 ≤ leAt t 56 2))

/-- The signature block of a token leads from a DEBUG anchor of the running image, or with no image accepted from the root key, to a signer of role DEBUG (Table 15.4). -/
def State.tokenSigner (s : State) (t : List Byte) : Bool :=
  if s.boot.config.isEmpty then chainOk [Config.rootKey] true [3] t else chainOk (anchorKeys s.boot.config 3) false [3] t

/-- Level 1 opens: MEAS_4, the groups named, event 0x7501 (R493). -/
def State.openObserve (s : State) (groups : Nat) : State :=
  let s := ((s.fset F.dbgStatusLevel 1).fset F.dbgStatusGroups groups).fset F.dbgStatusResult Status.ok.code
  (s.extendWith 4 [1]).raise 0x7501 750

/-- A level 2 token is accepted: entries stop starting, and a part that has not voted votes ABORT (Table 15.9, T). -/
def State.acceptFull (s : State) : State :=
  ({ s with fullDebug := some s.now }.fset F.dbgStatusResult Status.ok.code).abortVote

/-- A token submitted; the challenge serves this submission only. At level 2, or on the way to it, none is accepted, since it is left only by power-on reset (R492, R494). -/
def State.submitToken (s : State) (t : List Byte) (sigOk : Bool) : State :=
  let ok := s.tokenOk t && s.fullDebug.isNone
  let s := { s with challenge := none }
  if !sigOk || !s.tokenSigner t then s.refuseToken .badSignature
  else if !ok then s.refuseToken .aborted
  else if leAt t 4 1 = 2 then s.acceptFull
  else s.openObserve (leAt t 56 2)

/-- DBG_SUBMIT: the token at DBG_TOKEN; it is refused where JTAG has submitted one in the tick (R492). -/
def execDbgSubmit (sigOk : Bool) (s : State) : Host.Outcome State Fault Refusal :=
  let s := s.fset F.dbgCtrlSubmit 0
  if s.jtagEdge.contains 0 then .next (s.refuseToken .aborted)
  else
    let (s, t) := s.readBytes .sram (s.f F.dbgTokenBase) (s.f F.dbgTokenLen)
    match t with
    | some t => .next (s.submitToken t sigOk)
    | none => .next ({ s with challenge := none }.refuseToken .aborted)

/-- DBG_CLOSE: level 1 returns to level 0, DBG_OUT is low and TM_SEL.EN clears (R493, R554). -/
def execDbgClose (s : State) : Host.Outcome State Fault Refusal :=
  let s := s.fset F.dbgCtrlClose 0
  if s.dbgLevel = 1 then
    let s := ((s.fset F.dbgStatusLevel 0).fset F.dbgStatusGroups 0).fset F.tmSelEn 0
    .next { (s.fset F.tmStatusDriving 0).fset F.tmStatusGroup 0 with dbgOut := 0, muxNext := none }
  else .next s

/-! ### Full debug (R494, Table 15.9) -/

/-- The key engine is cleared: every session ends, every port is disabled, and the part runs no role (T + 1). -/
def State.eraseSecrets (s : State) : State :=
  let s := s.sessions.foldl (fun s x => (s.dropExchange x.peer x.feeder).endSession x.peer x.feeder) s
  let s := { s with exchanges := [] }.endIde
  let s := (List.range 32).foldl (fun s p => (s.portDown p).fset F.portPStatusState 0 p) s
  let s := ((s.fset F.secStatusAk 0).fset F.bootStatusState 0).extendWith 4 [2]
  { s with spdmDoe := {}, spdmMctp := {} }.raise 0x3041 750

/-- SRAM, tiles, Score, parameter registers, the SUC and both Ledger copies are zero with fresh check bits, and the log's mirror is written afresh; HBM is not rewritten (T + 1 to T + 2,000). -/
def State.zeroFill (s : State) : State :=
  { s with
    mem := s.mem.filter fun c => c.1 / 2 ^ 44 == Bank.hbm.num || decide (Bank.score.num < c.1 / 2 ^ 44)
    errs := s.errs.filter fun c => c.1 / 2 ^ 41 == Bank.hbm.num
    poison := s.poison.filter fun c => c.1 / 2 ^ 41 == Bank.hbm.num
    regs := s.regs.filter fun r => r.1.name != RegName.queueQParamM }.mirrorLog

/-- FULL_DEBUG_OPEN: 2,000 ticks after its acceptance, level 2 is open. -/
def execFullDebugOpen (s : State) : Host.Outcome State Fault Refusal :=
  match s.fullDebug with
  | some t => if t + 2000 ≤ s.now ∧ s.dbgLevel ≠ 2 then .next (s.zeroFill.fset F.dbgStatusLevel 2) else .next s
  | none => .next s

/-! ### The test access port (R547 to R550) -/

/-- Selects an instruction; its data register, if any, is shifted out; `drives` tells that the boundary register drives the balls. -/
def State.select (s : State) (ir : Nat) (drives : Bool := false) : State := { s with jtag := { s.jtag with ir, driving := drives } }

/-- An instruction closed at the current level selects the bypass register (R548). -/
def State.selectAt (s : State) (level ir : Nat) (act : State → State) : State :=
  if level ≤ s.dbgLevel then act (s.select ir) else s.select 0xFF

/-- Shifts a data register out on TDO. -/
def State.shiftOut (s : State) (bits width : Nat) : State :=
  { s with jtag := { s.jtag with dr := bits % 2 ^ width } }.emit (.jtag (bits % 2 ^ width) width)

/-- TRST_N_ASSERT: Test-Logic-Reset with IDCODE selected; the debug level stays (R547). -/
def execTrstNAssert (s : State) : Host.Outcome State Fault Refusal :=
  .next { s with jtag := { s.jtag with ir := 0x01, driving := false, segments := [] } }

/-- The identification code (R549). -/
def State.idcodeWord (s : State) : Nat :=
  0x1 * 2 ^ 28 + (match s.grade with | .psn8128 => 0x8128 | .psn8112 => 0x8112) * 2 ^ 12 + 0x2A7 * 2 + 1

/-- IDCODE (R549). -/
def execIdcode (s : State) : Host.Outcome State Fault Refusal := .next ((s.select 0x01).shiftOut s.idcodeWord 32)

/-- SAMPLE/PRELOAD: the boundary register takes the balls' levels and shifts them out (R548). -/
def execSamplePreload (pins : Nat) (s : State) : Host.Outcome State Fault Refusal :=
  let s := s.select 0x02
  .next ({ s with jtag := { s.jtag with boundary := pins % 2 ^ 79 } }.shiftOut pins 79)

/-- EXTEST: the boundary register drives the output balls, at level 2 (R548, R549). -/
def execExtest (boundary : Nat) (s : State) : Host.Outcome State Fault Refusal :=
  .next (s.selectAt 2 0x00 fun s => { s with jtag := { s.jtag with boundary := boundary % 2 ^ 79, driving := true } })

/-- CLAMP: the boundary register drives the balls with bypass selected, at level 2. -/
def execClamp (s : State) : Host.Outcome State Fault Refusal := .next (s.selectAt 2 0x03 fun s => s.select 0x03 true)

/-- HIGHZ, at level 2. -/
def execHighz (s : State) : Host.Outcome State Fault Refusal := .next (s.selectAt 2 0x04 fun s => s.select 0x04 true)

/-- BYPASS. -/
def execBypass (s : State) : Host.Outcome State Fault Refusal := .next (s.select 0xFF)

/-- CHALLENGE: draws a new challenge and shifts it out, at every level. -/
def execJtagChallenge (s : State) : Host.Outcome State Fault Refusal :=
  let s := (s.select 0x10).newChallenge
  .next (s.shiftOut (s.challenge.getD 0).toNat 256)

/-- JTAG has acted since the last edge: 0 a token, 1 a selection, 2 a session. -/
def State.jtagActs (s : State) (k : Nat) : State := { s with jtagEdge := if s.jtagEdge.contains k then s.jtagEdge else s.jtagEdge ++ [k] }

/-- TOKEN: Update-DR submits the bytes shifted. -/
def execToken (bytes : List Byte) (sigOk : Bool) (s : State) : Host.Outcome State Fault Refusal :=
  .next (((s.select 0x11).jtagActs 0).submitToken bytes sigOk)

/-- DBGSTATUS: a copy of DBG_STATUS whose capture clears nothing. -/
def execDbgstatus (s : State) : Host.Outcome State Fault Refusal :=
  .next ((s.select 0x12).shiftOut (s.rd ⟨.dbgStatus, 0, 0⟩).toNat 64)

/-! ### The multiplexer (R553, R554) -/

/-- Values of SUB in a group's range (Table 19.4); groups without one take any. -/
def subRange (group : Nat) : Nat :=
  match group with
  | 1 | 2 | 3 => 136
  | 4 | 5 | 12 => 8
  | 6 => 256
  | 7 => 19
  | 8 => 32
  | 9 => 4096
  | 13 => 139
  | _ => 4096

/-- A selection is allowed: the level, the groups of the token at level 1, and the range of SUB (R554). -/
def State.selectionOk (s : State) (v : Word) : Bool :=
  let g := getBits v 0 4
  decide (s.dbgLevel ≠ 0) && (s.dbgLevel == 2 || s.f F.dbgStatusGroups / 2 ^ g % 2 == 1) && decide (getBits v 32 12 < subRange g)

/-- A selection is written, and takes effect at the next tick edge, or is ignored and counted. -/
def State.selectGroup (s : State) (v : Word) : State :=
  if s.selectionOk v then
    let s := s.wr ⟨.tmSel, 0, 0⟩ (swWrite true ⟨.tmSel, 0, 0⟩ (s.rd ⟨.tmSel, 0, 0⟩) v)
    { s with muxNext := some (s.rd ⟨.tmSel, 0, 0⟩) }
  else s.fadd F.tmStatusRefused

/-- MUXSEL, at levels 1 and 2. -/
def execMuxsel (value : Word) (s : State) : Host.Outcome State Fault Refusal :=
  .next (s.selectAt 1 0x20 fun s => (s.jtagActs 1).selectGroup value)

/-- TM_SEL_WRITE: the register path; it is ignored where MUXSEL has selected in the tick. -/
def execTmSelWrite (value : Word) (s : State) : Host.Outcome State Fault Refusal :=
  if s.jtagEdge.contains 1 then .next (s.fadd F.tmStatusRefused) else .next (s.selectGroup value)

/-- SUB names an absent or retired element. -/
def State.subAbsent (s : State) (group sub : Nat) : Bool :=
  match group with
  | 1 | 2 | 3 => (s.positionOf sub).isNone || s.retired.contains sub
  | 6 => s.f F.hbmChanNState (sub / 32) (sub % 32) == 5
  | 8 => Reg.absent s.grade ⟨.portPStatus, sub, 0⟩ || s.f F.portPStatusState sub == 5
  | 13 => decide (sub < 136) && ((s.positionOf sub).isNone || s.retired.contains sub)
  | _ => false

/-- The bits of a group that the state determines, as (mask, bits); strobes, counts in flight and other signals that the spec gives no state for are outside the mask (Table 19.4). -/
def State.groupBits (s : State) (group sub : Nat) : Nat × Nat :=
  let q (i : Nat) : Nat := posQueue sub i
  let ex (c : Nat) : Nat := s.f F.queueQStatusExec c
  match group with
  | 0 => (0x80FF, packFields [(1, 1), (0, 7), (s.now % 256, 8)])
  | 1 => (0xFFFF, packFields ([3, 2, 1, 0].map (fun i => (ex (q i), 1)) ++ [3, 2, 1, 0].map fun i => (s.qState (q i), 3)))
  | 2 => (0xFFE0, packFields [(s.f F.mxeStatusBusy sub, 1), (s.f F.mxeStatusRetry sub, 1), (s.f F.mxeStatusMtest sub, 1),
      (s.f F.mxeStatusFmtOut sub, 4), (s.f F.mxeStatusRung sub, 4), (0, 5)])
  | 3 => (0xFE00, packFields [(s.f F.vxeModeReduced sub, 1), (s.f F.vxeModeCause sub, 2), (s.f F.vxeStatusEBusy sub, 1),
      (s.f F.vxeStatusD1Busy sub, 1), (s.f F.vxeStatusD0Busy sub, 1), (s.f F.vxeStatusRetry sub, 1), (0, 9)])
  | 4 => (0xFF00, packFields ((List.range 8).reverse.map (fun i => (ex (sub * 128 + 0x44 + i), 1)) ++ [(0, 8)]))
  | 5 => (0xFE00, packFields [(s.f F.sucStatusOpen sub, 7), (0, 9)])
  | 6 => (0xE000, packFields [(s.f F.hbmChanNState (sub / 32) (sub % 32), 3), (0, 13)])
  | 7 => (0xBF00, packFields [(if s.linksOut.contains sub then 0 else 1, 1), (0, 1), (min (assoc 0 s.linkFails sub) 63, 6), (0, 8)])
  | 8 => (0xFFE0, packFields [(s.f F.portPStatusState sub, 3), (s.f F.portPStatusLocked sub, 8), (0, 5)])
  | 9 => (0xFF00, packFields [(s.f F.flowFStatusState sub, 3), (s.f F.flowFStatusPaths sub, 5), (0, 8)])
  | 10 => (0xE7FF, packFields [(s.f F.stepStatusState, 3), (0, 2), ((s.step.last.map fun d => d.outcome.code).getD 0, 4),
      (min (s.units.filter fun u => u.state != .retired).length 127, 7)])
  | 11 => (0xE000, packFields [(s.f F.ptpStatusState, 3), (0, 13)])
  | 12 => (0xFFFF, packFields [(s.f F.pkgStatusDuty, 5), (min (s.f F.pkgStatusTj) 127, 7),
      (min ((List.range 17).filter fun k => s.corePwr (sub * 17 + k) == 2).length 15, 4)])
  | 13 => (0xFF3F, packFields [(s.f F.intcTgtTCtrlActive sub, 4), (s.f F.intcTgtTCtrlThreshold sub, 4), (0, 2),
      (min ((List.range 768).filter fun n => s.fb F.intcSrcNPending n && s.f F.intcSrcNTarget n == sub).length 63, 6)])
  | _ => (0, 0)

/-- The level of DBG_OUT at a tick edge: the new selection takes effect, and what the state does not determine is a free value (R553; log entry 1). -/
def State.muxEdge (s : State) : State :=
  let sel := s.muxNext.getD (s.rd ⟨.tmSel, 0, 0⟩)
  let group := getBits sel 0 4
  let sub := getBits sel 32 12
  let on := getBits sel 63 1 == 1 && s.dbgLevel != 0 && !s.subAbsent group sub
  let s := (s.fset F.tmStatusDriving (if on then 1 else 0)).fset F.tmStatusGroup (if on then group else 0)
  let s := { s with muxNext := none }
  if !on then { s with dbgOut := 0 }
  else
    let (v, s) := s.open_
    let (mask, bits) := s.groupBits group sub
    { s with dbgOut := Nat.lor bits (Nat.land (v.toNat % 2 ^ 16) (0xFFFF - mask)) }

/-! ### 1687 networks and self-test sessions (R550 to R552) -/

/-- Segments of fused port groups stay closed; the top level holds 11 bits, and further bits open the engines of the dies in order. -/
def State.openSegments (s : State) (bits : List Bool) : List Bool :=
  bits.zipIdx.map fun b => b.1 && !(s.grade == .psn8112 && fusedSegment b.2)
where
  /-- Place in a compute die's segment of 20 bits: SRAM, SUC, cores 0 to 16, HBM; cores 14 and 15 are fused on PSN-8112 (R550). -/
  fusedSegment (i : Nat) : Bool :=
    let io := 11 + 2 * 5
    decide (io ≤ i) && ((i - io) % 20 == 16 || (i - io) % 20 == 17) ||
      i == 11 + 3 || i == 11 + 5 + 3

/-- IJTAG: the segment bits selected, at level 2 (R550). -/
def execIjtag (bits : List Bool) (s : State) : Host.Outcome State Fault Refusal :=
  .next (s.selectAt 2 0x30 fun s => { s with jtag := { s.jtag with segments := s.openSegments bits } })

/-- Targets of an engine that the grade has (Table 19.3). -/
def State.targetOk (s : State) (kind target : Nat) : Bool :=
  match kind with
  | 0 | 1 | 3 => decide (target < 8)
  | 2 => decide (target < 136) && !(s.grade == .psn8112 && (target % 17 == 14 || target % 17 == 15))
  | 4 => decide (target < 8) && !(s.groupPorts target).isEmpty
  | 5 => decide (target < 2)
  | _ => false

/-- A session destroys what it tests: a March C− ends with every word zero; of a core, the parameter registers, which a read shows, hold free values (R551; log entry 34). -/
def State.destroy (s : State) (kind target : Nat) : State :=
  let clear (b : Bank) (lo n : Nat) : State :=
    { s with
      mem := s.mem.filter fun c => !(decide (byteKey b lo ≤ c.1) && decide (c.1 < byteKey b (lo + n)))
      errs := s.errs.filter fun c => !(decide (wordKey b (lo / 8) ≤ c.1) && decide (c.1 < wordKey b ((lo + n) / 8)))
      poison := s.poison.filter fun c => !(decide (wordKey b (lo / 8) ≤ c.1) && decide (c.1 < wordKey b ((lo + n) / 8))) }
  match kind with
  | 0 => clear .sram (target * 0x100000000) 0x100000000
  | 1 => clear .suc (target * 0x08000000) 0x08000000
  | 2 =>
    (List.range 4).foldl (fun s i => (List.range 64).foldl (fun s m =>
      let (v, s) := s.open_
      s.wr ⟨.queueQParamM, posQueue target i, m⟩ v) s) s
  | 3 => { s with mem := s.mem.filter fun c => !(c.1 / 2 ^ 44 == Bank.hbm.num && hbmDie (c.1 % 2 ^ 44) == target)
                  errs := s.errs.filter fun c => !(c.1 / 2 ^ 41 == Bank.hbm.num && hbmDie (8 * (c.1 % 2 ^ 41)) == target)
                  poison := s.poison.filter fun c => !(c.1 / 2 ^ 41 == Bank.hbm.num && hbmDie (8 * (c.1 % 2 ^ 41)) == target) }
  | 5 => clear (ledgerBank target) 0 0x10000000
  | _ => s

/-- Sessions running are shown in BUSY. -/
def State.showBist (s : State) : State := s.fset F.tmBistStatusBusy s.bist.length

/-- Starts a session, or refuses and counts it (R551, R552). -/
def State.startBist (s : State) (kind target : Nat) : State :=
  if s.dbgLevel ≠ 2 ∨ 4 ≤ s.bist.length ∨ s.bist.contains (kind, target) ∨ !s.targetOk kind target then s.fadd F.tmStatusRefused
  else (({ s with bist := s.bist ++ [(kind, target)] }).destroy kind target).showBist

/-- BISTCTL, at level 2. -/
def execBistctl (value : Word) (s : State) : Host.Outcome State Fault Refusal :=
  .next (s.selectAt 2 0x31 fun s =>
    if getBits value 0 1 = 1 then (s.jtagActs 2).startBist (getBits value 60 4) (getBits value 32 12) else s)

/-- BIST_START: TM_BIST_CTRL.START; refused where JTAG has started a session in the tick (R551). -/
def execBistStart (s : State) : Host.Outcome State Fault Refusal :=
  let s := s.fset F.tmBistCtrlStart 0
  if s.jtagEdge.contains 2 then .next (s.fadd F.tmStatusRefused)
  else .next (s.startBist (s.f F.tmBistCtrlKind) (s.f F.tmBistCtrlTarget))

/-- Domain of a session's target; SRAM slices lie in none of Table 13.4. -/
def bistDomain (kind target : Nat) : Nat :=
  match kind with
  | 1 | 3 => stackDomain target
  | 2 => target
  | 4 => groupDomain target
  | 5 => 0x300 + target
  | _ => 0xFFF

/-- BIST_SESSION_END: the result; a failure is counted and posts an uncorrectable record with the target's domain (R552). -/
def execBistSessionEnd (kind target : Nat) (ok : Bool) (s : State) : Host.Outcome State Fault Refusal :=
  if !s.bist.contains (kind, target) then .next s
  else
    let s := { s with bist := s.bist.filter fun b => b != (kind, target) }.showBist
    let s := (s.fset F.tmBistStatusResult (if ok then Status.ok else Status.aborted).code).fset F.tmBistStatusKind kind
    let s := s.fset F.tmBistStatusTarget target
    if ok then .next s
    else .next ((s.fadd F.tmBistStatusFails).error 0x3001 sevUncorrectable (bistDomain kind target) (if kind = 2 then target else 0xFF) 0 0
      Status.aborted.code)

end Sys2Proof.Machine
end

