-- ==== Sys2Proof/Machine/Jobs.lean ====
section
/-! DEFINITION. Jobs (R460 to R463): loading a job image, the LOADED markers, start, stop and live update. -/

namespace Sys2Proof.Machine

/-! ### Sources of a job image (R460) -/

/-- The image at the job area of a slot's flash (Table 14.1). -/
def State.jobArea (s : State) (k : Nat) : List Byte :=
  let at_ := 0x04010000
  let b := flashBank k
  let head := s.bytes b at_ 16
  if leAt head 0 4 == 0x5A4D4C49 then s.bytes b at_ (min (leAt head 8 8) (0x20000000 - at_)) else []

/-- The image in the SRAM area that CFG_SRC names. -/
def State.hostImage (s : State) : State × Option (List Byte) :=
  let (s, l) := s.readBytes .sram (s.f F.cfgSrcBase) (s.f F.cfgSrcLen * 4096)
  (s, l.map imageOf)

/-- SRAM offset of the job image area of the role section. -/
def State.imageArea (s : State) : Nat := (Config.roleSection s.boot.config).2.2.2

/-- The RREAD of a peer's job image area goes out on an OPEN flow to the peer; the area's place is this part's own, and its length the largest that a job image may have (R460; log entry 166). -/
def State.askImage (s : State) : State :=
  match s.flowTo (s.f F.jobCtrlPeer) with
  | none => s
  | some f =>
    let r : RemoteReq := ⟨s.me, f, BitVec.ofNat 64 (s.f F.jobCtrlPeer * 2 ^ 48 + 2 ^ 44 + s.imageArea), .read 0x10000000⟩
    (s.emit (.remote f r)).sendMessage f (Config.requestBytes r)

/-- The image from a source of Table 14.6: FLASH, HOST, or PEER, whose RREAD goes out and whose reply is the command's operand. -/
def State.jobSource (s : State) (src : Nat) (reply : RemoteReply) : State × Option (List Byte) :=
  match src with
  | 1 => (s, s.booted.map s.jobArea)
  | 2 => s.hostImage
  | 3 =>
    if !s.isMember (s.f F.jobCtrlPeer) then (s, none)
    else
      match reply with
      | .ok l => (s.askImage, some (imageOf l))
      | _ => (s.askImage, none)
  | _ => (s, none)

/-- Keeps the verified job image in the SRAM area that the role section names. -/
def State.keepImage (s : State) (img : List Byte) : State := (s.store false .sram s.imageArea img).1

/-! ### Loading (R460, R219, R372) -/

/-- The shard map gives every logical shard to a member, and no part two shards or copies of one table (R219, R372). -/
def State.layoutOk (s : State) (img : List Byte) : Bool :=
  let (_, _, _, map, _) := Config.jobLayout img
  let holder (k : Nat) : Nat := ((map.find? fun m => m.1 == k).map (·.2)).getD (s.holder k)
  (map.all fun m => s.isMember m.2) &&
    (Config.imageTables img).all fun t =>
      let d := dirOf (leNat t.2)
      decide ((List.range (d.shards * (d.repl + 1))).map fun k => holder (d.shard0 + k)).Nodup

/-- Writes the directory entries that an image carries. -/
def State.loadTables (s : State) (img : List Byte) : State :=
  (Config.imageTables img).foldl (fun s t => (s.writeBytes .ledgerE (dirAt t.1) (t.2.take 64)).1) s

/-- Shard map entries of a Keeper's configuration image (R372). -/
def State.loadKeeper (s : State) (img : List Byte) : State :=
  (Config.keeperShards img).foldl (fun s m => s.setLed (0x03100000 + 2 * (m.1 % 65536)) 2 m.2) s

/-- Writes the shard map of an image (Table 11.1). -/
def State.loadShards (s : State) (img : List Byte) : State :=
  let (_, _, _, map, _) := Config.jobLayout img
  map.foldl (fun s m => s.setLed (0x03100000 + 2 * m.1) 2 m.2) s

/-- Opens the flows of section 0x0104; one without a session starts its exchange (R343, R460). -/
def State.openJobFlows (s : State) : State :=
  (Config.jobFlows s.boot.job).foldl (fun s f =>
    if s.flowState f.1 = flowClosed then
      let s := s.openFlow f.1 f.2.1 f.2.2.1 f.2.2.2 false none
      if s.flowState f.1 = flowOpening then s.startExchange f.2.1 false else s
    else s) s

/-- LOADED to the leader of the hall committee, with the image digest and the parts that its shard map and spare list name (R460, R461, R463). -/
def State.markLoaded (s : State) (img : List Byte) (update : Bool) : State :=
  let (_, _, _, map, spares) := Config.jobLayout img
  s.emit (.loaded (s.hallCommittee.headD s.me) ⟨digest128 img, update, (map.map (·.2)).dedup, spares⟩)

/-- A load that failed: STATE NONE and RESULT. -/
def State.loadFailed (s : State) (st : Status) : State := (s.fset F.jobStatusState 0).jobResult st

/-- Loads an accepted job image: Score, tables, shard map, flags, settings and flows; a segment that fails ends the load (R160, R169, R460). -/
def State.installJob (s : State) (img : List Byte) : State :=
  let s := { s with boot := { s.boot with job := img } }.extend 5 (digest256 img)
  let (s, st) := s.loadSegments (s.segmentSet 0)
  if st ≠ .ok then { s with boot := { s.boot with job := [] } }.loadFailed st
  else
    let s := (((s.keepImage img).loadTables img).loadShards img).clearFlags
    let s := (s.applyJobSettings).openJobFlows
    let s := ((s.fset F.jobStatusState 2).fset F.jobStatusJobId (imageJobId img)).fset F.jobStatusVersion (imageVersion img % 2 ^ 16)
    ((s.jobResult .ok).showPart).markLoaded img false

/-- JOB_CTRL.LOAD from a source. -/
def State.loadJob (s : State) (src : Nat) (v : ImageVerdict) (reply : RemoteReply) : State :=
  if s.f F.jobStatusState ≠ 0 then s.jobResult .aborted
  else if s.f F.bootStatusState ≠ 3 ∧ s.f F.bootStatusState ≠ 4 then s.loadFailed .aborted
  else
    match s.jobSource src reply with
    | (s, none) => s.loadFailed .aborted
    | (s, some img) =>
      match s.checkImage 2 img v with
      | (s, .ok) => if s.layoutOk img then s.installJob img else s.loadFailed .aborted
      | (s, st) => s.loadFailed st

/-- JOB_LOAD: a load where no job is loaded yet; it is refused with ABORTED otherwise (R460). -/
def execJobLoad (v : ImageVerdict) (reply : RemoteReply) (s : State) : Host.Outcome State Fault Refusal :=
  .next ((s.fset F.jobCtrlLoad 0).loadJob (s.f F.jobCtrlSrc) v reply)

/-- A part whose image names JOB_SRC FLASH loads the job image of its own job area as it reaches its role (R455; log entry 92). -/
def State.autoLoad (s : State) : State :=
  if !s.boot.loadDue || s.inHove then s
  else
    let s := { s with boot := { s.boot with loadDue := false } }
    s.loadJob 1 ⟨Config.sectionsPass ((s.booted.map s.jobArea).getD [])⟩ .refused

/-! ### The start (R461) -/

/-- Parts and spares that the LOADED markers held name. -/
def State.markedParts (s : State) : List Nat × List Nat :=
  ((s.boot.loaded.flatMap fun l => l.2.parts).dedup, (s.boot.loaded.flatMap fun l => l.2.spares).dedup)

/-- The command that LOADED markers lead to: the start of a job, or the update of a running one. -/
def State.loadedCmd (s : State) : HallCmd :=
  if s.boot.loaded.any fun l => l.2.update then .jobUpdate else .jstart s.markedParts.1 s.markedParts.2

/-- The leader refuses: every job part that a marker names hears it, this part included (R461). -/
def State.refuseStart (s : State) : State :=
  let cmd := s.loadedCmd
  let (parts, spares) := s.markedParts
  let others := ((parts ++ spares).dedup).filter fun p => p != s.me
  let s := s.emits (others.map fun p => .hallAnswer p cmd false)
  let s := { s with boot := { s.boot with loaded := [], firstLoaded := none } }
  s.refuseHall cmd true

/-- The leader decides once every part that the markers name has sent one digest, and refuses where two differ or a job runs in the hall already; it needs no image of its own (R368, R461, R463). -/
def State.weighLoaded (s : State) : State :=
  let all := s.markedParts.1 ++ s.markedParts.2
  if ((s.boot.loaded.map (·.2)).dedup).length > 1 || (s.hallJob && s.loadedCmd != .jobUpdate) then s.refuseStart
  else if (all.all fun p => s.boot.loaded.any fun l => l.1 == p) && !s.hallAsked.contains s.loadedCmd then
    { s with hallAsked := s.hallAsked ++ [s.loadedCmd], boot := { s.boot with loaded := [], firstLoaded := none } }.emit (.hallAsk s.loadedCmd)
  else s

/-- LOADED_RECEIVE: the leader of the hall committee collects a marker (R461). -/
def execLoadedReceive (part : Nat) (mark : LoadedMark) (s : State) : Host.Outcome State Fault Refusal :=
  if s.inHove || s.hallCommittee.head? != some s.me || !s.isMember part then .next s
  else
    let first := if s.boot.firstLoaded.isNone then some s.now else s.boot.firstLoaded
    .next ({ s with boot := { s.boot with loaded := s.boot.loaded.filter (fun (l : Nat × LoadedMark) => l.1 != part) ++ [(part, mark)], firstLoaded := first } }.weighLoaded)

/-- The start that is decided and whose tick has come. -/
def State.dueStart (s : State) : Option (HallCmd × Nat) :=
  s.hallPending.find? fun c => (match c.1 with | .jstart _ _ => true | _ => false) && decide (c.2 ≤ s.now)

/-- JSTART: the start decided takes effect at its tick on this part (R262, R461); none does in Hove-to (R436). -/
def execJstart (s : State) : Host.Outcome State Fault Refusal :=
  match s.dueStart with
  | some c => if s.inHove then .next s else .next ({ s with hallPending := s.hallPending.erase c }.applyHall c.1)
  | none => .next s

/-- JSTART_TIMEOUT: 60 s after the first LOADED without all markers, the leader refuses (R461). -/
def execJstartTimeout (s : State) : Host.Outcome State Fault Refusal :=
  match s.boot.firstLoaded with
  | some t => if t + 60000000 ≤ s.now ∧ !s.jobRuns then .next s.refuseStart else .next s
  | none => .next s

/-! ### The stop (R462) -/

/-- JOB_CTRL.STOP: asks for the hall-wide vote. -/
def State.askStop (s : State) : State :=
  if s.f F.jobStatusState = 0 then s.jobResult .aborted
  else if s.hallAsked.contains HallCmd.jobStop then s
  else
    let s := if s.jobRuns then s.fset F.jobStatusState 5 else s
    { s with hallAsked := s.hallAsked ++ [HallCmd.jobStop] }.emit (.hallAsk .jobStop)

/-- JOB_STOP (R462). -/
def execJobStop (s : State) : Host.Outcome State Fault Refusal := .next (s.fset F.jobCtrlStop 0).askStop

/-! ### Updates (R463) -/

/-- Sections of class FIXED of two job images are equal (Table 14.4). -/
def fixedEqual (a b : List Byte) : Bool := [0x103, 0x104, 0x106].all fun t => imageSection a t == imageSection b t

/-- JOB_CTRL.UPDATE: a higher version of the running job is staged, or refused with ABORTED. -/
def State.stageJob (s : State) (src : Nat) (v : ImageVerdict) (reply : RemoteReply) : State :=
  if s.f F.jobStatusState ≠ 3 ∨ !s.boot.staged.isEmpty then s.jobResult .aborted
  else
    match s.jobSource src reply with
    | (s, none) => s.jobResult .aborted
    | (s, some img) =>
      match s.checkImage 2 img v with
      | (s, .ok) =>
        if imageJobId img = imageJobId s.boot.job ∧ imageVersion s.boot.job < imageVersion img ∧ fixedEqual img s.boot.job then
          { s with boot := { s.boot with staged := img } }.markLoaded img true
        else s.jobResult .aborted
      | (s, st) => s.jobResult st

/-- JOB_UPDATE (R463). -/
def execJobUpdate (v : ImageVerdict) (reply : RemoteReply) (s : State) : Host.Outcome State Fault Refusal :=
  .next ((s.fset F.jobCtrlUpdate 0).stageJob (s.f F.jobCtrlSrc) v reply)

/-- Core positions whose segments differ between two job images. -/
def changedPositions (a b : List Byte) : List Nat :=
  let of_ (img : List Byte) (p : Nat) : List Segment := (Config.scoreSegments img).filter fun (g : Segment) => g.2.1 == p
  let all := ((Config.scoreSegments a ++ Config.scoreSegments b).map fun (g : Segment) => g.2.1).dedup
  all.filter fun p => of_ a p != of_ b p

/-- Loads the segments of the changed positions, a position with none keeping no region; answers the first status that is not OK. -/
def State.reload (s : State) (changed : List Nat) : State × Status :=
  changed.foldl (fun (a : State × Status) p =>
    let segs : List Segment := a.1.segmentsAt p
    let r := if segs.isEmpty then (a.1.setRegions p [], Status.ok) else a.1.loadSegments segs
    (r.1, if a.2 = .ok then r.2 else a.2)) (s, .ok)

/-- JOB_UPDATE_APPLY: the decided update runs on the cores whose segments change; a load that fails makes the part vote ABORT for the next step (Table 14.8, R463). -/
def execJobUpdateApply (s : State) : Host.Outcome State Fault Refusal :=
  if s.f F.jobStatusState ≠ 4 ∨ s.boot.staged.isEmpty ∨ s.inHove then .next s
  else
    let img := s.boot.staged
    let changed := changedPositions s.boot.job img
    let qs := s.coreQueues.filter fun q => changed.contains (coreOf q)
    let running := qs.filter fun q => s.qState q != qStopped
    let s := running.foldl State.stopQueue s
    let s := { s with boot := { s.boot with job := img, staged := [] } }.extend 5 (digest256 img)
    let (s, st) := (s.keepImage img).reload changed
    let s := s.applyJobSettings
    let s := qs.foldl (fun s q => if s.qState q = qStopped && s.goReady q then s.goQueue q else s) s
    let s := ((s.fset F.jobStatusState 3).fset F.jobStatusVersion (imageVersion img % 2 ^ 16)).jobResult st
    let s := s.raise 0x2031 749
    if st = .ok then .next s
    else if s.stepRuns && s.step.voted.isNone then .next s.abortVote
    else .next { s with step := { s.step with abortNext := true } }

end Sys2Proof.Machine
end

