-- ==== Sys2Proof/Machine/Start.lean ====
section
/-! DEFINITION. The start of the part (R449 to R459): boot from a flash slot, self-qualification, enrolment, programming of a slot, and joining or founding the hall. A boot runs in one command; its times are those of Table 14.5 and stand in no state (log entry 36). -/

namespace Sys2Proof.Machine

/-! ### Slot choice (R449) -/

/-- Of the slots in one of the states, the one with the higher image VERSION, slot A on a tie. -/
def State.pickSlot (s : State) (states : List Nat) : Option Nat :=
  let has (k : Nat) : Bool := states.contains (s.slotState k)
  match has 0, has 1 with
  | true, true => some (if imageVersion (s.slot 0).image < imageVersion (s.slot 1).image then 1 else 0)
  | true, false => some 0
  | false, true => some 1
  | false, false => none

/-- Rules 2 to 4 of R449. -/
def State.eligible (s : State) : Option Nat :=
  match s.pickSlot [slotTrial], s.pickSlot [slotActive], s.pickSlot [slotInactive, slotStaged] with
  | some k, _, _ => some k
  | none, some k, _ => some k
  | none, none, k => k

/-- The SVD reads an image into its image memory of 64 MiB (R451). -/
def State.readImage (s : State) (img : List Byte) : State := { s with boot := { s.boot with memory := img.take 0x4000000 } }

/-- Tries slots by rules 2 to 4: a TRIAL becomes TRYING, its image is read into the image memory and checked there (R451), a rejected one makes its slot FAILED and sets FALLBACK, and the rules apply to the other slot. -/
def State.trySlots (verdict : Nat → ImageVerdict) : Nat → State → State × Option Nat
  | 0, s => (s, none)
  | n + 1, s =>
    match s.eligible with
    | none => (s, none)
    | some k =>
      let s := if s.slotState k = slotTrial then s.setSlotState k slotTrying else s
      let x := s.slot k
      let s := s.readImage x.image
      let whole := x.header.length == x.image.length && x.header.digest == digest128 x.image
      match s.checkImage 1 x.image (verdict k) whole with
      | (s, .ok) => (s, some k)
      | (s, _) => State.trySlots verdict n ((s.setSlotState k slotFailed).fset F.bootStatusFallback 1)

/-- Rule 1 of R449: a slot in TRYING is FAILED. -/
def State.failTrying (s : State) : State :=
  [0, 1].foldl (fun s k => if s.slotState k = slotTrying then s.setSlotState k slotFailed else s) s

/-! ### What an accepted image sets (R447, R455, R479, R480) -/

/-- Measurements 1 to 3 and the attestation key (Table 15.6): section 0x0008, the image, and section 0x0001 with the fused epoch and the owner count (log entry 37). -/
def State.measureImage (s : State) (img : List Byte) : State :=
  let fw := imageSection img 8
  let s := if fw.isEmpty then s else s.extend 1 (digest256 fw)
  let s := s.extend 2 (digest256 img)
  let fuses : List Byte := [BitVec.ofNat 8 (s.f F.fuseStatusEpoch), BitVec.ofNat 8 s.owners.length]
  (s.extend 3 (digest256 (anchors img ++ fuses))).fset F.secStatusAk 1

/-- Port layout: configuration, MAC, address and gateway of each position listed (R365). -/
def State.applyPorts (s : State) (img : List Byte) : State :=
  (Config.portLayout img).foldl (fun s p =>
    let (i, cfg, mac, ip0, ip1, gw0, gw1) := p
    let s := (s.wr ⟨.portPCfg, i, 0⟩ cfg).wr ⟨.portPMac, i, 0⟩ mac
    let s := (s.wr ⟨.portPIpN, i, 0⟩ ip0).wr ⟨.portPIpN, i, 1⟩ ip1
    (s.wr ⟨.portPGwN, i, 0⟩ gw0).wr ⟨.portPGwN, i, 1⟩ gw1) s

/-- An accepted image is applied from the image memory, and RWL fields lock (R447, R451, Table 14.5). -/
def State.applyImage (s : State) (k : Nat) : State :=
  let img := s.boot.memory
  let s := (s.measureImage img).fset F.bootStatusSlot k
  let s := { (s.fset F.bootStatusWhy 0) with boot := { s.boot with config := img } }
  let (part, site) := Config.hallIdentity img
  let s := (s.fset F.hallStatusPart part).fset F.hallStatusSite site
  let (_, src, peer, _) := Config.roleSection img
  let s := (s.fset F.jobCtrlSrc src).fset F.jobCtrlPeer peer
  let s := (s.applyPorts img).applyConfigSettings
  { s with boot := { s.boot with locked := true } }

/-! ### Rails, fill and training (Table 14.5) -/

/-- Power states of the cores: Run, the spares in Deep Lull, and absent where fused or retired (R407, Table 12.11). -/
def State.wakeCores (s : State) : State :=
  (List.range 136).foldl (fun s c =>
    let absent := s.retired.contains c || (s.grade == .psn8112 && (c % 17 == 14 || c % 17 == 15))
    s.setCorePwr c (if absent then 3 else if c % 17 = 16 ∧ !s.promoted (c / 17) then 2 else 0)) s

/-- The host link starts where its clock is there and PERST_N is high (R452). -/
def State.startLink (s : State) : State :=
  if s.pcieClock && s.levelHigh 0 && !s.fb F.hostLinkUp then s.hostLinkTrain else s

/-- Rails up, memories written to zero, stacks trained, ports enabled, ALERT_N released where nothing else holds it, and the log's mirror written (Table 14.5, R479, R536). -/
def State.powerUp (s : State) : State :=
  let s := { s with mem := s.flashes, errs := [], poison := [], flags := [] }
  let s := { s with boot := { s.boot with powered := true, waiting := false } }.fset F.railStatusUp (2 ^ 45 - 1)
  let s := (List.range 8).foldl (fun s d =>
    (s.fset F.hbmStatusTrained 1 d).fset F.hbmStatusSlow (if s.f F.hbmCfgSpeed d = 1 then 1 else 0) d) s
  let s := (List.range 8).foldl State.groupRetry s.wakeCores
  (s.startLink.showAlert).mirrorLog

/-- The start-up tests: a core that passes, a spare among them, leaves reduced mode, and one that serves a position and fails has a fault in its domain (R143, R418). -/
def State.startupTests (s : State) (failed : List Nat) : State :=
  let cores := (List.range 136).filter fun c => (s.positionOf c).isSome
  let s := { s with vxeReady := s.liveCores.filter fun c => !failed.contains c }
  let s := (cores.filterMap s.positionOf).foldl State.showVxeMode s
  (cores.filter failed.contains).foldl (fun s c => s.faultDomain c c) s

/-! ### Boot -/

/-- SPEED of 200 Gb/s and link-local address of a factory MAC (R456). -/
def linkLocal (mac : BitVec 48) : Word :=
  let m := mac.toNat
  BitVec.ofNat 64 (Nat.xor (m / 2 ^ 24 * 2 ^ 40 + 0xFFFE * 2 ^ 24 + m % 2 ^ 24) (2 ^ 57))

/-- Positions 0 and 16 at 200 Gb/s over IPv6 with their factory addresses (R456). -/
def State.factoryPorts (s : State) : State :=
  [0, 16].foldl (fun s p =>
    let s := (s.fset F.portPCfgSpeed 1 p).fset F.portPMacMac (Config.factoryMac p).toNat p
    (s.wr ⟨.portPIpN, p, 0⟩ (linkLocal (Config.factoryMac p))).wr ⟨.portPIpN, p, 1⟩ (0xFE80000000000000 : Word)) s

/-- No image is accepted: QUALIFY, with WHY and, where images were rejected, event 0x3030 (R449). -/
def State.enterQualify (s : State) : State :=
  let none_ := s.slotState 0 = slotEmpty ∧ s.slotState 1 = slotEmpty
  let s := ((s.fset F.bootStatusState 1).fset F.bootStatusQual 1).fset F.bootStatusWhy (if none_ then 1 else 2)
  let s := if none_ then s else s.raise 0x3030 749
  s.factoryPorts.powerUp

/-- The boot from the slot choice on: an accepted image waits in COLD for its role; none leads to QUALIFY (R449, R450). -/
def State.bootSlots (s : State) (verdict : Nat → ImageVerdict) (failed : List Nat) : State :=
  let s := s.failTrying.showSlots
  let first := s.eligible
  let s := s.fset F.bootStatusFallback 0
  match State.trySlots verdict 2 s with
  | (s, some k) =>
    let s := if first = some k then s else s.raise 0x7401 749
    ((((s.applyImage k).powerUp).loadTables s.boot.memory).loadKeeper s.boot.memory).startupTests failed
  | (s, none) => s.enterQualify

/-- Verdicts on the images of slots A and B; an image with none does not pass. -/
def verdictOf (a b : Option ImageVerdict) (k : Nat) : ImageVerdict := (if k = 0 then a else b).getD ⟨false⟩

/-- POWER_ON_RESET: every register at its reset value, MEAS_0 extended by the ROM, and the boot (R17, R450, R479). -/
def execPowerOnReset (a b : Option ImageVerdict) (failed : List Nat) (s : State) : Host.Outcome State Fault Refusal :=
  .next ((s.coldReset.extend 0 Config.bootRomDigest).bootSlots (verdictOf a b) failed)

/-- P12V_RESTORE: a part in Off restarts from the slot choice, but not after a thermal trip or the third rail fault (R536, R543); at debug level 2 only its rails return, for it runs no role until power-on reset (R494). -/
def execP12vRestore (a b : Option ImageVerdict) (failed : List Nat) (s : State) : Host.Outcome State Fault Refusal :=
  if s.boot.powered ∨ s.boot.tripped ∨ 3 ≤ s.boot.railFaults then .next s
  else if s.fullDebug.isSome then .next s.powerUp
  else .next (s.bootSlots (verdictOf a b) failed)

/-! ### Self-qualification (R456 to R458) -/

/-- The findings leave the part usable: no die with two failing cores, no stack with two failing channels, nothing else (R457). -/
def findingsPass (f : Findings) : Bool :=
  !f.other && decide ((f.cores.dedup.map (· / 17)).Nodup) && decide ((f.channels.dedup.map (·.1 % 8)).Nodup)

/-- A failing core is retired, and the die's spare replaces an advertised one (R432, R457). A spare that fails is retired with nothing to replace and its SPARE_FREE bit cleared: DESIGN CHOICE, since R457 speaks of advertised cores alone (log entry 140). -/
def State.repairCore (s : State) (core : Nat) : State :=
  let die := core / 17
  let s := s.retireCore core
  let s := s.fset F.featCoresSpareFree (clearBit (s.f F.featCoresSpareFree) die)
  if core % 17 = 16 then s
  else { s with promotedAt := s.promotedAt ++ [(die, core % 17)] }.setCorePwr (die * 17 + 16) 0

/-- A failing channel is retired into the reserve with its remap kept (R457, Table 6.11). -/
def State.repairChannel (s : State) (c : Nat × Nat) : State :=
  let d := c.1 % 8
  ((s.fset F.hbmChanNState chanRetired d (c.2 % 32)).fset F.hbmStatusReserve 2 d).fset F.hbmStatusRchan (c.2 % 32) d

/-- Records of the findings; the code and severity of a finding are stated nowhere and free (log entry 38). -/
def State.findingWords (s : State) (found : Findings) : State × List Byte :=
  let domains := found.cores.map (fun c => (c % 136, c % 136)) ++ found.channels.map (fun c => (stackDomain c.1, 0xFF)) ++
    (if found.other then [(0xFFF, 0xFF)] else [])
  domains.foldl (fun (a : State × List Byte) d =>
    let (v, s) := a.1.open_
    let e : Event := { code := v.toNat % 2 ^ 16, source := 751, domain := d.1, core := d.2 }
    (s, a.2 ++ (s.recordWords e (v.toNat / 2 ^ 16 % 5) 1).flatMap fun w => leBytes 8 w.toNat)) (s, [])

/-- Writes the report at SRAM space offset 0 (R458). -/
def State.writeReport (s : State) (found : Findings) : State :=
  let (s, recs) := s.findingWords found
  let n := recs.length / 32
  let head := leBytes 4 0x5A4D4C52 ++ leBytes 4 (s.f F.bootStatusQual) ++ leBytes 4 n ++ leBytes 4 0 ++
    leBytes 16 (digest128 recs).toNat ++ List.replicate 32 0
  ({ s with boot := { s.boot with report := digest128 recs } }.store false .sram 0 (head ++ recs)).1

/-- QUALIFY: the tests of Table 14.7 end once with their findings, which name cores of the grade (R4), QUAL, the report, and ENROL where they pass. -/
def execQualify (all : Findings) (s : State) : Host.Outcome State Fault Refusal :=
  let found := { all with cores := all.cores.filter fun c => !s.absentCore c }
  if s.f F.bootStatusState ≠ 1 ∨ s.f F.bootStatusQual ≠ 1 then .next s
  else
    let pass := findingsPass found
    let clean := found.cores.isEmpty && found.channels.isEmpty
    let s := s.fset F.bootStatusQual (if !pass then 4 else if clean then 2 else 3)
    let s := if pass then found.channels.foldl State.repairChannel (found.cores.foldl State.repairCore s) else s
    let s := { s with vxeReady := s.liveCores.filter fun c => !found.cores.contains c }
    let s := ((List.range 136).filterMap s.positionOf).foldl State.showVxeMode s
    let s := if pass then s.fset F.bootStatusState 2 else s
    .next (s.writeReport found)

/-- What a BEACON says: the digest of the DIK, the grade, QUAL and the report digest, with the DIK certificate and signature (R458, R481; log entry 39). -/
def State.beaconBody (s : State) : List Byte :=
  let body := leBytes 32 Config.dikDigest.toNat ++ [if s.grade = .psn8128 then 0 else 1, BitVec.ofNat 8 (s.f F.bootStatusQual)] ++
    leBytes 16 s.boot.report.toNat ++ Config.dikCert
  body ++ Config.dikSign body

/-- BEACON_SEND: in QUALIFY and ENROL an enabled port sends a BEACON every 1 s to ff02::1 on UDP port 50,080 (R458; log entry 39). -/
def execBeaconSend (port : Nat) (s : State) : Host.Outcome State Fault Refusal :=
  let st := s.f F.bootStatusState
  let due := (s.boot.beacons.find? fun b => b.1 == port).all fun b => decide (b.2 + 1000000 ≤ s.now)
  if (st ≠ 1 ∧ st ≠ 2) ∨ !s.portUp port ∨ !due then .next s
  else .next ({ s with boot := { s.boot with beacons := assocSet 0 s.boot.beacons port s.now } }.sendBeacon port s.beaconBody)

/-! ### Programming a slot (R442, R459, R464) -/

/-- RESULT of CFG_CTRL. -/
def State.cfgResult (s : State) (st : Status) : State := s.fset F.cfgCtrlResult st.code

/-- CFG_WRITE: the image in CFG_SRC is checked and programmed; refused for the slot that booted, while another programming runs, and before QUALIFY has passed (R445, R457, R459, R464). -/
def execCfgWrite (slot : Nat) (v : ImageVerdict) (s : State) : Host.Outcome State Fault Refusal :=
  let s := (s.fset F.cfgCtrlWrite 0).fset F.cfgCtrlSlot (slot % 2)
  if s.fb F.cfgCtrlBusy then .next (s.fadd F.liveStatusRefused)
  else if s.booted = some (slot % 2) ∨ s.f F.bootStatusState < 2 then .next (s.cfgResult .aborted)
  else
    match s.hostImage with
    | (s, none) => .next (s.cfgResult .aborted)
    | (s, some img) =>
      match s.checkImage 1 img v with
      | (s, .ok) =>
        let enrol := s.f F.bootStatusState == 2
        .next ({ s with boot := { s.boot with programming := some (slot % 2, false, img, enrol) } }.fset F.cfgCtrlBusy 1)
      | (s, st) => .next (s.cfgResult st)

/-- CFG_ERASE: the erase of a slot starts, but not of the slot that booted, nor on a part that has failed its qualification (R442, R457; log entry 148). -/
def execCfgErase (slot : Nat) (s : State) : Host.Outcome State Fault Refusal :=
  let s := (s.fset F.cfgCtrlErase 0).fset F.cfgCtrlSlot (slot % 2)
  if s.fb F.cfgCtrlBusy then .next (s.fadd F.liveStatusRefused)
  else if s.booted = some (slot % 2) ∨ s.readsOnly then .next (s.cfgResult .aborted)
  else .next ({ s with boot := { s.boot with programming := some (slot % 2, true, [], false) } }.fset F.cfgCtrlBusy 1)

/-- An enrolment image has been programmed: its slot is ACTIVE and the part re-enters COLD and boots, TICK_COUNT going on (R459). -/
def State.enrol (s : State) (k : Nat) (img : List Byte) : State :=
  let s := (s.becomeActive k).extend 6 (digest256 img)
  let s := s.fset F.bootStatusState 0
  let s := [0, 16].foldl (fun s p => s.wr ⟨.portPCfg, p, 0⟩ (Reg.resetWord s.grade ⟨.portPCfg, p, 0⟩)) ((List.range 32).foldl State.portDown s)
  s.bootSlots (fun j => ⟨j == k⟩) []

/-- SLOT_PROGRAMMING_END: the slot is STAGED, or EMPTY after an erase, BUSY clears with RESULT OK, and event 0x7404 reports a programming; an enrolment image then boots (R459, R464). -/
def execSlotProgrammingEnd (s : State) : Host.Outcome State Fault Refusal :=
  match s.boot.programming with
  | none => .next s
  | some (k, erase, img, enrol) =>
    let s := ({ s with boot := { s.boot with programming := none } }.fset F.cfgCtrlBusy 0).cfgResult .ok
    if erase then .next (s.setSlot k Slot.empty)
    else
      let x := (s.slot k).write { state := slotStaged, length := img.length, digest := digest128 img, magic := 0, seq := 0, check := 0 }
      let s := (s.setSlot k { x with image := img }).raise 0x7404 749
      .next (if enrol then s.enrol k img else s)

/-! ### Joining and founding (R453) -/

/-- The part has booted an image and holds no role yet. -/
def State.awaitsRole (s : State) : Bool :=
  s.boot.powered && s.fullDebug.isNone && s.booted.isSome && s.f F.bootStatusState == 0

/-- The part must join: it holds no role yet, or it was declared lost (R370, R439, R453). -/
def State.mustJoin (s : State) : Bool :=
  s.awaitsRole || (s.boot.powered && s.fullDebug.isNone && s.booted.isSome && s.f F.bootStatusState == 3 && s.memberState s.me == memberLost)

/-- The hall list names this part alone. -/
def State.soleMember (s : State) : Bool := ((Config.hallList s.boot.config).map (·.1)) == [s.me]

/-- HALL_CONTACT: once PTP is LOCKED, and then every 10 s, the part contacts its hall list; the member that answers gets its JOIN with the role of its image (R453). -/
def execHallContact (answer : Option Nat) (s : State) : Host.Outcome State Fault Refusal :=
  let due := s.boot.contactAt.all fun t => decide (t + 10000000 ≤ s.now)
  if !s.mustJoin || s.ptpState != ptpLocked || !due then .next s
  else
    let parts := ((Config.hallList s.boot.config).map (·.1)).filter fun p => p != s.me
    let s := { s with boot := { s.boot with contactAt := some s.now } }.emits ((sortNat parts).map fun p => .hallProbe p)
    let s := match answer with
      | some p => if parts.contains p && (s.session p false).isNone then s.startExchange p false else s
      | none => s
    match answer with
    | some p =>
      let join : HallCmd := .join s.me (imageRole s.boot.config) (s.f F.hallStatusSite) (Config.deviceId.setWidth 64)
      if !parts.contains p || s.hallAsked.contains join then .next s
      else .next ({ s with hallAsked := s.hallAsked ++ [join], boot := { s.boot with asked := [p] } }.emit (.hallAsk join))
    | none => .next s

/-- HALL_FOUND: the FOUNDER of the list, 10 s after its contact without an answer, or at once where the list names it alone, founds the hall: the only member, at membership epoch 1, with event 0x4051 and its role (R453). -/
def execHallFound (s : State) : Host.Outcome State Fault Refusal :=
  let founder := (Config.hallList s.boot.config).any fun h => h.1 == s.me && h.2.2
  let waited := s.boot.contactAt.any fun t => decide (t + 10000000 ≤ s.now)
  if !s.awaitsRole || !s.hallAsked.isEmpty || !(s.soleMember || (founder && waited)) then .next s
  else
    let id := (Config.deviceId.setWidth 64).toNat
    let s := (s.setMember s.me memberLive (imageRole s.boot.config) (s.f F.hallStatusSite) 0 1 id).setLed 0x03120000 4 1
    let s := s.seedBeats
    .next (((s.showHall).raise 0x4051 748).reachRole)

end Sys2Proof.Machine
end

