-- ==== Sys2Proof/Machine/Live.lean ====
section
/-! DEFINITION. Live operations (R464 to R466, Table 14.9): ACTIVATE and the operations that hold a recovery slot. -/

namespace Sys2Proof.Machine

/-! ### Asking for an operation (R465) -/

/-- An operation is refused: counted, with WHY, event 0x7403, and RESULT ABORTED (log entry 40). -/
def State.liveRefuse (s : State) (why : Nat) : State :=
  (((s.fadd F.liveStatusRefused).fset F.liveStatusWhy why).fset F.liveStatusResult Status.aborted.code).raise 0x7403 749

/-- WHY an operation with this ARG cannot run: 5 something absent in the grade, 4 no free spare or a bad ARG, 0 none (R466). -/
def State.argWhy (s : State) (op arg : Nat) : Nat :=
  match op with
  | 1 => if arg < 2 ∧ s.booted ≠ some arg ∧ s.slotState arg = slotStaged then 0 else 4
  | 2 | 3 => if 256 ≤ arg then 5 else 0
  | 4 | 5 | 6 => if 8 ≤ arg ∨ (s.groupPorts arg).isEmpty then 5 else 0
  | 7 => if s.absentCore arg then 5 else if s.replaceable arg then 0 else 4
  | 8 => if s.absentCore arg then 5 else if s.testable arg then 0 else 4
  | _ => 4

/-- Both recovery slots are free and no cause of Hove-to is set. -/
def State.slotsReady (s : State) : Bool := !s.fb F.recovJBusy 0 && !s.fb F.recovJBusy 1 && s.causes.isEmpty

/-- Why an operation is refused now; 0 where it is taken. Only one runs at a time, and every one but ACTIVATE needs its slots (R465). -/
def State.liveWhy (s : State) (op arg : Nat) : Nat :=
  if s.boot.live.isSome then 1
  else if s.argWhy op arg ≠ 0 then s.argWhy op arg
  else if op = 1 then 0
  else if !s.causes.isEmpty then 3
  else if !s.slotsReady then 2
  else 0

/-- A PROMOTE in the JOB role runs between steps: this part's next step has not started, and no entry of the core's queues executes (R466). -/
def State.betweenSteps (s : State) (core : Nat) : Bool :=
  s.generation || (!s.step.begun && (s.positionOf core).all fun p => (List.range 4).all fun i => (s.execsOf (posQueue p i)).isEmpty)

/-- The decision of the step in progress when the operation was asked for has been applied, or the part is in no step (R465, R466). -/
def State.atBoundary (s : State) (l : LiveOp) : Bool :=
  s.step.applying.isEmpty && (!s.jobRuns || s.generation || !s.stepRuns || decide (l.seq < s.commitSeq)) &&
    (l.op != 7 || !s.jobRuns || s.betweenSteps l.arg)

/-- The operation is shown. -/
def State.showLive (s : State) (l : LiveOp) : State :=
  let s := { s with boot := { s.boot with live := some l } }
  ((s.fset F.liveStatusOp l.op).fset F.liveStatusWhy 0).fset F.liveStatusState (if l.running then 2 else 1)

/-! ### The operations -/

/-- RETRAIN and RETIRE_CHAN: the stack's domain takes its slot and the evacuation starts; with the reserve in use the domain is lost, which ends the operation (R211 to R213). -/
def State.startRetrainOp (s : State) (l : LiveOp) : State :=
  let die := l.arg / 32
  let r : Retrain := { die, channel := l.arg % 32, keep := l.op == 3 || s.fb F.hbmCfgKeepRemap die, start := s.now }
  if s.reserveTaken die then s.loseDomain (stackDomain die)
  else ({ s with retrains := s.retrains ++ [r] }.takeSlot (stackDomain die)).startEvacuation die

/-- GROUP_ON: the group's ports have the image's layout again and negotiate. -/
def State.startGroupOn (s : State) (g : Nat) : State :=
  let listed := (Config.portLayout s.boot.config).filter fun p => (s.groupPorts g).contains p.1
  let s := listed.foldl (fun s p => s.wr ⟨.portPCfg, p.1, 0⟩ p.2.1) s
  (s.takeSlot (groupDomain g)).groupFaults g

/-- RETEST: the rotating self-test runs at once; a failure is a fault of a domain in recovery (R418, R466). -/
def State.runRetest (s : State) (core : Nat) (pass : Bool) : State :=
  let s := s.takeSlot core
  let s := ({ s with tested := assocSet 0 s.tested core s.now }.fadd F.stestStatusTests).fset F.stestStatusLastCore core
  if pass then (s.releaseSlot core).liveDone .ok
  else ((s.fadd F.stestStatusFails).liveDone .aborted).faultDomain core core

/-- An operation of Table 14.9 starts. -/
def State.startLive (s : State) (l : LiveOp) : State :=
  let s := s.showLive { l with running := true }
  match l.op with
  | 2 | 3 => s.startRetrainOp l
  | 4 => (s.takeSlot (groupDomain l.arg)).groupFaults l.arg
  | 5 => (s.takeSlot (groupDomain l.arg)).groupFaults l.arg
  | 6 => s.startGroupOn l.arg
  | 7 => ((s.stopCore l.arg).takeSlot l.arg).coreRecovers l.arg false true
  | 8 => s.runRetest l.arg l.pass
  | _ => s

/-- LIVE_CTRL.START: refused, started, or kept until the step's decision is applied (R465). -/
def State.askLive (s : State) (op arg : Nat) (pass : Bool := false) : State :=
  let s := s.fset F.liveCtrlStart 0
  if s.liveWhy op arg ≠ 0 then s.liveRefuse (s.liveWhy op arg)
  else
    let l : LiveOp := ⟨op, arg, false, s.commitSeq, pass⟩
    if op ≠ 1 ∧ s.atBoundary l then s.startLive l else s.showLive l

/-- RETRAIN (Table 14.9). -/
def execRetrain (arg : Nat) (s : State) : Host.Outcome State Fault Refusal := .next (s.askLive 2 arg)

/-- RETIRE_CHAN. -/
def execRetireChan (arg : Nat) (s : State) : Host.Outcome State Fault Refusal := .next (s.askLive 3 arg)

/-- READAPT: the group's ports are down until its lanes are adapted again. -/
def execReadapt (arg : Nat) (s : State) : Host.Outcome State Fault Refusal := .next (s.askLive 4 arg)

/-- GROUP_OFF: the group's domain is in recovery until the tick edge at which its ports are disabled (R465). -/
def execGroupOff (arg : Nat) (s : State) : Host.Outcome State Fault Refusal := .next (s.askLive 5 arg)

/-- GROUP_ON. -/
def execGroupOn (arg : Nat) (s : State) : Host.Outcome State Fault Refusal := .next (s.askLive 6 arg)

/-- PROMOTE: the spare replaces the core by Table 13.5 with no fault record. -/
def execPromote (arg : Nat) (s : State) : Host.Outcome State Fault Refusal := .next (s.askLive 7 arg)

/-- RETEST, with the test's result. -/
def execRetest (arg : Nat) (pass : TestPass) (s : State) : Host.Outcome State Fault Refusal := .next (s.askLive 8 arg pass)

/-- A GROUP_OFF under way ends at the tick edge: the group's ports are disabled and its slot is free (R465, Table 14.9). -/
def State.endGroupOff (s : State) : State :=
  match s.boot.live with
  | some l => if l.op = 5 ∧ l.running then ((s.groupOff l.arg 0).releaseSlot (groupDomain l.arg)).liveDone .ok else s
  | none => s

/-- LIVE_OP_START: an operation that waits starts once both slots are free, no cause of Hove-to is set and the step's decision is applied; one whose ARG no longer serves is refused, and a PROMOTE that cannot start holds no step back (R465, R466). -/
def execLiveOpStart (s : State) : Host.Outcome State Fault Refusal :=
  match s.boot.live with
  | some l =>
    if l.running ∨ l.op = 1 then .next s
    else if !s.slotsReady then .next (if l.op = 7 then s.startDeferred s.stepStart else s)
    else if !s.atBoundary l then .next s
    else if s.argWhy l.op l.arg ≠ 0 then
      .next ((({ s with boot := { s.boot with live := none } }.fset F.liveStatusState 0).liveRefuse (s.argWhy l.op l.arg)).afterPromote)
    else .next (s.startLive l)
  | none => .next s

/-! ### ACTIVATE (R448, R464) -/

/-- Fields whose settings are of class BOOT (R448). -/
def bootField (r : Reg) (f : RField) : Bool :=
  match r.name with
  | .naeloCfg | .classNCfg | .ptpCfg | .portPCfg | .sucCfg | .fxeBindN => true
  | .hbmCfg => f.lo == F.hbmCfgSpeed.lo
  | .lkeCfg => f.lo == F.lkeCfgHotFrames.lo
  | _ => false

/-- Value that an image's settings give a field; its reset value where none does. -/
def State.settingOf (s : State) (img : List Byte) (r : Reg) (f : RField) : Nat :=
  let l := (settingsOf (imageSection img 5)).filter fun e => Reg.ofOffset e.1 == some r
  match l.getLast? with
  | some e => getBits e.2 f.lo f.w
  | none => getBits (r.resetWord s.grade) f.lo f.w

/-- Registers that an image's settings name. -/
def settingRegs (img : List Byte) : List Reg := (settingsOf (imageSection img 5)).filterMap fun e => Reg.ofOffset e.1

/-- Only LIVE-class content differs between two configuration images (R448, R464, Table 14.4). -/
def State.liveOnly (s : State) (a b : List Byte) : Bool :=
  ([2, 3, 4, 8].all fun t => imageSection a t == imageSection b t) &&
    (settingRegs a ++ settingRegs b).all fun r => r.name.fields.all fun f => !bootField r f || s.settingOf a r f == s.settingOf b r f

/-- The staged image is verified as a whole, its slot header's digest included. -/
def State.verifySlot (s : State) (k : Nat) (v : ImageVerdict) : State × Status :=
  let x := s.slot k
  s.checkImage 1 x.image v (x.header.length == x.image.length && x.header.digest == digest128 x.image)

/-- LIVE_CTRL operation ACTIVATE: a staged image that fails ends the operation with its status; BOOT-class differences make its slot TRIAL with WHY 6; otherwise the image waits to be applied (R464). -/
def State.activate (s : State) (slot : Nat) (v : ImageVerdict) : State :=
  if s.liveWhy 1 slot ≠ 0 then s.askLive 1 slot
  else
    match (s.askLive 1 slot).verifySlot slot v with
    | (s, .ok) =>
      if s.liveOnly s.boot.memory (s.slot slot).image then s
      else ((s.setSlotState slot slotTrial).liveDone .ok).fset F.liveStatusWhy 6
    | (s, st) => s.liveDone st

/-- ACTIVATE (R464). -/
def execActivate (slot : Nat) (v : ImageVerdict) (s : State) : Host.Outcome State Fault Refusal := .next (s.activate slot v)

/-- Fields that a setting of the old image set return to their reset values. -/
def State.unsetting (accs : List Acc) (s : State) (e : Nat × Word) : State :=
  match Reg.ofOffset e.1 with
  | some r => s.wr r (r.name.fields.foldl (fun w f =>
      if accs.contains (r.access f) then setBits w f.lo f.w (getBits (r.resetWord s.grade) f.lo f.w) else w) (s.rd r))
  | none => s

/-- LIVE-class content of an image takes effect: settings, anchors, feeders and Keeper tables; job-loader settings only while no job is loaded; its slot is ACTIVE and the other one, from whatever state it booted, INACTIVE (R447, R451, R464, R476). -/
def State.applyLive (s : State) (k : Nat) : State :=
  let img := (s.slot k).image
  let old := s.boot.config
  let s := s.readImage img
  let s := { s with boot := { s.boot with config := img } }
  let accs := if s.f F.jobStatusState = 0 then [Acc.rwl, .jobLoader] else [Acc.rwl]
  let s := (settingsOf (imageSection old 5)).foldl (State.unsetting accs) s
  let s := (settingsOf (imageSection img 5)).foldl (State.applySetting accs) s
  let s := if imageSection img 7 = imageSection old 7 then s else (s.loadTables img).loadKeeper img
  (s.becomeActive k [slotStaged]).extend 6 (digest256 img)

/-- CONFIG_LIVE_APPLY: the activated image's LIVE content is applied, at once with no job and otherwise after the decision of the step in progress (R464). -/
def execConfigLiveApply (s : State) : Host.Outcome State Fault Refusal :=
  match s.boot.live with
  | some l => if l.op = 1 ∧ s.atBoundary l then .next ((s.applyLive l.arg).liveDone .ok) else .next s
  | none => .next s

end Sys2Proof.Machine
end

