-- ==== Sys2Proof/Machine/Rings.lean ====
section
/-! DEFINITION. Host rings (R504 to R510): sampling of TAIL, the checks and effects of entries, completion records, and the ring commands. -/

namespace Sys2Proof.Machine

/-! ### A ring (Table 16.2) -/

/-- A host ring's record. -/
def State.ring (s : State) (n : Nat) : RingRt := assoc {} s.rings n

/-- The state with a ring's record changed. -/
def State.setRing (s : State) (n : Nat) (r : RingRt) : State := { s with rings := assocSet {} s.rings n r }

/-- Entries of a ring. -/
def State.hringSize (s : State) (n : Nat) : Nat := 2 ^ (s.f F.hringNCfgSz n + 4)

/-- SRAM offset of a ring. -/
def State.hringBase (s : State) (n : Nat) : Nat := s.f F.hringNCfgBase n

/-- The entry at a position; no bytes where they cannot be read. -/
def State.hringEntry (s : State) (n pos : Nat) : State × List Byte :=
  let (s, l) := s.load false .sram (s.hringBase n + 0x40 + 64 * (pos % s.hringSize n)) 64
  (s, l.getD [])

/-- STATE codes of HRING_n_STATUS. -/
def ringOff : Nat := 0
@[inherit_doc ringOff] def ringRunning : Nat := 1
@[inherit_doc ringOff] def ringHalted : Nat := 2
@[inherit_doc ringOff] def ringBusy : Nat := 3

/-- Fields of an entry (R507). -/
def entryKind (l : List Byte) : Nat := leAt l 0 1
@[inherit_doc entryKind] def entryEvent (l : List Byte) : Bool := leAt l 1 1 % 2 == 1
@[inherit_doc entryKind] def entryTarget (l : List Byte) : Nat := leAt l 2 2
@[inherit_doc entryKind] def entryTag (l : List Byte) : Nat := leAt l 4 4

/-- Writes HEAD to the ring and to its register. -/
def State.setRingHead (s : State) (n head : Nat) : State :=
  let s := s.fset F.hringNStatusHead (head % 2 ^ 32) n
  (s.store false .sram (s.hringBase n + 8) (leBytes 4 (head % 2 ^ 32))).1

/-- Writes the completion record of Table 16.4 and advances CSEQ (R509). -/
def State.ringRecord (s : State) (n : Nat) (l : List Byte) (st : Status) : State :=
  let k := (s.ring n).cseq
  let size := s.hringSize n
  let w := st.code * 2 ^ 120 + entryKind l * 2 ^ 112 + entryTag l * 2 ^ 64 + s.now % 2 ^ 64
  let s := (s.store false .sram (s.hringBase n + 0x40 + 64 * size + 16 * (k % size)) (leBytes 16 w)).1
  let s := s.setRing n { s.ring n with cseq := (k + 1) % 2 ^ 32 }
  (s.store false .sram (s.hringBase n + 0x0C) (leBytes 4 ((k + 1) % 2 ^ 32))).1

/-- State of a ring that is not busy: by EN, or HALTED by an abnormal status. -/
def State.ringRest (s : State) (n : Nat) (st : Status) : Nat :=
  if !s.fb F.hringNCfgEn n then ringOff else if 0x10 ≤ st.code then ringHalted else ringRunning

/-- An entry completes: its record, LAST_STATUS, the ring's source where EVENT or an abnormal status asks for it, and HALTED after an abnormal one, which takes no further entry (R507, R509, Table 16.5). -/
def State.ringComplete (s : State) (n : Nat) (l : List Byte) (st : Status) (rest : List (Nat × List Byte)) : State :=
  let s := (s.ringRecord n l st).fset F.hringNStatusLastStatus st.code n
  let s := s.fset F.hringNStatusState (s.ringRest n st) n
  let s := s.setRing n { s.ring n with taken := if 0x10 ≤ st.code then [] else rest, busy := none }
  if entryEvent l || decide (0x10 ≤ st.code) then s.raise 0x6000 (676 + n) else s

/-! ### TAIL (R505, R506) -/

/-- Reads up to `k` entries from a position on. -/
def State.hringEntries (s : State) (n pos : Nat) : Nat → State × List (Nat × List Byte)
  | 0 => (s, [])
  | k + 1 =>
    let (s, l) := s.hringEntry n pos
    let (s, r) := s.hringEntries n ((pos + 1) % 2 ^ 32) k
    (s, (pos, l) :: r)

/-- One ring's TAIL at a tick edge: up to 16 entries are taken; more than N below TAIL halt the ring. -/
def State.sampleRing (s : State) (n : Nat) : State :=
  if !s.fb F.hringNCfgEn n || s.f F.hringNStatusState n != ringRunning || !(s.ring n).taken.isEmpty then s
  else
    let head := s.f F.hringNStatusHead n
    match s.load false .sram (s.hringBase n) 4 with
    | (s, none) => s
    | (s, some t) =>
      let diff := (leNat t + 2 ^ 32 - head) % 2 ^ 32
      if s.hringSize n < diff then
        let (s, l) := s.hringEntry n head
        s.ringComplete n l .aborted []
      else
        let (s, l) := s.hringEntries n head (min 16 diff)
        s.setRing n { s.ring n with taken := l }

/-- HRING_TAIL_SAMPLE: every ring in order; none in Hove-to or once full debug is accepted (R435, R494, R505). -/
def execHringTailSample (s : State) : Host.Outcome State Fault Refusal :=
  if s.inHove || s.fullDebug.isSome then .next s else .next ((List.range 64).foldl State.sampleRing s)

/-! ### Checks (R508) -/

/-- Byte runs of an entry that its kind gives a meaning (Table 16.3). -/
def kindBytes (k : Nat) : List (Nat × Nat) :=
  match k with
  | 0 => [(0, 8)]
  | 1 => [(0, 9)]
  | 2 => [(0, 9), (10, 4)]
  | 3 => [(0, 9), (16, 8)]
  | 4 => [(0, 9), (16, 12)]
  | 5 => [(0, 9), (12, 4)]
  | _ => []

/-- Some reserved byte of an entry is not zero. -/
def reservedByte (l : List Byte) : Bool :=
  l.zipIdx.any fun b => b.1 != 0 && !((kindBytes (entryKind l)).any fun r => decide (r.1 ≤ b.2 ∧ b.2 < r.1 + r.2))

/-- The status that the checks of R508 give an entry, if one fails: an unreadable entry, a reserved KIND or byte, a TARGET absent in the grade, a reserved TARGET. -/
def State.entryFault (s : State) (l : List Byte) : Option Status :=
  let k := entryKind l
  let t := entryTarget l
  if l.length ≠ 64 ∨ 6 ≤ k ∨ reservedByte l then some .aborted
  else if k = 1 ∨ k = 3 then
    if s.absent t then some .engineAbsent else if (qClass t).isNone then some .aborted else none
  else if t ≠ 0 then some .aborted
  else none

/-- What an entry of the KIND of its row does: it completes with a status, or holds its ring. -/
abbrev RingAct : Type := State → List Byte → State × Option Status

/-- No lower ring has an entry taken that has not acted yet (R506). -/
def State.ringTurn (s : State) (n : Nat) : Bool :=
  !s.rings.any fun r => decide (r.1 < n) && !r.2.taken.isEmpty && r.2.busy.isNone

/-- The first entry taken of a ring is acted on in its turn: a failing check completes it, an entry of another KIND waits for its row. -/
def State.actRing (s : State) (n kind : Nat) (act : RingAct) : State :=
  match (if s.ringTurn n then (s.ring n).taken else []) with
  | [] => s
  | (pos, l) :: rest =>
    let s1 := s.setRingHead n (pos + 1)
    match s.entryFault l with
    | some st => s1.ringComplete n l st rest
    | none =>
      if entryKind l ≠ kind then s
      else
        match act s1 l with
        | (s, some st) => s.ringComplete n l st rest
        | (s, none) => (s.setRing n { s.ring n with taken := rest, busy := some (pos, l) }).fset F.hringNStatusState ringBusy n

/-! ### Entries (Table 16.3) -/

/-- HRING_NOP. -/
def execHringNop (ring : Nat) (s : State) : Host.Outcome State Fault Refusal :=
  .next (s.actRing ring 0 fun s _ => (s, some .ok))

/-- HRING_QCMD: a command of Table 5.11 by the host; ABORTED where it is refused (R174). -/
def execHringQcmd (ring : Nat) (s : State) : Host.Outcome State Fault Refusal :=
  .next (s.actRing ring 1 fun s l =>
    let (s, ok) := s.commandQueue (entryTarget l) (leAt l 8 1) .host
    (s, some (if ok then .ok else .aborted)))

/-- HRING_FLAGADD: an add to a flag of a die under the host's setter code. -/
def execHringFlagadd (ring : Nat) (s : State) : Host.Outcome State Fault Refusal :=
  .next (s.actRing ring 2 fun s l =>
    if 8 ≤ leAt l 8 1 ∨ 4096 ≤ leAt l 10 2 then (s, some .aborted)
    else (s.flagAdd (leAt l 8 1) (leAt l 10 2) (leAt l 12 2), some .ok))

/-- HRING_PARAM: a write of a parameter register; ABORTED where R163 ignores it. -/
def execHringParam (ring : Nat) (s : State) : Host.Outcome State Fault Refusal :=
  .next (s.actRing ring 3 fun s l =>
    let q := entryTarget l
    let takes := s.qState q == qStopped || s.qState q == qHalted
    if 64 ≤ leAt l 8 1 then (s, some .aborted)
    else (s.paramWrite q (leAt l 8 1) (BitVec.ofNat 64 (leAt l 16 8)), some (if takes then .ok else .aborted)))

/-- Status of a code of Table 5.5. -/
def statusOf (c : Nat) : Status :=
  ([.ok, .widened, .nonfinite, .replacing, .defaultRow, .engineAbsent, .formatAbsent, .stalemate, .badSignature, .halted, .aborted].find?
    fun (st : Status) => st.code == c).getD .aborted

/-- The job operation that a ring waits for is over: JOB_STATUS.RESULT is set (Table 16.3). -/
def State.jobOver (s : State) (op : Nat) : Bool :=
  match op with
  | 1 => s.boot.staged.isEmpty && s.f F.jobStatusState != 4
  | 2 => !s.hallAsked.contains HallCmd.jobStop && !(s.hallPending.any fun c => c.1 == HallCmd.jobStop) &&
      !s.step.postponed.contains HallCmd.jobStop && s.f F.jobStatusState != 5
  | _ => true

/-- A JOB entry acts as CFG_SRC and JOB_CTRL with SRC HOST. -/
def State.ringJob (v : ImageVerdict) : RingAct := fun s l =>
  let op := leAt l 8 1
  let s := if s.fb F.cfgCtrlBusy ∨ op = 2 then s
    else ((s.fset F.cfgSrcBase (leAt l 16 8)).fset F.cfgSrcLen (leAt l 24 4)).fset F.jobCtrlSrc 2
  let t :=
    match op with
    | 0 => s.loadJob 2 v .refused
    | 1 => s.stageJob 2 v .refused
    | 2 => s.askStop
    | _ => s
  let refused := (op == 1 && !s.boot.staged.isEmpty) || (op == 2 && s.f F.jobStatusState == 0)
  (t, if 3 ≤ op then some .aborted else if refused || t.jobOver op then some (statusOf (t.f F.jobStatusResult)) else none)

/-- A busy ring completes once its operation is over. -/
def State.endBusy (s : State) (n kind : Nat) (ended : List Byte → Bool) (result : Nat) : State :=
  match (s.ring n).busy with
  | some (_, l) => if entryKind l = kind ∧ ended l then s.ringComplete n l (statusOf result) (s.ring n).taken else s
  | none => s

/-- HRING_JOB: the entry starts its operation, or completes it where the ring is busy with it. -/
def execHringJob (ring : Nat) (v : ImageVerdict) (s : State) : Host.Outcome State Fault Refusal :=
  if (s.ring ring).busy.isSome then .next (s.endBusy ring 4 (fun l => s.jobOver (leAt l 8 1)) (s.f F.jobStatusResult))
  else .next (s.actRing ring 4 (State.ringJob v))

/-- A LIVE entry acts as LIVE_CTRL. -/
def State.ringLive (v : ImageVerdict) (pass : Bool) : RingAct := fun s l =>
  let op := leAt l 8 1
  let arg := leAt l 12 4
  let refused := s.liveWhy op arg != 0
  let s := if op = 1 then s.activate arg v else s.askLive op arg pass
  (s, if refused || s.boot.live.isNone then some (statusOf (s.f F.liveStatusResult)) else none)

/-- HRING_LIVE: the entry starts its operation, or completes it where the ring is busy with it. -/
def execHringLive (ring : Nat) (v : ImageVerdict) (pass : TestPass) (s : State) : Host.Outcome State Fault Refusal :=
  if (s.ring ring).busy.isSome then .next (s.endBusy ring 5 (fun _ => s.boot.live.isNone) (s.f F.liveStatusResult))
  else .next (s.actRing ring 5 (State.ringLive v pass))

/-! ### Ring commands (R510) -/

/-- A ring command that the ring's state does not allow is counted. -/
def State.ringBadCmd (s : State) (n : Nat) : State := s.fadd F.hringNStatusBadCmd 1 n

/-- HRING_RESUME: a HALTED ring runs again from HEAD. -/
def State.ringResume (s : State) (ring : Nat) : State :=
  let s := s.fset F.hringNCtrlResume 0 ring
  if s.f F.hringNStatusState ring = ringHalted then (s.fset F.hringNStatusState ringRunning ring) else (s.ringBadCmd ring)

/-- HRING_RESUME (R510). -/
def execHringResume (ring : Nat) (s : State) : Host.Outcome State Fault Refusal :=
  if 64 ≤ ring then .next s else .next (s.ringResume ring)

/-- HRING_RETRY: a HALTED ring runs entry HEAD − 1 again from the checks of R508. -/
def State.ringRetry (s : State) (ring : Nat) : State :=
  let s := s.fset F.hringNCtrlRetry 0 ring
  if s.f F.hringNStatusState ring ≠ ringHalted then (s.ringBadCmd ring)
  else
    let pos := (s.f F.hringNStatusHead ring + 2 ^ 32 - 1) % 2 ^ 32
    let (s, l) := s.hringEntry ring pos
    ((s.setRing ring { s.ring ring with taken := [(pos, l)] }).fset F.hringNStatusState ringRunning ring)

/-- HRING_RETRY (R510). -/
def execHringRetry (ring : Nat) (s : State) : Host.Outcome State Fault Refusal :=
  if 64 ≤ ring then .next s else .next (s.ringRetry ring)

/-- HRING_STOP: EN = 0 in any state; a busy ring still completes its entry. -/
def State.ringStop (s : State) (ring : Nat) : State :=
  let s := (s.fset F.hringNCtrlStop 0 ring).fset F.hringNCfgEn 0 ring
  let s := s.setRing ring { s.ring ring with taken := [] }
  if (s.ring ring).busy.isSome then s else (s.fset F.hringNStatusState ringOff ring)

/-- HRING_STOP (R510). -/
def execHringStop (ring : Nat) (s : State) : Host.Outcome State Fault Refusal :=
  if 64 ≤ ring then .next s else .next (s.ringStop ring)

end Sys2Proof.Machine
end

