-- ==== Sys2Proof/Machine/Bars.lean ====
section
/-! DEFINITION. The two BARs (R13 to R17, R490, R500 to R503, R556 to R564): the memory window, the Ledger window, and software reads and writes of registers; the interrupt controller (R513 to R517) and MSI-X (R511, R512). -/

namespace Sys2Proof.Machine

/-! ### Refusals -/

/-- Completes an access with Unsupported Request. -/
def State.ur (s : State) : State := s.emit .hostUr

/-- A register BAR access that R13 or R560 refuses: Unsupported Request, and counted in REG_UR. -/
def State.regUr (s : State) : State := (s.fadd F.hostErrRegUr).ur

/-- A request that R502 refuses is counted in WIN_FAULTS. -/
def State.winFault (s : State) : State := s.fadd F.hostErrWinFaults

/-- R490 refuses memory BAR requests and register writes now: IDE is required and not active, outside QUALIFY and ENROL. -/
def State.ideBars (s : State) : Bool :=
  s.fb F.secCtrlIdeRequired && !s.fb F.secStatusIde && s.f F.bootStatusState != 1 && s.f F.bootStatusState != 2

/-- The memory BAR answers no request: R490 refuses it, or the part is at debug level 2 (R494; log entry 41). -/
def State.memClosed (s : State) : Bool := s.ideBars || s.dbgLevel == 2

/-! ### The memory BAR (R501 to R503) -/

/-- Where a run of bytes of the BAR leads: a memory of this part with its offset, if every byte is valid. -/
def State.window (s : State) (x n : Nat) : Option (Bank × Nat) :=
  if 2 ^ 36 < x + n then none else s.run? (mkAddr (s.f F.hostWinSpace) (s.f F.hostWinBase * 2 ^ 30 + x)) n

/-- MEM_BAR_READ: the bytes as R278 and R279 name them, a Ledger word by R35; Unsupported Request where R502 or the code of a word refuses. -/
def execMemBarRead (x len : Nat) (s : State) : Host.Outcome State Fault Refusal :=
  if s.memClosed then .next s.ur
  else
    match s.window x len with
    | none => .next s.winFault.ur
    | some (b, off) =>
      match s.load false b off len with
      | (s, some l) => .next (s.emit (.hostData l))
      | (s, none) => .next s.ur

/-- A unit that is not RETIRED covers a granule of the run (R503). -/
def State.unitCovers (s : State) (b : Bank) (off n : Nat) : Bool :=
  s.units.any fun u => u.state != .retired && u.ranges.any fun r =>
    r.1 == b && overlaps (r.2.1 / 256 * 256) ((r.2.1 % 256 + r.2.2 + 255) / 256 * 256) (off / 256 * 256) ((off % 256 + n + 255) / 256 * 256)

/-- Reads the words that a run covers in part; tells whether all could be read. -/
def State.probeParts (s : State) (b : Bank) (off : Nat) (l : List Byte) : State × Bool :=
  ((wordsWith off l).filter fun w => !w.2.all Option.isSome).foldl (fun (a : State × Bool) w =>
    let r := a.1.fetchWord b w.1
    (r.1, a.2 && r.2.isSome)) (s, true)

/-- A host write to a memory of this part: dropped where the part has failed QUALIFY and serves only reads (R457; log entry 38), dropped and counted where Hove-to, the Ledger, a unit or an unreadable word forbids it, else merged (R436, R502, R503). -/
def State.hostStore (s : State) (b : Bank) (off : Nat) (l : List Byte) : State :=
  match b with
  | .ledgerE | .ledgerW => s.winFault
  | _ =>
    if s.readsOnly then s
    else if s.inHove && (b == .sram || b == .hbm) then s.fadd F.hoveStatusRefused
    else if s.unitCovers b off l.length then s.fadd F.hostErrUnitWrites
    else
      match s.probeParts b off l with
      | (s, true) => (s.store false b off l).1
      | (s, false) => s.winFault

/-- MEM_BAR_WRITE: a write is dropped where it is refused. -/
def execMemBarWrite (x : Nat) (data : List Byte) (s : State) : Host.Outcome State Fault Refusal :=
  if s.memClosed then .next s.ur
  else
    match s.window x data.length with
    | none => .next s.winFault
    | some (b, off) => .next (s.hostStore b off data)

/-- A write of HOST_WIN: ignored and counted where it names register or reserved space (R501). -/
def State.writeHostWin (s : State) (value : Word) : State :=
  if 4 ≤ getBits value 44 4 then s.winFault else s.wr ⟨.hostWin, 0, 0⟩ (swWrite true ⟨.hostWin, 0, 0⟩ (s.rd ⟨.hostWin, 0, 0⟩) value)

/-- HOST_WIN_WRITE. -/
def execHostWinWrite (value : Word) (s : State) : Host.Outcome State Fault Refusal :=
  if s.ideBars then .next s.ur else .next (s.writeHostWin value)

/-! ### The Ledger window (R560) -/

/-- LEDGER_WIN_WRITE: the window's base. -/
def execLedgerWinWrite (value : Word) (s : State) : Host.Outcome State Fault Refusal :=
  if s.ideBars then .next s.ur else .next (s.fset F.ledgerWinBase (getBits value 0 8))

/-- A read of byte offset `x` of the window area, resolved by R35. -/
def State.readLedgerWin (s : State) (x : Nat) : State :=
  match s.fetchLedger ((s.f F.ledgerWinBase * 0x100000 + x) / 8) with
  | (s, some v) => s.emit (.hostData (leBytes 8 v.toNat))
  | (s, none) => s.ur

/-- LEDGER_WINDOW_READ: an aligned 64-bit read of the window area. -/
def execLedgerWindowRead (x : Nat) (s : State) : Host.Outcome State Fault Refusal :=
  if x % 8 ≠ 0 ∨ 0x100000 ≤ x then .next s.regUr else .next (s.readLedgerWin x)

/-- LEDGER_WINDOW_WRITE: Unsupported Request, whatever it carries. -/
def execLedgerWindowWrite (x : Nat) (value : Word) (s : State) : Host.Outcome State Fault Refusal :=
  let _ := (x, value)
  .next s.regUr

/-- REG_BAR_BAD_ACCESS: an access that is not an aligned 64-bit one changes no register (R13). -/
def execRegBarBadAccess (off : Nat) (s : State) : Host.Outcome State Fault Refusal :=
  let _ := off
  .next s.regUr

/-! ### Register writes (R14, R16, R564) -/

/-- The register is in core block 16 of a die whose spare has been promoted (R558). -/
def State.promotedBlock (s : State) (r : Reg) : Bool :=
  match r.name.shape with
  | .core _ | .coreArr _ _ => r.i % 17 == 16 && s.promoted (r.i / 17)
  | .queue _ | .queueArr _ _ => isCoreQueue r.i && coreOf r.i % 17 == 16 && s.promoted (coreOf r.i / 17)
  | _ => false

/-- A write by the access types of Table 0.3; a locked RWL field that it would change counts once, and a W1C bit that the part set in this tick stays (R15). -/
def State.plainWrite (s : State) (r : Reg) (value : Word) : State :=
  let old := s.rd r
  let s := if s.boot.locked && rwlChanged r old value then s.fadd F.hostErrRwlWrites else s
  s.wr r (swWrite s.boot.locked r old (keepRaised r (s.addedTo r) value))

/-- NUM_RING and NUM_WLOG as R564 allows them. -/
def logAreaOk (r : Reg) (v : Word) : Bool :=
  if r.name = .numRing then decide (getBits v 52 4 ≤ 10) && sramArea (getBits v 0 44) (2 ^ getBits v 52 4 * 0x4000) 0x4000
  else sramArea (getBits v 0 44) (2 ^ (getBits v 52 4 + 6) * 16) 16

/-- HRING_n_CFG as R564 allows it. -/
def hringOk (v : Word) : Bool :=
  let n := 2 ^ (getBits v 56 4 + 4)
  decide (getBits v 56 4 ≤ 8) && sramArea (getBits v 0 44) (0x40 + 64 * n + 16 * n) 4096

/-- A write of HRING_n_CFG: refused as a whole by R564; SZ and BASE only while EN = 0; STATE follows EN (Table 16.17). -/
def State.writeHring (s : State) (r : Reg) (value : Word) : State :=
  let n := r.i
  let old := s.rd r
  let new := swWrite true r old value
  let held := s.fb F.hringNCfgEn n && (getBits new 56 4 != getBits old 56 4 || getBits new 0 44 != getBits old 0 44)
  if !hringOk new then s.ringBadCmd n
  else
    let s := if held then (s.ringBadCmd n).fset F.hringNCfgEn (getBits new 63 1) n else s.wr r new
    if (s.ring n).busy.isSome then s
    else if !s.fb F.hringNCfgEn n then (s.setRing n { s.ring n with taken := [] }).fset F.hringNStatusState ringOff n
    else if s.f F.hringNStatusState n = ringOff then s.fset F.hringNStatusState ringRunning n
    else s

/-- CFG_SRC, and SRC and PEER of JOB_CTRL, only while nothing is programmed and no job load runs (R467). -/
def State.writeSource (s : State) (r : Reg) (value : Word) : State :=
  if s.fb F.cfgCtrlBusy || s.f F.jobStatusState == 1 then
    let kept := if r.name = .jobCtrl then setBits (setBits value 30 2 (s.f F.jobCtrlSrc)) 32 16 (s.f F.jobCtrlPeer) else s.rd r
    let s := if kept = value then s else s.fadd F.liveStatusRefused
    s.plainWrite r kept
  else s.plainWrite r value

/-- Vectors with their PBA bit set and no mask of their own send one message at the next tick edge. -/
def State.releasePba (s : State) (v : Nat) : State :=
  let p := s.f F.msixPbaKPending (v / 64)
  if p / 2 ^ (v % 64) % 2 = 1 ∧ !s.fb F.msixDataVMask v ∧ !s.msixMask ∧ s.msixOn then
    (s.fset F.msixPbaKPending (clearBit p (v % 64)) (v / 64)).raiseVector v
  else s

/-- A software write of a register: those whose writes have a rule of their own, NUM_RING and NUM_WLOG only while no job runs (R328), and the others by their access types. -/
def State.softWrite (s : State) (r : Reg) (value : Word) : State :=
  match r.name with
  | .queueQParamM => s.paramWrite r.i r.j value
  | .queueQCring | .lkeRingN => s.ringWrite r value
  | .hostWin => s.writeHostWin value
  | .tmSel => s.selectGroup value
  | .numRing | .numWlog =>
    if !s.jobRuns && logAreaOk r (swWrite true r (s.rd r) value) then s.plainWrite r value else s.fadd F.numStatusBadWrites
  | .hringNCfg => s.writeHring r value
  | .cfgSrc | .jobCtrl => s.writeSource r value
  | .errRing =>
    let read := getBits value 0 32
    let ahead := (read + 2 ^ 32 - s.f F.errRingWritten) % 2 ^ 32
    if 0 < ahead ∧ ahead < 2 ^ 31 then s else (s.fset F.errRingRead read).showTop
  | .errStatus => (s.plainWrite r value).showTop
  | .msixDataV => (s.plainWrite r value).releasePba r.i
  | .intcSrcN => if 745 ≤ r.i ∧ r.i ≤ 751 then s else s.plainWrite r value
  | _ => s.plainWrite r value

/-- A write at an offset of the register BAR. -/
def State.writeOffset (s : State) (off : Nat) (value : Word) : State :=
  if off % 8 ≠ 0 ∨ 0x04000000 ≤ off ∨ (0x700000 ≤ off ∧ off < 0x800000) then s.regUr
  else
    match Reg.ofOffset off with
    | none => s
    | some r =>
      if s.promotedBlock r then s.fadd F.hostErrRegUr
      else if r.absent s.grade then s
      else s.softWrite r value

/-- The register holds the place of a host window, which a part that serves only reads still lets move (R457; log entry 148). -/
def windowReg (off : Nat) : Bool :=
  (Reg.ofOffset off).any fun r => r.name == .hostWin || r.name == .ledgerWin

/-- REGISTER_WRITE: by R14, refused by R490 while IDE is required and not active, and dropped where the part has failed its qualification (R457). -/
def execRegisterWrite (off : Nat) (value : Word) (s : State) : Host.Outcome State Fault Refusal :=
  if s.ideBars then .next s.ur else if s.readsOnly && !windowReg off then .next s else .next (s.writeOffset off value)

/-! ### The interrupt controller (R513 to R517) -/

/-- Level of a source; 740 to 744 follow ERR_CTRL (R513). -/
def State.sourceLevel (s : State) (n : Nat) : Nat :=
  if 740 ≤ n ∧ n ≤ 744 then getBits (s.rd ⟨.errCtrl, 0, 0⟩) ((n - 740) * 4) 4 else s.f F.intcSrcNLevel n

/-- Sources that a target may take now: pending, above its THRESHOLD and above its running handler. -/
def State.deliverable (s : State) (t : Nat) : List Nat :=
  (List.range 768).filter fun n =>
    s.fb F.intcSrcNPending n && s.f F.intcSrcNTarget n == t && !(decide (745 ≤ n ∧ n ≤ 751)) &&
      decide (s.f F.intcTgtTCtrlThreshold t < s.sourceLevel n ∧ s.f F.intcTgtTCtrlActive t < s.sourceLevel n)

/-- The source of the highest level, the lower number among equals. -/
def State.chosen (s : State) (t : Nat) : Option Nat :=
  (s.deliverable t).foldl (fun b n =>
    match b with
    | none => some n
    | some m => if s.sourceLevel m < s.sourceLevel n then some n else some m) none

/-- ACTIVE of a target follows its running handlers, the highest first. -/
def State.setHandlers (s : State) (t : Nat) (l : List Nat) : State :=
  { s with handlers := assocSet [] s.handlers t l }.fset F.intcTgtTCtrlActive (l.headD 0) t

/-- A read of INTC_TGT_t_CLAIM (R515). -/
def State.claim (s : State) (t : Nat) : State :=
  match (if s.fb F.intcTgtTCtrlMask t then none else s.chosen t) with
  | none => s.emit (.hostData (leBytes 8 0))
  | some n =>
    let level := s.sourceLevel n
    let s := (s.fset F.intcSrcNPending 0 n).setHandlers t (level :: assoc [] s.handlers t)
    s.emit (.hostData (leBytes 8 (0x8000 + n)))

/-- INTERRUPT_CLAIM. -/
def execInterruptClaim (target : Nat) (s : State) : Host.Outcome State Fault Refusal :=
  if 139 ≤ target then .next s else .next (s.claim target)

/-- INTERRUPT_EOI: the running handler ends, and ACTIVE is the level below. -/
def execInterruptEoi (target : Nat) (s : State) : Host.Outcome State Fault Refusal :=
  if 139 ≤ target then .next s
  else .next ((s.fset F.intcTgtTEoiEoi 0 target).setHandlers target (assoc [] s.handlers target).tail)

/-- PENDING_CLEAR: a W1C write; internal sources hold no PENDING. -/
def execPendingClear (source : Nat) (s : State) : Host.Outcome State Fault Refusal :=
  if 1024 ≤ source ∨ 745 ≤ source ∧ source ≤ 751 then .next s else .next (s.fclear F.intcSrcNPending source)

/-! ### MSI-X (R512) -/

/-- MSIX_MESSAGE: a raised vector sends its message, once; one masked since keeps its PBA bit. -/
def execMsixMessage (vector : Nat) (s : State) : Host.Outcome State Fault Refusal :=
  if !s.msixOn || !s.msixRaised.contains vector then .next s
  else
    let s := { s with msixRaised := s.msixRaised.filter fun v => v != vector }
    if s.msixMask || s.fb F.msixDataVMask vector then .next (s.raiseVector vector)
    else .next (s.emit (.msix vector (s.f F.msixAddrVAddr vector) (s.f F.msixDataVData vector)))

/-- MSIX_UNMASK: a vector's mask clears; 256 stands for the function mask, cleared with MSI-X enabled (log entry 42). -/
def execMsixUnmask (vector : Nat) (s : State) : Host.Outcome State Fault Refusal :=
  if vector < 256 then .next ((s.fset F.msixDataVMask 0 vector).releasePba vector)
  else if vector = 256 then .next ((List.range 256).foldl State.releasePba { s with msixOn := true, msixMask := false })
  else .next s

/-! ### Register reads (R14, R15) -/

/-- Longest time since a present core was tested, in units of 4 ms (R418). -/
def State.oldestTest (s : State) : Nat :=
  let ages := ((List.range 136).filter s.testable).map fun c => (s.now - assoc 0 s.tested c) / 4000
  min (ages.foldl max 0) 255

/-- Registers whose value follows other state are brought up to date before a read: the flag that a queue waits on, RELEASABLE, OLDEST_MS. -/
def State.refresh (s : State) (r : Reg) : State :=
  match r.name with
  | .queueQWait =>
    if s.fb F.queueQWaitActive r.i then s.fset F.queueQWaitFlagNow (s.flag (s.homeDie r.i) (s.f F.queueQWaitFlag r.i)).toNat r.i else s
  | .hoveStatus => s.fset F.hoveStatusReleasable (if s.releasable true then 1 else 0)
  | .stestStatus => s.fset F.stestStatusOldestMs s.oldestTest
  | _ => s

/-- A read at an offset of the register BAR; a reserved one, and block 16 of a promoted spare, read as zero. -/
def State.readOffset (s : State) (off : Nat) : State :=
  if off % 8 ≠ 0 ∨ 0x04000000 ≤ off then s.regUr
  else if 0x700000 ≤ off ∧ off < 0x800000 then s.readLedgerWin (off - 0x700000)
  else
    match Reg.ofOffset off with
    | none => s.emit (.hostData (leBytes 8 0))
    | some r =>
      if r.name = .intcTgtTClaim then s.claim r.i
      else if s.promotedBlock r then s.emit (.hostData (leBytes 8 0))
      else
        let (v, s) := (s.refresh r).swRead r
        s.emit (.hostData (leBytes 8 v.toNat))

/-- RC_COUNTER_READ: a register read, which returns the value and clears its RC fields. -/
def execRcCounterRead (off : Nat) (s : State) : Host.Outcome State Fault Refusal := .next (s.readOffset off)

end Sys2Proof.Machine
end

