-- ==== Sys2Proof/Machine/Carry.lean ====
section
/-! DEFINITION. What the part's messages travel in (R283, R285, R320, R337, R482): those of class 7 and the flows that carry them, questions to one member, and handshakes. -/

namespace Sys2Proof.Machine

/-- Parts that a message of the reserved class goes to, with its bytes; none for any other output (R337; log entry 132). -/
def State.reservedMessage (s : State) (o : Out) : List Nat × List Byte :=
  match o with
  | .vote p m => ([p], m.votes.flatMap voteBytes ++ m.layers.flatMap layerBytes)
  | .proposal p d | .held p d | .decision p d => ([p], Config.decisionBytes d)
  | .written p step => ([p], Config.markerBytes 0 step [] [])
  | .askVotes p step => ([p], Config.markerBytes 1 step [] [])
  | .sent p step => ([p], Config.markerBytes 2 step [] [])
  | .lateSet step late stale => (s.stepMembers, Config.markerBytes 3 step late stale)
  | .hallAsk c => (s.memberParts, Config.hallBytes c)
  | .hallAnswer p c accept => ([p], Config.hallBytes c ++ [if accept then 1 else 0])
  | .resign p => ([p], Config.markerBytes 4 0 [] [])
  | .loaded p m => ([p], Config.markerBytes (if m.update then 6 else 5) m.digest.toNat m.parts m.spares)
  | .promoted p m => ([p], Config.markerBytes 7 m.tick (m.shards.map (·.1)) (m.shards.map (·.2)))
  | .heartbeat p hove => ([p], Config.markerBytes 8 (if hove then 1 else 0) [] [])
  | .askDecision p step => ([p], Config.markerBytes 9 step [] [])
  | .resolve p step keep abortStep => ([p], Config.markerBytes 10 step [keep] [if abortStep then 1 else 0])
  | .fetchHeader p => ([p], Config.markerBytes 11 0 [] [])
  | _ => ([], [])

/-- An OPEN flow of class 7 to a member. -/
def State.reservedTo (s : State) (p : Nat) : Option Nat :=
  (s.flowsWith p false).find? fun f => s.flowState f == flowOpen && s.reservedFlow f

/-- A message of the reserved class leaves on a flow of class 7, and on no other (R337). -/
def State.carryReserved (s : State) (o : Out) : State :=
  let m := s.reservedMessage o
  (m.1.filter fun p => p != s.me).foldl (fun s p =>
    match s.reservedTo p with
    | some f => s.sendMessage f m.2
    | none => s) s

/-- One message leaves: a handshake in packets of its own, any other in the reserved class (R337, R482). -/
def State.carryOne (s : State) (o : Out) : State :=
  match o with
  | .hello p feeder l | .handshakeReply p feeder l | .finish p feeder l => s.sendHandshake p feeder l
  | o => s.carryReserved o

/-- The messages since the last tick edge leave. -/
def State.carry (s : State) : State :=
  let s := (s.out.drop s.carried).foldl State.carryOne s
  { s with carried := s.out.length }

end Sys2Proof.Machine
end

