-- ==== Sys2Proof/Machine/Idle.lean ====
section
/-! DEFINITION. Why a core is idle (R327, Table 9.7): the cause that each core's cycles count under. -/

namespace Sys2Proof.Machine

/-- The MXE or the Eddy channels of a position execute an entry and no retry holds them. -/
def State.coreBusy (s : State) (pos : Nat) : Bool :=
  (!s.fb F.mxeStatusRetry pos && (s.execsOf (posQueue pos 0)).any (fun x => decide (0x10 ≤ opcodeOf x.entry))) ||
    (!s.fb F.vxeModeReduced pos && !s.fb F.vxeStatusRetry pos && (s.execsOf (posQueue pos 1)).any fun x => opcodeOf x.entry == 0x30 || opcodeOf x.entry == 0x33)

/-- The VXE of a position is in reduced mode, and an EPROG or CVT of it waits or runs. -/
def State.reducedIdle (s : State) (pos : Nat) : Bool :=
  let q := posQueue pos 1
  let eddy (e : BitVec 256) : Bool := opcodeOf e == 0x30 || opcodeOf e == 0x33
  s.fb F.vxeModeReduced pos &&
    ((s.execsOf q).any (fun x => eddy x.entry) ||
      ((s.qState q == qRunning || s.qState q == qWaiting || s.qState q == qHeld) && ((s.headOf q).2.bind (·.entry)).any eddy))

/-- Cause under which a waiting head counts: the kind of queue that its setter names. -/
def setterCause (setter : Nat) : Nat :=
  match qClass setter with
  | some (.cme _) => 7
  | some (.fxe _) => 8
  | some (.lke _ _) => 9
  | some (.core _ _ _) => 11
  | none => 10

/-- The first of causes 4 to 14 that applies to a queue of a core. -/
def State.queueCause (s : State) (q : Nat) (retry : Bool) : Option Nat :=
  let st := s.qState q
  if st = qHalted then some 4
  else if st = qHeld then some 5
  else if st = qStopped then some 6
  else if st = qWaiting then some (setterCause (s.f F.queueQWaitSetter q))
  else if retry then some 13
  else if (s.execsOf q).isEmpty ∧ (s.headOf q).2.isNone then some 14
  else none

/-- The counter that a position's core cycles count in: busy, sleep, Hove-to, reduced mode, or the first cause that applies to the MXE queue and failing that to the VXE queue; EMPTY where none does (log entry 141). -/
def State.idleCause (s : State) (pos : Nat) : Nat :=
  if s.coreBusy pos then 0
  else if s.corePwr (s.coreAt (pos / 17) (pos % 17)) ≠ 0 then 1
  else if s.inHove then 2
  else if s.reducedIdle pos then 3
  else ((s.queueCause (posQueue pos 0) (s.fb F.mxeStatusRetry pos)).or (s.queueCause (posQueue pos 1) (s.fb F.vxeStatusRetry pos))).getD 14

/-- Cycles added to a counter, which stops at all ones. -/
def State.addIdle (s : State) (k n : Nat) : State := { s with idle := assocSet 0 s.idle k (min (assoc 0 s.idle k + n) (2 ^ 64 - 1)) }

/-- The cycles of a tick of one position's core; of a busy one, those that throttling takes count under MEMORY (R541). A group retry of the tick is over with it (log entry 172). -/
def State.countIdle (s : State) (pos : Nat) : State :=
  let c := s.idleCause pos
  let n := if c = 0 then cyclesPerTick * s.f F.pkgStatusDuty / 16 else cyclesPerTick
  let s := (s.addIdle (pos * 16 + c) n).addIdle (pos * 16 + 12) (cyclesPerTick - n)
  if s.fb F.vxeStatusRetry pos then s.fset F.vxeStatusRetry 0 pos else s

/-- The cycles of a tick of every core that serves a position; a part without power counts none, nor does a position whose core is gone. -/
def State.countIdles (s : State) : State :=
  if s.boot.powered then
    ((List.range 136).filter fun p => p % 17 != 16 && !s.absent (posQueue p 0) && s.corePwr (s.coreAt (p / 17) (p % 17)) != 3).foldl State.countIdle s
  else s

end Sys2Proof.Machine
end

