-- ==== Sys2Proof/Machine/Tick.lean ====
section
/-! DEFINITION. The tick edge (R396 to R402): the atomics of the tick that ends, TICK_COUNT, hall-wide changes, queue commands, the events latched since the last edge in their order, and what every tick does. -/

namespace Sys2Proof.Machine

/-- CE_MIN of every channel starts its minute again (R211). -/
def State.clearMinute (s : State) : State :=
  (List.range 8).foldl (fun s d => (List.range 32).foldl (fun s c => s.fset F.hbmChanNCeMin 0 d c) s) s

/-- What a tick edge takes: every event latched before it, in the order of R401; those that they raise wait for the next edge. -/
def State.takeEvents (s : State) : State :=
  let l := ordered s.latched
  l.foldl (fun s e => s.handle e.1 e.2) { s with latched := [], jtagEdge := [] }

/-- The tick after an accepted level 2 token erases the part's secrets (Table 15.9). -/
def State.debugEdge (s : State) : State :=
  match s.fullDebug with
  | some t => if t + 1 = s.now then s.eraseSecrets else s
  | none => s

/-- An atomic of the tick that ends is performed, or a leaf taken; none is in Hove-to (R31, R253). -/
def State.performArrival (s : State) (a : Arrival) : State :=
  match a with
  | .entry q id =>
    match s.execs.find? fun x => x.q == q && x.id == id && x.result.isNone with
    | some x => s.asSeen x fun s => s.atomicEntry q x
    | none => s
  | .outside req => s.outsideAtomic req
  | .remote req => s.answerRemote req
  | .leaf l => if s.inHove then s.leafHove l else s.leafIn l (s.now + 1000)
  | .again l due => if s.inHove then s.leafHove l else s.leafIn l due
  | .stale gid l => s.staleIn gid l

/-- The atomics of the tick that ends, in the order of R31 and R377 (log entry 129). -/
def State.performArrivals (s : State) : State := (arrivalOrder s.arrivals).foldl State.performArrival { s with arrivals := [] }

/-- What the part does in every tick on its own: evacuation copies, idle counters, the quiet and sleep of the cores, slewing, the choice of the PTP source, the sideband windows, messages of the reserved class, paced packets, and the ports' transmit side (R213, R327, R337, R351, R359, R397, R404 to R409). -/
def State.background (s : State) : State := (((((((((s.copyOn).countIdles).countQuiet).finishDeep).slewTick).elect).ageInputs).carry).reopenFlows).pumpAll |>.serveLines

/-- A tick edge: hall-wide changes whose tick has come go ahead of the commands and events of their tick (R229, R401), behind which a job image of the part's own flash is loaded and a GROUP_OFF ends (R455, R465). -/
def State.tick (s : State) : State :=
  let s := (((s.performArrivals).consult).fwrap F.tickCountTicks).applyDue
  let s := ((((s.takeCommands).takeEvents).autoLoad).endGroupOff).background
  let s := if s.now % 60000000 = 0 then s.clearMinute else s
  ((((s.debugEdge).muxEdge).showAlert).markTick).markUnits

/-- TICK (R400). -/
def execTick (s : State) : Host.Outcome State Fault Refusal := .next s.tick

end Sys2Proof.Machine
end

