-- ==== Sys2Proof/Machine/Spdm.lean ====
section
/-! DEFINITION. The SPDM responder on its two transports and link IDE (R480, R488 to R490, R494). R488 names the requests and the algorithms; the layout of a message and the order of requests are those of the public SPDM standard (PRESUMED, log entry 43). -/

namespace Sys2Proof.Machine

/-! ### Connections -/

/-- The connection of a transport; the two do not affect each other (R489). -/
def State.spdmConn (s : State) (t : Transport) : SpdmConn :=
  match t with
  | .doe => s.spdmDoe
  | .mctp => s.spdmMctp

/-- Writes the connection of a transport. -/
def State.setSpdm (s : State) (t : Transport) (c : SpdmConn) : State :=
  match t with
  | .doe => { s with spdmDoe := c }
  | .mctp => { s with spdmMctp := c }

/-- The part answers a request: it holds its attestation key (R480), or serves its unsigned quote at debug level 2 (R494). -/
def State.spdmOpen (s : State) : Bool := s.akReady || s.dbgLevel == 2

/-- Refuses a request: not ready until the attestation key is there, else an error. -/
def State.spdmRefuse (s : State) (t : Transport) : State := s.emit (.spdmError t (!s.akReady))

/-- Answers a request. -/
def State.spdmReply (s : State) (t : Transport) (data : List Byte) : State := s.emit (.spdm t data)

/-- Answers with bytes and the attestation key's signature over them. -/
def State.spdmSigned (s : State) (t : Transport) (data : List Byte) : State :=
  s.spdmReply t (data ++ Config.falconSign s.akInput data)

/-- A request of a negotiated connection, which needs the attestation key. -/
def State.spdmReady (s : State) (t : Transport) : Bool := s.akReady && s.dbgLevel != 2 && (s.spdmConn t).phase == 3

/-- A request of an established session. -/
def State.spdmSecured (s : State) (t : Transport) : Bool := s.spdmReady t && (s.spdmConn t).session == 2

/-! ### The connection's start -/

/-- GET_VERSION: SPDM 1.3; the connection starts afresh. -/
def execGetVersion (t : Transport) (s : State) : Host.Outcome State Fault Refusal :=
  if s.spdmOpen then .next ((s.setSpdm t { phase := 1 }).spdmReply t [0x13]) else .next (s.spdmRefuse t)

/-- GET_CAPABILITIES. -/
def execGetCapabilities (t : Transport) (s : State) : Host.Outcome State Fault Refusal :=
  let c := s.spdmConn t
  if s.spdmOpen && decide (1 ≤ c.phase) then .next ((s.setSpdm t { c with phase := max c.phase 2 }).spdmReply t []) else .next (s.spdmRefuse t)

/-- NEGOTIATE_ALGORITHMS: accepted where the requester offers Falcon-1024, SHA3-384 and AES-256-GCM. -/
def execNegotiateAlgorithms (t : Transport) (acceptable : Bool) (s : State) : Host.Outcome State Fault Refusal :=
  let c := s.spdmConn t
  if s.spdmOpen && decide (2 ≤ c.phase) && acceptable then .next ((s.setSpdm t { c with phase := 3 }).spdmReply t []) else .next (s.spdmRefuse t)

/-! ### Certificates and measurements -/

/-- GET_DIGESTS: the SHA3-384 digest of the chain of slot 0. -/
def execGetDigests (t : Transport) (s : State) : Host.Outcome State Fault Refusal :=
  if s.spdmReady t then .next (s.spdmReply t (sha3Sum384 (Config.certChain s.akInput))) else .next (s.spdmRefuse t)

/-- GET_CERTIFICATE: a portion of the chain of slot 0. -/
def execGetCertificate (t : Transport) (offset len : Nat) (s : State) : Host.Outcome State Fault Refusal :=
  let chain := Config.certChain s.akInput
  if s.spdmReady t && decide (offset < chain.length) then .next (s.spdmReply t ((chain.drop offset).take len)) else .next (s.spdmRefuse t)

/-- CHALLENGE: the digest of the chain and the requester's nonce, signed by the attestation key. -/
def execChallenge (t : Transport) (nonce : BitVec 256) (s : State) : Host.Outcome State Fault Refusal :=
  if s.spdmReady t then .next (s.spdmSigned t (sha3Sum384 (Config.certChain s.akInput) ++ leBytes 32 nonce.toNat)) else .next (s.spdmRefuse t)

/-- A quote and the attestation key's signature over it (R481). -/
def State.signedQuote (s : State) (nonce : BitVec 256) : List Byte :=
  s.quote nonce ++ Config.falconSign s.akInput (s.quote nonce)

/-- Measurement block n: 1 to 8 are MEAS_0 to MEAS_7, raw; 9 is the quote (R488). -/
def State.measBlock (s : State) (nonce : BitVec 256) (n : Nat) : List Byte :=
  if n = 9 then s.signedQuote nonce else leBytes 32 (s.meas (n - 1)).toNat

/-- GET_MEASUREMENTS: block 0 asks for the number of blocks, 1 to 9 for one block and 0xFF for all; at level 2 only block 9 is served, and its quote is unsigned (R494). -/
def execGetMeasurements (t : Transport) (block : Nat) (nonce : BitVec 256) (s : State) : Host.Outcome State Fault Refusal :=
  if s.dbgLevel = 2 then
    if block = 9 ∧ (s.spdmConn t).phase = 3 then .next (s.spdmReply t (s.quote nonce)) else .next (s.spdmRefuse t)
  else if !s.spdmReady t then .next (s.spdmRefuse t)
  else if block = 0 then .next (s.spdmReply t [9])
  else if block ≤ 9 then .next (s.spdmReply t (s.measBlock nonce block))
  else if block = 0xFF then .next (s.spdmReply t ((List.range 9).flatMap fun n => s.measBlock nonce (n + 1)))
  else .next (s.spdmRefuse t)

/-! ### Secured sessions (R489) -/

/-- KEMX: the ciphertext to the requester's encapsulation key, signed; the shared secret becomes the PSK. -/
def execKemx (t : Transport) (encapKey : List Byte) (s : State) : Host.Outcome State Fault Refusal :=
  if s.spdmReady t && encapKey.length == 1568 then
    let (r, s) := s.draw
    let (ct, ss) := Config.kemEncap encapKey r
    .next ((s.setSpdm t { s.spdmConn t with psk := some ss }).spdmSigned t ct)
  else .next (s.spdmRefuse t)

/-- PSK_EXCHANGE: with a PSK, a session handshake starts; the part answers with a fresh context. -/
def execPskExchange (t : Transport) (context : List Byte) (s : State) : Host.Outcome State Fault Refusal :=
  if s.spdmReady t && (s.spdmConn t).psk.isSome then
    let (r, s) := s.draw
    .next ((s.setSpdm t { s.spdmConn t with session := 1, updates := 0 }).spdmReply t (context ++ leBytes 32 r.toNat))
  else .next (s.spdmRefuse t)

/-- PSK_FINISH: the handshake ends in a session where the requester's MAC verifies, else without one. -/
def execPskFinish (t : Transport) (macOk : Bool) (s : State) : Host.Outcome State Fault Refusal :=
  let c := s.spdmConn t
  if s.spdmReady t && c.session == 1 then
    if macOk then .next ((s.setSpdm t { c with session := 2 }).spdmReply t [])
    else .next ((s.setSpdm t { c with session := 0 }).spdmRefuse t)
  else .next (s.spdmRefuse t)

/-- KEY_UPDATE: the session goes to its next keys. -/
def execKeyUpdate (t : Transport) (s : State) : Host.Outcome State Fault Refusal :=
  let c := s.spdmConn t
  if s.spdmSecured t then .next ((s.setSpdm t { c with updates := c.updates + 1 }).spdmReply t []) else .next (s.spdmRefuse t)

/-- HEARTBEAT: acknowledged. -/
def execHeartbeat (t : Transport) (s : State) : Host.Outcome State Fault Refusal :=
  if s.spdmSecured t then .next (s.spdmReply t []) else .next (s.spdmRefuse t)

/-- END_SESSION: the session and its PSK are gone. -/
def execEndSession (t : Transport) (s : State) : Host.Outcome State Fault Refusal :=
  let c := s.spdmConn t
  if s.spdmSecured t then .next ((s.setSpdm t { c with psk := none, session := 0, updates := 0 }).spdmReply t []) else .next (s.spdmRefuse t)

/-! ### Link IDE (R489, R490) -/

/-- IDE_KM: inside a session over DOE, programs the one Link IDE stream and starts it, or stops it, which ends the stream as R490 says. -/
def execIdeKm (t : Transport) (go : Bool) (s : State) : Host.Outcome State Fault Refusal :=
  if s.spdmSecured t && t == .doe then
    if go then .next ((s.fset F.secStatusIde 1).spdmReply t []) else .next (s.endIde.spdmReply t [])
  else .next (s.spdmRefuse t)

/-- IDE_INTEGRITY_FAIL: the stream ends, with event 0x7503. -/
def execIdeIntegrityFail (s : State) : Host.Outcome State Fault Refusal := .next s.endIde

end Sys2Proof.Machine
end

