-- ==== Sys2Proof/Machine/Dispatch.lean ====
section
/-! DEFINITION. The dispatch of a command to its meaning: one arm per row of the command table. -/

namespace Sys2Proof.Machine

/-- The effect of one command on everything but the queue. -/
def exec (i : Instr) (s : State) : Host.Outcome State Fault Refusal :=
  match i with
  | .mmul q => Sys2Proof.Machine.execMmul q s
  | .mtest q pass => Sys2Proof.Machine.execMtest q pass s
  | .residueMismatch core pass => Sys2Proof.Machine.execResidueMismatch core pass s
  | .residueRetryEnd core ok => Sys2Proof.Machine.execResidueRetryEnd core ok s
  | .eprog q bad => Sys2Proof.Machine.execEprog q bad s
  | .cvt q bad => Sys2Proof.Machine.execCvt q bad s
  | .drun q mismatch => Sys2Proof.Machine.execDrun q mismatch s
  | .vtest q pass => Sys2Proof.Machine.execVtest q pass s
  | .vxeModeChange core => Sys2Proof.Machine.execVxeModeChange core s
  | .nop q => Sys2Proof.Machine.execNop q s
  | .replay q => Sys2Proof.Machine.execReplay q s
  | .pset q => Sys2Proof.Machine.execPset q s
  | .jump q => Sys2Proof.Machine.execJump q s
  | .endEntry q => Sys2Proof.Machine.execEndEntry q s
  | .flagadd q => Sys2Proof.Machine.execFlagadd q s
  | .pcopy q => Sys2Proof.Machine.execPcopy q s
  | .copy q => Sys2Proof.Machine.execCopy q s
  | .fill q => Sys2Proof.Machine.execFill q s
  | .entryStart q => Sys2Proof.Machine.execEntryStart q s
  | .entryCompletion q id => Sys2Proof.Machine.execEntryCompletion q id s
  | .ringEntryTake q => Sys2Proof.Machine.execRingEntryTake q s
  | .go q who => Sys2Proof.Machine.execGo q who s
  | .resume q who => Sys2Proof.Machine.execResume q who s
  | .retry q who => Sys2Proof.Machine.execRetry q who s
  | .abortEntry q who => Sys2Proof.Machine.execAbortEntry q who s
  | .stop q who => Sys2Proof.Machine.execStop q who s
  | .stalemateScan => Sys2Proof.Machine.execStalemateScan s
  | .stalemateHold => Sys2Proof.Machine.execStalemateHold s
  | .paramWrite q m value => Sys2Proof.Machine.execParamWrite q m value s
  | .ringRegisterWrite off value => Sys2Proof.Machine.execRingRegisterWrite off value s
  | .lookup q replies => Sys2Proof.Machine.execLookup q replies s
  | .scatter q acked stale => Sys2Proof.Machine.execScatter q acked stale s
  | .hrefresh q => Sys2Proof.Machine.execHrefresh q s
  | .migrationFlip done faulted => Sys2Proof.Machine.execMigrationFlip done faulted s
  | .atomic q => Sys2Proof.Machine.execAtomic q s
  | .gopen q => Sys2Proof.Machine.execGopen q s
  | .gclose q mismatch => Sys2Proof.Machine.execGclose q mismatch s
  | .gadd die node => Sys2Proof.Machine.execGadd die node s
  | .sucAtomic req => Sys2Proof.Machine.execSucAtomic req s
  | .sucMismatch die again victim => Sys2Proof.Machine.execSucMismatch die again victim s
  | .sucTest die pass => Sys2Proof.Machine.execSucTest die pass s
  | .remoteRunRequest run => Sys2Proof.Machine.execRemoteRunRequest run s
  | .leafArrival leaf => Sys2Proof.Machine.execLeafArrival leaf s
  | .leafGroupWaitExpiry => Sys2Proof.Machine.execLeafGroupWaitExpiry s
  | .keeperApply => Sys2Proof.Machine.execKeeperApply s
  | .tstage q => Sys2Proof.Machine.execTstage q s
  | .tflip q => Sys2Proof.Machine.execTflip q s
  | .toffline q => Sys2Proof.Machine.execToffline q s
  | .tonline q => Sys2Proof.Machine.execTonline q s
  | .oldVersionRelease part table version => Sys2Proof.Machine.execOldVersionRelease part table version s
  | .uopen q => Sys2Proof.Machine.execUopen q s
  | .uclose c => Sys2Proof.Machine.execUclose c s
  | .vote q => Sys2Proof.Machine.execVote q s
  | .voteReceive m => Sys2Proof.Machine.execVoteReceive m s
  | .voteLimitExpiry => Sys2Proof.Machine.execVoteLimitExpiry s
  | .decisionFinal part => Sys2Proof.Machine.execDecisionFinal part s
  | .decisionReceive d => Sys2Proof.Machine.execDecisionReceive d s
  | .unitApplyDone => Sys2Proof.Machine.execUnitApplyDone s
  | .leaderTakeover held => Sys2Proof.Machine.execLeaderTakeover held s
  | .minorityRefetch slot step rows => Sys2Proof.Machine.execMinorityRefetch slot step rows s
  | .resolve by_ => Sys2Proof.Machine.execResolve by_ s
  | .freezeLimitExpiry => Sys2Proof.Machine.execFreezeLimitExpiry s
  | .unitResolution slot committee => Sys2Proof.Machine.execUnitResolution slot committee s
  | .exportShard q => Sys2Proof.Machine.execExportShard q s
  | .phase q => Sys2Proof.Machine.execPhase q s
  | .phaseSwitch => Sys2Proof.Machine.execPhaseSwitch s
  | .sentMarkerSend => Sys2Proof.Machine.execSentMarkerSend s
  | .sentReceive part step => Sys2Proof.Machine.execSentReceive part step s
  | .tempoDeadline => Sys2Proof.Machine.execTempoDeadline s
  | .lateSetReceive step late stale => Sys2Proof.Machine.execLateSetReceive step late stale s
  | .rread q reply => Sys2Proof.Machine.execRread q reply s
  | .rwrite q reply => Sys2Proof.Machine.execRwrite q reply s
  | .ratomic q reply => Sys2Proof.Machine.execRatomic q reply s
  | .remoteRequest req => Sys2Proof.Machine.execRemoteRequest req s
  | .redscat q arrivals => Sys2Proof.Machine.execRedscat q arrivals s
  | .allgather q chunks => Sys2Proof.Machine.execAllgather q chunks s
  | .collectiveTimeout q id => Sys2Proof.Machine.execCollectiveTimeout q id s
  | .pull q reply => Sys2Proof.Machine.execPull q reply s
  | .pullLimitExpiry q id => Sys2Proof.Machine.execPullLimitExpiry q id s
  | .flowctlOpen q => Sys2Proof.Machine.execFlowctlOpen q s
  | .flowctlClose q => Sys2Proof.Machine.execFlowctlClose q s
  | .flowctlReset q => Sys2Proof.Machine.execFlowctlReset q s
  | .mchangeJoin q => Sys2Proof.Machine.execMchangeJoin q s
  | .mchangeLeave q => Sys2Proof.Machine.execMchangeLeave q s
  | .mchangeRole q => Sys2Proof.Machine.execMchangeRole q s
  | .hallVoteDecision v accepted => Sys2Proof.Machine.execHallVoteDecision v accepted s
  | .hallChangeEffect => Sys2Proof.Machine.execHallChangeEffect s
  | .memberHeartbeat => Sys2Proof.Machine.execMemberHeartbeat s
  | .memberLostTimeout part => Sys2Proof.Machine.execMemberLostTimeout part s
  | .partPromotionRestore ok shards rows => Sys2Proof.Machine.execPartPromotionRestore ok shards rows s
  | .promotedReceive part mark => Sys2Proof.Machine.execPromotedReceive part mark s
  | .resignReceive part => Sys2Proof.Machine.execResignReceive part s
  | .dataReceive p => Sys2Proof.Machine.execDataReceive p s
  | .ackReceive p => Sys2Proof.Machine.execAckReceive p s
  | .statusReceive p => Sys2Proof.Machine.execStatusReceive p s
  | .probeReceive p => Sys2Proof.Machine.execProbeReceive p s
  | .frameReceive f => Sys2Proof.Machine.execFrameReceive f s
  | .ackDelayExpiry flow => Sys2Proof.Machine.execAckDelayExpiry flow s
  | .rtoExpiry flow psn => Sys2Proof.Machine.execRtoExpiry flow psn s
  | .pathHoldExpiry flow path => Sys2Proof.Machine.execPathHoldExpiry flow path s
  | .arpRequest port target => Sys2Proof.Machine.execArpRequest port target s
  | .neighbourSolicitation port target => Sys2Proof.Machine.execNeighbourSolicitation port target s
  | .gatewayResolve port mac => Sys2Proof.Machine.execGatewayResolve port mac s
  | .pfcFrame port classes => Sys2Proof.Machine.execPfcFrame port classes s
  | .portLinkDown port => Sys2Proof.Machine.execPortLinkDown port s
  | .portLinkUp port lanes => Sys2Proof.Machine.execPortLinkUp port lanes s
  | .portGroupFault group => Sys2Proof.Machine.execPortGroupFault group s
  | .helloReceive h => Sys2Proof.Machine.execHelloReceive h s
  | .replyReceive h => Sys2Proof.Machine.execReplyReceive h s
  | .finishReceive h => Sys2Proof.Machine.execFinishReceive h s
  | .handshakeTimeout peer feeder => Sys2Proof.Machine.execHandshakeTimeout peer feeder s
  | .rekey peer feeder ok => Sys2Proof.Machine.execRekey peer feeder ok s
  | .sessionTxcLimit peer feeder => Sys2Proof.Machine.execSessionTxcLimit peer feeder s
  | .beaconSend port => Sys2Proof.Machine.execBeaconSend port s
  | .ptpSync source offset twoStep => Sys2Proof.Machine.execPtpSync source offset twoStep s
  | .ptpFollowUp source offset => Sys2Proof.Machine.execPtpFollowUp source offset s
  | .ptpDelayResp source delay => Sys2Proof.Machine.execPtpDelayResp source delay s
  | .ptpAnnounce source message => Sys2Proof.Machine.execPtpAnnounce source message s
  | .ptpDelayReqSend source => Sys2Proof.Machine.execPtpDelayReqSend source s
  | .ptpHoldoverEntry => Sys2Proof.Machine.execPtpHoldoverEntry s
  | .ppsEdge error => Sys2Proof.Machine.execPpsEdge error s
  | .tick => Sys2Proof.Machine.execTick s
  | .aonRefclkLoss => Sys2Proof.Machine.execAonRefclkLoss s
  | .lullEntry core => Sys2Proof.Machine.execLullEntry core s
  | .deepLullEntry core => Sys2Proof.Machine.execDeepLullEntry core s
  | .coreWake core => Sys2Proof.Machine.execCoreWake core s
  | .perstNAssert ticks => Sys2Proof.Machine.execPerstNAssert ticks s
  | .perstNDeassert => Sys2Proof.Machine.execPerstNDeassert s
  | .holdNLow ticks => Sys2Proof.Machine.execHoldNLow ticks s
  | .holdTakeEffect => Sys2Proof.Machine.execHoldTakeEffect s
  | .holdNHigh ticks => Sys2Proof.Machine.execHoldNHigh ticks s
  | .holdLimitExpiry => Sys2Proof.Machine.execHoldLimitExpiry s
  | .sidebandChatter input transitions => Sys2Proof.Machine.execSidebandChatter input transitions s
  | .sidebandAutoUnmask input => Sys2Proof.Machine.execSidebandAutoUnmask input s
  | .sbUnmask mask => Sys2Proof.Machine.execSbUnmask mask s
  | .rotatingSelfTest core pass => Sys2Proof.Machine.execRotatingSelfTest core pass s
  | .coreRecoveryTestEnd core pass => Sys2Proof.Machine.execCoreRecoveryTestEnd core pass s
  | .spareTestEnd die pass => Sys2Proof.Machine.execSpareTestEnd die pass s
  | .promotionComplete die => Sys2Proof.Machine.execPromotionComplete die s
  | .hoveToEntry cause => Sys2Proof.Machine.execHoveToEntry cause s
  | .hoveEnter => Sys2Proof.Machine.execHoveEnter s
  | .hoveRelease who cmeTest => Sys2Proof.Machine.execHoveRelease who cmeTest s
  | .errRecordUnlock => Sys2Proof.Machine.execErrRecordUnlock s
  | .errRingReadAdvance read => Sys2Proof.Machine.execErrRingReadAdvance read s
  | .staleRecordUnlock => Sys2Proof.Machine.execStaleRecordUnlock s
  | .linkFlitCrcFail link replayOk => Sys2Proof.Machine.execLinkFlitCrcFail link replayOk s
  | .linkRetrainEnd link pass => Sys2Proof.Machine.execLinkRetrainEnd link pass s
  | .ledgerRebuild copy => Sys2Proof.Machine.execLedgerRebuild copy s
  | .patrolRead die memory => Sys2Proof.Machine.execPatrolRead die memory s
  | .selfRefreshPatrolExit die => Sys2Proof.Machine.execSelfRefreshPatrolExit die s
  | .retune die channel => Sys2Proof.Machine.execRetune die channel s
  | .retuneEnd die channel margin => Sys2Proof.Machine.execRetuneEnd die channel margin s
  | .ceLimitExceeded die channel => Sys2Proof.Machine.execCeLimitExceeded die channel s
  | .channelDead die channel => Sys2Proof.Machine.execChannelDead die channel s
  | .evacuationDone die => Sys2Proof.Machine.execEvacuationDone die s
  | .retrainVerifyEnd die pass => Sys2Proof.Machine.execRetrainVerifyEnd die pass s
  | .copyBackDone die => Sys2Proof.Machine.execCopyBackDone die s
  | .throttleReading r => Sys2Proof.Machine.execThrottleReading r s
  | .thermalTrip => Sys2Proof.Machine.execThermalTrip s
  | .p12vLoss => Sys2Proof.Machine.execP12vLoss s
  | .railFault rail => Sys2Proof.Machine.execRailFault rail s
  | .p12vRestore a b failed => Sys2Proof.Machine.execP12vRestore a b failed s
  | .p12vAbsentAtBoot => Sys2Proof.Machine.execP12vAbsentAtBoot s
  | .p3v3AonLoss => Sys2Proof.Machine.execP3v3AonLoss s
  | .ethRefclkMissing iod => Sys2Proof.Machine.execEthRefclkMissing iod s
  | .pcieRefclkMissing => Sys2Proof.Machine.execPcieRefclkMissing s
  | .powerOnReset a b failed => Sys2Proof.Machine.execPowerOnReset a b failed s
  | .hallContact answer => Sys2Proof.Machine.execHallContact answer s
  | .hallFound => Sys2Proof.Machine.execHallFound s
  | .qualify found => Sys2Proof.Machine.execQualify found s
  | .cfgWrite slot v => Sys2Proof.Machine.execCfgWrite slot v s
  | .cfgErase slot => Sys2Proof.Machine.execCfgErase slot s
  | .jobLoad v reply => Sys2Proof.Machine.execJobLoad v reply s
  | .loadedReceive part mark => Sys2Proof.Machine.execLoadedReceive part mark s
  | .jstart => Sys2Proof.Machine.execJstart s
  | .jstartTimeout => Sys2Proof.Machine.execJstartTimeout s
  | .jobStop => Sys2Proof.Machine.execJobStop s
  | .jobUpdate v reply => Sys2Proof.Machine.execJobUpdate v reply s
  | .jobUpdateApply => Sys2Proof.Machine.execJobUpdateApply s
  | .activate slot v => Sys2Proof.Machine.execActivate slot v s
  | .configLiveApply => Sys2Proof.Machine.execConfigLiveApply s
  | .retrain arg => Sys2Proof.Machine.execRetrain arg s
  | .retireChan arg => Sys2Proof.Machine.execRetireChan arg s
  | .readapt arg => Sys2Proof.Machine.execReadapt arg s
  | .groupOff arg => Sys2Proof.Machine.execGroupOff arg s
  | .groupOn arg => Sys2Proof.Machine.execGroupOn arg s
  | .promote arg => Sys2Proof.Machine.execPromote arg s
  | .retest arg pass => Sys2Proof.Machine.execRetest arg pass s
  | .liveOpStart => Sys2Proof.Machine.execLiveOpStart s
  | .hringTailSample => Sys2Proof.Machine.execHringTailSample s
  | .hringNop ring => Sys2Proof.Machine.execHringNop ring s
  | .hringQcmd ring => Sys2Proof.Machine.execHringQcmd ring s
  | .hringFlagadd ring => Sys2Proof.Machine.execHringFlagadd ring s
  | .hringParam ring => Sys2Proof.Machine.execHringParam ring s
  | .hringJob ring v => Sys2Proof.Machine.execHringJob ring v s
  | .hringLive ring v pass => Sys2Proof.Machine.execHringLive ring v pass s
  | .hringResume ring => Sys2Proof.Machine.execHringResume ring s
  | .hringRetry ring => Sys2Proof.Machine.execHringRetry ring s
  | .hringStop ring => Sys2Proof.Machine.execHringStop ring s
  | .memBarRead x len => Sys2Proof.Machine.execMemBarRead x len s
  | .memBarWrite x data => Sys2Proof.Machine.execMemBarWrite x data s
  | .hostWinWrite value => Sys2Proof.Machine.execHostWinWrite value s
  | .ledgerWinWrite value => Sys2Proof.Machine.execLedgerWinWrite value s
  | .ledgerWindowRead x => Sys2Proof.Machine.execLedgerWindowRead x s
  | .ledgerWindowWrite x value => Sys2Proof.Machine.execLedgerWindowWrite x value s
  | .regBarBadAccess off => Sys2Proof.Machine.execRegBarBadAccess off s
  | .registerWrite off value => Sys2Proof.Machine.execRegisterWrite off value s
  | .rcCounterRead off => Sys2Proof.Machine.execRcCounterRead off s
  | .interruptClaim target => Sys2Proof.Machine.execInterruptClaim target s
  | .interruptEoi target => Sys2Proof.Machine.execInterruptEoi target s
  | .pendingClear source => Sys2Proof.Machine.execPendingClear source s
  | .msixMessage vector => Sys2Proof.Machine.execMsixMessage vector s
  | .msixUnmask vector => Sys2Proof.Machine.execMsixUnmask vector s
  | .getVersion t => Sys2Proof.Machine.execGetVersion t s
  | .getCapabilities t => Sys2Proof.Machine.execGetCapabilities t s
  | .negotiateAlgorithms t acceptable => Sys2Proof.Machine.execNegotiateAlgorithms t acceptable s
  | .getDigests t => Sys2Proof.Machine.execGetDigests t s
  | .getCertificate t offset len => Sys2Proof.Machine.execGetCertificate t offset len s
  | .challenge t nonce => Sys2Proof.Machine.execChallenge t nonce s
  | .getMeasurements t block nonce => Sys2Proof.Machine.execGetMeasurements t block nonce s
  | .kemx t encapKey => Sys2Proof.Machine.execKemx t encapKey s
  | .pskExchange t context => Sys2Proof.Machine.execPskExchange t context s
  | .pskFinish t macOk => Sys2Proof.Machine.execPskFinish t macOk s
  | .keyUpdate t => Sys2Proof.Machine.execKeyUpdate t s
  | .heartbeat t => Sys2Proof.Machine.execHeartbeat t s
  | .endSession t => Sys2Proof.Machine.execEndSession t s
  | .ideKm t go => Sys2Proof.Machine.execIdeKm t go s
  | .ideIntegrityFail => Sys2Proof.Machine.execIdeIntegrityFail s
  | .newChal => Sys2Proof.Machine.execNewChal s
  | .dbgSubmit sigOk => Sys2Proof.Machine.execDbgSubmit sigOk s
  | .dbgClose => Sys2Proof.Machine.execDbgClose s
  | .fullDebugOpen => Sys2Proof.Machine.execFullDebugOpen s
  | .trstNAssert => Sys2Proof.Machine.execTrstNAssert s
  | .idcode => Sys2Proof.Machine.execIdcode s
  | .samplePreload pins => Sys2Proof.Machine.execSamplePreload pins s
  | .extest boundary => Sys2Proof.Machine.execExtest boundary s
  | .clamp => Sys2Proof.Machine.execClamp s
  | .highz => Sys2Proof.Machine.execHighz s
  | .bypass => Sys2Proof.Machine.execBypass s
  | .jtagChallenge => Sys2Proof.Machine.execJtagChallenge s
  | .token bytes sigOk => Sys2Proof.Machine.execToken bytes sigOk s
  | .dbgstatus => Sys2Proof.Machine.execDbgstatus s
  | .muxsel value => Sys2Proof.Machine.execMuxsel value s
  | .ijtag bits => Sys2Proof.Machine.execIjtag bits s
  | .bistctl value => Sys2Proof.Machine.execBistctl value s
  | .tmSelWrite value => Sys2Proof.Machine.execTmSelWrite value s
  | .bistStart => Sys2Proof.Machine.execBistStart s
  | .bistSessionEnd kind target ok => Sys2Proof.Machine.execBistSessionEnd kind target ok s
  | .flowOpenTimeout q id => Sys2Proof.Machine.execFlowOpenTimeout q id s
  | .heartbeatReceive part hove => Sys2Proof.Machine.execHeartbeatReceive part hove s
  | .voteRequestReceive r => Sys2Proof.Machine.execVoteRequestReceive r s
  | .hallVoteRequestReceive part cmd => Sys2Proof.Machine.execHallVoteRequestReceive part cmd s
  | .portGroupRecoveryEnd group ok => Sys2Proof.Machine.execPortGroupRecoveryEnd group ok s
  | .slotProgrammingEnd => Sys2Proof.Machine.execSlotProgrammingEnd s
  | .pcieRefclkReturn => Sys2Proof.Machine.execPcieRefclkReturn s

end Sys2Proof.Machine
end

