-- ==== Sys2Proof/Safety.lean ====
section
/-! DEFINITION. What counts as a safe run: a step that answers a next state, and storage in its canonical form. -/

namespace Sys2Proof.Safety

open Sys2Proof.Machine

/-- The storage of the part is in its canonical form: bytes, codeword errors, poison bits, registers and flags, keys rising and nothing listed that an unlisted key reads as, so that equal storage is equal data. -/
structure Canonical (s : State) : Prop where
  mem : Memory.wf s.mem = true
  errs : Store.wf (fun _ => (0 : BitVec 80)) id s.errs = true
  poison : Store.wf (fun _ => false) id s.poison = true
  regs : Store.wf (fun r : Reg => r.resetWord s.grade) Reg.ord s.regs = true
  flags : Store.wf (fun _ => (0 : BitVec 16)) id s.flags = true

/-- A command runs to its end in a state: the block answers a next state, neither a fault nor a refusal. -/
def Completes (c : Instr) (s : State) : Prop := ∃ t, exec c s = .next t

/-- A safe run: every command of the queue completes in turn, and the storage stays canonical. -/
def SafeStep (s : State) : Prop := ∃ t, step s = .next t ∧ (Canonical s → Canonical t)

end Sys2Proof.Safety
end

