-- ==== Sys2Proof/Certificates/Slice0/Obligations.lean ====
section
/-! DEFINITION. The statements about the part: one proposition for each entry of OBLIGATIONS.json, said over `exec`, `step` and the operations of the model.
Each docstring names the rules of spec/ that the statement formalises or rests on. No proof stands here. -/

namespace Sys2Proof.Statements

open Sys2Proof.Machine

/-- Two states differ only in registers, and in none but those listed: storage, flags, queues, links and every other field are equal. -/
def OnlyRegs (l : List Reg) (s t : State) : Prop := t = { s with regs := t.regs } ∧ ∀ r, r ∉ l → t.rd r = s.rd r

/-- Every byte of every bank reads in the second state as in the first. -/
def SameMemory (s t : State) : Prop := ∀ b off, t.byte b off = s.byte b off

/-- Storage, flags, queues, entries in execution, reduction groups, moving runs, Castling units, the step and the boot state are equal. -/
def SameWork (s t : State) : Prop :=
  t.mem = s.mem ∧ t.errs = s.errs ∧ t.poison = s.poison ∧ t.flags = s.flags ∧ t.queues = s.queues ∧ t.execs = s.execs ∧ t.groups = s.groups ∧
    t.moves = s.moves ∧ t.units = s.units ∧ t.step = s.step ∧ t.boot = s.boot

end Sys2Proof.Statements

open Sys2Proof Sys2Proof.Machine Sys2Proof.Statements

/-- For every command and state: a next state of the command has the same waiting commands and the same grade as the state before. The grade is fixed
(R1); the queue of commands is the model's own (log entry 9). Rests on R1, Scope, the block model (log entry 9). -/
def Obligations.CommandsLeaveQueueAndGradeAlone : Prop :=
  ∀ (c : Instr) (s t : State), exec c s = .next t → t.pending = s.pending ∧ t.grade = s.grade

/-- For every state whose bytes, codeword errors, poison bits, registers and flags are in canonical form (keys rising, nothing listed that an unlisted key
reads as), every next state of a step has them in canonical form. So equal contents are equal data after any run, whatever the commands. The form is
the model's own (log entry 6). Rests on R17, R190, R450, the canonical form of storage (log entry 6). -/
def Obligations.StepKeepsStorageCanonical : Prop :=
  ∀ s t : State, Sys2Proof.Safety.Canonical s → step s = .next t → Sys2Proof.Safety.Canonical t

/-- Bytes, codeword errors, poison bits, registers and flags of the state after reset are in canonical form. Rests on R17, R450. -/
def Obligations.ResetStorageIsCanonical : Prop :=
  Sys2Proof.Safety.Canonical State.reset

/-- For every command of the table and every state the block answers a next state. The spec reports every error of the part in the part's own state
(completion statuses, records, counters, Hove-to), so no command stops the block. Rests on R156, R419, R434. -/
def Obligations.EveryCommandAnswersANextState : Prop :=
  ∀ (c : Instr) (s : State), Sys2Proof.Safety.Completes c s

/-- For every command c, state s and list of commands: where the queue of s is c followed by the list, the step of s is exec of c on s with that list as
its queue. Rests on Scope, the block model: commands from outside are taken one at a time (log entry 9). -/
def Obligations.StepRunsFront : Prop :=
  ∀ (c : Instr) (rest : List Instr) (s : State), s.pending = c :: rest → step s = exec c { s with pending := rest }

/-- For every state whose queue is empty the step answers that state unchanged. This is the model's own choice (log entry 9): the spec has no queue of
commands. Rests on Scope, the block model (log entry 9). -/
def Obligations.StepIdlesOnAnEmptyQueue : Prop :=
  ∀ s : State, s.pending = [] → step s = .next s

/-- For every queue, entry in execution with the test's opcode and a zero body, and state: MTEST (0x2F) answers the state with the entry's result OK where
the test passed, and ABORTED with a latched uncorrectable error 0x3001 for the core that serves the position where it failed; VTEST (0x3F) likewise,
and a pass also notes that the core has left start-up. Nothing else of the state changes. Rests on R84, R110, R142, R143. -/
def Obligations.SelfTestEntriesFileTheirVerdict : Prop :=
  (∀ (q : Nat) (x : Exec) (s : State), s.running q [0x2F] = some x → zeroBits x.entry [(191, 0)] = true →
    exec (.mtest q true) s = .next (s.finish x.id .ok) ∧
    exec (.mtest q false) s =
      .next ((s.error 0x3001 sevUncorrectable (s.coreFor q) (s.coreFor q) 0 0 Status.aborted.code).finish x.id .aborted)) ∧
  (∀ (q : Nat) (x : Exec) (s : State), s.running q [0x3F] = some x → zeroBits x.entry [(191, 0)] = true →
    (∃ ready, s.coreFor q ∈ ready ∧ (∀ g ∈ s.vxeReady, g ∈ ready) ∧
      exec (.vtest q true) s = .next (({ s with vxeReady := ready } : State).finish x.id .ok)) ∧
    exec (.vtest q false) s =
      .next ((s.error 0x3001 sevUncorrectable (s.coreFor q) (s.coreFor q) 0 0 Status.aborted.code).finish x.id .aborted))

/-- For an MMUL in execution on the MXE queue of a position: RESIDUE_MISMATCH answers a state whose MXE_STATUS.RETRY is 1 and MXE_RESIDUE.LAST_PASS the
pass number, no other register and no other field changed; while RETRY is set MMUL leaves the state as it is; and RESIDUE_RETRY_END with no mismatch
answers the state with RETRY 0, one more in RETRIED, a correctable error latched, and the entry marked as retried, nothing else changed. Rests on
R107, Table 3.7. -/
def Obligations.ResidueMismatchHoldsAPassAndItsRetryEndsIt : Prop :=
  ∀ (core pass : Nat) (x : Exec) (s : State), s.running (Sys2Proof.Machine.mxeQueue core) [0x20] = some x →
    (∃ t, exec (.residueMismatch core pass) s = .next t ∧ t.f F.mxeStatusRetry core = 1 ∧ t.f F.mxeResidueLastPass core = pass % 2 ^ 16 ∧
      OnlyRegs [⟨.mxeStatus, core, 0⟩, ⟨.mxeResidue, core, 0⟩] s t) ∧
    (s.fb F.mxeStatusRetry core = true →
      let g := s.coreFor (Sys2Proof.Machine.mxeQueue core)
      let u := s.fset F.mxeStatusRetry 0 core
      exec (.residueRetryEnd core true) s = .next { (u.fadd F.mxeResidueRetried 1 core).error 0x7001 sevCorrectable g g 0 (u.f F.mxeResidueLastPass core) with
        execs := updateAll s.execs (fun y => y.id == x.id) fun y => { y with retried := true } }) ∧
    (∀ q, s.running q [0x20] = some x → s.fb F.mxeStatusRetry (coreOf q) = true → exec (.mmul q) s = .next s)

/-- For an MMUL in execution with no residue retry pending and zero reserved bits: where the descriptors named by its parameter registers can be read,
pass the checks of R82, R86, R87, R103 and R563, and its A and B views can be read, the command answers the run of the product on those operands, in
the state that these reads leave, with MXE_STATUS showing the first rung; readers see the unit states that the entry took at its start. Rests on R80,
R82, R86, R87, R105. -/
def Obligations.MatrixProductReadsItsViewsAndRuns : Prop :=
  ∀ (q : Nat) (x : Exec) (s s1 s2 s3 s4 s5 : State) (da db dc : Desc) (va vb : List (List (Nat × Nat))),
    let b := mmulOf x.entry
    let r : Reach := ⟨s.coreFor q, [.sram], false⟩
    s.running q [0x20] = some x → s.fb F.mxeStatusRetry (coreOf q) = false →
    zeroBits x.entry [(153, 152), (135, 128), (43, 0)] = true →
    (State.showRun { s with seen := s.taken x } (coreOf q) ((Fmt.ofCode b.fo).getD .u16w) 0).readDesc (s.coreFor q) (x.param (bitsOf x.entry 191 186)) = (s1, some da) →
    s1.readDesc (s.coreFor q) (x.param (bitsOf x.entry 185 180)) = (s2, some db) →
    s2.readDesc (s.coreFor q) (x.param (bitsOf x.entry 179 174)) = (s3, some dc) →
    mmulOk b (formatsOf (s3.f F.featFormatsMxeOut)) da db dc = true → s3.mmulLocal b (x.param (bitsOf x.entry 173 168)) da db dc = true →
    s3.readView r da b.m b.k = (s4, some va) → s4.readView r db b.n b.k = (s5, some vb) →
    exec (.mmul q) s = .next { s5.mmulRun q x b dc va vb with seen := [] }

/-- For a CVT in execution with zero reserved bits whose descriptors can be read and pass the checks of R86 and R563, whose input view can be read and
whose group checks pass, the command answers the store of the view converted at site 0x0000 with the tensor of the entry. VXE_MODE_CHANGE, with no
entry of the VXE queue in execution but common ones (opcodes below 0x10), sets VXE_MODE.CAUSE and REDUCED of the position as the causes of Table 4.11
stand; with another one in execution it changes nothing. Rests on R133, R143, R144, Table 4.11. -/
def Obligations.VectorConversionAndModeChangeRun : Prop :=
  (∀ (q : Nat) (x : Exec) (bad : List (Nat × Bool)) (s s1 s2 s3 s4 : State) (di dc : Desc) (raw : List (List (Nat × Nat))),
    let e := x.entry
    let r : Reach := ⟨s.coreFor q, [.sram], true⟩
    let m := bitsOf e 95 80 + 1
    let n := bitsOf e 79 64 + 1
    let vals := raw.map (rowValues di.format)
    s.running q [0x33] = some x → zeroBits e [(172, 168), (159, 128), (63, 0)] = true →
    State.readDesc { s with seen := s.taken x } (s.coreFor q) (x.param (bitsOf e 191 186)) = (s1, some di) →
    s1.readDesc (s.coreFor q) (x.param (bitsOf e 185 180)) = (s2, some dc) →
    (di.ok [0, 1, 2, 3] none && dc.ok [0, 1, 2, 3] (some n) && (!di.tile || decide (n ≤ 64 ∧ (m ≤ 64 ∨ di.epitch = 0))) &&
      (!dc.tile || decide (m ≤ 64 ∧ n ≤ 64))) = true →
    s2.readView r di m n = (s3, some raw) → s3.groupChecks q bad = (s4, true) →
    exec (.cvt q bad) s = .next { s4.writeConverted q (x.regrouped bad) r (bitsOf e 127 96) m n (signedField 8 (bitsOf e 167 160))
      (if bitOf e 173 then some (x.param (bitsOf e 179 174)) else none) ((vals.map fun l => (l.1.filter Val.nonfinite).length).sum)
      ((vals.map (·.2)).sum) dc (convertRows (fun i => s4.site (bitsOf e 127 96) i 0) dc (vals.map (·.1))) with seen := [] }) ∧
  (∀ (core : Nat) (s : State), (∀ x ∈ s.execsOf (core / 17 * 128 + core % 17 * 4 + 1), opcodeOf x.entry < 0x10) →
    exec (.vxeModeChange core) s = .next ((s.fset F.vxeModeCause (s.vxeCause core) core).fset F.vxeModeReduced (if s.vxeCause core = 0 then 0 else 1) core)) ∧
  (∀ (core : Nat) (x : Exec) (s : State), x ∈ s.execsOf (core / 17 * 128 + core % 17 * 4 + 1) → 0x10 ≤ opcodeOf x.entry → exec (.vxeModeChange core) s = .next s)

/-- For an EPROG in execution whose fields, descriptors and program pass the load checks of R121 to R126 and whose inputs can be read with every group
check passed, the command answers the run of the element program on those inputs. For a DRUN in execution with zero reserved bits and a legal channel,
no duplicated-logic mismatch, a block that can be read and passes its checks, and a run that reaches its end, the command answers the state the block
leaves: parameter registers written by PWR, rounding counts, format faults, the watch of what it stored, and the status OK, or NONFINITE where the
block wrote an infinity or a NaN. Rests on R121, R126, R135, R137, R139. -/
def Obligations.ElementProgramAndDirectBlockRun : Prop :=
  (∀ (q : Nat) (x : Exec) (bad : List (Nat × Bool)) (s s1 s2 s3 s4 s5 : State) (ins outs : List Desc) (code : List Byte)
      (raw : List (List (List (Nat × Nat)))),
    let b := eprogOf x.entry
    let r : Reach := ⟨s.coreFor q, [.sram], true⟩
    let prog := (chunksOf 4 b.plen code).map fun w => microOf (leNat w)
    s.running q [0x30] = some x → eprogFieldsOk x.entry b = true →
    State.readDescs { s with seen := s.taken x } (s.coreFor q) ((eprogDescRegs x.entry b).1.map x.param) = (s1, some ins) →
    s1.readDescs (s.coreFor q) ((eprogDescRegs x.entry b).2.map x.param) = (s2, some outs) →
    s2.loadAt ⟨s.coreFor q, [.sram], false⟩ (x.param (bitsOf x.entry 191 186)) (4 * b.plen) = (s3, some code) →
    eprogDescsOk b ins outs = true → eprogLoadOk b ins outs prog = true →
    s3.readInputs r b.m b.n ins = (s4, some raw) → s4.groupChecks q bad = (s5, true) →
    exec (.eprog q bad) s = .next { s5.eprogDo q (x.regrouped bad) b prog ins outs raw with seen := [] }) ∧
  (∀ (q : Nat) (x : Exec) (s s1 : State) (code : List Byte) (d : Drun),
    let e := x.entry
    let prog := (chunksOf 8 (bitsOf e 185 176 + 1) code).map fun w => directOfWord (leNat w)
    let u := d.pwr.foldl (fun s p => s.fset F.queueQParamMValue p.2.2.toNat p.1 p.2.1) d.flagged
    let v := (((u.vxeTally (coreOf q) .u16w d.w16).vxeTally (coreOf q) .u16n d.n16).fadd F.vxeFaultsFormatFaults d.faults (coreOf q))
    s.running q [0x31] = some x → zeroBits e [(149, 128), (95, 0)] = true → bitsOf e 175 174 ≠ 3 →
    State.loadAt { s with seen := s.taken x } ⟨s.coreFor q, [.sram, .hbm], false⟩ (x.param (bitsOf e 191 186)) (8 * (bitsOf e 185 176 + 1)) = (s1, some code) →
    blockOk prog = true →
    Drun.run (s.coreFor q) q (bitsOf e 127 96) prog ((bitsOf e 173 150 + 1) * 64) 0
      { s := s1, regs := List.replicate 32 (List.replicate 16 0), pwr := [], w16 := {}, n16 := {}, faults := 0, wrote := [], nonfin := false } = (d, .done) →
    exec (.drun q false) s = .next
      { (v.watch (bitsOf e 127 96) d.wrote).finish x.id (if d.nonfin then .nonfinite else .ok) with seen := [] })

/-- For an entry in execution with no earlier entry of its queue left in execution or to be issued again by RETRY: a NOP with a zero body, and an END with
one where no earlier entry has halted the queue, gets the result OK and changes nothing else; while an earlier entry is left both leave the state as
it is. A FLAGADD with zero reserved bits answers a state in which the named flag of the named die is the old value plus VALUE modulo 2^16, every other
flag of every die reads as before, and the entry has the result OK; nothing else changes. Rests on R164, R169, R172. -/
def Obligations.BarrierAndFlagEntriesRun : Prop :=
  (∀ (q : Nat) (x : Exec) (s : State), s.running q [0x00] = some x → zeroBits x.entry [(191, 0)] = true →
    (s.settled x = true → exec (.nop q) s = .next (s.finish x.id .ok)) ∧ (s.settled x = false → exec (.nop q) s = .next s)) ∧
  (∀ (q : Nat) (x : Exec) (s : State), s.running q [0x04] = some x → zeroBits x.entry [(191, 0)] = true →
    (s.settled x = true → (∀ h, (s.queue q).halted = some h → x.id ≤ h.id) → exec (.endEntry q) s = .next (s.finish x.id .ok)) ∧
    (s.settled x = false → exec (.endEntry q) s = .next s)) ∧
  (∀ (q : Nat) (x : Exec) (s : State), s.running q [0x10] = some x → zeroBits x.entry [(176, 176), (159, 0)] = true → s.settled x = true →
    ∃ t, exec (.flagadd q) s = .next t ∧
      t.flag (bitsOf x.entry 191 189) (bitsOf x.entry 188 177) =
        s.flag (bitsOf x.entry 191 189) (bitsOf x.entry 188 177) + BitVec.ofNat 16 (bitsOf x.entry 175 160) ∧
      (∀ d i, d * 4096 + i ≠ bitsOf x.entry 191 189 * 4096 + bitsOf x.entry 188 177 → t.flag d i = s.flag d i) ∧
      t = { s.finish x.id .ok with flags := t.flags })

/-- For a PSET in execution with zero reserved bits: the command answers a state in which the named parameter register of the queue holds VALUE, the entry
has the result OK, and no other register and no other field has changed. For a JUMP in execution with zero reserved bits: on a ring-fed queue with
TARGET 0 it adds WDELTA to WBIAS modulo 2^16 and files OK; with another TARGET it files ABORTED and changes nothing else; on a core queue it adds
WDELTA, makes TARGET the head and files OK. Rests on R163, R164, R168. -/
def Obligations.ParameterAndJumpEntriesAct : Prop :=
  (∀ (q : Nat) (x : Exec) (s : State), s.running q [0x02] = some x → zeroBits x.entry [(185, 64)] = true →
    ∃ t, exec (.pset q) s = .next (t.finish x.id .ok) ∧ t.f F.queueQParamMValue q (bitsOf x.entry 191 186) = bitsOf x.entry 63 0 ∧
      OnlyRegs [⟨.queueQParamM, q, bitsOf x.entry 191 186⟩] s t) ∧
  (∀ (q : Nat) (x : Exec) (s : State), s.running q [0x03] = some x → zeroBits x.entry [(180, 176), (159, 0)] = true →
    (isCoreQueue q = false → bitsOf x.entry 191 181 = 0 →
      ∃ t, exec (.jump q) s = .next (t.finish x.id .ok) ∧
        t.f F.queueQStatusWbias q = (s.f F.queueQStatusWbias q + bitsOf x.entry 175 160) % 2 ^ 16 ∧ OnlyRegs [⟨.queueQStatus, q, 0⟩] s t) ∧
    (isCoreQueue q = false → bitsOf x.entry 191 181 ≠ 0 → exec (.jump q) s = .next (s.finish x.id .aborted)) ∧
    (isCoreQueue q = true → exec (.jump q) s = .next
      ((((s.fwrap F.queueQStatusWbias (bitsOf x.entry 175 160) q).setQueue q { s.queue q with head := bitsOf x.entry 191 181 }).showHead q).finish x.id .ok)))

/-- For a REPLAY newly in execution on a queue whose last turn changes nothing (no REPLAY issues): with zero reserved bits, no more than 16 patches, a
patch table in SRAM space, a range that can be read and holds no common entry but NOP, the command answers the state of its first iteration: patches
of iteration 0 applied, the REPLAY recorded as issuing from the entry behind it. A REPLAY that has issued all and whose entries have completed, none
to be issued again, gets the status recorded for it. Rests on R165, R166, R167. -/
def Obligations.ReplayBeginsAndEnds : Prop :=
  (∀ (q : Nat) (x : Exec) (s s1 s2 : State) (l : List Byte),
    let e := x.entry
    let np := bitsOf e 167 163
    let len := bitsOf e 175 168 + 1
    (s.queue q).replay = none → (s.queue q).drains = [] →
    (s.execsOf q).find? (fun x => opcodeOf x.entry == 1 && x.result.isNone) = some x →
    zeroBits e [(146, 64)] = true → np ≤ 16 → (isCoreQueue q = true ∨ len ≤ s.ringSize q - 1) →
    (np = 0 ∨ (addrSpace (bitsOf e 63 0) = 1 ∧ (s.run? (bitsOf e 63 0) (16 * np)).isSome = true ∧ bitsOf e 63 0 % 16 = 0)) →
    s.rangeOk q ((List.range len).map (x.pos + 1 + ·)) = (s1, true) →
    (if np = 0 then (s1, some []) else s1.loadAt ⟨s1.coreFor q, [.sram], false⟩ (bitsOf e 63 0) (16 * np)) = (s2, some l) →
    ((chunksOf 16 np l).any fun w => leAt w 0 8 % 2 ^ 57 != 0) = false →
    exec (.replay q) s = .next
      (((s2.setQueue q { s2.queue q with
          owed := if isCoreQueue q then 0 else (x.pos + 1 + len + 2 ^ 16 - s2.ringHead q) % 2 ^ 16
          patched := (s2.queue q).patched ++ [(x.id, ((chunksOf 16 np l).map (s2.patchOf q)).map (·.param))] }).patchReplay q
        ⟨x.id, x.pos, len, bitsOf e 191 176 + 1, 0, 0, (chunksOf 16 np l).map (s2.patchOf q), bitsOf e 162 147, false⟩).showHead q)) ∧
  (∀ (q : Nat) (x : Exec) (from_ : Nat) (st : Status) (s : State), (s.queue q).replay = none → (s.queue q).drains = [(x.id, from_, st)] →
    s.execsOf q = [x] → opcodeOf x.entry = 1 → x.result = none → s.qState q ≠ qHalted → (s.queue q).retries from_ = false →
    exec (.replay q) s = .next (s.finish x.id st))

/-- For a PCOPY in execution with zero reserved bits and a run that stays within register 63, whose words can be loaded, the command answers the state
with the loaded words in the registers of the named queue of the core. For a FILL in execution with zero reserved bits whose descriptor can be read
and passes the checks, the command answers the store of the value converted at site 0x0000 into every element. For a COPY without statistics whose
descriptors can be read, pass the checks and have one format, whose view can be read and whose rows land, the entry ends OK with the rows stored bit
for bit and the copied elements watched. Rests on R172. -/
def Obligations.CopyFillAndParameterCopyRun : Prop :=
  (∀ (q : Nat) (x : Exec) (s s1 : State) (l : List Byte),
    let e := x.entry
    let first := bitsOf e 189 184
    let n := bitsOf e 183 178 + 1
    s.running q [0x12] = some x → zeroBits e [(177, 64)] = true → first + n ≤ 64 →
    State.loadAt { s with seen := s.taken x } ⟨s.coreFor q, [.sram], false⟩ (bitsOf e 63 0) (8 * n) = (s1, some l) →
    exec (.pcopy q) s = .next { (s1.setParams (q / 4 * 4 + bitsOf e 191 190)
      ((chunksOf 8 n l).mapIdx fun i w => (first + i, BitVec.ofNat 64 (leNat w)))).finish x.id .ok with seen := [] }) ∧
  (∀ (q : Nat) (x : Exec) (s s1 : State) (dc : Desc),
    let e := x.entry
    let m := bitsOf e 95 80 + 1
    let n := bitsOf e 79 64 + 1
    s.running q [0x41] = some x → zeroBits e [(191, 186), (179, 176), (159, 128), (63, 0)] = true →
    State.readDesc { s with seen := s.taken x } (s.coreFor q) (x.param (bitsOf e 185 180)) = (s1, some dc) →
    (dc.ok [0, 1, 2, 3] (some n) && (!dc.tile || decide (m ≤ 64 ∧ n ≤ 64))) = true →
    exec (.fill q) s = .next { s1.writeConverted q x ⟨s.coreFor q, [.sram, .hbm], false⟩ (bitsOf e 127 96) m n 0 none 0 0 dc
      (convertRows (fun i => s1.site (bitsOf e 127 96) i 0) dc
        (List.replicate m (List.replicate n (Fmt.u16w.decode (bitsOf e 175 160) 0).1))) with seen := [] }) ∧
  (∀ (q : Nat) (x : Exec) (s s1 s2 s3 s4 : State) (di dc : Desc) (raw : List (List (Nat × Nat))),
    let e := x.entry
    let m := bitsOf e 95 80 + 1
    let n := bitsOf e 79 64 + 1
    let r : Reach := ⟨s.coreFor q, [.sram, .hbm], false⟩
    s.running q [0x40] = some x → zeroBits e [(172, 168), (159, 128), (63, 0)] = true → bitOf e 173 = false →
    State.readDesc { s with seen := s.taken x } (s.coreFor q) (x.param (bitsOf e 191 186)) = (s1, some di) →
    s1.readDesc (s.coreFor q) (x.param (bitsOf e 185 180)) = (s2, some dc) → di.fmt = dc.fmt →
    (di.ok [0, 1, 2, 3] (some n) && dc.ok [0, 1, 2, 3] (some n) && (!di.tile || decide (m ≤ 64 ∧ n ≤ 64)) &&
      (!dc.tile || decide (m ≤ 64 ∧ n ≤ 64))) = true →
    s2.readView r di m (di.copyColumns n) = (s3, some raw) →
    s3.writeRows r dc dc.format 0 (raw.map (rawEncoded di.format)) = (s4, true) →
    exec (.copy q) s = .next { (s4.watch (bitsOf e 127 96) ((raw.map (rowValues di.format)).flatMap fun r => r.1.take n)).finish x.id .ok dc.fmt with seen := [] })

/-- For a queue of the part that is RUNNING or WAITING, outside Hove-to, full debug, holds and sleep, with no common entry in its way: a head entry that
fails a check of R154 leaves the head with the status of that check, which halts the queue; one whose wait is not reached leaves the queue WAITING
with its wait shown; one that passes, of a RUNNING queue, whose wait is reached or absent and whose engine is free starts; while its engine is not
free nothing happens. Rests on R154, R155, R170. -/
def Obligations.HeadEntryIsCheckedWaitsOrStarts : Prop :=
  ∀ (q : Nat) (h : Head) (e : BitVec 256) (s s1 : State),
    (qClass q).isSome = true → s.absent q = false → s.inHove = false → s.fullDebug = none →
    (isCoreQueue q && s.sideband.holdActive) = false → s.awake q = true → s.headBlocked q = false →
    (s.qState q = qRunning ∨ s.qState q = qWaiting) →
    ((s.turnReplay q).showHead q).headOf q = (s1, some h) → h.entry = some e →
    let target := waitTarget (waitValue e) (s1.f F.queueQStatusWbias q) h.iter h.wstep
    let params := (List.range 64).map fun m => s1.rd ⟨.queueQParamM, q, m⟩
    (∀ st, s1.headFault q e = some st → exec (.entryStart q) s = .next (s1.dropHead q h st true)) ∧
    (s1.headFault q e = none → waitEn e = true → waitReached (s1.flag (s1.homeDie q) (waitFlag e)) target = false →
      exec (.entryStart q) s = .next ((s1.showWait q e target).enter q qWaiting)) ∧
    (s1.headFault q e = none → (waitEn e = true → waitReached (s1.flag (s1.homeDie q) (waitFlag e)) target = true) →
      s1.qState q = qRunning → (s1.engineFree q e params && s1.replayCovered q e) = true → exec (.entryStart q) s = .next (s1.start q h e)) ∧
    (s1.headFault q e = none → (waitEn e = true → waitReached (s1.flag (s1.homeDie q) (waitFlag e)) target = true) →
      s1.qState q = qRunning → (s1.engineFree q e params && s1.replayCovered q e) = false → exec (.entryStart q) s = .next s1)

/-- An entry in execution whose result is filed with a status other than ABORTED completes with that status and engine field. A RUNNING ring-fed queue
with EN = 1, with no REPLAY, no entry taken and none in its way: where more entries wait than the ring holds, it posts ABORTED for ring position HEAD
and is HALTED; where some wait, it takes the entry at HEAD, and HEAD advances by one modulo 2^16 unless the entry is a REPLAY. Rests on R156, R224,
R225. -/
def Obligations.EntryCompletesAndRingEntryIsTaken : Prop :=
  (∀ (q : Nat) (x : Exec) (st : Status) (engine : Nat) (s : State), s.execs.find? (fun y => y.q == q && y.id == x.id) = some x →
    x.result = some (st, engine) → st ≠ .aborted → exec (.entryCompletion q x.id) s = .next (s.complete x st engine)) ∧
  (∀ (q : Nat) (s : State), (qClass q).isSome = true → isCoreQueue q = false → s.qState q = qRunning → s.fb F.lkeRingNEn q = true →
    (s.queue q).taken = none → (s.queue q).replay = none → (s.queue q).drains = [] → (s.queue q).redo = false → s.headBlocked q = false →
    (s.ringSize q < s.ringAvail q → exec (.ringEntryTake q) s = .next
      ((State.postStatus { s with nextId := s.nextId + 1 } q ⟨s.ringHead q, 0, 0, none, s.nextId⟩ .aborted 0).halt q ⟨s.ringHead q, 0, 0, none, s.nextId⟩ .aborted)) ∧
    (∀ s1 e, 0 < s.ringAvail q → s.ringAvail q ≤ s.ringSize q → s.readEntry q (s.ringHead q) = (s1, some e) →
      (opcodeOf e ≠ 1 → exec (.ringEntryTake q) s = .next (((s1.fwrap F.lkeHeadNHead 1 q).setQueue q
        { s.queue q with taken := some ⟨s.ringHead q, 0, 0, some e, 0⟩, owed := 0 }).showHead q)) ∧
      (opcodeOf e = 1 → exec (.ringEntryTake q) s = .next ((s1.setQueue q
        { s.queue q with taken := some ⟨s.ringHead q, 0, 0, some e, 0⟩, owed := 1 }).showHead q))))

/-- For every queue of the part that is not absent and every sender: each of the five commands sets its bit of QUEUE_q_CTRL and joins the commands that
the next tick edge takes, nothing else changing. The edge clears the bit of a single command and, where Table 5.11 lists it for the queue as it
stands, has its effect (GO runs from START, RESUME, RETRY, ABORT_ENTRY, STOP); where it does not, only BAD_CMD counts one. A host command that meets a
supervisor command for the same queue and edge is refused and counted, whichever came first, and the other acts. Rests on R173, R174, Table 5.11. -/
def Obligations.QueueCommandsWaitForTheTickEdge : Prop :=
  ∀ (q : Nat) (who : Sender) (s : State), (qClass q).isSome = true → s.absent q = false →
    (exec (.go q who) s = .next { s.fset (ctrlBit 0) 1 q with edgeCmds := s.edgeCmds ++ [(q, 0, who)] } ∧
      exec (.resume q who) s = .next { s.fset (ctrlBit 1) 1 q with edgeCmds := s.edgeCmds ++ [(q, 1, who)] } ∧
      exec (.retry q who) s = .next { s.fset (ctrlBit 2) 1 q with edgeCmds := s.edgeCmds ++ [(q, 2, who)] } ∧
      exec (.abortEntry q who) s = .next { s.fset (ctrlBit 3) 1 q with edgeCmds := s.edgeCmds ++ [(q, 3, who)] } ∧
      exec (.stop q who) s = .next { s.fset (ctrlBit 4) 1 q with edgeCmds := s.edgeCmds ++ [(q, 4, who)] }) ∧
    (∀ k, s.edgeCmds = [(q, k, who)] →
      let u := State.fset { s with edgeCmds := [], edgeSup := if who = .supervisor then [q] else [] } (ctrlBit k) 0 q
      (u.commandValid q k = true → s.takeCommands = u.doCommand q k) ∧ (u.commandValid q k = false → s.takeCommands = u.badCmd q)) ∧
    (∀ k j, s.edgeCmds = [(q, k, .host), (q, j, .supervisor)] →
      let u := State.badCmd (State.fset { s with edgeCmds := [], edgeSup := [q] } (ctrlBit k) 0 q) q
      s.takeCommands = ((u.fset (ctrlBit j) 0 q).commandQueue q j .supervisor).1) ∧
    (∀ k j, s.edgeCmds = [(q, j, .supervisor), (q, k, .host)] → ∀ u,
      (State.commandQueue (State.fset { s with edgeCmds := [], edgeSup := [q] } (ctrlBit j) 0 q) q j .supervisor).1 = u → u.edgeSup = [q] →
      s.takeCommands = (u.fset (ctrlBit k) 0 q).badCmd q)

/-- For every state: STALEMATE_SCAN answers the state whose list of stalemates is that of the wait-for graph as it stands, the count of each whose members
and kind are the same one higher and that of a new one 1, and nothing else changed. STALEMATE_HOLD with no stalemate at its count changes nothing that
a later scan or a register shows; with exactly one, not yet held, it marks it held, puts its WAITING members into HELD, writes the stalemate record,
raises event 0x5001 and applies the policy. Rests on R175, R176, R178. -/
def Obligations.StalemateScanCountsAndHoldActs : Prop :=
  (∀ s : State,
    let next (w : Bool × Nat) : StaleTrack :=
      match s.stale.find? fun t => t.members == (stalemateMembers s.edges w).map s.headMark && t.chain == w.1 with
      | some t => { t with count := t.count + 1 }
      | none => ⟨(stalemateMembers s.edges w).map s.headMark, stalematePath s.edges w, w.1, 1, false⟩
    exec .stalemateScan s = .next { s with stale := (s.stalemates s.edges).map next }) ∧
  (∀ s : State, (∀ t ∈ s.stale, t.held = true ∨ t.count < s.f F.staleCtrlTicks) → exec .stalemateHold s = .next s) ∧
  (∀ (s : State) (t : StaleTrack), s.stale = [t] → t.held = false → s.f F.staleCtrlTicks ≤ t.count →
    exec .stalemateHold s = .next (State.staleHold { s with stale := [{ t with held := true }] } t))

/-- For a queue of the part that is not absent: PARAM_WRITE to register 0 to 63 of a STOPPED or HALTED queue sets that register and changes nothing else;
in another state a value that differs counts one in BAD_CMD, and the value already held changes nothing. RING_REGISTER_WRITE at the offset of a
completion ring or command ring register writes it while the queue is STOPPED and the new area is within SRAM and aligned; otherwise it counts one in
BAD_CMD. Rests on R163, R564. -/
def Obligations.ParameterAndRingRegisterWritesOfTheHost : Prop :=
  (∀ (q m : Nat) (v : Word) (s : State), m < 64 → (qClass q).isSome = true → s.absent q = false →
    ((s.qState q = qStopped ∨ s.qState q = qHalted) → exec (.paramWrite q m v) s = .next (s.wr ⟨.queueQParamM, q, m⟩ v)) ∧
    (¬ (s.qState q = qStopped ∨ s.qState q = qHalted) → s.rd ⟨.queueQParamM, q, m⟩ ≠ v → exec (.paramWrite q m v) s = .next (s.badCmd q)) ∧
    (¬ (s.qState q = qStopped ∨ s.qState q = qHalted) → s.rd ⟨.queueQParamM, q, m⟩ = v → exec (.paramWrite q m v) s = .next s)) ∧
  (∀ (off : Nat) (r : Reg) (v : Word) (s : State), r.absent s.grade = false →
    (RegName.at .queueQCring off = some r →
      let new := swWrite true r (s.rd r) v
      exec (.ringRegisterWrite off v) s = .next
        (if s.qState r.i = qStopped ∧ (if r.name = .queueQCring then cringOk new else ringOk new) = true then s.wr r new else s.badCmd r.i)) ∧
    (RegName.at .queueQCring off = none → RegName.at .lkeRingN off = some r →
      let new := swWrite true r (s.rd r) v
      exec (.ringRegisterWrite off v) s = .next
        (if s.qState r.i = qStopped ∧ (if r.name = .queueQCring then cringOk new else ringOk new) = true then s.wr r new else s.badCmd r.i)))

/-- For a LOOKUP in execution with a pinned version: where the table was ABSENT or the epoch neither current nor retained when it was pinned, the result
is ABORTED, with the output that its descriptor names left without defined values; where the STATE was a reserved one, an uncorrectable record for the
directory entry comes first; where it was ONLINE or OFFLINE, with zero reserved bits, a legal POOL, a descriptor and arrays that can be read, a
version that is held and a plain 16-bit output, the command answers the pooling of the bags read, under the unit states taken at its start. Rests on
R229, R230, R235, R238. -/
def Obligations.LookupPoolsOrIsRefused : Prop :=
  ∀ (q : Nat) (replies : List RunReply) (x : Exec) (t v st : Nat) (s : State), s.running q [0x50] = some x → x.pin = some (t, v, st) →
    (3 ≤ st % 16 → exec (.lookup q replies) s = .next { (State.badState { s with seen := s.taken x } t).lookupAbort x with seen := [] }) ∧
    ((st = 0 ∨ 16 ≤ st) → st % 16 < 3 → ∀ (s1 : State) (dc : Option Desc),
      State.readDesc { s with seen := s.taken x } 0xFF (x.param (bitsOf x.entry 173 168)) = (s1, dc) →
      ((dc = none ∨ dc.any Desc.tile = true) → exec (.lookup q replies) s = .next { s1.finish x.id .aborted with seen := [] }) ∧
      (∀ d, dc = some d → d.tile = false → exec (.lookup q replies) s = .next { (s1.undefineView ⟨0xFF, [.sram, .hbm], false⟩ d
        ((Fmt.ofCode (bitsOf x.entry 143 140)).getD .u16w) (bitsOf x.entry 95 80 + 1) (s1.dir (bitsOf x.entry 161 146)).rowlen).finish x.id .aborted with seen := [] })) ∧
    (∀ (s1 s2 : State) (dc : Desc) (bags : List (List Pos)) (n base : Nat),
      let e := x.entry
      let d := State.dir { s with seen := s.taken x } t
      (st = 1 ∨ st = 2) → bitsOf e 145 144 ≠ 3 → zeroBits e [(131, 128), (79, 0)] = true →
      State.readDesc { s with seen := s.taken x } 0xFF (x.param (bitsOf e 173 168)) = (s1, some dc) →
      s1.readBags (x.param (bitsOf e 191 186)) (x.param (bitsOf e 185 180)) (x.param (bitsOf e 179 174)) (bitsOf e 95 80 + 1)
        (bitsOf e 145 144 == 0) (bitsOf e 145 144 == 1) = (s2, some (bags, n)) →
      regionOf d v = some base → dc.tile = false → dc.ok [0, 1] none = true →
      exec (.lookup q replies) s = .next { s2.lookupRun x ⟨lkeDie q, t, d, v, base, st == 2, bitsOf e 127 96⟩ (bitsOf e 145 144 == 0)
        ((Fmt.ofCode (bitsOf e 143 140)).getD .u16w) dc (if bitOf e 139 then some (x.param (bitsOf e 167 162)) else none) bags replies with seen := [] })

/-- For a SCATTER in execution that has sent its leaves: with none refused, all acknowledged, a copy of each of its shards left outside Hove-to and none
of its own waiting for a group, the result is OK, or REPLACING where a home, this part among them, found the version stale; while one of its leaves
waits nothing changes; where one was refused or not acknowledged, or a shard has no copy left, the result is ABORTED. For an HREFRESH in execution
with zero reserved bits whose list can be read, the command reads the hot map and takes up the entries it has not yet taken, in order, shows the rows
in motion and files the result once every run has moved. Rests on R244, R250, R253. -/
def Obligations.ScatterAndRefreshRun : Prop :=
  (∀ (q : Nat) (x : Exec) (acked : LeafAcks) (stale : Bool) (s : State), s.running q [0x51] = some x → x.stage = 1 →
    s.execs.find? (fun y => y.id == x.id && y.stage == 1 && y.result.isNone) = some x →
    (x.bad = false → acked.all = true → s.leafReached x acked.hove = true → s.leafWaits x.id = false →
      exec (.scatter q acked stale) s = .next (s.finish x.id (if stale ∨ x.stale then .replacing else .ok))) ∧
    (x.bad = false → acked.all = true → s.leafReached x acked.hove = true → s.leafWaits x.id = true → exec (.scatter q acked stale) s = .next s) ∧
    ((x.bad = true ∨ acked.all = false ∨ s.leafReached x acked.hove = false) → exec (.scatter q acked stale) s = .next (s.finish x.id .aborted))) ∧
  (∀ (q : Nat) (x : Exec) (s s1 s2 : State) (l : List Byte) (k : Nat),
    let n := bitsOf x.entry 185 176 + 1
    s.running q [0x52] = some x → zeroBits x.entry [(175, 0)] = true →
    State.loadAt { s with seen := s.taken x } ⟨0xFF, [.sram], false⟩ (x.param (bitsOf x.entry 191 186)) (16 * n) = (s1, some l) →
    s1.readHot.refreshList (lkeDie q) x.id x.stage (((chunksOf 16 n l).map refreshOf).drop x.stage) = (s2, k) →
    exec (.hrefresh q) s = .next { (State.showMoving { s2 with
      execs := updateAll s2.execs (fun y => y.id == x.id) fun y => { y with stage := k } }).refreshDone x.id n with seen := [] })

/-- For a state with one run in motion whose frame is listed as done, not as faulted, and which no pinned command holds back: the command moves the run to
its new home, shows the rows in motion, and files the result of the HREFRESH that listed it once that has no more runs. With no run done and none
faulted only LKE_STATUS.MOVING is shown. Rests on R246, R247, R249. -/
def Obligations.RunsFlipAtAFlipTick : Prop :=
  (∀ (m : Move) (x : Exec) (s : State), s.moves = [m] → s.moveFree m = true →
    (s.flipMove m).showMoving.execs.find? (fun y => y.id == m.id) = some x →
    exec (.migrationFlip [m.frame] []) s = .next ((s.flipMove m).showMoving.refreshDone m.id (bitsOf x.entry 185 176 + 1))) ∧
  (∀ s : State, exec (.migrationFlip [] []) s = .next s.showMoving)

/-- An outside atomic and an ATOMIC entry in execution arrive at their home SUC, where the next tick performs them in the order of R31; until then nothing
else changes. When its turn comes, an outside request whose address names whole bytes of HBM or SUC space of this part, aligned to the size of its
TYPE, with an OP of 0 to 9 that takes the TYPE and a word that can be read and stored, leaves the state after the store, with the old value sent to
the requester. An ATOMIC entry with zero reserved bits and a destination in SRAM space, whose operation gives an old value and whose destination can
be stored, gets the result OK. Rests on R31, R193, R194, R195, R256. -/
def Obligations.AtomicsWriteOnceAndAnswerTheOldValue : Prop :=
  (∀ (req : AtomicReq) (s : State), exec (.sucAtomic req) s = .next { s with arrivals := s.arrivals ++ [.outside req] }) ∧
  (∀ (q : Nat) (x : Exec) (s : State),
    (s.execs.find? fun x => x.q == q && opcodeOf x.entry == 0x53 && x.result.isNone && !s.arrivals.contains (.entry q x.id)) = some x →
    exec (.atomic q) s = .next { s with arrivals := s.arrivals ++ [.entry q x.id] }) ∧
  (∀ (req : AtomicReq) (b : Bank) (off : Nat) (l : List Byte) (s s1 s2 : State),
    let n := atomicBytes req.type
    let old := BitVec.ofNat 64 (leNat l)
    let new := if req.op < 8 then atomicInt req.op req.type old req.value req.compare else atomicFloat req.op req.type old req.value
    s.run? req.addr.toNat n = some (b, off) → (b = .hbm ∨ b = .suc) → req.addr.toNat % n = 0 → req.op ≤ 9 →
    (atomicTypes req.op).contains req.type = true → s.load false b off n = (s1, some l) → s1.store false b off (leBytes n new.toNat) = (s2, true) →
    s.performArrival (.outside req) = s2.emit (.atomicDone req.source (some old))) ∧
  (∀ (q : Nat) (x : Exec) (old : Word) (l : List Byte) (s s1 s2 s3 : State),
    let e := x.entry
    s.execs.find? (fun y => y.q == q && y.id == x.id && y.result.isNone) = some x → zeroBits e [(159, 0)] = true →
    (State.run? { s with seen := s.taken x } (x.param (bitsOf e 165 160)) 8).any (fun p => p.1 == .sram) = true →
    State.atomicOp { s with seen := s.taken x } false (x.param (bitsOf e 191 186)) (bitsOf e 185 182) (bitsOf e 181 178)
      (BitVec.ofNat 64 (x.param (bitsOf e 177 172))) (BitVec.ofNat 64 (x.param (bitsOf e 171 166))) = (s1, some old) →
    s1.oldBytes (bitsOf e 181 178) old = (s2, l) → s2.storeAt ⟨s2.coreFor q, [.sram], false⟩ (x.param (bitsOf e 165 160)) l = (s3, true) →
    s.performArrival (.entry q x.id) = { s3.finish x.id .ok with seen := [] })

/-- For a GOPEN in execution with zero reserved bits, a spill area in HBM space and a group identifier that is not open: the group of its fields is
opened, leaves that waited for it are tried again, and the result is OK; with the identifier open it is ABORTED and nothing else changes. A node for
an open group without faults that takes it, whose home SUC has room (the issuing die's where its address is beyond HBM space), enters the group as
U16w values and is acknowledged; one for a group that is not open is refused. A GCLOSE in execution with zero reserved bits of a group that is not of
a step, or may close, with no stale leaf on its way to the group, first lets the stale leaves due to the group arrive, and with none due closes the
rows of the group and ends OK or ABORTED as they could be written. Rests on R196, R197, R199. -/
def Obligations.ReductionGroupsOpenTakeAndClose : Prop :=
  (∀ (q : Nat) (x : Exec) (s : State),
    let e := x.entry
    let sp := x.param (bitsOf e 141 136)
    s.running q [0x54] = some x → zeroBits e [(135, 128), (95, 0)] = true → sp / 2 ^ 44 % 16 = 0 →
    (s.groups.any (fun g => g.id == bitsOf e 191 186) = false → exec (.gopen q) s = .next ((s.openGroup
      { id := bitsOf e 191 186, fmt := bitsOf e 185 182, rowlen := bitsOf e 181 175 + 1, extent := bitsOf e 173 142 + 1, accumulate := bitOf e 174
        tensor := bitsOf e 127 96, spill := sp % 2 ^ 44, spillSlots := sp / 2 ^ 48 * 32768, spilled := [], faults := [], nodes := [] }).retryLeaves.finish x.id .ok)) ∧
    (s.groups.any (fun g => g.id == bitsOf e 191 186) = true → exec (.gopen q) s = .next (s.finish x.id .aborted))) ∧
  (∀ (die : Nat) (node : Node) (s : State),
    let home := if node.addr < hbmSpace then hbmDie node.addr else die % 8
    (∀ (g : Group) (n : Node) (t : Tally) (u : State × Group), s.groups.find? (fun g => g.id == node.group) = some g → g.takes node = true → g.faults = [] →
      s.widenNode g node = (n, t) → (s.sucTally home .u16w t).pendingNodes home < (12 - (s.sucTally home .u16w t).f F.sucCfgScratch home) * 24576 →
      (s.sucTally home .u16w t).enterNode home 33 g n = u → exec (.gadd die node) s = .next ((u.1.setGroup u.2).emit (.nodeDone (die % 8) true))) ∧
    (s.groups.find? (fun g => g.id == node.group) = none → exec (.gadd die node) s = .next (s.emit (.nodeDone (die % 8) false)))) ∧
  (∀ (q : Nat) (x : Exec) (mismatch : Option Nat) (ok : Bool) (g : Group) (s s1 : State), s.running q [0x55] = some x → zeroBits x.entry [(185, 0)] = true →
    s.groups.find? (fun g => g.id == bitsOf x.entry 191 186) = some g →
    ((s.ofStep g && !s.mayClose) || s.staleWaits (bitsOf x.entry 191 186)) = false →
    (∀ u, s.settleGroup x g = (u, true) → exec (.gclose q mismatch) s = .next u) ∧
    (∀ u, s.settleGroup x g = (u, false) → u.closeGroupRows ((u.groups.find? (fun g => g.id == bitsOf x.entry 191 186)).getD g) mismatch = (s1, ok) →
      exec (.gclose q mismatch) s = .next (s1.finish x.id (if ok then .ok else .aborted))))

/-- For every state: SUC_MISMATCH whose repeat matched latches a correctable error of the stack domain and changes nothing else; one whose repeat
mismatched latches an uncorrectable error and the fault of the stack domain, and ends the request that met it: an entry in execution gets the result
ABORTED (a GCLOSE closes its group), an outside atomic that waits is answered without a value, one of another part, a leaf and a node are refused, and
a Keeper window closes without its apply. SUC_TEST of a stack domain in recovery with no retrain of its die returns the domain on a pass and loses it
on a fail; out of recovery it changes nothing. Rests on R203. -/
def Obligations.SucMismatchAndTestEnd : Prop :=
  (∀ (die : Nat) (victim : SucVictim) (s : State), exec (.sucMismatch die false victim) s = .next (s.error 0x7001 sevCorrectable (stackDomain die))) ∧
  (∀ (die : Nat) (s : State),
    let t := (s.error 0x3001 sevUncorrectable (stackDomain die) 0xFF 0 0 Status.aborted.code).faultDomain (stackDomain die)
    exec (.sucMismatch die true .nothing) s = .next t ∧
    (∀ d node, exec (.sucMismatch die true (.node d node)) s = .next (t.emit (.nodeDone (d % 8) false))) ∧
    (∀ req, t.arrivals.contains (.outside req) = true →
      exec (.sucMismatch die true (.atomic req)) s = .next (State.emit { t with arrivals := t.arrivals.erase (.outside req) } (.atomicDone req.source none))) ∧
    (∀ req : RemoteReq, t.arrivals.contains (.remote req) = true →
      exec (.sucMismatch die true (.remote req)) s =
        .next (State.emit { t with arrivals := t.arrivals.erase (.remote req) } (.reply req.part req.flow .refused))) ∧
    (∀ l a, t.arrivals.find? (fun a => match a with | .leaf m | .again m _ => m == l | _ => false) = some a →
      exec (.sucMismatch die true (.leaf l)) s = .next (State.answerLeaf { t with arrivals := t.arrivals.erase a } l .refused)) ∧
    (∀ table, exec (.sucMismatch die true (.window table)) s =
      .next ((t.groups.filter fun g => g.keeper == some table).foldl (State.keeperTable · true) t)) ∧
    (∀ id x, t.execs.find? (fun x => x.id == id && x.result.isNone) = some x →
      let u := if opcodeOf x.entry = 0x55 ∧ t.groups.any (fun g => g.id == bitsOf x.entry 191 186) then t.closeGroup (bitsOf x.entry 191 186) else t
      exec (.sucMismatch die true (.entry id)) s = .next (State.finish { u with arrivals := u.arrivals.filter fun a => a != .entry x.q id } id .aborted))) ∧
  (∀ (die : Nat) (s : State), s.inRecovery (stackDomain die) = true → s.retrains.any (fun r => r.die == die % 8) = false →
    exec (.sucTest die true) s = .next (s.domainBack (stackDomain die)) ∧
    exec (.sucTest die false) s = .next (s.error 0x3003 sevLost (stackDomain die))) ∧
  (∀ (die : Nat) (pass : TestPass) (s : State), s.inRecovery (stackDomain die) = false → exec (.sucTest die pass) s = .next s)

/-- REMOTE_RUN_REQUEST in Hove-to or from a part that is no member is answered by a refusal and changes nothing else; from a member outside Hove-to the
reply of the service port goes back. LEAF_ARRIVAL in Hove-to is answered by STATUS HOVE_TO, and from a non-member as not taken; from a member outside
Hove-to it arrives, and the next tick, in the order of R31, has it taken and acknowledged, acknowledged as stale, refused, or waiting 1,000 ticks for
its group. LEAF_GROUP_WAIT_EXPIRY with no leaf due changes nothing; with one leaf waiting and due it drops it, answers it as not taken and marks the
SCATTER of its queue. Rests on R236, R253, R255, R436. -/
def Obligations.RemoteRunsAndLeavesReachTheirHome : Prop :=
  (∀ (run : RunRequest) (s : State), (s.inHove = true ∨ s.isMember run.part = false) →
    exec (.remoteRunRequest run) s = .next (s.emit (.runReply run.part ⟨false, s.inHove, []⟩))) ∧
  (∀ (run : RunRequest) (s s1 : State) (r : RunReply), s.inHove = false → s.isMember run.part = true → s.serveRun run = (s1, r) →
    exec (.remoteRunRequest run) s = .next (s1.emit (.runReply run.part r))) ∧
  (∀ (leaf : Leaf) (s : State), s.inHove = true → exec (.leafArrival leaf) s = .next (s.leafHove leaf) ∧
    (leaf.queue = none → s.leafHove leaf = s.emit (.leafOut leaf.part))) ∧
  (∀ (leaf : Leaf) (s : State), s.inHove = false → s.isMember leaf.part = false → exec (.leafArrival leaf) s = .next (s.ackLeaf leaf false false)) ∧
  (∀ (leaf : Leaf) (s : State), s.inHove = false → s.isMember leaf.part = true →
    exec (.leafArrival leaf) s = .next { s with arrivals := s.arrivals ++ [.leaf leaf] } ∧
    (∀ s1, s.takeLeaf leaf = (s1, .taken) → s.performArrival (.leaf leaf) = s1.ackLeaf leaf true false) ∧
    (∀ s1, s.takeLeaf leaf = (s1, .stale) → s.performArrival (.leaf leaf) = (s1.ackLeaf leaf true true).markOwn leaf false) ∧
    (∀ s1, s.takeLeaf leaf = (s1, .refused) → s.performArrival (.leaf leaf) = (s1.ackLeaf leaf false false).markOwn leaf true) ∧
    (∀ s1, s.takeLeaf leaf = (s1, .waits) →
      s.performArrival (.leaf leaf) = { s1 with waitingLeaves := s1.waitingLeaves ++ [(leaf, s.now + 1000)] })) ∧
  (∀ s : State, (∀ w ∈ s.waitingLeaves, s.now < w.2) → exec .leafGroupWaitExpiry s = .next s) ∧
  (∀ (w : Leaf × Nat) (s : State), s.waitingLeaves = [w] → w.2 ≤ s.now →
    exec .leafGroupWaitExpiry s = .next ((State.ackLeaf { s with waitingLeaves := [] } w.1 false false).markOwn w.1 true))

/-- For every state in the Keeper role, outside Hove-to, at a tick that is a whole number of APPLY periods: the command applies each Keeper group in turn,
counts one apply, and tries again the leaves that wait for a group; at another tick, in another role or in Hove-to it changes nothing. Rests on R257,
R436. -/
def Obligations.KeeperAppliesEachPeriod : Prop :=
  ∀ s : State,
    (s.keeper = true → s.inHove = false → s.now / s.f F.lkeCfgApply * s.f F.lkeCfgApply = s.now →
      ∃ u, u = (s.groups.filter fun g => g.keeper.isSome).foldl (State.keeperTable · false) s.readHot ∧
        exec .keeperApply s = .next (State.retryLeaves { u with keeperApplies := u.keeperApplies + 1 })) ∧
    ((s.keeper = false ∨ s.inHove = true ∨ s.now / s.f F.lkeCfgApply * s.f F.lkeCfgApply ≠ s.now) → exec .keeperApply s = .next s)

/-- For a TSTAGE in execution with zero reserved bits, of a table with a layout, with no retained version and a version number that is new: the directory
is read, NEXT_VERSION and NEXT_BASE are written with NEXT_VALID, and the result is OK. A TFLIP, TOFFLINE or TONLINE in execution with zero reserved
bits asks the hall once, with the table and version of its body, and waits; asked, it changes nothing. A release by a member of the version that the
part retains counts one, once for each member; one of another version changes nothing; in Hove-to a release waits. Rests on R260, R261, R262, R263,
R264. -/
def Obligations.TableCommandsStageAskAndRelease : Prop :=
  (∀ (q : Nat) (x : Exec) (s : State),
    let t := bitsOf x.entry 191 176
    let v := bitsOf x.entry 175 144
    let u := s.readDir t
    let d := u.dir t
    s.running q [0x84] = some x → zeroBits x.entry [(137, 0)] = true → d.oldValid = false → v ≠ d.version → v ≠ d.oldVersion →
    (d.state = 1 ∨ d.state = 2 ∨ d.rows ≠ 0) →
    exec (.tstage q) s = .next ((u.setDir t { d with nextVersion := v, nextBase := x.param (bitsOf x.entry 143 138) % 2 ^ 44, nextValid := true }).finish x.id .ok)) ∧
  (∀ (q : Nat) (x : Exec) (s : State), zeroBits x.entry [(137, 0)] = true → x.stage = 0 →
    let ask (c : HallCmd) : State := { s with execs := updateAll s.execs (fun y => y.id == x.id) fun y => { y with stage := 1 }
                                              hallAsked := s.hallAsked ++ [c], out := s.out ++ [.hallAsk c] }
    (s.running q [0x85] = some x → exec (.tflip q) s = .next (ask (.tflip (bitsOf x.entry 191 176) (bitsOf x.entry 175 144)))) ∧
    (s.running q [0x86] = some x → exec (.toffline q) s = .next (ask (.toffline (bitsOf x.entry 191 176)))) ∧
    (s.running q [0x87] = some x → exec (.tonline q) s = .next (ask (.tonline (bitsOf x.entry 191 176) (bitsOf x.entry 175 144))))) ∧
  (∀ (part table version : Nat) (s : State), s.inHove = true →
    exec (.oldVersionRelease part table version) s = .next { s with boot := { s.boot with releases := s.boot.releases ++ [(part, table, version)] } }) ∧
  (∀ (part table version : Nat) (s : State), s.inHove = false →
    ((s.dir table).oldValid = true → (s.dir table).oldVersion = version → s.isMember part = true → (table, version, part) ∉ s.releases →
      exec (.oldVersionRelease part table version) s =
        .next ((State.setDir { s with releases := s.releases ++ [(table, version, part)] } table { s.dir table with oldReleases := ((s.dir table).oldReleases + 1) % 2 ^ 16 }).releaseDone table)) ∧
    ((s.dir table).oldVersion ≠ version → exec (.oldVersionRelease part table version) s = .next s) ∧
    ((table, version, part) ∈ s.releases → exec (.oldVersionRelease part table version) s = .next s))

/-- UOPEN of a table unit that R274 accepts adds an OPEN unit with no records and files OK. UCLOSE of an open unit whose segments are all in and whose NEW
halves can be filled closes it with its count and digest; a mismatch of the digest unit fails it. UNIT_APPLY_DONE outside Hove-to settles every unit
that applies, frees the journal, clears the maps, and writes the mirror. MINORITY_REFETCH puts the rows in place and, where their digest by R280 is
the committed one, ends the minority copy, its rows dirty; else the domain that holds it goes to recovery. UNIT_RESOLUTION outside Hove-to redoes or
undoes the unit by the outcome recorded or that the committee answered, else asks the committee. EXPORT of table bytes that can be read and stored
ends OK. Rests on R274, R275, R281, R290, R291, R293, R295. -/
def Obligations.CastlingUnitsOpenCloseAndSettle : Prop :=
  (∀ (q : Nat) (x : Exec) (s : State),
    let e := x.entry
    let table := bitsOf e 188 173
    let shard := bitsOf e 172 157
    let slot := bitsOf e 156 149
    let copy := bitsOf e 190 189
    s.running q [0x80] = some x → zeroBits e [(138, 0)] = true → bitOf e 191 = false → s.exporting false table shard x.id = false →
    ((s.dir table).state = 1 ∨ (s.dir table).state = 2) → s.generation = false → (∀ u ∈ s.units, u.state = .retired) →
    s.holdsUnit false table shard copy = true →
    ((s.tableRanges table).all fun r => decide (r.2.1 + r.2.2 ≤ if r.1 = .hbm then 0x5D00000000 else 0x800000000)) = true →
    exec (.uopen q) s = .next ((State.showUnits { s with units := s.units ++
      [({ slot, dense := false, copy, table, shard, ranges := s.tableRanges table, state := .opened, failed := false, step := s.f F.stepEpochEpoch,
          recs := [], segs := [], digest := 0, count := 0, minority := false } : CUnit)] }).finish x.id .ok)) ∧
  (∀ (q : Nat) (x : Exec) (u : CUnit) (s s1 : State),
    let slot := bitsOf x.entry 191 184
    let n := bitsOf x.entry 183 152
    s.running q [0x81] = some x → zeroBits x.entry [(151, 0)] = true →
    s.units.find? (fun u => u.slot == slot && u.state == .opened) = some u → u.failed = false → n ≠ 0 → n ≤ u.segs.length →
    ((List.range n).all fun i => u.segs.any fun g => g.1 == i) = true → s.fillNew u.recs = (s1, true) →
    exec (.uclose ⟨q, false⟩) s = .next (State.finish { s1 with units := updateAll s1.units (fun v => v.slot == slot && v.state == .opened) fun v =>
      { v with state := .closed, count := s1.unitCount u n, digest := unitDigest u (s1.unitCount u n) n, recs := v.recs.map fun r => { r with newValid := true } } } x.id .ok)) ∧
  (∀ (q : Nat) (x : Exec) (u : CUnit) (s : State), s.running q [0x81] = some x → zeroBits x.entry [(151, 0)] = true →
    s.units.find? (fun u => u.slot == bitsOf x.entry 191 184 && u.state == .opened) = some u → u.failed = false →
    exec (.uclose ⟨q, true⟩) s = .next ((s.failUnit (bitsOf x.entry 191 184)).finish x.id .aborted)) ∧
  (∀ (n : Nat) (d : Decision) (rest : List (Nat × Decision)) (s : State), s.step.applying = (n, d) :: rest → s.inHove = false →
    let due := s.units.filter fun u => u.decided == n && (u.state == .applyingNew || u.state == .applyingOld) && !u.asked
    let u := (due.foldl State.applyUnit s).freeJournal
    let v : State := u.listedTables.foldl State.clearGmap u
    let w : State := { v with step := { v.step with applying := rest } }
    exec .unitApplyDone s = .next ((if w.f F.stepStatusState = 5 ∧ rest = [] then w.fset F.stepStatusState
      (if !w.jobRuns || !w.step.begun then 0 else if w.step.voted.isSome then 2 else 1) else w).writeMirror d)) ∧
  (∀ (slot step : Nat) (rows : List (Nat × List (List Byte))) (u : CUnit) (p : ExportPlan) (s : State),
    s.units.find? (fun u => u.slot == slot && u.step == step && u.minority && u.asked && u.state != .retired) = some u → s.inHove = false →
    s.exportPlan u.dense u.table u.shard = some p →
    let v := s.putRows p rows
    let c := v.refetchStream u p rows
    (u.committed = some (streamDigest u c.2.2 c.2.1) → exec (.minorityRefetch slot step rows) s =
      .next (State.showUnits { c.1.markDirty u (sortNat (rows.map (·.1))) with units := c.1.units.filter fun w => w != u })) ∧
    (u.committed ≠ some (streamDigest u c.2.2 c.2.1) → exec (.minorityRefetch slot step rows) s = .next (c.1.faultDomain (unitDomain u)))) ∧
  (∀ (slot : Nat) (committee : Option (Option Outcome)) (u : CUnit) (s : State), s.inHove = false → s.unresolved slot = some u →
    (∀ c, s.recordedOutcome u.step = some c → exec (.unitResolution slot committee) s = .next (s.resolveUnit u (some c)).rejoin) ∧
    (∀ o, s.recordedOutcome u.step = none → committee = some o → exec (.unitResolution slot committee) s = .next (s.resolveUnit u (o.map Outcome.code)).rejoin) ∧
    (s.recordedOutcome u.step = none → committee = none →
      exec (.unitResolution slot committee) s = .next (s.emits ((s.committee.filter fun p => p != s.me).map fun p => .askDecision p u.step)))) ∧
  (∀ (q : Nat) (x : Exec) (l : List Byte × List Span) (s s1 s2 : State),
    let e := x.entry
    let s0 : State := { s with seen := s.taken x }
    s.running q [0x88] = some x → zeroBits e [(144, 0)] = true → bitOf e 159 = false → ((s0.dir (bitsOf e 191 176)).state = 1 ∨ (s0.dir (bitsOf e 191 176)).state = 2) →
    bitOf e 157 = false → s0.exportBytes false (bitOf e 158) (bitsOf e 191 176) (bitsOf e 175 160) (x.param (bitsOf e 150 145)) x.epoch = (s1, some l) →
    s1.storeAt ⟨0xFF, [.sram], false⟩ (mkAddr 1 (x.param (bitsOf e 156 151) % 2 ^ 44)) l.1 = (s2, true) →
    exec (.exportShard q) s = .next { s2.finish x.id .ok with seen := [] })

/-- VOTE of a part in a learning step with no open unit of the step sends the vote and files OK. VOTE_RECEIVE at the leader takes the new votes and
decides where it can; at a node it holds them for the tree. Past the vote limit with a vote missing the leader aborts. DECISION_RECEIVE takes an
awaited final decision and passes it on; a proposal at a committee member is written and answered. DECISION_FINAL of a committee member sends the held
decision. LEADER_TAKEOVER by the next committee member asks every member for votes. RESOLVE with ABORT at the leader of a frozen step that holds every
vote, and the freeze limit under policy HOLD, abort. Rests on R282, R283, R284, R285, R294, R384. -/
def Obligations.VotesLeadToDecisions : Prop :=
  (∀ (q : Nat) (x : Exec) (s : State), s.running q [0x82] = some x → zeroBits x.entry [(190, 0)] = true → s.generation = false → s.stepRuns = true →
    s.step.voted = none → (s.units.filter fun u => u.step == s.f F.stepEpochEpoch && (u.state == .opened || u.state == .closed)) = [] →
    exec (.vote q) s = .next ((s.sendVote (bitOf x.entry 191)).finish x.id .ok)) ∧
  (∀ (m : VoteMsg) (s : State),
    (s.leads = true → (s.newVotes m (s.step.votes.map (·.part))).isEmpty = false →
      let u := (s.newVotes m (s.step.votes.map (·.part))).foldl State.storeVote s
      exec (.voteReceive m) s = .next (State.reconsider { u with step := { u.step with hallLayers := sumLayers (u.step.hallLayers ++ m.layers) } })) ∧
    (s.leads = false → s.jobRuns = true → s.inHove = false →
      let new := s.newVotes m (s.step.gather.flatMap fun (g : VoteMsg) => g.votes.map (·.part))
      new.isEmpty = false →
      exec (.voteReceive m) s = .next (State.pumpVotes { s with step := { s.step with gather := s.step.gather ++ [{ m with votes := new }] } }))) ∧
  (∀ s : State, let missing := s.stepMembers.filter fun p => !(s.step.votes.any fun w => w.part == p)
    s.mayDecide = true → missing ≠ [] → s.stepDue + s.f F.commitCtrlVoteLimit ≤ s.now →
    exec .voteLimitExpiry s = .next (s.readVotes.propose (s.readVotes.makeDecision .abort missing []))) ∧
  (∀ (part : Nat) (v : Vote × List Layer) (s : State), s.inHove = false → s.stepRuns = true → v.1.step = s.f F.stepEpochEpoch →
    s.committee.contains part = true →
    (s.fset F.stepStatusLeader part).decisionOf v.1.step = none → s.step.held = none → s.step.voted = some v →
    exec (.voteRequestReceive ⟨part, v.1.step⟩) s = .next ((s.fset F.stepStatusLeader part).resendVote v)) ∧
  (∀ (part : Nat) (d : Decision) (s : State), s.step.held = some d → d.tick = 0 → s.leads = true → part ≠ s.me → s.committee.contains part = true →
    let e := { d with tick := s.now, deadline := s.nextLength d.outcome s.now }
    exec (.decisionFinal part) s = .next (((State.emit { s with step := { s.step with held := none } } (.decision s.me e)).passDecision e).emits
      ((s.memberParts.filter fun p => !s.stepMembers.contains p).map fun p => .decision p e))) ∧
  (∀ (d : Decision) (s : State), s.inHove = false → s.jobRuns = true → s.generation = false →
    (s.awaits d = true → exec (.decisionReceive ⟨true, d⟩) s =
      .next ((if s.leads && d.leader == s.me then s else s.passDecision d).takeDecision d)) ∧
    ((s.stepRuns || s.promoting) = true → s.committee.contains s.me = true → s.step.held.all (fun h => h.step == d.step) = true → d.step = s.f F.stepEpochEpoch → s.leads = false → s.ledgerBusy = false →
      let u : State := { s with step := { s.step with held := some d } }
      (u.writeCommit d).leads = false → exec (.decisionReceive ⟨false, d⟩) s =
        .next ((u.writeCommit d).emit (.written ((u.writeCommit d).f F.stepStatusLeader) d.step)))) ∧
  (∀ (s : State), s.stepRuns = true → s.inHove = false → s.committee.find? (fun p => decide (s.f F.stepStatusLeader < p)) = some s.me → s.step.held = none →
    exec (.leaderTakeover none) s = .next
      (let u := (s.fset F.stepStatusLeader s.me).emits (s.stepMembers.map fun p => .askVotes p (s.f F.stepEpochEpoch))
       { u with step := { u.step with votes := [], hallLayers := [] } })) ∧
  (∀ (q : Nat) (x : Exec) (s : State), s.running q [0x83] = some x → zeroBits x.entry [(188, 0)] = true → s.step.frozen.isSome = true →
    (s.leads = true → s.step.held = none → s.votesIn = true → bitOf x.entry 189 = true →
      exec (.resolve (.entry q)) s = .next ((s.readVotes.propose (s.readVotes.makeDecision .abort [] [])).finish x.id .ok)) ∧
    (s.leads = false → exec (.resolve (.entry q)) s = .next ((s.emit (.resolve (s.f F.stepStatusLeader) (s.f F.stepEpochEpoch)
      (bitsOf x.entry 191 190) (bitOf x.entry 189))).finish x.id .ok))) ∧
  (∀ (part keep : Nat) (s : State), s.leads = true → s.stepMembers.contains part = true → s.step.frozen.isSome = true → s.step.held = none →
    s.votesIn = true → exec (.resolve (.member part (s.f F.stepEpochEpoch) keep true)) s = .next (s.readVotes.propose (s.readVotes.makeDecision .abort [] []))) ∧
  (∀ (d : Decision) (since : Nat) (s : State), s.step.frozen = some (d, since) → s.leads = true → s.step.held = none → s.f F.commitCtrlPairPolicy = 0 →
    since + s.f F.commitCtrlFreezeLimit * 1000000 ≤ s.now → exec .freezeLimitExpiry s = .next (s.readVotes.propose (s.readVotes.makeDecision .abort [] [])))

/-- PHASE of a job part for the other phase and a segment set the job holds asks the hall once. PHASE_SWITCH with nothing agreed or in Hove-to changes
nothing; into generation it stops the core queues, loads the segment set and starts them with GEN 1 and STATE 0. SENT_MARKER_SEND sends the marker
once, first that of a step recorded before it was due. SENT_RECEIVE of the step in progress from a member marks it; a second one changes nothing.
TEMPO_DEADLINE at the leader past the deadline fixes a late set within LATE_MAX, else extends once; at another part it sends on the votes gathered so
far. LATE_SET_RECEIVE takes the first late set of the step. Rests on R297, R320, R321, R528. -/
def Obligations.PhasesSwitchAndTheLateSetIsFixed : Prop :=
  (∀ (q : Nat) (x : Exec) (s : State), s.running q [0x89] = some x → zeroBits x.entry [(182, 0)] = true → s.jobRuns = true →
    bitOf x.entry 191 ≠ s.generation → Config.hasSegment s.boot.job (bitsOf x.entry 190 183) = true → x.stage = 0 →
    let c := HallCmd.phase (bitOf x.entry 191) (bitsOf x.entry 190 183)
    exec (.phase q) s = .next { s with execs := updateAll s.execs (fun y => y.id == x.id) fun y => { y with stage := 1 }
                                       hallAsked := s.hallAsked ++ [c], out := s.out ++ [.hallAsk c] }) ∧
  (∀ s : State, (s.step.phaseTo = none ∨ s.inHove = true) → exec .phaseSwitch s = .next s) ∧
  (∀ (seg : Nat) (st : Status) (s s1 : State), s.step.phaseTo = some (true, seg) → s.inHove = false → s.stopCores.loadSegments (s.stopCores.segmentSet seg) = (s1, st) →
    exec .phaseSwitch s = .next ((((State.goCores { s1 with step := { s1.step with phaseTo := none, segSet := seg } }).fset F.stepStatusGen 1).fset
      F.stepStatusState 0).finishPhase true seg .ok)) ∧
  (∀ s : State, s.jobRuns = true → s.generation = false → s.stepRuns = true → s.inHove = false → 
    (∀ e, s.step.sentOwed = some e → s.contributes true = false →
      exec .sentMarkerSend s = .next (State.emit { s with step := { s.step with sentOwed := none } } (.sent (s.f F.stepStatusLeader) e))) ∧
    (s.step.sentOwed = none → s.step.sentDone = false → s.contributes false = false →
      exec .sentMarkerSend s = .next (State.emit { s with step := { s.step with sentDone := true } } (.sent (s.f F.stepStatusLeader) (s.f F.stepEpochEpoch))))) ∧
  (∀ (part : Nat) (s : State), s.leads = true → s.generation = false → s.stepMembers.contains part = true →
    (s.step.sent.contains part = false → exec (.sentReceive part (s.f F.stepEpochEpoch)) s = .next (s.markSent part)) ∧
    (s.step.sent.contains part = true → exec (.sentReceive part (s.f F.stepEpochEpoch)) s = .next s)) ∧
  (∀ s : State, let late := s.stepMembers.filter fun p => !s.step.sent.contains p
    s.leads = true → s.generation = false → s.step.fixed = none → s.step.frozen = none → s.stepDue ≤ s.now →
    (late.length ≤ s.f F.tempoCtrlLateMax → exec .tempoDeadline s = .next (State.emit
      { s with step := { s.step with fixed := some (late, s.staleParts) } } (.lateSet (s.f F.stepEpochEpoch) late s.staleParts))) ∧
    (s.f F.tempoCtrlLateMax < late.length → s.step.extended = false → exec .tempoDeadline s = .next
      (State.fadd { s with step := { s.step with extended := true } } F.tempoCountExtended))) ∧
  (∀ s : State, s.generation = false → s.step.frozen = none → s.stepDue ≤ s.now → s.leads = false → s.jobRuns = true → s.inHove = false →
    exec .tempoDeadline s = .next s.pumpVotes) ∧
  (∀ (late stale : List Nat) (s : State), s.jobRuns = true → s.generation = false → s.stepRuns = true → s.step.late = none →
    exec (.lateSetReceive (s.f F.stepEpochEpoch) late stale) s = .next (s.takeLateSet late stale))

/-- For an RREAD, RWRITE or RATOMIC in execution whose body, flow, alignment, peer and local run are as R375 to R377 ask: the command sends its request on
the flow, and with an OK reply that can be stored where it goes (the data of a read, the old value of an atomic) it completes OK; a HOVE_TO reply ends
it as Table 11.4 states. A PULL with an aligned destination that fits sends its request once and waits; a message of the stream and cursor that fits
lands and completes it OK. REMOTE_REQUEST is refused in Hove-to by HOVE_TO, from a non-member as refused, and is served otherwise, an atomic at the
next tick in the order of R31. Rests on R355, R357, R375, R377, R378. -/
def Obligations.RemoteOperationsMoveData : Prop :=
  (∀ (q : Nat) (x : Exec) (data : List Byte) (s s1 : State),
    let e := x.entry
    let f := bitsOf e 191 180
    let src := x.param (bitsOf e 179 174)
    let dst := x.param (bitsOf e 173 168)
    let n := x.param (bitsOf e 167 162)
    let s0 : State := { s with seen := s.taken x }
    s.running q [0x60] = some x → zeroBits e [(161, 0)] = true → s0.flowOk q f = true → moveOk src dst n = true → s0.peerOk f src n false = true →
    (s0.localRun dst n).isSome = true → data.length = n →
    (s0.ask f ⟨s0.me, f, BitVec.ofNat 64 src, .read n⟩).storeAt ⟨0xFF, [.sram, .hbm], false⟩ dst data = (s1, true) →
    exec (.rread q (.ok data)) s = .next { s1.remoteOk q x with seen := [] }) ∧
  (∀ (q : Nat) (x : Exec) (l : List Byte) (s s1 : State),
    let e := x.entry
    let f := bitsOf e 191 180
    let src := x.param (bitsOf e 179 174)
    let dst := x.param (bitsOf e 173 168)
    let n := x.param (bitsOf e 167 162)
    let note := if bitOf e 161 then some (bitsOf e 154 152, bitsOf e 151 140, bitsOf e 139 138 + 1, bitsOf e 160 155) else none
    let s0 : State := { s with seen := s.taken x }
    let sent := s1.ask f ⟨s1.me, f, BitVec.ofNat 64 dst, .write l note⟩ [.place src n]
    s.running q [0x61] = some x → zeroBits e [(137, 0)] = true → s0.flowOk q f = true → moveOk src dst n = true → s0.peerOk f dst n true = true →
    (s0.localRun src n).isSome = true → s0.loadAt ⟨0xFF, [.sram, .hbm], false⟩ src n = (s1, some l) →
    exec (.rwrite q (.ok [])) s = .next { sent.remoteOk q x with seen := [] } ∧ exec (.rwrite q .hoveTo) s = .next { sent.remoteHove q x with seen := [] }) ∧
  (∀ (q : Nat) (x : Exec) (data l : List Byte) (s s1 s2 : State),
    let e := x.entry
    let f := bitsOf e 191 180
    let a := x.param (bitsOf e 179 174)
    let dest := x.param (bitsOf e 153 148)
    let s0 : State := { s with seen := s.taken x }
    s.running q [0x62] = some x → zeroBits e [(147, 0)] = true → s0.flowOk q f = true → s0.peerOk f a (atomicBytes (bitsOf e 169 166)) true = true →
    (s0.run? dest 8).any (fun p => p.1 == .sram) = true →
    (s0.ask f ⟨s0.me, f, BitVec.ofNat 64 a, .atomic (bitsOf e 173 170) (bitsOf e 169 166)
      (BitVec.ofNat 64 (x.param (bitsOf e 165 160))) (BitVec.ofNat 64 (x.param (bitsOf e 159 154)))⟩).oldBytes (bitsOf e 169 166)
      (BitVec.ofNat 64 (leNat (data.take (atomicBytes (bitsOf e 169 166))))) = (s1, l) →
    s1.storeAt ⟨0xFF, [.sram], false⟩ dest l = (s2, true) →
    exec (.ratomic q (.ok data)) s = .next { s2.remoteOk q x with seen := [] }) ∧
  (∀ (q : Nat) (x : Exec) (s : State),
    let e := x.entry
    let f := bitsOf e 191 180
    let cursor := BitVec.ofNat 64 (x.param (bitsOf e 163 158))
    let dst := x.param (bitsOf e 157 152)
    let s0 : State := { s with seen := s.taken x }
    let u := ((s0.sendMessage f (Config.pullBytes (bitsOf e 179 164) cursor)).emit (.pullRequest f (bitsOf e 179 164) cursor)).staged x 1
    s.running q [0x78] = some x → x.stage = 0 → zeroBits e [(145, 0)] = true → flowDie f = fxeDie q → s0.flowState f = flowOpen →
    s0.fb F.flowFStatusFeeder f = true → dst % 64 = 0 → dst < 2 ^ 44 → (s0.localRun (pullDest x).1 (pullDest x).2).isSome = true →
    exec (.pull q none) s = .next { u with seen := [] } ∧
    (∀ data s1, data.length ≤ (pullDest x).2 → u.storeAt ⟨0xFF, [.sram], false⟩ ((pullDest x).1 + 0) data = (s1, true) → pullMatches x data = true →
      exec (.pull q (some (.ok data))) s = .next { s1.finish x.id .ok with seen := [] })) ∧
  (∀ (req : RemoteReq) (s : State),
    (s.inHove = true → exec (.remoteRequest req) s = .next (s.emit (.reply req.part req.flow .hoveTo))) ∧
    (s.inHove = false → s.isMember req.part = false →
      exec (.remoteRequest req) s = .next ((s.fadd F.fxeStatusAborted 1 (s.homeFlowDie req.part req.flow)).emit (.reply req.part req.flow .refused))) ∧
    (∀ s1 r, s.serveRemote req = (s1, r) → s.performArrival (.remote req) = s1.emit (.reply req.part req.flow r)) ∧
    (s.inHove = false → s.isMember req.part = true →
      (∀ op ty v c, req.kind = .atomic op ty v c → exec (.remoteRequest req) s = .next { s with arrivals := s.arrivals ++ [.remote req] }) ∧
      (∀ s1 r, (∀ op ty v c, req.kind ≠ .atomic op ty v c) → s.serveRemote req = (s1, r) →
        exec (.remoteRequest req) s = .next (s1.emit (.reply req.part req.flow r)))))

/-- REDSCAT newly in execution sends the leaves of its row and takes the nodes that came, holding its own share of the tree and sending a late part's leaf
straight on to its owner, until the collective may close; covered, it reduces its chunk; with none in execution, nodes are taken as well, and so are
chunks for an ALLGATHER. An ALLGATHER with every chunk there writes them, sets the non-finite flag where one holds an infinity or NaN, counts the
elements in the layers that watch its tensor, and ends OK. COLLECTIVE_TIMEOUT in generation phase and PULL_LIMIT_EXPIRY end an overdue entry ABORTED,
the destination of a PULL that has asked left with free values. FLOWCTL OPEN of a closed flow to a member takes its paths, CLOSE drains an open flow
and answers a closed one OK, RESET closes a failed one, and an OPEN without a session after 100 ms ends ABORTED with the flow closed. Rests on R343,
R357, R358, R379, R380, R382, R383. -/
def Obligations.CollectivesAndFlowEntriesRun : Prop :=
  (∀ (q : Nat) (arrivals : List TreeNode) (s : State), s.running q [0x68] = none →
    exec (.redscat q arrivals) s = .next (s.takeNodes (fxeDie q) (earlyRoom (fxeDie q)) (arrivals.filter fun n => !n.gather))) ∧
  (∀ (q : Nat) (x : Exec) (arrivals : List TreeNode) (c : Coll) (row : List Half) (s s1 s2 : State),
    let v := (s2.sendLeavesOf (fxeDie q) c row).staged x 1
    let u := v.takeNodes (fxeDie q) (pendingRoom (fxeDie q) c.tensor v.round (x.param (bitsOf x.entry 179 174))) (arrivals.filter fun n => !n.gather)
    s.running q [0x68] = some x → x.stage = 0 → State.collOf { s with seen := s.taken x } x true = (s1, some c) →
    s1.firstRow c.pi c.n = (s2, some row) → u.collMayClose = false →
    exec (.redscat q arrivals) s = .next { u with seen := [] }) ∧
  (∀ (q : Nat) (x : Exec) (arrivals : List TreeNode) (c : Coll) (s s1 : State),
    let u := s1.takeNodes (fxeDie q) (pendingRoom (fxeDie q) c.tensor s1.round (x.param (bitsOf x.entry 179 174))) (arrivals.filter fun n => !n.gather)
    s.running q [0x68] = some x → x.stage = 2 → State.collOf { s with seen := s.taken x } x true = (s1, some c) → u.collMayClose = true →
    covered (u.heldNodes (fxeDie q) c.tensor u.round c.own) u.lateShards 0 u.jobShards = true →
    exec (.redscat q arrivals) s = .next { u.reduceChunk q x c with seen := [] }) ∧
  (∀ (q : Nat) (chunks : List TreeNode) (s : State), s.running q [0x69] = none →
    exec (.allgather q chunks) s = .next (s.hold (fxeDie q) (earlyRoom (fxeDie q)) (chunks.filter (·.gather)))) ∧
  (∀ (q : Nat) (x : Exec) (chunks : List TreeNode) (c : Coll) (row : List Half) (s s1 s2 s3 : State),
    let span := chunkSpan c.n s1.jobShards c.own
    let u := s2.hold (fxeDie x.q) (gatherRoom (fxeDie x.q) c.tensor s2.round) (chunks.filter (·.gather))
    let held (o : Nat) : List TreeNode := u.heldNodes (fxeDie x.q) c.tensor u.round o true
    let all := (c.own, row.flatMap fun h => leBytes 2 h.toNat) ::
      (((List.range u.jobShards).filter (· ≠ c.own)).flatMap held).map fun n => (n.chunk, n.vals.flatMap fun h => leBytes 2 h.toNat)
    let vals := all.flatMap (viewHalves c s3.jobShards)
    let w := (if vals.any (Half.nonfinite c.po.format) then s3.nonfinite else s3).watch c.tensor (vals.map (Half.val c.po.format))
    s.running q [0x69] = some x → x.stage = 1 → State.collOf { s with seen := s.taken x } x false = (s1, some c) →
    s1.firstRow c.pi (span.2 - span.1) = (s2, some row) →
    (∀ o < u.jobShards, o = c.own ∨ (held o).isEmpty = false) →
    u.writeChunks c all = (s3, true) →
    exec (.allgather q chunks) s = .next { State.finish { w with collectives := w.collectives.filter fun y =>
      !(y.1 == fxeDie x.q && y.2.gather && y.2.tensor == c.tensor && y.2.epoch == w.round) } x.id .ok with seen := [] }) ∧
  (∀ (q : Nat) (x : Exec) (s : State), s.overdue q x.id [0x68, 0x69] = some x →
    (s.generation = true → exec (.collectiveTimeout q x.id) s = .next (s.finish x.id .aborted)) ∧
    (s.generation = false → exec (.collectiveTimeout q x.id) s = .next s)) ∧
  (∀ (q : Nat) (x : Exec) (s : State), s.overdue q x.id [0x78] = some x → exec (.pullLimitExpiry q x.id) s =
    .next (if x.stage = 0 then s.finish x.id .aborted else (s.undefineRun (pullDest x).1 (pullDest x).2).finish x.id .aborted)) ∧
  (∀ (q : Nat) (x : Exec) (s : State),
    let f := bitsOf x.entry 189 178
    let n := bitsOf x.entry 156 152
    let u := (s.staged x 1).openFlow f (bitsOf x.entry 175 160) (bitsOf x.entry 159 157) n false (some x.id)
    s.runningOp q 0x79 [0] = some x → x.stage = 0 → zeroBits x.entry [(176, 176), (151, 0)] = true → bitOf x.entry 177 = false →
    flowDie f = fxeDie q → s.flowState f = flowClosed → s.isMember (bitsOf x.entry 175 160) = true → n ≠ 0 → n ≤ 16 →
    n ≤ (s.portsUp (flowDie f)).length * 16 →
    exec (.flowctlOpen q) s = .next (if u.flowState f = flowOpening then u.startExchange (bitsOf x.entry 175 160) false else u)) ∧
  (∀ (q : Nat) (x : Exec) (s : State),
    let f := bitsOf x.entry 189 178
    s.runningOp q 0x79 [1] = some x → x.stage = 0 → zeroBits x.entry [(176, 176), (151, 0)] = true → flowDie f = fxeDie q →
    (s.flowState f = flowClosed → exec (.flowctlClose q) s = .next (s.finish x.id .ok)) ∧
    (s.flowState f = flowOpen → exec (.flowctlClose q) s = .next (((s.staged x 1).enterFlow f flowDraining).drain f))) ∧
  (∀ (q : Nat) (x : Exec) (s : State),
    let f := bitsOf x.entry 189 178
    s.runningOp q 0x79 [2, 3] = some x → bitsOf x.entry 191 190 = 2 → zeroBits x.entry [(176, 176), (151, 0)] = true → flowDie f = fxeDie q →
    s.flowState f = flowFailed → exec (.flowctlReset q) s = .next ((s.closeFlow f).finish x.id .ok)) ∧
  (∀ (q : Nat) (x : Exec) (s : State), s.execs = [x] → x.q = q → opcodeOf x.entry = 0x79 → bitsOf x.entry 191 190 = 0 → x.stage = 1 → x.result = none →
    x.start + 100000 ≤ s.now → exec (.flowOpenTimeout q x.id) s = .next ((s.closeFlow (bitsOf x.entry 189 178)).finish x.id .aborted))

/-- An MCHANGE entry in execution with zero reserved bits and a role it may name asks the hall for its join, leave or role command; one with reserved bits
set ends ABORTED. A hall vote request is answered by a member outside Hove-to by its own state; a decision on a command that this part asked for ends
its asking; a refused command ends, an accepted one waits for its tick, counted from the tick that the decision carries (in a running job, for a
commit), and takes effect at it, except in Hove-to. MEMBER_HEARTBEAT, at its interval, tells each other committee member the Hove-to flag;
HEARTBEAT_RECEIVE starts the count again, and on the leader of the hall committee asks the hall to record a flag that differs; MEMBER_LOST_TIMEOUT, on
the leader with no job and a silent member, asks for LOST. RESIGN_RECEIVE, on the leader, records the part. A promoted spare loads segments, flags,
settings and rows and sends PROMOTED with the epoch of each shard, or resigns where the restore or a record fails; the receiver of PROMOTED ends the
promotion and starts the deferred run at its tick. Rests on R262, R298, R369, R370, R371, R387, R431, R436. -/
def Obligations.MembershipEntriesAskAndHallCommandsAct : Prop :=
  (∀ (q : Nat) (x : Exec) (s : State), s.runningOp q 0x7A [0] = some x → zeroBits x.entry [(171, 0)] = true → s.roleOk (bitsOf x.entry 173 172) = true →
    exec (.mchangeJoin q) s = .next (s.asking x (.join (bitsOf x.entry 189 174) (bitsOf x.entry 173 172)
      (s.joinerOf (bitsOf x.entry 189 174)).1 (s.joinerOf (bitsOf x.entry 189 174)).2))) ∧
  (∀ (q : Nat) (x : Exec) (s : State), s.runningOp q 0x7A [1] = some x →
    exec (.mchangeLeave q) s = .next (if zeroBits x.entry [(171, 0)] then s.asking x (.leave (bitsOf x.entry 189 174)) else s.finish x.id .aborted)) ∧
  (∀ (q : Nat) (x : Exec) (s : State), s.runningOp q 0x7A [2, 3] = some x → bitsOf x.entry 191 190 = 2 → zeroBits x.entry [(171, 0)] = true →
    s.roleOk (bitsOf x.entry 173 172) = true → exec (.mchangeRole q) s = .next (s.asking x (.role (bitsOf x.entry 189 174) (bitsOf x.entry 173 172)))) ∧
  (∀ (part : Nat) (cmd : HallCmd) (s : State), s.isMember s.me = true → s.inHove = false →
    exec (.hallVoteRequestReceive part cmd) s = .next (s.emit (.hallAnswer part cmd (s.acceptsHall cmd)))) ∧
  (∀ (part tick : Nat) (cmd : HallCmd) (s : State),
    let mine := part == s.me && s.hallAsked.contains cmd
    let u : State := if mine then { s with hallAsked := s.hallAsked.erase cmd } else s
    let v := if mine then u.acceptEntry cmd else u
    exec (.hallVoteDecision ⟨part, cmd, tick⟩ false) s = .next (u.refuseHall cmd mine) ∧
    (v.hallJob = false → exec (.hallVoteDecision ⟨part, cmd, tick⟩ true) s =
      .next { v with hallPending := v.hallPending ++ [(cmd, v.effectTick cmd tick)] }) ∧
    (v.hallJob = true → v.hallGen = false → exec (.hallVoteDecision ⟨part, cmd, tick⟩ true) s =
      .next { v with step := { v.step with postponed := v.step.postponed ++ [cmd] } })) ∧
  (∀ s : State, s.inHove = false → exec .hallChangeEffect s =
    .next (State.applyHalls { s with hallPending := s.hallPending.filter fun c => decide (s.now < c.2) }
      ((s.hallPending.filter fun c => decide (c.2 ≤ s.now)).map (·.1)))) ∧
  (∀ s : State, s.inHove = true → exec .hallChangeEffect s = .next s) ∧
  (∀ s : State, s.isMember s.me = true → s.lastBeat + s.f F.hallCtrlBeat * 1000 ≤ s.now → exec .memberHeartbeat s =
    .next (State.emits { s with lastBeat := s.now } ((s.hallCommittee.filter fun p => p != s.me).map fun p => .heartbeat p s.inHove))) ∧
  (∀ (part : Nat) (hove : Bool) (s : State), s.inHove = false → s.hallCommittee.contains s.me = true → s.isMember part = true →
    let u : State := { s with beats := assocSet 0 s.beats part s.now }
    ((u.memberFlags part % 2 = (if hove then 1 else 0) ∨ u.hallCommittee.head? ≠ some s.me ∨ HallCmd.hove part hove ∈ s.hallAsked) →
      exec (.heartbeatReceive part hove) s = .next u) ∧
    (u.memberFlags part % 2 ≠ (if hove then 1 else 0) → u.hallCommittee.head? = some s.me → HallCmd.hove part hove ∉ s.hallAsked →
      exec (.heartbeatReceive part hove) s =
        .next (State.emit { u with hallAsked := u.hallAsked ++ [HallCmd.hove part hove] } (.hallAsk (.hove part hove))))) ∧
  (∀ (part t : Nat) (s : State), s.inHove = false → s.hallJob = false → s.hallCommittee.head? = some s.me → part ≠ s.me → s.isMember part = true →
    s.beats.find? (fun b => b.1 == part) = some (part, t) → t + s.f F.hallCtrlBeatsLost * (s.f F.hallCtrlBeat * 1000) ≤ s.now →
    HallCmd.lost part ∉ s.hallAsked →
    exec (.memberLostTimeout part) s = .next (State.emit { s with hallAsked := s.hallAsked ++ [HallCmd.lost part] } (.hallAsk (.lost part)))) ∧
  (∀ (part : Nat) (s : State), s.leads = true → s.stepMembers.contains part = true → s.step.resigned.contains part = false →
    exec (.resignReceive part) s = .next { s with step := { s.step with resigned := s.step.resigned ++ [part] } }) ∧
  (∀ (shards : List RestoredShard) (rows : List (Nat × List Byte)) (s : State), s.jobRuns = true → s.inHove = false → s.beingPromoted = true →
    exec (.partPromotionRestore false shards rows) s = .next ((s.raise 0x4044 748).emit (.resign (s.committee.headD s.me))) ∧
    ∃ u, u = (State.applyJobSettings (State.clearFlags (s.stopCores.loadSegments (s.stopCores.segmentSet s.stopCores.step.segSet)).1)) ∧
      (∀ v marks, (u.restoreRows rows).restoreShards shards = (v, some marks) →
        exec (.partPromotionRestore true shards rows) s = .next (v.emit (.promoted (v.committee.headD v.me) ⟨marks, 0⟩))) ∧
      (∀ v, (u.restoreRows rows).restoreShards shards = (v, none) →
        exec (.partPromotionRestore true shards rows) s = .next ((v.raise 0x4044 748).emit (.resign (v.committee.headD v.me))))) ∧
  (∀ (part : Nat) (mark : PromotedMark) (s : State), s.inHove = false → s.isMember part = true → s.memberFlags part / 2 % 2 = 1 →
    (s.committee.head? == some s.me) = false →
    exec (.promotedReceive part mark) s = .next (if part = ((s.endPromotion part mark).startDeferred mark.tick).me then
      ((s.endPromotion part mark).startDeferred mark.tick).goCores else (s.endPromotion part mark).startDeferred mark.tick))

/-- A packet that the part takes: an ACK or DATA packet counts against its transmit-control word and acknowledges; a DATA packet whose number was received
or lies outside the window counts its mark, is acknowledged at once and not delivered again, a new one is taken; a PROBE is marked and acknowledged at
once; STATUS HOVE_TO ends the operation of the flow, BUSY lowers its window. The delay timer sends the ACK after its microsecond, the retransmission
timer holds the path and sends again, a path whose hold ended sends a PROBE within the window. A frame is counted as received or under its reason,
after its codewords are counted in PORT_p_FEC and the classes whose buffer it filled to three quarters are sent PFC. Rests on R344, R345, R346, R347,
R348, R350, R352, R353. -/
def Obligations.PacketsAreTakenOnceAndTimersActOnAFlow : Prop :=
  (∀ (p : Pkt) (s : State), s.takesPkt p .ack = true → exec (.ackReceive p) s = .next ((s.acceptTxc p).takeAck p true)) ∧
  (∀ (p : Pkt) (x : Flow) (s : State), s.takesPkt p .data = true → (s.acceptTxc p).flow p.dstFlow = some x →
    (∀ n y, psnAt x.ackBase p.psn = some n → x.received.contains n = false → ((s.acceptTxc p).takeAck p false).flow p.dstFlow = some y →
      exec (.dataReceive p) s = .next (((s.acceptTxc p).takeAck p false).takeData p y n)) ∧
    ((∀ n, psnAt x.ackBase p.psn = some n → x.received.contains n = true) →
      exec (.dataReceive p) s = .next (((s.acceptTxc p).setFlow p.dstFlow (x.mark p)).sendAck p.dstFlow p.path p.ts))) ∧
  (∀ (p : Pkt) (x : Flow) (s : State), s.takesPkt p .probe = true → (s.acceptTxc p).flow p.dstFlow = some x →
    psnAt (Flow.mark { x with peerFlow := p.srcFlow } p).ackBase p.psn = none →
    exec (.probeReceive p) s = .next (((s.acceptTxc p).setFlow p.dstFlow (Flow.mark { x with peerFlow := p.srcFlow } p)).sendAck p.dstFlow p.path p.ts)) ∧
  (∀ (p : Pkt) (x : Flow) (n : Nat) (s : State), s.takesPkt p .probe = true → (s.acceptTxc p).flow p.dstFlow = some x →
    (Flow.mark { x with peerFlow := p.srcFlow } p).received.contains n = false → psnAt (Flow.mark { x with peerFlow := p.srcFlow } p).ackBase p.psn = some n →
    exec (.probeReceive p) s =
      .next (((s.acceptTxc p).setFlow p.dstFlow (Flow.receive (Flow.mark { x with peerFlow := p.srcFlow } p) n).1).sendAck p.dstFlow p.path p.ts)) ∧
  (∀ (p : Pkt) (s : State), s.takesPkt p .status = true →
    (leAt p.payload 0 1 = 1 → exec (.statusReceive p) s = .next ((s.acceptTxc p).hoveAnswer p.dstFlow)) ∧
    (leAt p.payload 0 1 = 2 → exec (.statusReceive p) s = .next (s.acceptTxc p)) ∧
    (∀ x, leAt p.payload 0 1 = 3 → (s.acceptTxc p).flow p.dstFlow = some x →
      exec (.statusReceive p) s = .next ((s.acceptTxc p).setFlow p.dstFlow { x with winOut := winAt x.nextPsn p.win }))) ∧
  (∀ (flow : Nat) (x : Flow) (t path ts : Nat) (s : State), s.flow flow = some x → x.sinceAck.head? = some (t, path, ts) → s.flowLive flow = true →
    exec (.ackDelayExpiry flow) s = .next (if t + 1 ≤ s.now then s.sendAck flow path ts else s)) ∧
  (∀ (flow psn : Nat) (x : Flow) (u : Unacked) (s : State), s.flow flow = some x → x.unacked.find? (fun u => u.psn % 2 ^ 32 == psn % 2 ^ 32) = some u →
    s.flowLive flow = true → s.rto flow x u.expiries ≤ ((s.now - u.sentAt) * 1000 : Nat) →
    exec (.rtoExpiry flow psn) s = .next ((s.holdPath flow u.path).resend flow { u with expiries := u.expiries + 1 })) ∧
  (∀ (flow path : Nat) (x : Flow) (p : Path) (s : State), s.flow flow = some x → x.paths[path]? = some p → s.flowLive flow = true → p.down = false → x.nextPsn ≤ x.winOut → x.unacked.length < 65536 →
    p.held.any (fun t => decide (t ≤ s.now)) = true → x.unacked.any (fun u => u.probe && u.path == path) = false →
    exec (.pathHoldExpiry flow path) s =
      .next ((s.setFlow flow { x with nextPsn := x.nextPsn + 1 }).putPacket flow ⟨x.nextPsn, path, 0, ⟨0, 0, 0, false, []⟩, 0, 0, 0, true, 0⟩ false)) ∧
  (∀ (f : Frame) (s : State),
    let u := if s.takesHs f then s.countHs f.port else s
    let v := (u.fadd F.portPFecCorrected f.corrected f.port).fadd F.portPFecUncorrectable f.uncorrectable f.port
    let w := v.fset F.portPFecMaxSymbols (max (v.f F.portPFecMaxSymbols f.port) (min f.symbols 15)) f.port
    (s.dropReason f = none → exec (.frameReceive f) s = .next ((w.sendPfc f).fadd F.portPFramesRx 1 f.port)) ∧
    (∀ n, s.dropReason f = some n → exec (.frameReceive f) s = .next ((w.sendPfc f).fadd F.portPDropNCount 1 f.port n)))

/-- ARP_REQUEST and NEIGHBOUR_SOLICITATION are answered for the address of the port alone, on a port that is up in that mode. GATEWAY_RESOLVE, no more
often than every 10 s, asks and keeps the MAC address that answered. PFC_FRAME pauses exactly the enabled classes it names. PORT_LINK_DOWN takes a
port that is up down, the lanes still locked an open subset of those it had (log entry 173); PORT_LINK_UP shows TRAINING with some of the lanes
locked, and with every lane locked sets UP, STATE 3 and LOCKED, latches event 0x4011 and turns the flows. PORT_GROUP_FAULT faults the domain of a
group that has ports; PORT_GROUP_RECOVERY_END returns it or loses it. Rests on R333, R336, R338, R427. -/
def Obligations.PortsAnswerPauseFailAndReturn : Prop :=
  (∀ (port target : Nat) (s : State), s.portUp port = true →
    (s.fb F.portPCfgIpv6 port = false → exec (.arpRequest port target) s = .next (if target = s.portAddress port then s.sendFrame port (.arpReply port) else s)) ∧
    (s.fb F.portPCfgIpv6 port = true → exec (.arpRequest port target) s = .next s ∧
      exec (.neighbourSolicitation port target) s = .next (if target = s.portAddress port then s.sendFrame port (.neighbourAdvert port) else s)) ∧
    (∀ m, s.gatewayDue port = false → exec (.gatewayResolve port m) s = .next s) ∧
    (∀ m, let v : State := { s with gatewayAt := (s.gatewayAt.filter fun (g : Nat × Nat) => g.1 != port) ++ [(port, s.now)] }
      let u := v.sendFrame port (.gatewayQuery port)
      s.gatewayDue port = true → exec (.gatewayResolve port none) s = .next u ∧
        exec (.gatewayResolve port (some m)) s = .next { u with gateways := (u.gateways.filter fun g => g.1 != port) ++ [(port, some m)] }) ∧
    (∀ classes, exec (.pfcFrame port classes) s =
      .next (State.pumpDie { s with paused := if Nat.land classes (s.f F.portPCfgPfcEn port) = 0 then s.paused.filter fun p => p.1 != port
        else (s.paused.filter fun p => p.1 != port) ++ [(port, Nat.land classes (s.f F.portPCfgPfcEn port))] } port))) ∧
  (∀ (port : Nat) (s : State), s.portUp port = true →
    let old := s.f F.portPStatusLocked port
    let kept := Nat.land old s.open_.1.toNat
    exec (.portLinkDown port) s = .next ((s.open_.2.portDown port).fset F.portPStatusLocked (if kept = old then clearBit old 0 else kept) port)) ∧
  (∀ (port : Nat) (s : State), s.portUp port = false → exec (.portLinkDown port) s = .next s) ∧
  (∀ (port lanes : Nat) (s : State), port < 32 → Reg.absent s.grade ⟨.portPStatus, port, 0⟩ = false → s.lanesUsed port ≠ 0 → s.portUp port = false →
    s.f F.portPStatusState port ≠ 0 → s.f F.portPStatusState port ≠ 5 → s.fb F.portPStatusFault port = false → lanes % 2 ^ s.lanesUsed port ≠ 0 →
    (lanes % 2 ^ s.lanesUsed port ≠ 2 ^ s.lanesUsed port - 1 → exec (.portLinkUp port lanes) s =
      .next ((s.fset F.portPStatusState 2 port).fset F.portPStatusLocked (lanes % 2 ^ s.lanesUsed port) port)) ∧
    (lanes % 2 ^ s.lanesUsed port = 2 ^ s.lanesUsed port - 1 → exec (.portLinkUp port lanes) s = .next (((((((s.fset F.portPStatusUp 1 port).fset F.portPStatusState 3 port).fset F.portPStatusLocked (lanes % 2 ^ s.lanesUsed port) port).latch
      { code := 0x4011, source := 748, detail := port })).turnFlows port false).pumpDie port))) ∧
  (∀ (group : Nat) (s : State), s.groupPorts group ≠ [] → exec (.portGroupFault group) s = .next (s.faultDomain (groupDomain group) 0xFF (group % 8))) ∧
  (∀ (group : Nat) (s : State), s.inRecovery (groupDomain group) = true →
    exec (.portGroupRecoveryEnd group false) s = .next ((s.loseDomain (groupDomain group)).endGroupOp group .aborted) ∧
    (s.liveOn 4 (group % 8) = false → s.liveOn 6 (group % 8) = false →
      exec (.portGroupRecoveryEnd group true) s = .next ((s.groupRetry group).domainBack (groupDomain group))) ∧
    (s.liveOn 4 (group % 8) = true →
      exec (.portGroupRecoveryEnd group true) s = .next (((s.groupRetry group).releaseSlot (groupDomain group)).endGroupOp group .ok)))

/-- With a ready attestation key a HELLO of a peer that has no crossing exchange is refused where the peer is not trusted, and is otherwise answered by a
REPLY and kept as an exchange of the responder. A REPLY to the own HELLO gives the keys: FINISH goes out and the session forms with them; a FINISH
with the confirm of the exchange forms the session and another one refuses it. After 50,000 ticks an exchange is abandoned. A due session starts a new
exchange; at 2^40 uses of TXC it ends. Rests on R483, R484, R485, R486. -/
def Obligations.HandshakesFormSessionsAndSessionsEnd : Prop :=
  (∀ (h : Handshake) (s : State), s.akReady = true → h.feeder = false → (s.exchange h.peer h.feeder).any (·.initiator) = false →
    (s.trusts h none = false → exec (.helloReceive h) s = .next (s.refuseExchange h.peer h.feeder)) ∧
    (s.trusts h none = true → ∃ (x : Exchange) (reply : List Byte) (u : State), x.peer = h.peer ∧ x.sid = h.sid ∧ x.initiator = false ∧ x.since = u.now ∧
      u = ((s.dropExchange h.peer h.feeder).draw.2).draw.2 ∧
      exec (.helloReceive h) s = .next (State.emit { u with exchanges := u.exchanges ++ [x] } (.handshakeReply h.peer h.feeder reply)))) ∧
  (∀ (h : Handshake) (x : Exchange) (s : State), s.exchange h.peer h.feeder = some x →
    (x.initiator = true → x.sid = h.sid → s.trusts h (some x.nonce) = true → exec (.replyReceive h) s =
      .next ((s.emit (.finish h.peer h.feeder (leBytes 8 x.sid.toNat ++
        leBytes 32 (confirmOf (Config.kemDecap x.seed (sliceAt h.bytes 40 1568)) (transcript x.hello h.bytes)).toNat))).formSession h.peer h.feeder
          (keysFrom (Config.kemDecap x.seed (sliceAt h.bytes 40 1568)) (transcript x.hello h.bytes) true))) ∧
    (x.initiator = true → x.sid = h.sid → s.trusts h (some x.nonce) = false → exec (.replyReceive h) s = .next (s.refuseExchange h.peer h.feeder)) ∧
    (x.initiator = false → x.sid = h.sid → exec (.finishReceive h) s =
      .next (if h.confirm = x.confirm then s.formSession h.peer h.feeder x.keys else s.refuseExchange h.peer h.feeder))) ∧
  (∀ (peer : Nat) (feeder : Bool) (x : Exchange) (s : State), s.exchange peer feeder = some x →
    exec (.handshakeTimeout peer feeder) s = .next (if x.since + 50000 ≤ s.now then s.refuseExchange peer feeder else s)) ∧
  (∀ (peer : Nat) (feeder ok : Bool) (x : Session) (s : State), s.session peer feeder = some x → s.rekeyDue x = true → s.exchange peer feeder = none →
    exec (.rekey peer feeder ok) s = .next (if ok then s.startExchange peer feeder else s.refuseExchange peer feeder)) ∧
  (∀ (peer : Nat) (feeder : Bool) (x : Session) (s : State), s.session peer feeder = some x → 2 ^ 40 ≤ x.txc →
    exec (.sessionTxcLimit peer feeder) s = .next (s.endSession peer feeder))

/-- A Sync of the selected source gives its offset less the measured delay and the asymmetry of its port's path, at once or at its Follow_Up; a delay
request is sent and its response kept; an Announce of a source that the image lists and whose port runs PTP holds for three intervals and the best
master is elected anew. No usable Sync for four seconds gives HOLDOVER without slewing. A pulse counts two transitions and slews in the states that
slew, or is counted as ignored in LOCKED when more than a microsecond away. A loss of AON_REFCLK sets BACKUP, clears HALL, raises 0x1021 and asks for
Hove-to with cause 6. A beacon goes out of a port that is up in QUALIFY and ENROL, no sooner than a second after the last. TICK performs the atomics
that arrived, resolves the Ledger words that the tick read, counts, applies what is due in the hall, takes the commands and the events, and then runs
the work of the tick. Rests on R15, R31, R174, R359, R360, R362, R363, R396, R400, R458. -/
def Obligations.PtpMessagesPulsesAndTicksActOnTime : Prop :=
  (∀ (source : Nat) (offset delay : Int) (s : State), s.selected source = true →
    exec (.ptpSync source offset false) s = .next (s.takeOffset (offset - s.ptp.delay - s.asymmetry source)) ∧
    exec (.ptpSync source offset true) s = .next { s with ptp := { s.ptp with twoStep := some source } } ∧
    (s.ptp.twoStep = some source →
      exec (.ptpFollowUp source offset) s = .next (State.takeOffset { s with ptp := { s.ptp with twoStep := none } } (offset - s.ptp.delay - s.asymmetry source))) ∧
    (s.ptp.asked = some source → exec (.ptpDelayResp source delay) s = .next { s with ptp := { s.ptp with delay := delay, asked := none } }) ∧
    exec (.ptpDelayReqSend source) s = .next (State.emit { s with ptp := { s.ptp with asked := some source } } (.ptpDelayReq source))) ∧
  (∀ (source b : Nat) (message : Announce) (s : State), s.ptpSource source = true →
    let u : State := { s with ptp := { s.ptp with
      announced := (s.ptp.announced.filter fun p => p.1 != source) ++ [(source, message, s.now + 3 * message.interval)] } }
    let l := u.ptp.announced.filter fun a => decide (u.now < a.2.2)
    let v : State := { u with ptp := { u.ptp with announced := l } }
    bestSource l = some b →
    ((b = v.f F.ptpStatusSource ∧ v.ptpPortOf b = v.f F.ptpStatusPort) → exec (.ptpAnnounce source message) s = .next v) ∧
    (¬ (b = v.f F.ptpStatusSource ∧ v.ptpPortOf b = v.f F.ptpStatusPort) → exec (.ptpAnnounce source message) s =
      .next ((State.fset { v with ptp := { v.ptp with delay := 0, asked := none, twoStep := none, last := none } } F.ptpStatusSource b).fset
        F.ptpStatusPort (v.ptpPortOf b)))) ∧
  (∀ s : State, s.ptpState = ptpAcquiring ∨ s.ptpState = ptpLocked ∨ s.ptpState = ptpFault → s.ptp.lastSync + 4000000 ≤ s.now →
    exec .ptpHoldoverEntry s = .next (s.enterPtp ptpHoldover) ∧ (s.enterPtp ptpHoldover).ptp.target = 0) ∧
  (∀ (error : Int) (s : State),
    let u := s.countEdges 1 2
    u.fb F.ptpCfgPpsEn = true → u.masked 1 = false →
    exec (.ppsEdge error) s = .next (if u.ptpState = ptpLocked ∧ 1000 < error.natAbs then u.fadd F.ptpStatusPpsIgnored
      else if u.slews then u.slew error else u)) ∧
  (∀ s : State, s.fb F.tickStatusBackup = false → exec .aonRefclkLoss s =
    .next ((((s.fset F.tickStatusBackup 1).fset F.tickStatusHall 0).raise 0x1021 745).askHove 6)) ∧
  (∀ (port : Nat) (s : State), s.f F.bootStatusState = 1 ∨ s.f F.bootStatusState = 2 → s.portUp port = true →
    ((s.boot.beacons.find? fun b => b.1 == port).all fun b => decide (b.2 + 1000000 ≤ s.now)) = true →
    ∃ body : List Byte, body = leBytes 32 Config.dikDigest.toNat ++ [if s.grade = .psn8128 then 0 else 1, BitVec.ofNat 8 (s.f F.bootStatusQual)] ++
        leBytes 16 s.boot.report.toNat ++ Config.dikCert ∧
      exec (.beaconSend port) s = .next (State.sendBeacon { s with boot := { s.boot with beacons := assocSet 0 s.boot.beacons port s.now } } port
        (body ++ Config.dikSign body))) ∧
  (∀ s : State,
    let a := (((s.performArrivals).consult).fwrap F.tickCountTicks).applyDue
    let b := ((((a.takeCommands).takeEvents).autoLoad).endGroupOff).background
    let c := if b.now % 60000000 = 0 then b.clearMinute else b
    exec .tick s = .next ((((c.debugEdge).muxEdge).showAlert).markTick).markUnits)

/-- LULL_ENTRY takes an awake core to Lull that has nothing to start and has been quiet for LULL_CYCLES with no wake in the tick, DEEP_LULL_ENTRY lets one
that stayed there for DEEP_TICKS begin the entry that the next tick edge completes, CORE_WAKE wakes a core that is no idle spare. PERST_N of at least
4 ticks resets the link, a shorter pulse counts its transitions; its release trains the link. HOLD_N low of 4 ticks sets HELD and raises 0x7021, a
shorter pulse and one while masked only count; the hold takes effect when due; HOLD_N high ends it; the limit raises 0x1020 and applies the policy.
More than 8 transitions in 1,000 ticks mask PTP_PPS_IN or HOLD_N with event 0x3020 + input, and report PERST_N once; an input is unmasked after 1,000
quiet windows or by software. The PCIe clock stops and returns. Rests on R404, R405, R407, R408, R410, R411, R412, R452, R539. -/
def Obligations.CoresSleepAndSidebandInputsAct : Prop :=
  (∀ (core : Nat) (s : State), s.fb F.pwrCtrlLullEn = true → core < 136 → s.corePwr core = 0 →
    (∀ q ∈ s.queuesOf core, s.execsOf q = [] ∧ s.canStart q = false) →
    s.f F.pwrCtrlLullCycles < cyclesPerTick * (assoc 0 s.quiet core + 1) → s.sideband.woken.contains core = false →
    exec (.lullEntry core) s = .next (State.setCorePwr { s with lullSince := assocSet 0 s.lullSince core (s.now + 1) } core 1)) ∧
  (∀ (core : Nat) (s : State), s.fb F.pwrCtrlDeepEn = true → core < 136 → s.corePwr core = 1 →
    assoc 0 s.lullSince core + s.f F.pwrCtrlDeepTicks ≤ s.now + 1 → (s.sideband.deep.any fun e => e.1 == core) = false →
    exec (.deepLullEntry core) s = .next { s with sideband := { s.sideband with deep := s.sideband.deep ++ [(core, false)] } }) ∧
  (∀ (core : Nat) (s : State), s.sideband.deep = [(core, false)] → s.corePwr core = 1 →
    s.finishDeep = State.setCorePwr { s with sideband := { s.sideband with deep := [], woken := [] } } core 2) ∧
  (∀ (core : Nat) (s : State), core < 136 → (s.positionOf core).isSome = true → s.idleSpare core = false → exec (.coreWake core) s = .next (s.wake core)) ∧
  (∀ (ticks : Nat) (s : State), exec (.perstNAssert ticks) s =
    .next (if ticks < 4 then s.countEdges 0 (pulseEdges ticks) else (s.countEdges 0 1).resetLink)) ∧
  (∀ s u : State, u = (s.countEdges 0 1).setLevel 0 true → exec .perstNDeassert s =
    .next (if u.pcieClock && u.boot.powered && !u.fb F.hostLinkUp then u.hostLinkTrain else u)) ∧
  (∀ s : State, exec .pcieRefclkMissing s = .next (State.hostLinkDown { s with pcieClock := false })) ∧
  (∀ s : State, s.pcieClock = false → s.levelHigh 0 = true → s.boot.powered = true →
    exec .pcieRefclkReturn s = .next ((State.fadd { s with pcieClock := true } F.hostLinkRetrains).hostLinkTrain)) ∧
  (∀ (ticks : Nat) (s u v : State), u = s.countEdges 2 1 → v = (u.setLevel 2 false) →
    (ticks < 4 → exec (.holdNLow ticks) s = .next (s.countEdges 2 (pulseEdges ticks)) ∧ exec (.holdNHigh ticks) s = .next (s.countEdges 2 (pulseEdges ticks))) ∧
    (4 ≤ ticks → u.masked 2 = true → exec (.holdNLow ticks) s = .next u ∧ exec (.holdNHigh ticks) s = .next u) ∧
    (4 ≤ ticks → u.masked 2 = false →
      (v.inHove = false → v.fb F.sbStatusHeld = false → ∃ w, w = (v.fset F.sbStatusHeld 1).fset F.sbStatusEscalated 0 ∧ exec (.holdNLow ticks) s =
        .next (State.raise { w with sideband := { w.sideband with holdSince := some w.now, holdSeq := w.commitSeq } } 0x7021 745)) ∧
      ((u.setLevel 2 true).inHove = false → (u.setLevel 2 true).fb F.sbStatusHeld = true → exec (.holdNHigh ticks) s = .next (u.setLevel 2 true).endHold))) ∧
  (∀ s : State, s.fb F.sbStatusHeld = true → s.sideband.holdActive = false → s.inHove = false → s.holdDue = true →
    exec .holdTakeEffect s = .next (State.fset { s with sideband := { s.sideband with holdActive := true } } F.pwrStatusPart 1)) ∧
  (∀ (t : Nat) (s u : State), s.sideband.holdSince = some t → s.fb F.sbStatusHeld = true → s.fb F.sbStatusEscalated = false →
    t + s.f F.sbCtrlHoldLimit * 1000 ≤ s.now → u = (s.fset F.sbStatusEscalated 1).raise 0x1020 745 →
    (u.f F.sbCtrlHoldPolicy = 0 → exec .holdLimitExpiry s = .next u) ∧
    (u.f F.sbCtrlHoldPolicy = 1 → exec .holdLimitExpiry s = .next (u.askHove 2)) ∧
    (u.f F.sbCtrlHoldPolicy = 2 → exec .holdLimitExpiry s = .next (((u.maskInput 2).setLevel 2 true).endHold))) ∧
  (∀ (input n : Nat) (s v u : State), input < 3 → 0 < n → v = s.fadd F.sbCountITransitions n input →
    u = State.showWindow { v with sideband := { v.sideband with
      edges := v.sideband.edges ++ [(input, 0, n)]
      quiets := v.sideband.quiets.map fun (w : QuietRun) => if w.input == input then { w with transitions := w.transitions + n } else w } } input →
    (u.sideband.window input ≤ 8 → exec (.sidebandChatter input n) s = .next u) ∧
    (8 < u.sideband.window input → 0 < input →
      exec (.sidebandChatter input n) s = .next (if u.masked input then u else ((u.maskInput input).fadd F.sbCountIMaskings 1 input).raise (0x3020 + input) 745)) ∧
    (8 < u.sideband.window input → input = 0 → exec (.sidebandChatter input n) s = .next (if u.sideband.perstReported then u else
      State.raise (State.fadd { u with sideband := { u.sideband with perstReported := true } } F.sbCountIMaskings 1 0) 0x3020 745))) ∧
  (∀ (input : Nat) (s : State), input < 3 → exec (.sidebandAutoUnmask input) s =
    .next (if s.fb F.sbCtrlAutoUnmask ∧ s.longQuiet input then s.unmask input else s)) ∧
  (∀ (mask : Nat) (s : State), exec (.sbUnmask mask) s =
    .next (((List.range 3).filter fun i => mask / 2 ^ i % 2 == 1).foldl State.unmask (s.fset F.sbCtrlUnmask 0)))

/-- A testable core that is no free spare wakes, is counted, and on a failed test counts a failure and faults its domain. A core in recovery test returns
on a pass, and on a failure gets the spare or is lost; a spare that passes switches in, one that fails is retired and the position lost; a completed
Promotion loads its segments and starts with the next step. A cause of Hove-to from 3 up files its safety record, others and a monitor of which
neither copy passes enter without one; ENTER enters with cause 0; a RELEASE that the conditions allow releases, another is counted and raises 0x7005.
Records unlock unless they were filled in this tick; READ advances to WRITTEN and never beyond. A link counts 16 failed replays, then faults; it
returns, a bridge with the writes that waited for it, or is lost. A Ledger copy is rebuilt from the other. Rests on R407, R418, R421, R430, R433,
R434, R435, R438. -/
def Obligations.SafetyMonitorCommandsAct : Prop :=
  (∀ (core : Nat) (s : State), s.testable core = true → s.idleSpare core = false →
    ∃ u, u = ((State.fadd { s.wake core with tested := assocSet 0 (s.wake core).tested core (s.wake core).now } F.stestStatusTests).fset F.stestStatusLastCore core) ∧
      exec (.rotatingSelfTest core true) s = .next u ∧
      exec (.rotatingSelfTest core false) s = .next ((u.fadd F.stestStatusFails).faultDomain core core)) ∧
  (∀ (core : Nat) (r : CoreRec) (s : State), s.coreRecs.find? (fun r => r.core == core && r.stage == .testing) = some r →
    (r.forced = false → exec (.coreRecoveryTestEnd core true) s = .next ((State.domainBack { s with coreRecs := s.otherRecs core } core).showCoreMode core)) ∧
    exec (.coreRecoveryTestEnd core false) s = .next (if s.replaceable core then s.bringSpare core else (s.loseDomain core core).afterPromote)) ∧
  (∀ (die : Nat) (r : CoreRec) (s : State), s.coreRecs.find? (fun r => r.core / 17 == die && r.stage == .spareTest) = some r →
    exec (.spareTestEnd die true) s = .next (s.switchSpare r).afterPromote ∧
    exec (.spareTestEnd die false) s = .next ((s.retireCore (die * 17 + 16)).loseDomain r.core r.core).afterPromote) ∧
  (∀ (die : Nat) (r : CoreRec) (s u : State), s.coreRecs.find? (fun r => r.core / 17 == die && r.stage == .loading) = some r →
    u = (s.loadSegments (s.segmentsAt r.core)).1 →
    exec (.promotionComplete die) s = .next (State.endCorePromotion { u with step := { u.step with starts := u.step.starts ++ [r.core] } } r).afterPromote) ∧
  (∀ (c : HoveCause) (s : State),
    (c.cause < 3 ∨ (c.cause = 8 ∧ c.healthy = false) → exec (.hoveToEntry c) s = .next (s.hoveTaken c.cause)) ∧
    (3 ≤ c.cause → c.cause < 11 → c.cause ≠ 8 ∨ c.healthy = true → exec (.hoveToEntry c) s = .next (s.safetyFault { code := 0x1001, source := 744 } 1 c.cause)) ∧
    (11 ≤ c.cause → exec (.hoveToEntry c) s = .next s)) ∧
  (∀ s : State, exec .hoveEnter s = .next ((s.fset F.hoveCtrlEnter 0).hoveNow 0)) ∧
  (∀ (test : TestPass) (s u : State), u = s.fset F.hoveCtrlRelease 0 → u.inHove = true → exec (.hoveRelease .host test) s =
    .next (if u.releasable test then u.release else (u.fadd F.hoveStatusRefusedReleases).raise 0x7005 751)) ∧
  (∀ (test : TestPass) (s : State), (s.causes.all fun c => s.f F.safeCtrlAutoRelease / 2 ^ c % 2 == 1) = true →
    exec (.hoveRelease .supervisor test) s = .next (if s.releasable test then s.release else s)) ∧
  (∀ s : State, exec .errRecordUnlock s = .next (s.fclear F.errStatusValid).showTop ∧
    exec .staleRecordUnlock s = .next (s.fclear F.staleStatusValid)) ∧
  (∀ (read ahead : Nat) (s : State), ahead = (read + 2 ^ 32 - s.f F.errRingWritten) % 2 ^ 32 →
    exec (.errRingReadAdvance read) s = .next (if 0 < ahead ∧ ahead < 2 ^ 31 then s else (s.fset F.errRingRead read).showTop)) ∧
  (∀ (link n : Nat) (s : State), link < 19 → s.linksOut.contains link = false → n = assoc 0 s.linkFails link + 1 →
    exec (.linkFlitCrcFail link true) s = .next (State.error { s with linkFails := assocSet 0 s.linkFails link 0 } 0x7001 sevCorrectable (0x400 + link)) ∧
    exec (.linkFlitCrcFail link false) s = .next (if n < 16 then { s with linkFails := assocSet 0 s.linkFails link n }
      else State.faultDomain { s with linkFails := assocSet 0 s.linkFails link 0 } (0x400 + link))) ∧
  (∀ (link : Nat) (s : State), s.inRecovery (0x400 + link) = true →
    let u := State.domainBack { s with linksOut := s.linksOut.filter fun k => k != link } (0x400 + link)
    exec (.linkRetrainEnd link true) s = .next (if link = 18 then u.flushBridge.afterRebuild else u) ∧
    exec (.linkRetrainEnd link false) s = .next (s.loseDomain (0x400 + link))) ∧
  (∀ (copy : Nat) (s : State), copy < 2 → s.inRecovery (0x300 + copy) = true → s.bridgeOut = false →
    let u := (s.badWords (ledgerBank (1 - copy))).foldl (fun s w => (s.fetchCopy (1 - copy) w).1) s
    exec (.ledgerRebuild copy) s = .next (if u.latched.any (fun e => e.hove == some 4) then u else
      (State.domainBack { u.cleanBank (ledgerBank copy) with mem := copyBank (u.cleanBank (ledgerBank copy)).mem (ledgerBank (1 - copy)) (ledgerBank copy) } (0x300 + copy)).afterRebuild))

/-- PATROL_READ reads the next word of a memory by the access rules and ends the pass after the last; a stack leaving self-refresh is swept, a pass.
RETUNE takes the channel whose turn it is to RETUNING, one at a time, and notes tick and temperature; RETUNE_END writes the margin, counts, and below
8 units triggers the full retrain. CE_LIMIT_EXCEEDED triggers it above CE_LIMIT; more than 16 uncorrectable words of a channel within 1 ms lose the
stack. EVACUATION_DONE copies the slots that are left and flips the remap; the verify clears the channel of errors and retires it on a fail, keeps the
remap, or starts the copy back; COPY_BACK_DONE copies the slots back and frees the reserve. Rests on R207, R208, R209, R210, R211, R212, R213, R214. -/
def Obligations.MemoryCareRunsThroughItsStates : Prop :=
  (∀ (die memory key i : Nat) (s s1 s2 : State), memory < 4 → die < (if memory = 3 then 2 else 8) → (memory = 2 → s.fb F.hbmStatusSelfRefresh die = false) →
    key = memory * 8 + die → i = assoc 0 s.patrol key →
    s1 = (if i = 0 then { s with patrol := assocSet 0 s.patrol (64 + key) s.now } else s) →
    s2 = (if memory ≠ 3 then (s1.fetchCell (patrolWord die memory i).1 (patrolWord die memory i).2).1 else if s1.inRecovery (0x300 + die) then s1
      else (s1.fetchCopy die (patrolWord die memory i).2).1) →
    exec (.patrolRead die memory) s = .next (if i + 1 < patrolWords memory then { s2 with patrol := assocSet 0 s2.patrol key (i + 1) }
      else State.endPass { s2 with patrol := assocSet 0 s2.patrol key 0 } die memory (assoc 0 s2.patrol (64 + key)))) ∧
  (∀ (die : Nat) (s : State), die < 8 → s.fb F.hbmStatusSelfRefresh die = true → exec (.selfRefreshPatrolExit die) s =
    .next ((s.sweepCells .hbm ((s.badWords .hbm).filter fun w => hbmDie (8 * w) == die)).endPass die 2 s.now)) ∧
  (∀ (die channel at_ : Nat) (s : State), die < 8 → channel < 32 → (∀ c, c < 32 → s.f F.hbmChanNState die c ≠ chanRetuning) →
    s.nextRetune die = some (channel, at_) → at_ ≤ s.now →
    let sweep := (s.sweepFrom die).any fun k => (s.retunable die ((List.range 32).drop k)).isSome
    let last := (s.retunable die ((List.range 32).drop (channel + 1))).isNone
    exec (.retune die channel) s = .next (State.fset { s with
      retuneNext := if sweep then s.retuneNext else assocSet 0 s.retuneNext die ((channel + 1) % 32)
      sweeps := (s.sweeps.filter fun x => x.1 != die) ++ if sweep && !last then [(die, channel + 1)] else []
      retuneTemps := (s.retuneTemps.filter fun x => x.1 != die) ++ [(die, s.f F.hbmStatusTemp die)]
      retuneAt := (s.retuneAt.filter fun x => x.1 != die) ++ [(die, s.now)] } F.hbmChanNState chanRetuning die channel)) ∧
  (∀ (die channel margin : Nat) (s u : State), die < 8 → channel < 32 → s.f F.hbmChanNState die channel = chanRetuning →
    u = ((s.fset F.hbmChanNState chanNormal die channel).fset F.hbmChanNMargin (min margin 255) die channel).fadd F.hbmChanNRetunes 1 die channel →
    exec (.retuneEnd die channel margin) s = .next (if margin < 8 then u.triggerRetrain die channel else u)) ∧
  (∀ (die channel : Nat) (s : State), die < 8 → channel < 32 →
    exec (.ceLimitExceeded die channel) s =
      .next (if s.f F.hbmCfgCeLimit die < s.f F.hbmChanNCeMin die channel then s.triggerRetrain die channel else s) ∧
    exec (.channelDead die channel) s = .next (if 16 < s.badCount die channel then s.loseDomain (stackDomain die) 0xFF else s)) ∧
  (∀ (die : Nat) (r : Retrain) (s : State), s.retrainIn die chanEvacuating = some r →
    let u := s.evacuate die r.channel r.pointer spaceSlots
    exec (.evacuationDone die) s = .next ((State.fset { u with retrains := updateAll u.retrains (fun x => x.die == die) fun x => { x with pointer := spaceSlots } }
      F.hbmStatusReserve 2 die).fset F.hbmChanNState chanRemapped die r.channel)) ∧
  (∀ (die : Nat) (r : Retrain) (s : State), s.retrainIn die chanRemapped = some r →
    let u := s.patterned die r.channel
    exec (.retrainVerifyEnd die false) s = .next ((u.fset F.hbmChanNState chanRetired die r.channel).endRetrain r) ∧
    (r.keep = true → exec (.retrainVerifyEnd die true) s = .next (u.endRetrain r)) ∧
    (r.keep = false → exec (.retrainVerifyEnd die true) s =
      .next ((u.fset F.hbmStatusReserve 3 die).fset F.hbmChanNState chanCopying die r.channel))) ∧
  (∀ (die : Nat) (r : Retrain) (s : State), s.retrainIn die chanCopying = some r → exec (.copyBackDone die) s =
    .next (((((s.copyBack die r.channel).fset F.hbmStatusReserve 0 die).fset F.hbmStatusRchan 0 die).fset F.hbmChanNState chanNormal die r.channel).endRetrain r))

/-- A reading sets the duty; at HOVE_T a new thermal cause asks for Hove-to with cause 9. The trip files 0x1032 and goes to Off; P12V loss files 0x1030, a
rail fault 0x1031, and go to Off; P12V absent for a second raises 0x3050 once; P12V back restarts the part unless it tripped or had three rail faults.
P3V3_AON loss is the cold reset, POWER_ON_RESET the cold reset with MEAS_0 extended and the boot. A missing Ethernet clock takes the ports of its die
down and faults each group. QUALIFY ends with QUAL 2 (clean), 3 (repaired) or 4 (failed), its repairs and its report, and ENROL where it passes. Rests
on R17, R333, R450, R457, R479, R535, R536, R537, R539, R542, R543. -/
def Obligations.SuppliesHeatAndStartsOfThePart : Prop :=
  (∀ (r : Reading) (s u : State), u = (s.showReading r).setDuty r (s.nextDuty r) →
    (u.f F.pkgCtrlHoveT ≤ r.tj → u.causes.contains 9 = false → (u.latched.any fun e => e.hove == some 9) = false →
      exec (.throttleReading r) s = .next (u.askHove 9)) ∧
    (r.tj < u.f F.pkgCtrlHoveT → exec (.throttleReading r) s = .next u)) ∧
  (∀ s u : State, u = (s.fadd F.pkgCountTrips).error 0x1032 sevSafety →
    exec .thermalTrip s = .next (State.powerOff { u with thermtrip := true, boot := { u.boot with tripped := true } })) ∧
  (∀ s : State, s.boot.powered = true → exec .p12vLoss s = .next (s.error 0x1030 sevSafety).powerOff) ∧
  (∀ (rail : Nat) (s u : State), rail < 44 → s.boot.powered = true → u = (s.fadd F.pkgCountRailFaults).error 0x1031 sevSafety 0xFFF 0xFF 0 rail →
    exec (.railFault rail) s = .next (State.powerOff { u with boot := { u.boot with railFaults := u.boot.railFaults + 1 } })) ∧
  (∀ (a b : Option ImageVerdict) (failed : List Nat) (s : State),
    (s.boot.powered = false → s.boot.tripped = false → s.boot.railFaults < 3 → s.fullDebug = none →
      exec (.p12vRestore a b failed) s = .next (s.bootSlots (verdictOf a b) failed)) ∧
    (s.boot.powered = true ∨ s.boot.tripped = true ∨ 3 ≤ s.boot.railFaults → exec (.p12vRestore a b failed) s = .next s) ∧
    exec (.powerOnReset a b failed) s = .next ((s.coldReset.extend 0 Config.bootRomDigest).bootSlots (verdictOf a b) failed)) ∧
  (∀ s : State, s.f F.bootStatusState = 0 → s.boot.waiting = false →
    exec .p12vAbsentAtBoot s = .next (State.raise { s with boot := { s.boot with waiting := true } } 0x3050 745)) ∧
  (∀ s : State, exec .p3v3AonLoss s = .next s.coldReset) ∧
  (∀ (iod : Nat) (s : State), iod < 2 → exec (.ethRefclkMissing iod) s =
    .next ((((List.range 4).map fun g => iod * 4 + g).filter fun g => !(s.groupPorts g).isEmpty).foldl
      (fun s g => ((s.groupPorts g).foldl State.portDown s).faultDomain (groupDomain g) 0xFF g) s)) ∧
  (∀ (all : Findings) (s : State), s.f F.bootStatusState = 1 → s.f F.bootStatusQual = 1 →
    let found := { all with cores := all.cores.filter fun c => !s.absentCore c }
    (findingsPass found = false →
      let u := s.fset F.bootStatusQual 4
      let v : State := { u with vxeReady := u.liveCores.filter fun c => !found.cores.contains c }
      exec (.qualify all) s = .next ((((List.range 136).filterMap v.positionOf).foldl State.showVxeMode v).writeReport found)) ∧
    (findingsPass found = true →
      let u := found.channels.foldl State.repairChannel (found.cores.foldl State.repairCore
        (s.fset F.bootStatusQual (if found.cores.isEmpty && found.channels.isEmpty then 2 else 3)))
      let v : State := { u with vxeReady := u.liveCores.filter fun c => !found.cores.contains c }
      exec (.qualify all) s = .next (((((List.range 136).filterMap v.positionOf).foldl State.showVxeMode v).fset F.bootStatusState 2).writeReport found)))

/-- A CFG_WRITE of an image that checks, to the slot that did not boot, begins programming with BUSY, an erase likewise; the end makes the slot STAGED
with event 0x7404, or EMPTY, with RESULT OK. HALL_CONTACT, when due, probes each listed part and asks the join of the one that answered; HALL_FOUND
makes the part the only member, with event 0x4051. JOB_LOAD installs an image that checks and fits; LOADED is collected; JSTART starts at its tick,
its timeout refuses; JOB_STOP asks the hall; JOB_UPDATE stages a higher version with equal fixed parts. Rests on R442, R453, R459, R460, R461, R462,
R463, R464. -/
def Obligations.ImagesJobsAndTheHallStart : Prop :=
  (∀ (slot : Nat) (v : ImageVerdict) (img : List Byte) (s u u1 u2 : State), u = (s.fset F.cfgCtrlWrite 0).fset F.cfgCtrlSlot (slot % 2) →
    u.fb F.cfgCtrlBusy = false → u.booted ≠ some (slot % 2) → 2 ≤ u.f F.bootStatusState → u.hostImage = (u1, some img) → u1.checkImage 1 img v = (u2, .ok) →
    exec (.cfgWrite slot v) s =
      .next (State.fset { u2 with boot := { u2.boot with programming := some (slot % 2, false, img, u2.f F.bootStatusState == 2) } } F.cfgCtrlBusy 1)) ∧
  (∀ (slot : Nat) (s u : State), u = (s.fset F.cfgCtrlErase 0).fset F.cfgCtrlSlot (slot % 2) → u.fb F.cfgCtrlBusy = false →
    exec (.cfgErase slot) s = .next (if u.booted = some (slot % 2) ∨ u.readsOnly = true then u.cfgResult .aborted
      else State.fset { u with boot := { u.boot with programming := some (slot % 2, true, [], false) } } F.cfgCtrlBusy 1)) ∧
  (∀ (k : Nat) (img : List Byte) (enrol : Bool) (s u : State),
    u = (State.fset { s with boot := { s.boot with programming := none } } F.cfgCtrlBusy 0).cfgResult .ok →
    (s.boot.programming = some (k, true, img, enrol) → exec .slotProgrammingEnd s = .next (u.setSlot k Slot.empty)) ∧
    (s.boot.programming = some (k, false, img, false) → exec .slotProgrammingEnd s =
      .next ((u.setSlot k { (u.slot k).write { state := slotStaged, length := img.length, digest := digest128 img, magic := 0, seq := 0, check := 0 } with image := img }).raise 0x7404 749))) ∧
  (∀ (s : State) (p : Nat) (u v : State), s.mustJoin = true → s.ptpState = ptpLocked → (s.boot.contactAt.all fun t => decide (t + 10000000 ≤ s.now)) = true →
    u = State.emits { s with boot := { s.boot with contactAt := some s.now } }
      ((sortNat (((Config.hallList s.boot.config).map (·.1)).filter fun p => p != s.me)).map fun p => .hallProbe p) →
    exec (.hallContact none) s = .next u ∧
    ((((Config.hallList s.boot.config).map (·.1)).filter fun p => p != s.me).contains p = true → v = (if (u.session p false).isNone then u.startExchange p false else u) →
      v.hallAsked.contains (HallCmd.join v.me (imageRole v.boot.config) (v.f F.hallStatusSite) (Config.deviceId.setWidth 64)) = false →
      exec (.hallContact (some p)) s =
        .next (State.emit { v with hallAsked := v.hallAsked ++ [HallCmd.join v.me (imageRole v.boot.config) (v.f F.hallStatusSite) (Config.deviceId.setWidth 64)], boot := { v.boot with asked := [p] } }
          (.hallAsk (.join v.me (imageRole v.boot.config) (v.f F.hallStatusSite) (Config.deviceId.setWidth 64)))))) ∧
  (∀ s u : State, s.awaitsRole = true → s.hallAsked = [] → s.soleMember = true →
    u = (s.setMember s.me memberLive (imageRole s.boot.config) (s.f F.hallStatusSite) 0 1 (Config.deviceId.setWidth 64).toNat).setLed 0x03120000 4 1 →
    exec .hallFound s = .next (((u.seedBeats.showHall).raise 0x4051 748).reachRole)) ∧
  (∀ (v : ImageVerdict) (reply : RemoteReply) (img : List Byte) (s u u1 u2 : State), u = s.fset F.jobCtrlLoad 0 → u.f F.jobStatusState = 0 →
    u.f F.bootStatusState = 3 → u.jobSource (s.f F.jobCtrlSrc) reply = (u1, some img) → u1.checkImage 2 img v = (u2, .ok) →
    exec (.jobLoad v reply) s = .next (if u2.layoutOk img then u2.installJob img else u2.loadFailed .aborted)) ∧
  (∀ (part : Nat) (mark : LoadedMark) (s : State), s.inHove = false → s.hallCommittee.head? = some s.me → s.isMember part = true →
    exec (.loadedReceive part mark) s = .next (State.weighLoaded { s with boot := { s.boot with
      loaded := s.boot.loaded.filter (fun (l : Nat × LoadedMark) => l.1 != part) ++ [(part, mark)]
      firstLoaded := if s.boot.firstLoaded.isNone then some s.now else s.boot.firstLoaded } })) ∧
  (∀ (ps qs : List Nat) (at_ : Nat) (s : State), s.inHove = false → s.dueStart = some (.jstart ps qs, at_) →
    exec .jstart s = .next (State.applyHall { s with hallPending := s.hallPending.erase (.jstart ps qs, at_) } (.jstart ps qs))) ∧
  (∀ (t : Nat) (s : State), s.boot.firstLoaded = some t → t + 60000000 ≤ s.now → s.jobRuns = false → exec .jstartTimeout s = .next s.refuseStart) ∧
  (∀ s u : State, u = s.fset F.jobCtrlStop 0 → u.f F.jobStatusState ≠ 0 → u.hallAsked.contains HallCmd.jobStop = false → u.jobRuns = false →
    exec .jobStop s = .next (State.emit { u with hallAsked := u.hallAsked ++ [HallCmd.jobStop] } (.hallAsk .jobStop))) ∧
  (∀ (v : ImageVerdict) (reply : RemoteReply) (img : List Byte) (s u u1 u2 : State), u = s.fset F.jobCtrlUpdate 0 → u.f F.jobStatusState = 3 →
    u.boot.staged = [] → u.jobSource (s.f F.jobCtrlSrc) reply = (u1, some img) → u1.checkImage 2 img v = (u2, .ok) →
    imageJobId img = imageJobId u2.boot.job → imageVersion u2.boot.job < imageVersion img → fixedEqual img u2.boot.job = true →
    exec (.jobUpdate v reply) s = .next (State.markLoaded { u2 with boot := { u2.boot with staged := img } } img true))

/-- With WHY 0 and the boundary reached a live operation shows RUNNING and starts: the retrain and retire of a channel, the readapt (its domain takes the
slot and its group faults), the group going off (its domain takes the slot too) and on, the promotion of a core (it stops, takes the slot and
recovers), and the retest with its result. With another WHY it is refused with that reason. LIVE_OP_START starts the waiting operation once its
conditions hold. ACTIVATE of a slot that is refused is shown so; a live-only image waits and CONFIG_LIVE_APPLY applies it at the boundary. A decided
update loads its segments, shows the version, raises 0x2031 and runs on, or votes ABORT. Rests on R463, R464, R465, R466. -/
def Obligations.LiveOperationsAskWaitStartAndEnd : Prop :=
  (∀ (arg : Nat) (pass : TestPass) (s u : State) (l : Nat → LiveOp), u = s.fset F.liveCtrlStart 0 → (∀ op, l op = ⟨op, arg, false, u.commitSeq, false⟩) →
    (u.liveWhy 2 arg = 0 → u.atBoundary (l 2) = true → exec (.retrain arg) s = .next ((u.showLive { l 2 with running := true }).startRetrainOp (l 2))) ∧
    (u.liveWhy 3 arg = 0 → u.atBoundary (l 3) = true → exec (.retireChan arg) s = .next ((u.showLive { l 3 with running := true }).startRetrainOp (l 3))) ∧
    (u.liveWhy 4 arg = 0 → u.atBoundary (l 4) = true → exec (.readapt arg) s =
      .next (((u.showLive { l 4 with running := true }).takeSlot (groupDomain arg)).groupFaults arg)) ∧
    (u.liveWhy 5 arg = 0 → u.atBoundary (l 5) = true → exec (.groupOff arg) s =
      .next (((u.showLive { l 5 with running := true }).takeSlot (groupDomain arg)).groupFaults arg)) ∧
    (u.liveWhy 6 arg = 0 → u.atBoundary (l 6) = true → exec (.groupOn arg) s = .next ((u.showLive { l 6 with running := true }).startGroupOn arg)) ∧
    (u.liveWhy 7 arg = 0 → u.atBoundary (l 7) = true → exec (.promote arg) s =
      .next ((((u.showLive { l 7 with running := true }).stopCore arg).takeSlot arg).coreRecovers arg false true)) ∧
    (u.liveWhy 8 arg = 0 → u.atBoundary ⟨8, arg, false, u.commitSeq, pass⟩ = true → exec (.retest arg pass) s =
      .next ((u.showLive ⟨8, arg, true, u.commitSeq, pass⟩).runRetest arg pass)) ∧
    (u.liveWhy 2 arg ≠ 0 → exec (.retrain arg) s = .next (u.liveRefuse (u.liveWhy 2 arg))) ∧
    (u.liveWhy 7 arg ≠ 0 → exec (.promote arg) s = .next (u.liveRefuse (u.liveWhy 7 arg)))) ∧
  (∀ (l : LiveOp) (s : State), s.boot.live = some l → l.running = false → l.op ≠ 1 → s.slotsReady = true → s.atBoundary l = true →
    exec .liveOpStart s = .next (if s.argWhy l.op l.arg = 0 then s.startLive l
      else ((State.fset { s with boot := { s.boot with live := none } } F.liveStatusState 0).liveRefuse (s.argWhy l.op l.arg)).afterPromote)) ∧
  (∀ (slot : Nat) (v : ImageVerdict) (s u : State), s.liveWhy 1 slot = 0 → (s.askLive 1 slot).verifySlot slot v = (u, .ok) →
    exec (.activate slot v) s = .next (if u.liveOnly u.boot.memory (u.slot slot).image then u
      else ((u.setSlotState slot slotTrial).liveDone .ok).fset F.liveStatusWhy 6)) ∧
  (∀ (l : LiveOp) (s : State), s.boot.live = some l → l.op = 1 → s.atBoundary l = true → exec .configLiveApply s = .next ((s.applyLive l.arg).liveDone .ok)) ∧
  (∀ s : State, s.f F.jobStatusState = 4 → s.boot.staged ≠ [] → s.inHove = false →
    let img := s.boot.staged
    let changed := changedPositions s.boot.job img
    let qs := s.coreQueues.filter fun q => changed.contains (coreOf q)
    let s1 := (qs.filter fun q => s.qState q != qStopped).foldl State.stopQueue s
    let s2 := State.extend { s1 with boot := { s1.boot with job := img, staged := [] } } 5 (digest256 img)
    let r := (s2.keepImage img).reload changed
    let s3 := qs.foldl (fun s q => if s.qState q = qStopped && s.goReady q then s.goQueue q else s) r.1.applyJobSettings
    let s4 := (((s3.fset F.jobStatusState 3).fset F.jobStatusVersion (imageVersion img % 2 ^ 16)).jobResult r.2).raise 0x2031 749
    exec .jobUpdateApply s = .next (if r.2 = .ok then s4 else if s4.stepRuns && s4.step.voted.isNone then s4.abortVote
      else { s4 with step := { s4.step with abortNext := true } }))

/-- HRING_TAIL_SAMPLE samples all 64 rings in order, and none in Hove-to or full debug. The entry at the front of what a ring has taken, while no lower
ring has one that has not acted, moves HEAD past it; one with a fault completes with the status of the fault; NOP completes OK; QCMD runs the queue
command and completes OK or ABORTED; FLAGADD adds to the flag; PARAM writes the register, ABORTED where the queue does not take it; JOB and LIVE run
their operation and complete with its result, at once or, the ring being BUSY, once it is over. RESUME runs a HALTED ring; RETRY takes the entry
again; STOP empties and disables the ring. Rests on R174, R505, R506, R508, R509, R510. -/
def Obligations.HostRingsTakeCheckAndCompleteEntries : Prop :=
  (∀ s : State, s.inHove = false → s.fullDebug = none → exec .hringTailSample s = .next ((List.range 64).foldl State.sampleRing s)) ∧
  (∀ (n pos : Nat) (l : List Byte) (rest : List (Nat × List Byte)) (s s1 : State), (s.ring n).taken = (pos, l) :: rest → s.ringTurn n = true → s1 = s.setRingHead n (pos + 1) →
    (∀ st, s.entryFault l = some st → exec (.hringNop n) s = .next (s1.ringComplete n l st rest)) ∧
    (s.entryFault l = none →
      (entryKind l = 0 → exec (.hringNop n) s = .next (s1.ringComplete n l .ok rest)) ∧
      (∀ u ok, entryKind l = 1 → s1.commandQueue (entryTarget l) (leAt l 8 1) .host = (u, ok) →
        exec (.hringQcmd n) s = .next (u.ringComplete n l (if ok then .ok else .aborted) rest)) ∧
      (entryKind l = 2 → leAt l 8 1 < 8 → leAt l 10 2 < 4096 →
        exec (.hringFlagadd n) s = .next ((s1.flagAdd (leAt l 8 1) (leAt l 10 2) (leAt l 12 2)).ringComplete n l .ok rest)) ∧
      (entryKind l = 3 → leAt l 8 1 < 64 → exec (.hringParam n) s =
        .next ((s1.paramWrite (entryTarget l) (leAt l 8 1) (BitVec.ofNat 64 (leAt l 16 8))).ringComplete n l
          (if s1.qState (entryTarget l) == qStopped || s1.qState (entryTarget l) == qHalted then .ok else .aborted) rest)) ∧
      (∀ v u st, entryKind l = 4 → (s.ring n).busy = none → s1.ringJob v l = (u, some st) → exec (.hringJob n v) s = .next (u.ringComplete n l st rest)) ∧
      (∀ v u, entryKind l = 4 → (s.ring n).busy = none → s1.ringJob v l = (u, none) → exec (.hringJob n v) s =
        .next ((u.setRing n { u.ring n with taken := rest, busy := some (pos, l) }).fset F.hringNStatusState ringBusy n)) ∧
      (∀ v pass u st, entryKind l = 5 → (s.ring n).busy = none → s1.ringLive v pass l = (u, some st) →
        exec (.hringLive n v pass) s = .next (u.ringComplete n l st rest)))) ∧
  (∀ (n pos : Nat) (l : List Byte) (v : ImageVerdict) (pass : TestPass) (s : State), (s.ring n).busy = some (pos, l) →
    (entryKind l = 4 → s.jobOver (leAt l 8 1) = true →
      exec (.hringJob n v) s = .next (s.ringComplete n l (statusOf (s.f F.jobStatusResult)) (s.ring n).taken)) ∧
    (entryKind l = 5 → s.boot.live = none →
      exec (.hringLive n v pass) s = .next (s.ringComplete n l (statusOf (s.f F.liveStatusResult)) (s.ring n).taken))) ∧
  (∀ (n : Nat) (s u v w : State), n < 64 → u = s.fset F.hringNCtrlResume 0 n → v = s.fset F.hringNCtrlRetry 0 n →
    (exec (.hringResume n) s = .next (if u.f F.hringNStatusState n = ringHalted then u.fset F.hringNStatusState ringRunning n
      else u.fadd F.hringNStatusBadCmd 1 n)) ∧
    (∀ pos l, v.f F.hringNStatusState n = ringHalted → pos = (v.f F.hringNStatusHead n + 2 ^ 32 - 1) % 2 ^ 32 → v.hringEntry n pos = (w, l) →
      exec (.hringRetry n) s = .next ((w.setRing n { w.ring n with taken := [(pos, l)] }).fset F.hringNStatusState ringRunning n))) ∧
  (∀ (n : Nat) (s u v : State), n < 64 → u = (s.fset F.hringNCtrlStop 0 n).fset F.hringNCfgEn 0 n → v = u.setRing n { u.ring n with taken := [] } →
    exec (.hringStop n) s = .next (if (v.ring n).busy.isSome then v else v.fset F.hringNStatusState ringOff n))

/-- MEM_BAR_READ of a window in reach whose words are readable returns its bytes; MEM_BAR_WRITE stores them, and neither reaches beyond the window or
where the BAR is closed. HOST_WIN and LEDGER_WIN take their base; a Ledger word is read aligned; a Ledger write and a bad access answer Unsupported
Request and count. A register write follows the access types of the register, in a part that serves only reads (QUAL 4) it changes the window
registers alone, a read returns the value and clears RC fields. A claim gives the highest source, clears PENDING and nests its level, a masked one
gives 0; EOI ends it. PENDING of a source clears unless it was raised in this tick. A raised vector sends its message once, or becomes pending where
it is masked; an unmask releases it. Rests on R13, R14, R490, R500, R502, R511, R512, R515, R516. -/
def Obligations.BarsRegistersAndInterruptsAnswer : Prop :=
  (∀ (x len off : Nat) (b : Bank) (l : List Byte) (s u : State), s.memClosed = false → s.window x len = some (b, off) → s.load false b off len = (u, some l) →
    exec (.memBarRead x len) s = .next (u.emit (.hostData l))) ∧
  (∀ (x : Nat) (data : List Byte) (s : State), s.memClosed = false →
    (∀ b off, s.window x data.length = some (b, off) → exec (.memBarWrite x data) s = .next (s.hostStore b off data)) ∧
    (s.window x data.length = none → exec (.memBarWrite x data) s = .next (s.fadd F.hostErrWinFaults) ∧
      exec (.memBarRead x data.length) s = .next ((s.fadd F.hostErrWinFaults).emit .hostUr))) ∧
  (∀ (x : Nat) (data : List Byte) (s : State), s.memClosed = true →
    exec (.memBarRead x data.length) s = .next (s.emit .hostUr) ∧ exec (.memBarWrite x data) s = .next (s.emit .hostUr)) ∧
  (∀ (value : Word) (s : State), s.ideBars = false →
    exec (.hostWinWrite value) s = .next (if 4 ≤ getBits value 44 4 then s.fadd F.hostErrWinFaults
      else s.wr ⟨.hostWin, 0, 0⟩ (swWrite true ⟨.hostWin, 0, 0⟩ (s.rd ⟨.hostWin, 0, 0⟩) value)) ∧
    exec (.ledgerWinWrite value) s = .next (s.fset F.ledgerWinBase (getBits value 0 8))) ∧
  (∀ (x : Nat) (v : Word) (s u : State), x % 8 = 0 → x < 0x100000 → s.fetchLedger ((s.f F.ledgerWinBase * 0x100000 + x) / 8) = (u, some v) →
    exec (.ledgerWindowRead x) s = .next (u.emit (.hostData (leBytes 8 v.toNat)))) ∧
  (∀ (x : Nat) (value : Word) (s : State), exec (.ledgerWindowWrite x value) s = .next ((s.fadd F.hostErrRegUr).emit .hostUr) ∧
    exec (.regBarBadAccess x) s = .next ((s.fadd F.hostErrRegUr).emit .hostUr)) ∧
  (∀ (off : Nat) (value : Word) (r : Reg) (s : State), off % 8 = 0 → off < 0x04000000 → off < 0x700000 ∨ 0x800000 ≤ off → Reg.ofOffset off = some r →
    s.promotedBlock r = false → r.absent s.grade = false →
    (s.ideBars = false → s.readsOnly = false ∨ windowReg off = true → exec (.registerWrite off value) s = .next (s.softWrite r value)) ∧
    (s.ideBars = false → s.readsOnly = true → windowReg off = false → exec (.registerWrite off value) s = .next s) ∧
    (s.ideBars = true → exec (.registerWrite off value) s = .next (s.emit .hostUr)) ∧
    (∀ u v, r.name ≠ .intcTgtTClaim → (s.refresh r).swRead r = (v, u) → exec (.rcCounterRead off) s = .next (u.emit (.hostData (leBytes 8 v.toNat))))) ∧
  (∀ (t n : Nat) (s : State), t < 139 →
    (s.fb F.intcTgtTCtrlMask t = true → exec (.interruptClaim t) s = .next (s.emit (.hostData (leBytes 8 0)))) ∧
    (s.fb F.intcTgtTCtrlMask t = false → s.chosen t = some n → exec (.interruptClaim t) s =
      .next (State.emit ((s.fset F.intcSrcNPending 0 n).setHandlers t (s.sourceLevel n :: assoc [] s.handlers t))
        (.hostData (leBytes 8 (0x8000 + n))))) ∧
    exec (.interruptEoi t) s = .next ((s.fset F.intcTgtTEoiEoi 0 t).setHandlers t (assoc [] s.handlers t).tail)) ∧
  (∀ (source : Nat) (s : State), source < 745 ∨ 751 < source ∧ source < 1024 → exec (.pendingClear source) s = .next (s.fclear F.intcSrcNPending source)) ∧
  (∀ (v : Nat) (s u : State), s.msixOn = true → s.msixRaised.contains v = true → u = { s with msixRaised := s.msixRaised.filter fun x => x != v } →
    exec (.msixMessage v) s = .next (if u.msixMask || u.fb F.msixDataVMask v then u.raiseVector v
      else u.emit (.msix v (u.f F.msixAddrVAddr v) (u.f F.msixDataVData v)))) ∧
  (∀ s : State, (∀ v, v < 256 → exec (.msixUnmask v) s = .next ((s.fset F.msixDataVMask 0 v).releasePba v)) ∧
    exec (.msixUnmask 256) s = .next ((List.range 256).foldl State.releasePba { s with msixOn := true, msixMask := false }))

/-- On a transport, with a ready attestation key or at level 2, GET_VERSION starts the connection; capabilities and algorithms move it to phases 2 and 3.
In phase 3 below level 2: digests, certificate portions, the signed challenge, measurement blocks (block 0 the number, 1 to 9 one, 0xFF all), the key
exchange which keeps its shared secret, the PSK handshake and its finish; each is refused where the connection is not ready. In a session: key update,
heartbeat, end of session, and IDE over DOE. At level 2 only block 9 is served. A failed integrity check ends IDE. Rests on R480, R488, R489, R490,
R494. -/
def Obligations.SpdmRequestsAnswerInTheirPhase : Prop :=
  (∀ (t : Transport) (c : SpdmConn) (s : State), s.spdmOpen = true → c = s.spdmConn t →
    exec (.getVersion t) s = .next ((s.setSpdm t { phase := 1 }).spdmReply t [0x13]) ∧
    (1 ≤ c.phase → exec (.getCapabilities t) s = .next ((s.setSpdm t { c with phase := max c.phase 2 }).spdmReply t [])) ∧
    (2 ≤ c.phase → exec (.negotiateAlgorithms t true) s = .next ((s.setSpdm t { c with phase := 3 }).spdmReply t []) ∧
      exec (.negotiateAlgorithms t false) s = .next (s.spdmRefuse t))) ∧
  (∀ (t : Transport) (offset len block : Nat) (nonce : BitVec 256) (key context : List Byte) (s : State), s.spdmReady t = true →
    exec (.getDigests t) s = .next (s.spdmReply t (sha3Sum384 (Config.certChain s.akInput))) ∧
    (offset < (Config.certChain s.akInput).length →
      exec (.getCertificate t offset len) s = .next (s.spdmReply t (((Config.certChain s.akInput).drop offset).take len))) ∧
    exec (.challenge t nonce) s = .next (s.spdmSigned t (sha3Sum384 (Config.certChain s.akInput) ++ leBytes 32 nonce.toNat)) ∧
    (s.dbgLevel ≠ 2 →
      exec (.getMeasurements t 0 nonce) s = .next (s.spdmReply t [9]) ∧
      (1 ≤ block → block ≤ 9 → exec (.getMeasurements t block nonce) s = .next (s.spdmReply t (s.measBlock nonce block))) ∧
      exec (.getMeasurements t 0xFF nonce) s = .next (s.spdmReply t ((List.range 9).flatMap fun n => s.measBlock nonce (n + 1)))) ∧
    (key.length = 1568 → exec (.kemx t key) s =
      .next ((s.draw.2.setSpdm t { s.draw.2.spdmConn t with psk := some (Config.kemEncap key s.draw.1).2 }).spdmSigned t (Config.kemEncap key s.draw.1).1)) ∧
    ((s.spdmConn t).psk.isSome = true → exec (.pskExchange t context) s =
      .next ((s.draw.2.setSpdm t { s.draw.2.spdmConn t with session := 1, updates := 0 }).spdmReply t (context ++ leBytes 32 s.draw.1.toNat))) ∧
    ((s.spdmConn t).session = 1 →
      exec (.pskFinish t true) s = .next ((s.setSpdm t { s.spdmConn t with session := 2 }).spdmReply t []) ∧
      exec (.pskFinish t false) s = .next ((s.setSpdm t { s.spdmConn t with session := 0 }).spdmRefuse t))) ∧
  (∀ (t : Transport) (offset len : Nat) (nonce : BitVec 256) (key context : List Byte) (ok : Bool) (s : State), s.spdmReady t = false →
    exec (.getDigests t) s = .next (s.spdmRefuse t) ∧ exec (.getCertificate t offset len) s = .next (s.spdmRefuse t) ∧
    exec (.challenge t nonce) s = .next (s.spdmRefuse t) ∧ exec (.kemx t key) s = .next (s.spdmRefuse t) ∧
    exec (.pskExchange t context) s = .next (s.spdmRefuse t) ∧ exec (.pskFinish t ok) s = .next (s.spdmRefuse t)) ∧
  (∀ (t : Transport) (nonce : BitVec 256) (s : State), s.dbgLevel = 2 → (s.spdmConn t).phase = 3 →
    exec (.getMeasurements t 9 nonce) s = .next (s.spdmReply t (s.quote nonce)) ∧
    (∀ block, block ≠ 9 → exec (.getMeasurements t block nonce) s = .next (s.spdmRefuse t))) ∧
  (∀ (t : Transport) (go : Bool) (s : State),
    (s.spdmSecured t = true →
      exec (.keyUpdate t) s = .next ((s.setSpdm t { s.spdmConn t with updates := (s.spdmConn t).updates + 1 }).spdmReply t []) ∧
      exec (.heartbeat t) s = .next (s.spdmReply t []) ∧
      exec (.endSession t) s = .next ((s.setSpdm t { s.spdmConn t with psk := none, session := 0, updates := 0 }).spdmReply t [])) ∧
    (s.spdmSecured .doe = true → exec (.ideKm .doe true) s = .next ((s.fset F.secStatusIde 1).spdmReply .doe []) ∧
      exec (.ideKm .doe false) s = .next (s.endIde.spdmReply .doe [])) ∧
    exec (.ideKm .mctp go) s = .next (s.spdmRefuse .mctp) ∧
    (s.spdmSecured t = false → exec (.keyUpdate t) s = .next (s.spdmRefuse t) ∧ exec (.heartbeat t) s = .next (s.spdmRefuse t) ∧
      exec (.endSession t) s = .next (s.spdmRefuse t) ∧ exec (.ideKm t go) s = .next (s.spdmRefuse t)) ∧
    exec .ideIntegrityFail s = .next s.endIde)

/-- NEW_CHAL draws a challenge; DBG_SUBMIT submits the token of SRAM unless JTAG acted in the tick; CLOSE returns level 1 to 0 and clears the group and
the multiplexer; full debug opens 2,000 ticks after acceptance with the zero fill. TRST_N selects IDCODE; IDCODE, SAMPLE, BYPASS, CHALLENGE, TOKEN and
DBGSTATUS act at every level; EXTEST, CLAMP, HIGHZ, IJTAG and BISTCTL at level 2 and MUXSEL from level 1, and below it BYPASS is selected. TM_SEL and
BIST_START act unless JTAG acted in the tick. A session ends with its result, and a failed one counts and files 0x3001. Rests on R491, R492, R493,
R494, R547, R548, R549, R550, R551, R552, R554. -/
def Obligations.DebugOpensByTokenAndClosesAndTestPortActs : Prop :=
  (∀ s : State, exec .newChal s = .next (s.fset F.dbgCtrlNewChal 0).newChallenge) ∧
  (∀ (sigOk : Bool) (t : List Byte) (s u v : State), u = s.fset F.dbgCtrlSubmit 0 →
    (u.jtagEdge.contains 0 = true → exec (.dbgSubmit sigOk) s = .next (u.refuseToken .aborted)) ∧
    (u.jtagEdge.contains 0 = false → u.readBytes .sram (u.f F.dbgTokenBase) (u.f F.dbgTokenLen) = (v, some t) →
      exec (.dbgSubmit sigOk) s = .next (v.submitToken t sigOk))) ∧
  (∀ s u v : State, u = s.fset F.dbgCtrlClose 0 → u.dbgLevel = 1 → v = ((u.fset F.dbgStatusLevel 0).fset F.dbgStatusGroups 0).fset F.tmSelEn 0 →
    exec .dbgClose s = .next { (v.fset F.tmStatusDriving 0).fset F.tmStatusGroup 0 with dbgOut := 0, muxNext := none }) ∧
  (∀ (t : Nat) (s : State), s.fullDebug = some t → t + 2000 ≤ s.now → s.dbgLevel ≠ 2 →
    exec .fullDebugOpen s = .next (s.zeroFill.fset F.dbgStatusLevel 2)) ∧
  (∀ (pins : Nat) (bytes : List Byte) (sigOk : Bool) (s : State),
    exec .trstNAssert s = .next { s with jtag := { s.jtag with ir := 0x01, driving := false, segments := [] } } ∧
    exec .idcode s = .next ((s.select 0x01).shiftOut s.idcodeWord 32) ∧
    exec (.samplePreload pins) s = .next (State.shiftOut { s.select 0x02 with jtag := { (s.select 0x02).jtag with boundary := pins % 2 ^ 79 } } pins 79) ∧
    exec .bypass s = .next (s.select 0xFF) ∧
    exec .jtagChallenge s = .next ((s.select 0x10).newChallenge.shiftOut ((s.select 0x10).newChallenge.challenge.getD 0).toNat 256) ∧
    exec (.token bytes sigOk) s = .next (((s.select 0x11).jtagActs 0).submitToken bytes sigOk) ∧
    exec .dbgstatus s = .next ((s.select 0x12).shiftOut (s.rd ⟨.dbgStatus, 0, 0⟩).toNat 64)) ∧
  (∀ (boundary : Nat) (value : Word) (bits : List Bool) (s : State),
    (s.dbgLevel = 2 →
      exec (.extest boundary) s = .next { s.select 0x00 with jtag := { (s.select 0x00).jtag with boundary := boundary % 2 ^ 79, driving := true } } ∧
      exec .clamp s = .next ((s.select 0x03).select 0x03 true) ∧
      exec .highz s = .next ((s.select 0x04).select 0x04 true) ∧
      exec (.ijtag bits) s = .next { s.select 0x30 with jtag := { (s.select 0x30).jtag with segments := (s.select 0x30).openSegments bits } } ∧
      exec (.bistctl value) s = .next (if getBits value 0 1 = 1 then
        ((s.select 0x31).jtagActs 2).startBist (getBits value 60 4) (getBits value 32 12) else s.select 0x31)) ∧
    (s.dbgLevel < 2 → exec (.extest boundary) s = .next (s.select 0xFF) ∧ exec .clamp s = .next (s.select 0xFF) ∧ exec .highz s = .next (s.select 0xFF) ∧
      exec (.ijtag bits) s = .next (s.select 0xFF) ∧ exec (.bistctl value) s = .next (s.select 0xFF)) ∧
    exec (.muxsel value) s = .next (if 1 ≤ s.dbgLevel then ((s.select 0x20).jtagActs 1).selectGroup value else s.select 0xFF) ∧
    exec (.tmSelWrite value) s = .next (if s.jtagEdge.contains 1 then s.fadd F.tmStatusRefused else s.selectGroup value)) ∧
  (∀ s u : State, u = s.fset F.tmBistCtrlStart 0 → exec .bistStart s = .next (if u.jtagEdge.contains 2 then u.fadd F.tmStatusRefused
    else u.startBist (u.f F.tmBistCtrlKind) (u.f F.tmBistCtrlTarget))) ∧
  (∀ (kind target : Nat) (s u : State), s.bist.contains (kind, target) = true →
    u = State.showBist { s with bist := s.bist.filter fun b => b != (kind, target) } →
    exec (.bistSessionEnd kind target true) s =
      .next (((u.fset F.tmBistStatusResult Status.ok.code).fset F.tmBistStatusKind kind).fset F.tmBistStatusTarget target) ∧
    exec (.bistSessionEnd kind target false) s =
      .next (((((u.fset F.tmBistStatusResult Status.aborted.code).fset F.tmBistStatusKind kind).fset F.tmBistStatusTarget target).fadd F.tmBistStatusFails).error
        0x3001 sevUncorrectable (bistDomain kind target) (if kind = 2 then target else 0xFF) 0 0 Status.aborted.code))

/-- For every directory entry with at least one shard and every row r: the home shard is (r >> BLK) mod S, below S, the local slot is ((r >> BLK) div S) *
2^BLK + (r mod 2^BLK), and the row formed from that shard and slot is r. For every shard k below S and slot l, the row formed from them has home shard
k and local slot l. Rests on R218. -/
def Obligations.RowsHaveOneHomeShardAndLocalSlot : Prop :=
  ∀ (d : Dir), 0 < d.shards →
    (∀ r : Nat, d.shardOf r = r >>> d.blk % d.shards ∧ d.shardOf r < d.shards ∧
      d.localOf r = r >>> d.blk / d.shards * 2 ^ d.blk + r % 2 ^ d.blk ∧ d.rowOf (d.shardOf r) (d.localOf r) = r) ∧
    (∀ k l : Nat, k < d.shards → d.shardOf (d.rowOf k l) = k ∧ d.localOf (d.rowOf k l) = l)

/-- For every error of no bit, of one bit and of two different bits of a codeword of 80 bits, the decoder flips exactly those bits; for every error of
three different bits it reports the word as uncorrectable. Rests on R187, R188, R189. -/
def Obligations.TheCodeCorrectsTwoBitsAndDetectsThree : Prop :=
  c80Correction 0 = some 0 ∧
  (∀ a : Nat, a < 80 → c80Correction (BitVec.twoPow 80 a) = some (BitVec.twoPow 80 a)) ∧
  (∀ a b : Nat, a < 80 → b < a → c80Correction (BitVec.twoPow 80 a ^^^ BitVec.twoPow 80 b) = some (BitVec.twoPow 80 a ^^^ BitVec.twoPow 80 b)) ∧
  (∀ a b c : Nat, a < 80 → b < a → c < b → c80Correction (BitVec.twoPow 80 a ^^^ BitVec.twoPow 80 b ^^^ BitVec.twoPow 80 c) = none)

/-- The effective value of a wait is (WAIT_VALUE + WBIAS + it * WSTEP) modulo 2^16. For every flag F and effective value V the wait is reached where ((F -
V) modulo 2^16) < 0x8000: a flag d ahead of V, for d below 0x8000, reaches it, and one d behind V, for d from 1 to 0x8000, does not. Rests on R170. -/
def Obligations.WaitsAreReachedByTheDistanceOfTheFlag : Prop :=
  (∀ value bias it wstep : Nat, waitTarget value bias it wstep = (value + bias + it * wstep) % 2 ^ 16) ∧
  (∀ (flag : BitVec 16) (v : Nat), v < 2 ^ 16 → (waitReached flag v = true ↔ (flag.toNat + 2 ^ 16 - v) % 2 ^ 16 < 0x8000)) ∧
  (∀ v d : Nat, d < 0x8000 → waitReached (BitVec.ofNat 16 (v + d)) v = true) ∧
  (∀ v d : Nat, 0 < d → d ≤ 0x8000 → d ≤ v → waitReached (BitVec.ofNat 16 (v - d)) v = false)

/-- For every row of U8s codes the element plane has one byte for each element, the byte i holding code i. For every row of U4s codes, the byte i of the
element plane holds element 2i in bits [3:0] and element 2i + 1 in bits [7:4], for every i whose two elements lie in the row. Formalises R59. -/
def Obligations.ElementCodesPackIntoTheElementPlane : Prop :=
  (∀ codes : List Nat, (packRow .u8s codes).length = codes.length ∧
    ∀ i c : Nat, codes[i]? = some c → (packRow .u8s codes)[i]? = some (BitVec.ofNat 8 c)) ∧
  (∀ (codes : List Nat) (i a b : Nat), codes[2 * i]? = some a → codes[2 * i + 1]? = some b → a < 16 → b < 16 →
    ∃ x : Byte, (packRow .u4s codes)[i]? = some x ∧ x.extractLsb' 0 4 = BitVec.ofNat 4 a ∧ x.extractLsb' 4 4 = BitVec.ofNat 4 b)

/-- Zeros of both signs compare equal; minus infinity is below every finite value and plus infinity above; NaN is neither equal to nor below any value,
itself included. Finite values compare as the exact numbers they are. Minimum and maximum return NaN where an operand is NaN, take minus zero as below
plus zero, and otherwise return the lesser and the greater. Formalises R60. -/
def Obligations.ComparisonsAndExtremaFollowIeee : Prop :=
  (∀ (a b : Bool) (e f : Int), (Val.fin a 0 e).eqv (.fin b 0 f) = true) ∧
  (∀ (a : Bool) (m : Nat) (e : Int), Val.ltv (.inf true) (.fin a m e) = true ∧ Val.ltv (.fin a m e) (.inf false) = true ∧
    Val.ltv (.inf true) (.inf false) = true) ∧
  (∀ x : Val, Val.eqv .nan x = false ∧ Val.eqv x .nan = false ∧ Val.ltv .nan x = false ∧ Val.ltv x .nan = false) ∧
  (∀ (a b : Bool) (m n : Nat) (e f : Int), let v : Rat := (if a then -1 else 1) * m * 2 ^ e
    let w : Rat := (if b then -1 else 1) * n * 2 ^ f
    (Val.ltv (.fin a m e) (.fin b n f) = true ↔ v < w) ∧ (Val.eqv (.fin a m e) (.fin b n f) = true ↔ v = w)) ∧
  (∀ x : Val, Val.minimum .nan x = .nan ∧ Val.minimum x .nan = .nan ∧ Val.maximum .nan x = .nan ∧ Val.maximum x .nan = .nan) ∧
  (∀ e f : Int, Val.minimum (.fin true 0 e) (.fin false 0 f) = .fin true 0 e ∧ Val.minimum (.fin false 0 f) (.fin true 0 e) = .fin true 0 e ∧
    Val.maximum (.fin true 0 e) (.fin false 0 f) = .fin false 0 f ∧ Val.maximum (.fin false 0 f) (.fin true 0 e) = .fin false 0 f) ∧
  (∀ x y : Val, x.ltv y = true → Val.minimum x y = x ∧ Val.minimum y x = x ∧ Val.maximum x y = y ∧ Val.maximum y x = y)

/-- For every register, old value, written value and lock state: each bit of a field reads after the write as Table 0.3 says of the access type of the
field (RO, RC and fields of the job loader keep it, RW takes the written bit, RWL takes it unless locked or the written value lies outside a range
that the spec states for the field (log entry 133), W1C clears where a 1 is written, W1S sets where a 1 is written), and each bit outside every field
keeps its value. Rests on R14, R16, Table 0.3. -/
def Obligations.SoftwareWritesFollowTheAccessTypes : Prop :=
  ∀ (locked : Bool) (r : Reg) (old new : Word),
    (∀ f ∈ r.name.fields, ∀ k, f.lo ≤ k → k < f.lo + f.w → (swWrite locked r old new).getLsbD k =
      match r.access f with
      | .ro | .rc | .jobLoader => old.getLsbD k
      | .rw => new.getLsbD k
      | .rwl => if locked || !fieldTakes r.name f.lo (getBits new f.lo f.w) then old.getLsbD k else new.getLsbD k
      | .w1c => old.getLsbD k && !new.getLsbD k
      | .w1s => old.getLsbD k || new.getLsbD k) ∧
    (∀ k, k < 64 → (∀ f ∈ r.name.fields, k < f.lo ∨ f.lo + f.w ≤ k) → (swWrite locked r old new).getLsbD k = old.getLsbD k)

/-- For every bank, offset and list of bytes within the bank: after the bytes are written, each of them reads back, and every byte outside them, of that
bank and of every other, reads as before. A write of an aligned Ledger word gives both copies that word, and every byte of any bank but those sixteen
reads as before; registers and flags are unchanged. While the bridge is in recovery it gives copy E the word and leaves it waiting for copy W, no
other byte changed. Rests on R25, R33, R34, R187. -/
def Obligations.StorageReadsBackAndLedgerWritesReachBothCopies : Prop :=
  (∀ (b : Bank) (off : Nat) (l : List Byte) (s : State), off + l.length ≤ 2 ^ 44 →
    (∀ (n : Nat) (h : n < l.length), (s.setBytes b off l).byte b (off + n) = l[n]) ∧
    (∀ (c : Bank) (k : Nat), k < 2 ^ 44 → c ≠ b ∨ k < off ∨ off + l.length ≤ k → (s.setBytes b off l).byte c k = s.byte c k)) ∧
  (∀ (w v : Nat) (s : State), w < 2 ^ 25 → s.bridgeOut = false →
    (∀ i, i < 8 → (s.setLed (8 * w) 8 v).byte .ledgerE (8 * w + i) = BitVec.ofNat 8 (v / 2 ^ (8 * i)) ∧
      (s.setLed (8 * w) 8 v).byte .ledgerW (8 * w + i) = BitVec.ofNat 8 (v / 2 ^ (8 * i))) ∧
    (∀ (c : Bank) (k : Nat), k < 2 ^ 44 → (c ≠ .ledgerE ∧ c ≠ .ledgerW) ∨ k < 8 * w ∨ 8 * w + 8 ≤ k → (s.setLed (8 * w) 8 v).byte c k = s.byte c k) ∧
    (s.setLed (8 * w) 8 v).regs = s.regs ∧ (s.setLed (8 * w) 8 v).flags = s.flags) ∧
  (∀ (w v : Nat) (s : State), w < 2 ^ 25 → s.bridgeOut = true →
    (∀ i, i < 8 → (s.setLed (8 * w) 8 v).byte .ledgerE (8 * w + i) = BitVec.ofNat 8 (v / 2 ^ (8 * i))) ∧
    (∀ (c : Bank) (k : Nat), k < 2 ^ 44 → c ≠ .ledgerE ∨ k < 8 * w ∨ 8 * w + 8 ≤ k → (s.setLed (8 * w) 8 v).byte c k = s.byte c k) ∧
    (s.setLed (8 * w) 8 v).bridge = s.bridge.filter (fun x => x.1 != w) ++ [(w, BitVec.ofNat 64 v)])

/-- Of the state after reset: every register reads the word of its Reset column for the grade; every flag reads 0; every byte of storage reads 0 (log
entry 6: the model takes what the boot fill leaves); no command waits, no entry executes, no group, unit or flow is open. The grade is PSN-8128 (log
entry 5). Rests on R17, R169, R450, log entries 5 and 6. -/
def Obligations.ResetRegistersHoldTheirResetColumn : Prop :=
  (∀ r : Reg, State.reset.rd r = r.resetWord .psn8128) ∧ (∀ die i, State.reset.flag die i = 0) ∧ (∀ b off, State.reset.byte b off = 0) ∧
  State.reset.pending = [] ∧ State.reset.execs = [] ∧ State.reset.groups = [] ∧ State.reset.units = [] ∧ State.reset.flows = [] ∧
  State.reset.grade = .psn8128 ∧ State.reset.f F.hallCtrlBeat = 10 ∧ State.reset.f F.pkgCtrlHoveT = 103 ∧ State.reset.now = 0

/-- For every next state of the test-port instructions that shift or drive pins, of TM_SEL, of a new debug challenge, of the SPDM requests, of the window
registers and refused accesses, of EOI, PENDING and MSI-X, of the address answers of a port and of the delay messages of PTP: storage with its check
state and poison, flags, queues, entries in execution, reduction groups, moving runs, Castling units, the step and the boot state are equal to those
before. Rests on R488, R491, R500, R512, R515, R547, R548. -/
def Obligations.LookingCommandsLeaveTheWorkAlone : Prop :=
  (∀ s t : State, exec .idcode s = .next t ∨ exec .bypass s = .next t ∨ exec .clamp s = .next t ∨ exec .highz s = .next t ∨ exec .dbgstatus s = .next t ∨
    exec .trstNAssert s = .next t ∨ exec .newChal s = .next t ∨ exec .jtagChallenge s = .next t → SameWork s t) ∧
  (∀ (n : Nat) (value : Word) (bits : List Bool) (s t : State), exec (.samplePreload n) s = .next t ∨ exec (.extest n) s = .next t ∨
    exec (.ijtag bits) s = .next t ∨ exec (.muxsel value) s = .next t ∨ exec (.tmSelWrite value) s = .next t → SameWork s t) ∧
  (∀ (tr : Transport) (a b : Nat) (ok : Bool) (nonce : BitVec 256) (key : List Byte) (s t : State),
    exec (.getVersion tr) s = .next t ∨ exec (.getCapabilities tr) s = .next t ∨ exec (.negotiateAlgorithms tr ok) s = .next t ∨
    exec (.getDigests tr) s = .next t ∨ exec (.getCertificate tr a b) s = .next t ∨ exec (.challenge tr nonce) s = .next t ∨
    exec (.getMeasurements tr a nonce) s = .next t ∨ exec (.kemx tr key) s = .next t ∨ exec (.pskExchange tr key) s = .next t ∨
    exec (.pskFinish tr ok) s = .next t ∨ exec (.keyUpdate tr) s = .next t ∨ exec (.heartbeat tr) s = .next t ∨ exec (.endSession tr) s = .next t ∨
    exec (.ideKm tr ok) s = .next t → SameWork s t) ∧
  (∀ (n : Nat) (value : Word) (s t : State), exec (.hostWinWrite value) s = .next t ∨ exec (.ledgerWinWrite value) s = .next t ∨
    exec (.ledgerWindowWrite n value) s = .next t ∨ exec (.regBarBadAccess n) s = .next t ∨ exec (.interruptEoi n) s = .next t ∨
    exec (.pendingClear n) s = .next t ∨ exec (.msixMessage n) s = .next t → SameWork s t) ∧
  (∀ (port target : Nat) (delay : Int) (s t : State), exec (.arpRequest port target) s = .next t ∨ exec (.neighbourSolicitation port target) s = .next t ∨
    exec (.ptpDelayResp port delay) s = .next t ∨ exec (.ptpDelayReqSend port) s = .next t → SameWork s t)

/-- For every word of HBM space: its place in the reserves lies in the same stack, in the j-th other channel in ascending number, j being its slot divided
by 196,608, at slot 6,094,848 plus its slot modulo 196,608 and at the same word of the granule; and the word that this place stands for is the word
itself. For every reserve word of a channel of a stack and every other channel of the stack, the word it stands for lies in HBM space, in that
channel, and has that reserve word as its place: the 31 reserves hold exactly the slots of one channel. Rests on R205, R212. -/
def Obligations.ReservesHoldTheSlotsOfOneChannel : Prop :=
  (∀ w : Nat, 8 * w < hbmSpace →
    let p := hbmPlace (8 * w)
    let r := hbmPlace (8 * reserveWord w)
    r.stack = p.stack ∧ ((List.range 32).filter (fun c => c ≠ p.channel))[p.slot / 196608]? = some r.channel ∧ r.slot = 6094848 + p.slot % 196608 ∧
      reserveWord w % 32 = w % 32 ∧ reservedFor p.channel (reserveWord w) = w) ∧
  (∀ x c : Nat, c < 32 → hbmSpace ≤ 8 * x → (hbmPlace (8 * x)).slot < 6291456 → (hbmPlace (8 * x)).channel ≠ c →
    8 * reservedFor c x < hbmSpace ∧ (hbmPlace (8 * reservedFor c x)).channel = c ∧ (hbmPlace (8 * reservedFor c x)).stack = (hbmPlace (8 * x)).stack ∧
      reserveWord (reservedFor c x) = x)

/-- For every packet whose fields fit the widths of Table 10.3, the header that the part forms is 48 bytes, and the packet that the part reads from that
header with the payload is the packet itself: VER, TYPE, the flags, CLASS, both flows and parts, PATH, KEY, FEEDER, PSN, ACK_PSN, WIN, MSG, OFFSET,
LEN, TS and TXC, each at every value of its width. The 48 bytes, the most significant first, spell one number of 384 bits, for every packet. Rests on
R339. -/
def Obligations.NaeloHeadersKeepEveryField : Prop :=
  (∀ p : Pkt, p.ver < 2 ^ 4 → p.cls < 2 ^ 3 → p.dstFlow < 2 ^ 12 → p.dstPart < 2 ^ 16 → p.srcPart < 2 ^ 16 → p.srcFlow < 2 ^ 12 → p.path < 2 ^ 8 →
    p.key < 2 ^ 4 → p.psn < 2 ^ 32 → p.ackPsn < 2 ^ 32 → p.win < 2 ^ 32 → p.msg < 2 ^ 32 → p.offset < 2 ^ 32 → p.len < 2 ^ 16 → p.ts < 2 ^ 32 → p.txc < 2 ^ 64 →
    (headerOf p).length = 48 ∧ pktOf (headerOf p) p.payload p.sealOk p.ce = p) ∧
  (∀ p : Pkt, beAt (headerOf p) 0 48 = headerNat p ∧ headerNat p < 2 ^ 384)
end

