-- ==== Sys2Proof/Laws/State.lean ====
section
/-! SUPPORT. What each update of the state leaves alone and what it sets: one lemma for each field and update. -/

namespace Sys2Proof.Laws

open Sys2Proof.Machine

set_option Elab.async false

variable (s : State)

/-! ### wr -/

@[simp] theorem wr_grade (r : Reg) (v : Word) : (s.wr r v).grade = s.grade := rfl
@[simp] theorem wr_mem (r : Reg) (v : Word) : (s.wr r v).mem = s.mem := rfl
@[simp] theorem wr_errs (r : Reg) (v : Word) : (s.wr r v).errs = s.errs := rfl
@[simp] theorem wr_poison (r : Reg) (v : Word) : (s.wr r v).poison = s.poison := rfl
@[simp] theorem wr_flags (r : Reg) (v : Word) : (s.wr r v).flags = s.flags := rfl
@[simp] theorem wr_queues (r : Reg) (v : Word) : (s.wr r v).queues = s.queues := rfl
@[simp] theorem wr_seen (r : Reg) (v : Word) : (s.wr r v).seen = s.seen := rfl
@[simp] theorem wr_execs (r : Reg) (v : Word) : (s.wr r v).execs = s.execs := rfl
@[simp] theorem wr_nextId (r : Reg) (v : Word) : (s.wr r v).nextId = s.nextId := rfl
@[simp] theorem wr_stale (r : Reg) (v : Word) : (s.wr r v).stale = s.stale := rfl
@[simp] theorem wr_groups (r : Reg) (v : Word) : (s.wr r v).groups = s.groups := rfl
@[simp] theorem wr_waitingLeaves (r : Reg) (v : Word) : (s.wr r v).waitingLeaves = s.waitingLeaves := rfl
@[simp] theorem wr_staleLeaves (r : Reg) (v : Word) : (s.wr r v).staleLeaves = s.staleLeaves := rfl
@[simp] theorem wr_dirty (r : Reg) (v : Word) : (s.wr r v).dirty = s.dirty := rfl
@[simp] theorem wr_ships (r : Reg) (v : Word) : (s.wr r v).ships = s.ships := rfl
@[simp] theorem wr_ward (r : Reg) (v : Word) : (s.wr r v).ward = s.ward := rfl
@[simp] theorem wr_moves (r : Reg) (v : Word) : (s.wr r v).moves = s.moves := rfl
@[simp] theorem wr_units (r : Reg) (v : Word) : (s.wr r v).units = s.units := rfl
@[simp] theorem wr_jcount (r : Reg) (v : Word) : (s.wr r v).jcount = s.jcount := rfl
@[simp] theorem wr_feeds (r : Reg) (v : Word) : (s.wr r v).feeds = s.feeds := rfl
@[simp] theorem wr_vxeReady (r : Reg) (v : Word) : (s.wr r v).vxeReady = s.vxeReady := rfl
@[simp] theorem wr_step (r : Reg) (v : Word) : (s.wr r v).step = s.step := rfl
@[simp] theorem wr_hallPending (r : Reg) (v : Word) : (s.wr r v).hallPending = s.hallPending := rfl
@[simp] theorem wr_hallAsked (r : Reg) (v : Word) : (s.wr r v).hallAsked = s.hallAsked := rfl
@[simp] theorem wr_beats (r : Reg) (v : Word) : (s.wr r v).beats = s.beats := rfl
@[simp] theorem wr_collectives (r : Reg) (v : Word) : (s.wr r v).collectives = s.collectives := rfl
@[simp] theorem wr_flows (r : Reg) (v : Word) : (s.wr r v).flows = s.flows := rfl
@[simp] theorem wr_sessions (r : Reg) (v : Word) : (s.wr r v).sessions = s.sessions := rfl
@[simp] theorem wr_exchanges (r : Reg) (v : Word) : (s.wr r v).exchanges = s.exchanges := rfl
@[simp] theorem wr_ptp (r : Reg) (v : Word) : (s.wr r v).ptp = s.ptp := rfl
@[simp] theorem wr_sideband (r : Reg) (v : Word) : (s.wr r v).sideband = s.sideband := rfl
@[simp] theorem wr_lullSince (r : Reg) (v : Word) : (s.wr r v).lullSince = s.lullSince := rfl
@[simp] theorem wr_coreRecs (r : Reg) (v : Word) : (s.wr r v).coreRecs = s.coreRecs := rfl
@[simp] theorem wr_recovered (r : Reg) (v : Word) : (s.wr r v).recovered = s.recovered := rfl
@[simp] theorem wr_lost (r : Reg) (v : Word) : (s.wr r v).lost = s.lost := rfl
@[simp] theorem wr_retired (r : Reg) (v : Word) : (s.wr r v).retired = s.retired := rfl
@[simp] theorem wr_promotedAt (r : Reg) (v : Word) : (s.wr r v).promotedAt = s.promotedAt := rfl
@[simp] theorem wr_retrains (r : Reg) (v : Word) : (s.wr r v).retrains = s.retrains := rfl
@[simp] theorem wr_retuneNext (r : Reg) (v : Word) : (s.wr r v).retuneNext = s.retuneNext := rfl
@[simp] theorem wr_patrol (r : Reg) (v : Word) : (s.wr r v).patrol = s.patrol := rfl
@[simp] theorem wr_linkFails (r : Reg) (v : Word) : (s.wr r v).linkFails = s.linkFails := rfl
@[simp] theorem wr_linksOut (r : Reg) (v : Word) : (s.wr r v).linksOut = s.linksOut := rfl
@[simp] theorem wr_slots (r : Reg) (v : Word) : (s.wr r v).slots = s.slots := rfl
@[simp] theorem wr_boot (r : Reg) (v : Word) : (s.wr r v).boot = s.boot := rfl
@[simp] theorem wr_owners (r : Reg) (v : Word) : (s.wr r v).owners = s.owners := rfl
@[simp] theorem wr_mlog (r : Reg) (v : Word) : (s.wr r v).mlog = s.mlog := rfl
@[simp] theorem wr_rings (r : Reg) (v : Word) : (s.wr r v).rings = s.rings := rfl
@[simp] theorem wr_edgeSup (r : Reg) (v : Word) : (s.wr r v).edgeSup = s.edgeSup := rfl
@[simp] theorem wr_handlers (r : Reg) (v : Word) : (s.wr r v).handlers = s.handlers := rfl
@[simp] theorem wr_msixOn (r : Reg) (v : Word) : (s.wr r v).msixOn = s.msixOn := rfl
@[simp] theorem wr_msixMask (r : Reg) (v : Word) : (s.wr r v).msixMask = s.msixMask := rfl
@[simp] theorem wr_msixRaised (r : Reg) (v : Word) : (s.wr r v).msixRaised = s.msixRaised := rfl
@[simp] theorem wr_spdmDoe (r : Reg) (v : Word) : (s.wr r v).spdmDoe = s.spdmDoe := rfl
@[simp] theorem wr_spdmMctp (r : Reg) (v : Word) : (s.wr r v).spdmMctp = s.spdmMctp := rfl
@[simp] theorem wr_challenge (r : Reg) (v : Word) : (s.wr r v).challenge = s.challenge := rfl
@[simp] theorem wr_jtag (r : Reg) (v : Word) : (s.wr r v).jtag = s.jtag := rfl
@[simp] theorem wr_muxNext (r : Reg) (v : Word) : (s.wr r v).muxNext = s.muxNext := rfl
@[simp] theorem wr_bist (r : Reg) (v : Word) : (s.wr r v).bist = s.bist := rfl
@[simp] theorem wr_keeperApplies (r : Reg) (v : Word) : (s.wr r v).keeperApplies = s.keeperApplies := rfl
@[simp] theorem wr_lastBeat (r : Reg) (v : Word) : (s.wr r v).lastBeat = s.lastBeat := rfl
@[simp] theorem wr_paused (r : Reg) (v : Word) : (s.wr r v).paused = s.paused := rfl
@[simp] theorem wr_alert (r : Reg) (v : Word) : (s.wr r v).alert = s.alert := rfl
@[simp] theorem wr_thermtrip (r : Reg) (v : Word) : (s.wr r v).thermtrip = s.thermtrip := rfl
@[simp] theorem wr_latched (r : Reg) (v : Word) : (s.wr r v).latched = s.latched := rfl
@[simp] theorem wr_out (r : Reg) (v : Word) : (s.wr r v).out = s.out := rfl
@[simp] theorem wr_free (r : Reg) (v : Word) : (s.wr r v).free = s.free := rfl
@[simp] theorem wr_draws (r : Reg) (v : Word) : (s.wr r v).draws = s.draws := rfl
@[simp] theorem wr_promotions (r : Reg) (v : Word) : (s.wr r v).promotions = s.promotions := rfl
@[simp] theorem wr_hsSeen (r : Reg) (v : Word) : (s.wr r v).hsSeen = s.hsSeen := rfl
@[simp] theorem wr_gateways (r : Reg) (v : Word) : (s.wr r v).gateways = s.gateways := rfl
@[simp] theorem wr_tested (r : Reg) (v : Word) : (s.wr r v).tested = s.tested := rfl
@[simp] theorem wr_dropRun (r : Reg) (v : Word) : (s.wr r v).dropRun = s.dropRun := rfl
@[simp] theorem wr_fullDebug (r : Reg) (v : Word) : (s.wr r v).fullDebug = s.fullDebug := rfl
@[simp] theorem wr_jtagEdge (r : Reg) (v : Word) : (s.wr r v).jtagEdge = s.jtagEdge := rfl
@[simp] theorem wr_dbgOut (r : Reg) (v : Word) : (s.wr r v).dbgOut = s.dbgOut := rfl
@[simp] theorem wr_pcieClock (r : Reg) (v : Word) : (s.wr r v).pcieClock = s.pcieClock := rfl
@[simp] theorem wr_badReads (r : Reg) (v : Word) : (s.wr r v).badReads = s.badReads := rfl
@[simp] theorem wr_widened (r : Reg) (v : Word) : (s.wr r v).widened = s.widened := rfl
@[simp] theorem wr_edgeCmds (r : Reg) (v : Word) : (s.wr r v).edgeCmds = s.edgeCmds := rfl
@[simp] theorem wr_tickRegs (r : Reg) (v : Word) : (s.wr r v).tickRegs = s.tickRegs := rfl
@[simp] theorem wr_released (r : Reg) (v : Word) : (s.wr r v).released = s.released := rfl
@[simp] theorem wr_releases (r : Reg) (v : Word) : (s.wr r v).releases = s.releases := rfl
@[simp] theorem wr_arrivals (r : Reg) (v : Word) : (s.wr r v).arrivals = s.arrivals := rfl
@[simp] theorem wr_lines (r : Reg) (v : Word) : (s.wr r v).lines = s.lines := rfl
@[simp] theorem wr_carried (r : Reg) (v : Word) : (s.wr r v).carried = s.carried := rfl
@[simp] theorem wr_idle (r : Reg) (v : Word) : (s.wr r v).idle = s.idle := rfl
@[simp] theorem wr_retuneTemps (r : Reg) (v : Word) : (s.wr r v).retuneTemps = s.retuneTemps := rfl
@[simp] theorem wr_sweeps (r : Reg) (v : Word) : (s.wr r v).sweeps = s.sweeps := rfl
@[simp] theorem wr_gatewayAt (r : Reg) (v : Word) : (s.wr r v).gatewayAt = s.gatewayAt := rfl
@[simp] theorem wr_retuneAt (r : Reg) (v : Word) : (s.wr r v).retuneAt = s.retuneAt := rfl
@[simp] theorem wr_quiet (r : Reg) (v : Word) : (s.wr r v).quiet = s.quiet := rfl
@[simp] theorem wr_tickAdds (r : Reg) (v : Word) : (s.wr r v).tickAdds = s.tickAdds := rfl
@[simp] theorem wr_bridge (r : Reg) (v : Word) : (s.wr r v).bridge = s.bridge := rfl
@[simp] theorem wr_pending (r : Reg) (v : Word) : (s.wr r v).pending = s.pending := rfl

/-! ### fset -/

@[simp] theorem fset_grade (f : Fld) (v i j : Nat) : (s.fset f v i j).grade = s.grade := rfl
@[simp] theorem fset_mem (f : Fld) (v i j : Nat) : (s.fset f v i j).mem = s.mem := rfl
@[simp] theorem fset_errs (f : Fld) (v i j : Nat) : (s.fset f v i j).errs = s.errs := rfl
@[simp] theorem fset_poison (f : Fld) (v i j : Nat) : (s.fset f v i j).poison = s.poison := rfl
@[simp] theorem fset_flags (f : Fld) (v i j : Nat) : (s.fset f v i j).flags = s.flags := rfl
@[simp] theorem fset_queues (f : Fld) (v i j : Nat) : (s.fset f v i j).queues = s.queues := rfl
@[simp] theorem fset_seen (f : Fld) (v i j : Nat) : (s.fset f v i j).seen = s.seen := rfl
@[simp] theorem fset_execs (f : Fld) (v i j : Nat) : (s.fset f v i j).execs = s.execs := rfl
@[simp] theorem fset_nextId (f : Fld) (v i j : Nat) : (s.fset f v i j).nextId = s.nextId := rfl
@[simp] theorem fset_stale (f : Fld) (v i j : Nat) : (s.fset f v i j).stale = s.stale := rfl
@[simp] theorem fset_groups (f : Fld) (v i j : Nat) : (s.fset f v i j).groups = s.groups := rfl
@[simp] theorem fset_waitingLeaves (f : Fld) (v i j : Nat) : (s.fset f v i j).waitingLeaves = s.waitingLeaves := rfl
@[simp] theorem fset_staleLeaves (f : Fld) (v i j : Nat) : (s.fset f v i j).staleLeaves = s.staleLeaves := rfl
@[simp] theorem fset_dirty (f : Fld) (v i j : Nat) : (s.fset f v i j).dirty = s.dirty := rfl
@[simp] theorem fset_ships (f : Fld) (v i j : Nat) : (s.fset f v i j).ships = s.ships := rfl
@[simp] theorem fset_ward (f : Fld) (v i j : Nat) : (s.fset f v i j).ward = s.ward := rfl
@[simp] theorem fset_moves (f : Fld) (v i j : Nat) : (s.fset f v i j).moves = s.moves := rfl
@[simp] theorem fset_units (f : Fld) (v i j : Nat) : (s.fset f v i j).units = s.units := rfl
@[simp] theorem fset_jcount (f : Fld) (v i j : Nat) : (s.fset f v i j).jcount = s.jcount := rfl
@[simp] theorem fset_feeds (f : Fld) (v i j : Nat) : (s.fset f v i j).feeds = s.feeds := rfl
@[simp] theorem fset_vxeReady (f : Fld) (v i j : Nat) : (s.fset f v i j).vxeReady = s.vxeReady := rfl
@[simp] theorem fset_step (f : Fld) (v i j : Nat) : (s.fset f v i j).step = s.step := rfl
@[simp] theorem fset_hallPending (f : Fld) (v i j : Nat) : (s.fset f v i j).hallPending = s.hallPending := rfl
@[simp] theorem fset_hallAsked (f : Fld) (v i j : Nat) : (s.fset f v i j).hallAsked = s.hallAsked := rfl
@[simp] theorem fset_beats (f : Fld) (v i j : Nat) : (s.fset f v i j).beats = s.beats := rfl
@[simp] theorem fset_collectives (f : Fld) (v i j : Nat) : (s.fset f v i j).collectives = s.collectives := rfl
@[simp] theorem fset_flows (f : Fld) (v i j : Nat) : (s.fset f v i j).flows = s.flows := rfl
@[simp] theorem fset_sessions (f : Fld) (v i j : Nat) : (s.fset f v i j).sessions = s.sessions := rfl
@[simp] theorem fset_exchanges (f : Fld) (v i j : Nat) : (s.fset f v i j).exchanges = s.exchanges := rfl
@[simp] theorem fset_ptp (f : Fld) (v i j : Nat) : (s.fset f v i j).ptp = s.ptp := rfl
@[simp] theorem fset_sideband (f : Fld) (v i j : Nat) : (s.fset f v i j).sideband = s.sideband := rfl
@[simp] theorem fset_lullSince (f : Fld) (v i j : Nat) : (s.fset f v i j).lullSince = s.lullSince := rfl
@[simp] theorem fset_coreRecs (f : Fld) (v i j : Nat) : (s.fset f v i j).coreRecs = s.coreRecs := rfl
@[simp] theorem fset_recovered (f : Fld) (v i j : Nat) : (s.fset f v i j).recovered = s.recovered := rfl
@[simp] theorem fset_lost (f : Fld) (v i j : Nat) : (s.fset f v i j).lost = s.lost := rfl
@[simp] theorem fset_retired (f : Fld) (v i j : Nat) : (s.fset f v i j).retired = s.retired := rfl
@[simp] theorem fset_promotedAt (f : Fld) (v i j : Nat) : (s.fset f v i j).promotedAt = s.promotedAt := rfl
@[simp] theorem fset_retrains (f : Fld) (v i j : Nat) : (s.fset f v i j).retrains = s.retrains := rfl
@[simp] theorem fset_retuneNext (f : Fld) (v i j : Nat) : (s.fset f v i j).retuneNext = s.retuneNext := rfl
@[simp] theorem fset_patrol (f : Fld) (v i j : Nat) : (s.fset f v i j).patrol = s.patrol := rfl
@[simp] theorem fset_linkFails (f : Fld) (v i j : Nat) : (s.fset f v i j).linkFails = s.linkFails := rfl
@[simp] theorem fset_linksOut (f : Fld) (v i j : Nat) : (s.fset f v i j).linksOut = s.linksOut := rfl
@[simp] theorem fset_slots (f : Fld) (v i j : Nat) : (s.fset f v i j).slots = s.slots := rfl
@[simp] theorem fset_boot (f : Fld) (v i j : Nat) : (s.fset f v i j).boot = s.boot := rfl
@[simp] theorem fset_owners (f : Fld) (v i j : Nat) : (s.fset f v i j).owners = s.owners := rfl
@[simp] theorem fset_mlog (f : Fld) (v i j : Nat) : (s.fset f v i j).mlog = s.mlog := rfl
@[simp] theorem fset_rings (f : Fld) (v i j : Nat) : (s.fset f v i j).rings = s.rings := rfl
@[simp] theorem fset_edgeSup (f : Fld) (v i j : Nat) : (s.fset f v i j).edgeSup = s.edgeSup := rfl
@[simp] theorem fset_handlers (f : Fld) (v i j : Nat) : (s.fset f v i j).handlers = s.handlers := rfl
@[simp] theorem fset_msixOn (f : Fld) (v i j : Nat) : (s.fset f v i j).msixOn = s.msixOn := rfl
@[simp] theorem fset_msixMask (f : Fld) (v i j : Nat) : (s.fset f v i j).msixMask = s.msixMask := rfl
@[simp] theorem fset_msixRaised (f : Fld) (v i j : Nat) : (s.fset f v i j).msixRaised = s.msixRaised := rfl
@[simp] theorem fset_spdmDoe (f : Fld) (v i j : Nat) : (s.fset f v i j).spdmDoe = s.spdmDoe := rfl
@[simp] theorem fset_spdmMctp (f : Fld) (v i j : Nat) : (s.fset f v i j).spdmMctp = s.spdmMctp := rfl
@[simp] theorem fset_challenge (f : Fld) (v i j : Nat) : (s.fset f v i j).challenge = s.challenge := rfl
@[simp] theorem fset_jtag (f : Fld) (v i j : Nat) : (s.fset f v i j).jtag = s.jtag := rfl
@[simp] theorem fset_muxNext (f : Fld) (v i j : Nat) : (s.fset f v i j).muxNext = s.muxNext := rfl
@[simp] theorem fset_bist (f : Fld) (v i j : Nat) : (s.fset f v i j).bist = s.bist := rfl
@[simp] theorem fset_keeperApplies (f : Fld) (v i j : Nat) : (s.fset f v i j).keeperApplies = s.keeperApplies := rfl
@[simp] theorem fset_lastBeat (f : Fld) (v i j : Nat) : (s.fset f v i j).lastBeat = s.lastBeat := rfl
@[simp] theorem fset_paused (f : Fld) (v i j : Nat) : (s.fset f v i j).paused = s.paused := rfl
@[simp] theorem fset_alert (f : Fld) (v i j : Nat) : (s.fset f v i j).alert = s.alert := rfl
@[simp] theorem fset_thermtrip (f : Fld) (v i j : Nat) : (s.fset f v i j).thermtrip = s.thermtrip := rfl
@[simp] theorem fset_latched (f : Fld) (v i j : Nat) : (s.fset f v i j).latched = s.latched := rfl
@[simp] theorem fset_out (f : Fld) (v i j : Nat) : (s.fset f v i j).out = s.out := rfl
@[simp] theorem fset_free (f : Fld) (v i j : Nat) : (s.fset f v i j).free = s.free := rfl
@[simp] theorem fset_draws (f : Fld) (v i j : Nat) : (s.fset f v i j).draws = s.draws := rfl
@[simp] theorem fset_promotions (f : Fld) (v i j : Nat) : (s.fset f v i j).promotions = s.promotions := rfl
@[simp] theorem fset_hsSeen (f : Fld) (v i j : Nat) : (s.fset f v i j).hsSeen = s.hsSeen := rfl
@[simp] theorem fset_gateways (f : Fld) (v i j : Nat) : (s.fset f v i j).gateways = s.gateways := rfl
@[simp] theorem fset_tested (f : Fld) (v i j : Nat) : (s.fset f v i j).tested = s.tested := rfl
@[simp] theorem fset_dropRun (f : Fld) (v i j : Nat) : (s.fset f v i j).dropRun = s.dropRun := rfl
@[simp] theorem fset_fullDebug (f : Fld) (v i j : Nat) : (s.fset f v i j).fullDebug = s.fullDebug := rfl
@[simp] theorem fset_jtagEdge (f : Fld) (v i j : Nat) : (s.fset f v i j).jtagEdge = s.jtagEdge := rfl
@[simp] theorem fset_dbgOut (f : Fld) (v i j : Nat) : (s.fset f v i j).dbgOut = s.dbgOut := rfl
@[simp] theorem fset_pcieClock (f : Fld) (v i j : Nat) : (s.fset f v i j).pcieClock = s.pcieClock := rfl
@[simp] theorem fset_badReads (f : Fld) (v i j : Nat) : (s.fset f v i j).badReads = s.badReads := rfl
@[simp] theorem fset_widened (f : Fld) (v i j : Nat) : (s.fset f v i j).widened = s.widened := rfl
@[simp] theorem fset_edgeCmds (f : Fld) (v i j : Nat) : (s.fset f v i j).edgeCmds = s.edgeCmds := rfl
@[simp] theorem fset_tickRegs (f : Fld) (v i j : Nat) : (s.fset f v i j).tickRegs = s.tickRegs := rfl
@[simp] theorem fset_released (f : Fld) (v i j : Nat) : (s.fset f v i j).released = s.released := rfl
@[simp] theorem fset_releases (f : Fld) (v i j : Nat) : (s.fset f v i j).releases = s.releases := rfl
@[simp] theorem fset_arrivals (f : Fld) (v i j : Nat) : (s.fset f v i j).arrivals = s.arrivals := rfl
@[simp] theorem fset_lines (f : Fld) (v i j : Nat) : (s.fset f v i j).lines = s.lines := rfl
@[simp] theorem fset_carried (f : Fld) (v i j : Nat) : (s.fset f v i j).carried = s.carried := rfl
@[simp] theorem fset_idle (f : Fld) (v i j : Nat) : (s.fset f v i j).idle = s.idle := rfl
@[simp] theorem fset_retuneTemps (f : Fld) (v i j : Nat) : (s.fset f v i j).retuneTemps = s.retuneTemps := rfl
@[simp] theorem fset_sweeps (f : Fld) (v i j : Nat) : (s.fset f v i j).sweeps = s.sweeps := rfl
@[simp] theorem fset_gatewayAt (f : Fld) (v i j : Nat) : (s.fset f v i j).gatewayAt = s.gatewayAt := rfl
@[simp] theorem fset_retuneAt (f : Fld) (v i j : Nat) : (s.fset f v i j).retuneAt = s.retuneAt := rfl
@[simp] theorem fset_quiet (f : Fld) (v i j : Nat) : (s.fset f v i j).quiet = s.quiet := rfl
@[simp] theorem fset_tickAdds (f : Fld) (v i j : Nat) : (s.fset f v i j).tickAdds = s.tickAdds := rfl
@[simp] theorem fset_bridge (f : Fld) (v i j : Nat) : (s.fset f v i j).bridge = s.bridge := rfl
@[simp] theorem fset_pending (f : Fld) (v i j : Nat) : (s.fset f v i j).pending = s.pending := rfl

/-! ### fadd -/

@[simp] theorem fadd_grade (f : Fld) (n i j : Nat) : (s.fadd f n i j).grade = s.grade := rfl
@[simp] theorem fadd_mem (f : Fld) (n i j : Nat) : (s.fadd f n i j).mem = s.mem := rfl
@[simp] theorem fadd_errs (f : Fld) (n i j : Nat) : (s.fadd f n i j).errs = s.errs := rfl
@[simp] theorem fadd_poison (f : Fld) (n i j : Nat) : (s.fadd f n i j).poison = s.poison := rfl
@[simp] theorem fadd_flags (f : Fld) (n i j : Nat) : (s.fadd f n i j).flags = s.flags := rfl
@[simp] theorem fadd_queues (f : Fld) (n i j : Nat) : (s.fadd f n i j).queues = s.queues := rfl
@[simp] theorem fadd_seen (f : Fld) (n i j : Nat) : (s.fadd f n i j).seen = s.seen := rfl
@[simp] theorem fadd_execs (f : Fld) (n i j : Nat) : (s.fadd f n i j).execs = s.execs := rfl
@[simp] theorem fadd_nextId (f : Fld) (n i j : Nat) : (s.fadd f n i j).nextId = s.nextId := rfl
@[simp] theorem fadd_stale (f : Fld) (n i j : Nat) : (s.fadd f n i j).stale = s.stale := rfl
@[simp] theorem fadd_groups (f : Fld) (n i j : Nat) : (s.fadd f n i j).groups = s.groups := rfl
@[simp] theorem fadd_waitingLeaves (f : Fld) (n i j : Nat) : (s.fadd f n i j).waitingLeaves = s.waitingLeaves := rfl
@[simp] theorem fadd_staleLeaves (f : Fld) (n i j : Nat) : (s.fadd f n i j).staleLeaves = s.staleLeaves := rfl
@[simp] theorem fadd_dirty (f : Fld) (n i j : Nat) : (s.fadd f n i j).dirty = s.dirty := rfl
@[simp] theorem fadd_ships (f : Fld) (n i j : Nat) : (s.fadd f n i j).ships = s.ships := rfl
@[simp] theorem fadd_ward (f : Fld) (n i j : Nat) : (s.fadd f n i j).ward = s.ward := rfl
@[simp] theorem fadd_moves (f : Fld) (n i j : Nat) : (s.fadd f n i j).moves = s.moves := rfl
@[simp] theorem fadd_units (f : Fld) (n i j : Nat) : (s.fadd f n i j).units = s.units := rfl
@[simp] theorem fadd_jcount (f : Fld) (n i j : Nat) : (s.fadd f n i j).jcount = s.jcount := rfl
@[simp] theorem fadd_feeds (f : Fld) (n i j : Nat) : (s.fadd f n i j).feeds = s.feeds := rfl
@[simp] theorem fadd_vxeReady (f : Fld) (n i j : Nat) : (s.fadd f n i j).vxeReady = s.vxeReady := rfl
@[simp] theorem fadd_step (f : Fld) (n i j : Nat) : (s.fadd f n i j).step = s.step := rfl
@[simp] theorem fadd_hallPending (f : Fld) (n i j : Nat) : (s.fadd f n i j).hallPending = s.hallPending := rfl
@[simp] theorem fadd_hallAsked (f : Fld) (n i j : Nat) : (s.fadd f n i j).hallAsked = s.hallAsked := rfl
@[simp] theorem fadd_beats (f : Fld) (n i j : Nat) : (s.fadd f n i j).beats = s.beats := rfl
@[simp] theorem fadd_collectives (f : Fld) (n i j : Nat) : (s.fadd f n i j).collectives = s.collectives := rfl
@[simp] theorem fadd_flows (f : Fld) (n i j : Nat) : (s.fadd f n i j).flows = s.flows := rfl
@[simp] theorem fadd_sessions (f : Fld) (n i j : Nat) : (s.fadd f n i j).sessions = s.sessions := rfl
@[simp] theorem fadd_exchanges (f : Fld) (n i j : Nat) : (s.fadd f n i j).exchanges = s.exchanges := rfl
@[simp] theorem fadd_ptp (f : Fld) (n i j : Nat) : (s.fadd f n i j).ptp = s.ptp := rfl
@[simp] theorem fadd_sideband (f : Fld) (n i j : Nat) : (s.fadd f n i j).sideband = s.sideband := rfl
@[simp] theorem fadd_lullSince (f : Fld) (n i j : Nat) : (s.fadd f n i j).lullSince = s.lullSince := rfl
@[simp] theorem fadd_coreRecs (f : Fld) (n i j : Nat) : (s.fadd f n i j).coreRecs = s.coreRecs := rfl
@[simp] theorem fadd_recovered (f : Fld) (n i j : Nat) : (s.fadd f n i j).recovered = s.recovered := rfl
@[simp] theorem fadd_lost (f : Fld) (n i j : Nat) : (s.fadd f n i j).lost = s.lost := rfl
@[simp] theorem fadd_retired (f : Fld) (n i j : Nat) : (s.fadd f n i j).retired = s.retired := rfl
@[simp] theorem fadd_promotedAt (f : Fld) (n i j : Nat) : (s.fadd f n i j).promotedAt = s.promotedAt := rfl
@[simp] theorem fadd_retrains (f : Fld) (n i j : Nat) : (s.fadd f n i j).retrains = s.retrains := rfl
@[simp] theorem fadd_retuneNext (f : Fld) (n i j : Nat) : (s.fadd f n i j).retuneNext = s.retuneNext := rfl
@[simp] theorem fadd_patrol (f : Fld) (n i j : Nat) : (s.fadd f n i j).patrol = s.patrol := rfl
@[simp] theorem fadd_linkFails (f : Fld) (n i j : Nat) : (s.fadd f n i j).linkFails = s.linkFails := rfl
@[simp] theorem fadd_linksOut (f : Fld) (n i j : Nat) : (s.fadd f n i j).linksOut = s.linksOut := rfl
@[simp] theorem fadd_slots (f : Fld) (n i j : Nat) : (s.fadd f n i j).slots = s.slots := rfl
@[simp] theorem fadd_boot (f : Fld) (n i j : Nat) : (s.fadd f n i j).boot = s.boot := rfl
@[simp] theorem fadd_owners (f : Fld) (n i j : Nat) : (s.fadd f n i j).owners = s.owners := rfl
@[simp] theorem fadd_mlog (f : Fld) (n i j : Nat) : (s.fadd f n i j).mlog = s.mlog := rfl
@[simp] theorem fadd_rings (f : Fld) (n i j : Nat) : (s.fadd f n i j).rings = s.rings := rfl
@[simp] theorem fadd_edgeSup (f : Fld) (n i j : Nat) : (s.fadd f n i j).edgeSup = s.edgeSup := rfl
@[simp] theorem fadd_handlers (f : Fld) (n i j : Nat) : (s.fadd f n i j).handlers = s.handlers := rfl
@[simp] theorem fadd_msixOn (f : Fld) (n i j : Nat) : (s.fadd f n i j).msixOn = s.msixOn := rfl
@[simp] theorem fadd_msixMask (f : Fld) (n i j : Nat) : (s.fadd f n i j).msixMask = s.msixMask := rfl
@[simp] theorem fadd_msixRaised (f : Fld) (n i j : Nat) : (s.fadd f n i j).msixRaised = s.msixRaised := rfl
@[simp] theorem fadd_spdmDoe (f : Fld) (n i j : Nat) : (s.fadd f n i j).spdmDoe = s.spdmDoe := rfl
@[simp] theorem fadd_spdmMctp (f : Fld) (n i j : Nat) : (s.fadd f n i j).spdmMctp = s.spdmMctp := rfl
@[simp] theorem fadd_challenge (f : Fld) (n i j : Nat) : (s.fadd f n i j).challenge = s.challenge := rfl
@[simp] theorem fadd_jtag (f : Fld) (n i j : Nat) : (s.fadd f n i j).jtag = s.jtag := rfl
@[simp] theorem fadd_muxNext (f : Fld) (n i j : Nat) : (s.fadd f n i j).muxNext = s.muxNext := rfl
@[simp] theorem fadd_bist (f : Fld) (n i j : Nat) : (s.fadd f n i j).bist = s.bist := rfl
@[simp] theorem fadd_keeperApplies (f : Fld) (n i j : Nat) : (s.fadd f n i j).keeperApplies = s.keeperApplies := rfl
@[simp] theorem fadd_lastBeat (f : Fld) (n i j : Nat) : (s.fadd f n i j).lastBeat = s.lastBeat := rfl
@[simp] theorem fadd_paused (f : Fld) (n i j : Nat) : (s.fadd f n i j).paused = s.paused := rfl
@[simp] theorem fadd_alert (f : Fld) (n i j : Nat) : (s.fadd f n i j).alert = s.alert := rfl
@[simp] theorem fadd_thermtrip (f : Fld) (n i j : Nat) : (s.fadd f n i j).thermtrip = s.thermtrip := rfl
@[simp] theorem fadd_latched (f : Fld) (n i j : Nat) : (s.fadd f n i j).latched = s.latched := rfl
@[simp] theorem fadd_out (f : Fld) (n i j : Nat) : (s.fadd f n i j).out = s.out := rfl
@[simp] theorem fadd_free (f : Fld) (n i j : Nat) : (s.fadd f n i j).free = s.free := rfl
@[simp] theorem fadd_draws (f : Fld) (n i j : Nat) : (s.fadd f n i j).draws = s.draws := rfl
@[simp] theorem fadd_promotions (f : Fld) (n i j : Nat) : (s.fadd f n i j).promotions = s.promotions := rfl
@[simp] theorem fadd_hsSeen (f : Fld) (n i j : Nat) : (s.fadd f n i j).hsSeen = s.hsSeen := rfl
@[simp] theorem fadd_gateways (f : Fld) (n i j : Nat) : (s.fadd f n i j).gateways = s.gateways := rfl
@[simp] theorem fadd_tested (f : Fld) (n i j : Nat) : (s.fadd f n i j).tested = s.tested := rfl
@[simp] theorem fadd_dropRun (f : Fld) (n i j : Nat) : (s.fadd f n i j).dropRun = s.dropRun := rfl
@[simp] theorem fadd_fullDebug (f : Fld) (n i j : Nat) : (s.fadd f n i j).fullDebug = s.fullDebug := rfl
@[simp] theorem fadd_jtagEdge (f : Fld) (n i j : Nat) : (s.fadd f n i j).jtagEdge = s.jtagEdge := rfl
@[simp] theorem fadd_dbgOut (f : Fld) (n i j : Nat) : (s.fadd f n i j).dbgOut = s.dbgOut := rfl
@[simp] theorem fadd_pcieClock (f : Fld) (n i j : Nat) : (s.fadd f n i j).pcieClock = s.pcieClock := rfl
@[simp] theorem fadd_badReads (f : Fld) (n i j : Nat) : (s.fadd f n i j).badReads = s.badReads := rfl
@[simp] theorem fadd_widened (f : Fld) (n i j : Nat) : (s.fadd f n i j).widened = s.widened := rfl
@[simp] theorem fadd_edgeCmds (f : Fld) (n i j : Nat) : (s.fadd f n i j).edgeCmds = s.edgeCmds := rfl
@[simp] theorem fadd_tickRegs (f : Fld) (n i j : Nat) : (s.fadd f n i j).tickRegs = s.tickRegs := rfl
@[simp] theorem fadd_released (f : Fld) (n i j : Nat) : (s.fadd f n i j).released = s.released := rfl
@[simp] theorem fadd_releases (f : Fld) (n i j : Nat) : (s.fadd f n i j).releases = s.releases := rfl
@[simp] theorem fadd_arrivals (f : Fld) (n i j : Nat) : (s.fadd f n i j).arrivals = s.arrivals := rfl
@[simp] theorem fadd_lines (f : Fld) (n i j : Nat) : (s.fadd f n i j).lines = s.lines := rfl
@[simp] theorem fadd_carried (f : Fld) (n i j : Nat) : (s.fadd f n i j).carried = s.carried := rfl
@[simp] theorem fadd_idle (f : Fld) (n i j : Nat) : (s.fadd f n i j).idle = s.idle := rfl
@[simp] theorem fadd_retuneTemps (f : Fld) (n i j : Nat) : (s.fadd f n i j).retuneTemps = s.retuneTemps := rfl
@[simp] theorem fadd_sweeps (f : Fld) (n i j : Nat) : (s.fadd f n i j).sweeps = s.sweeps := rfl
@[simp] theorem fadd_gatewayAt (f : Fld) (n i j : Nat) : (s.fadd f n i j).gatewayAt = s.gatewayAt := rfl
@[simp] theorem fadd_retuneAt (f : Fld) (n i j : Nat) : (s.fadd f n i j).retuneAt = s.retuneAt := rfl
@[simp] theorem fadd_quiet (f : Fld) (n i j : Nat) : (s.fadd f n i j).quiet = s.quiet := rfl
@[simp] theorem fadd_bridge (f : Fld) (n i j : Nat) : (s.fadd f n i j).bridge = s.bridge := rfl
@[simp] theorem fadd_pending (f : Fld) (n i j : Nat) : (s.fadd f n i j).pending = s.pending := rfl

/-! ### fraise -/

@[simp] theorem fraise_grade (f : Fld) (i : Nat) : (s.fraise f i).grade = s.grade := rfl
@[simp] theorem fraise_mem (f : Fld) (i : Nat) : (s.fraise f i).mem = s.mem := rfl
@[simp] theorem fraise_errs (f : Fld) (i : Nat) : (s.fraise f i).errs = s.errs := rfl
@[simp] theorem fraise_poison (f : Fld) (i : Nat) : (s.fraise f i).poison = s.poison := rfl
@[simp] theorem fraise_flags (f : Fld) (i : Nat) : (s.fraise f i).flags = s.flags := rfl
@[simp] theorem fraise_queues (f : Fld) (i : Nat) : (s.fraise f i).queues = s.queues := rfl
@[simp] theorem fraise_seen (f : Fld) (i : Nat) : (s.fraise f i).seen = s.seen := rfl
@[simp] theorem fraise_execs (f : Fld) (i : Nat) : (s.fraise f i).execs = s.execs := rfl
@[simp] theorem fraise_nextId (f : Fld) (i : Nat) : (s.fraise f i).nextId = s.nextId := rfl
@[simp] theorem fraise_stale (f : Fld) (i : Nat) : (s.fraise f i).stale = s.stale := rfl
@[simp] theorem fraise_groups (f : Fld) (i : Nat) : (s.fraise f i).groups = s.groups := rfl
@[simp] theorem fraise_waitingLeaves (f : Fld) (i : Nat) : (s.fraise f i).waitingLeaves = s.waitingLeaves := rfl
@[simp] theorem fraise_staleLeaves (f : Fld) (i : Nat) : (s.fraise f i).staleLeaves = s.staleLeaves := rfl
@[simp] theorem fraise_dirty (f : Fld) (i : Nat) : (s.fraise f i).dirty = s.dirty := rfl
@[simp] theorem fraise_ships (f : Fld) (i : Nat) : (s.fraise f i).ships = s.ships := rfl
@[simp] theorem fraise_ward (f : Fld) (i : Nat) : (s.fraise f i).ward = s.ward := rfl
@[simp] theorem fraise_moves (f : Fld) (i : Nat) : (s.fraise f i).moves = s.moves := rfl
@[simp] theorem fraise_units (f : Fld) (i : Nat) : (s.fraise f i).units = s.units := rfl
@[simp] theorem fraise_jcount (f : Fld) (i : Nat) : (s.fraise f i).jcount = s.jcount := rfl
@[simp] theorem fraise_feeds (f : Fld) (i : Nat) : (s.fraise f i).feeds = s.feeds := rfl
@[simp] theorem fraise_vxeReady (f : Fld) (i : Nat) : (s.fraise f i).vxeReady = s.vxeReady := rfl
@[simp] theorem fraise_step (f : Fld) (i : Nat) : (s.fraise f i).step = s.step := rfl
@[simp] theorem fraise_hallPending (f : Fld) (i : Nat) : (s.fraise f i).hallPending = s.hallPending := rfl
@[simp] theorem fraise_hallAsked (f : Fld) (i : Nat) : (s.fraise f i).hallAsked = s.hallAsked := rfl
@[simp] theorem fraise_beats (f : Fld) (i : Nat) : (s.fraise f i).beats = s.beats := rfl
@[simp] theorem fraise_collectives (f : Fld) (i : Nat) : (s.fraise f i).collectives = s.collectives := rfl
@[simp] theorem fraise_flows (f : Fld) (i : Nat) : (s.fraise f i).flows = s.flows := rfl
@[simp] theorem fraise_sessions (f : Fld) (i : Nat) : (s.fraise f i).sessions = s.sessions := rfl
@[simp] theorem fraise_exchanges (f : Fld) (i : Nat) : (s.fraise f i).exchanges = s.exchanges := rfl
@[simp] theorem fraise_ptp (f : Fld) (i : Nat) : (s.fraise f i).ptp = s.ptp := rfl
@[simp] theorem fraise_sideband (f : Fld) (i : Nat) : (s.fraise f i).sideband = s.sideband := rfl
@[simp] theorem fraise_lullSince (f : Fld) (i : Nat) : (s.fraise f i).lullSince = s.lullSince := rfl
@[simp] theorem fraise_coreRecs (f : Fld) (i : Nat) : (s.fraise f i).coreRecs = s.coreRecs := rfl
@[simp] theorem fraise_recovered (f : Fld) (i : Nat) : (s.fraise f i).recovered = s.recovered := rfl
@[simp] theorem fraise_lost (f : Fld) (i : Nat) : (s.fraise f i).lost = s.lost := rfl
@[simp] theorem fraise_retired (f : Fld) (i : Nat) : (s.fraise f i).retired = s.retired := rfl
@[simp] theorem fraise_promotedAt (f : Fld) (i : Nat) : (s.fraise f i).promotedAt = s.promotedAt := rfl
@[simp] theorem fraise_retrains (f : Fld) (i : Nat) : (s.fraise f i).retrains = s.retrains := rfl
@[simp] theorem fraise_retuneNext (f : Fld) (i : Nat) : (s.fraise f i).retuneNext = s.retuneNext := rfl
@[simp] theorem fraise_patrol (f : Fld) (i : Nat) : (s.fraise f i).patrol = s.patrol := rfl
@[simp] theorem fraise_linkFails (f : Fld) (i : Nat) : (s.fraise f i).linkFails = s.linkFails := rfl
@[simp] theorem fraise_linksOut (f : Fld) (i : Nat) : (s.fraise f i).linksOut = s.linksOut := rfl
@[simp] theorem fraise_slots (f : Fld) (i : Nat) : (s.fraise f i).slots = s.slots := rfl
@[simp] theorem fraise_boot (f : Fld) (i : Nat) : (s.fraise f i).boot = s.boot := rfl
@[simp] theorem fraise_owners (f : Fld) (i : Nat) : (s.fraise f i).owners = s.owners := rfl
@[simp] theorem fraise_mlog (f : Fld) (i : Nat) : (s.fraise f i).mlog = s.mlog := rfl
@[simp] theorem fraise_rings (f : Fld) (i : Nat) : (s.fraise f i).rings = s.rings := rfl
@[simp] theorem fraise_edgeSup (f : Fld) (i : Nat) : (s.fraise f i).edgeSup = s.edgeSup := rfl
@[simp] theorem fraise_handlers (f : Fld) (i : Nat) : (s.fraise f i).handlers = s.handlers := rfl
@[simp] theorem fraise_msixOn (f : Fld) (i : Nat) : (s.fraise f i).msixOn = s.msixOn := rfl
@[simp] theorem fraise_msixMask (f : Fld) (i : Nat) : (s.fraise f i).msixMask = s.msixMask := rfl
@[simp] theorem fraise_msixRaised (f : Fld) (i : Nat) : (s.fraise f i).msixRaised = s.msixRaised := rfl
@[simp] theorem fraise_spdmDoe (f : Fld) (i : Nat) : (s.fraise f i).spdmDoe = s.spdmDoe := rfl
@[simp] theorem fraise_spdmMctp (f : Fld) (i : Nat) : (s.fraise f i).spdmMctp = s.spdmMctp := rfl
@[simp] theorem fraise_challenge (f : Fld) (i : Nat) : (s.fraise f i).challenge = s.challenge := rfl
@[simp] theorem fraise_jtag (f : Fld) (i : Nat) : (s.fraise f i).jtag = s.jtag := rfl
@[simp] theorem fraise_muxNext (f : Fld) (i : Nat) : (s.fraise f i).muxNext = s.muxNext := rfl
@[simp] theorem fraise_bist (f : Fld) (i : Nat) : (s.fraise f i).bist = s.bist := rfl
@[simp] theorem fraise_keeperApplies (f : Fld) (i : Nat) : (s.fraise f i).keeperApplies = s.keeperApplies := rfl
@[simp] theorem fraise_lastBeat (f : Fld) (i : Nat) : (s.fraise f i).lastBeat = s.lastBeat := rfl
@[simp] theorem fraise_paused (f : Fld) (i : Nat) : (s.fraise f i).paused = s.paused := rfl
@[simp] theorem fraise_alert (f : Fld) (i : Nat) : (s.fraise f i).alert = s.alert := rfl
@[simp] theorem fraise_thermtrip (f : Fld) (i : Nat) : (s.fraise f i).thermtrip = s.thermtrip := rfl
@[simp] theorem fraise_latched (f : Fld) (i : Nat) : (s.fraise f i).latched = s.latched := rfl
@[simp] theorem fraise_out (f : Fld) (i : Nat) : (s.fraise f i).out = s.out := rfl
@[simp] theorem fraise_free (f : Fld) (i : Nat) : (s.fraise f i).free = s.free := rfl
@[simp] theorem fraise_draws (f : Fld) (i : Nat) : (s.fraise f i).draws = s.draws := rfl
@[simp] theorem fraise_promotions (f : Fld) (i : Nat) : (s.fraise f i).promotions = s.promotions := rfl
@[simp] theorem fraise_hsSeen (f : Fld) (i : Nat) : (s.fraise f i).hsSeen = s.hsSeen := rfl
@[simp] theorem fraise_gateways (f : Fld) (i : Nat) : (s.fraise f i).gateways = s.gateways := rfl
@[simp] theorem fraise_tested (f : Fld) (i : Nat) : (s.fraise f i).tested = s.tested := rfl
@[simp] theorem fraise_dropRun (f : Fld) (i : Nat) : (s.fraise f i).dropRun = s.dropRun := rfl
@[simp] theorem fraise_fullDebug (f : Fld) (i : Nat) : (s.fraise f i).fullDebug = s.fullDebug := rfl
@[simp] theorem fraise_jtagEdge (f : Fld) (i : Nat) : (s.fraise f i).jtagEdge = s.jtagEdge := rfl
@[simp] theorem fraise_dbgOut (f : Fld) (i : Nat) : (s.fraise f i).dbgOut = s.dbgOut := rfl
@[simp] theorem fraise_pcieClock (f : Fld) (i : Nat) : (s.fraise f i).pcieClock = s.pcieClock := rfl
@[simp] theorem fraise_badReads (f : Fld) (i : Nat) : (s.fraise f i).badReads = s.badReads := rfl
@[simp] theorem fraise_widened (f : Fld) (i : Nat) : (s.fraise f i).widened = s.widened := rfl
@[simp] theorem fraise_edgeCmds (f : Fld) (i : Nat) : (s.fraise f i).edgeCmds = s.edgeCmds := rfl
@[simp] theorem fraise_tickRegs (f : Fld) (i : Nat) : (s.fraise f i).tickRegs = s.tickRegs := rfl
@[simp] theorem fraise_released (f : Fld) (i : Nat) : (s.fraise f i).released = s.released := rfl
@[simp] theorem fraise_releases (f : Fld) (i : Nat) : (s.fraise f i).releases = s.releases := rfl
@[simp] theorem fraise_arrivals (f : Fld) (i : Nat) : (s.fraise f i).arrivals = s.arrivals := rfl
@[simp] theorem fraise_lines (f : Fld) (i : Nat) : (s.fraise f i).lines = s.lines := rfl
@[simp] theorem fraise_carried (f : Fld) (i : Nat) : (s.fraise f i).carried = s.carried := rfl
@[simp] theorem fraise_idle (f : Fld) (i : Nat) : (s.fraise f i).idle = s.idle := rfl
@[simp] theorem fraise_retuneTemps (f : Fld) (i : Nat) : (s.fraise f i).retuneTemps = s.retuneTemps := rfl
@[simp] theorem fraise_sweeps (f : Fld) (i : Nat) : (s.fraise f i).sweeps = s.sweeps := rfl
@[simp] theorem fraise_gatewayAt (f : Fld) (i : Nat) : (s.fraise f i).gatewayAt = s.gatewayAt := rfl
@[simp] theorem fraise_retuneAt (f : Fld) (i : Nat) : (s.fraise f i).retuneAt = s.retuneAt := rfl
@[simp] theorem fraise_quiet (f : Fld) (i : Nat) : (s.fraise f i).quiet = s.quiet := rfl
@[simp] theorem fraise_bridge (f : Fld) (i : Nat) : (s.fraise f i).bridge = s.bridge := rfl
@[simp] theorem fraise_pending (f : Fld) (i : Nat) : (s.fraise f i).pending = s.pending := rfl

/-! ### fwrap -/

@[simp] theorem fwrap_grade (f : Fld) (n i j : Nat) : (s.fwrap f n i j).grade = s.grade := rfl
@[simp] theorem fwrap_mem (f : Fld) (n i j : Nat) : (s.fwrap f n i j).mem = s.mem := rfl
@[simp] theorem fwrap_errs (f : Fld) (n i j : Nat) : (s.fwrap f n i j).errs = s.errs := rfl
@[simp] theorem fwrap_poison (f : Fld) (n i j : Nat) : (s.fwrap f n i j).poison = s.poison := rfl
@[simp] theorem fwrap_flags (f : Fld) (n i j : Nat) : (s.fwrap f n i j).flags = s.flags := rfl
@[simp] theorem fwrap_queues (f : Fld) (n i j : Nat) : (s.fwrap f n i j).queues = s.queues := rfl
@[simp] theorem fwrap_seen (f : Fld) (n i j : Nat) : (s.fwrap f n i j).seen = s.seen := rfl
@[simp] theorem fwrap_execs (f : Fld) (n i j : Nat) : (s.fwrap f n i j).execs = s.execs := rfl
@[simp] theorem fwrap_nextId (f : Fld) (n i j : Nat) : (s.fwrap f n i j).nextId = s.nextId := rfl
@[simp] theorem fwrap_stale (f : Fld) (n i j : Nat) : (s.fwrap f n i j).stale = s.stale := rfl
@[simp] theorem fwrap_groups (f : Fld) (n i j : Nat) : (s.fwrap f n i j).groups = s.groups := rfl
@[simp] theorem fwrap_waitingLeaves (f : Fld) (n i j : Nat) : (s.fwrap f n i j).waitingLeaves = s.waitingLeaves := rfl
@[simp] theorem fwrap_staleLeaves (f : Fld) (n i j : Nat) : (s.fwrap f n i j).staleLeaves = s.staleLeaves := rfl
@[simp] theorem fwrap_dirty (f : Fld) (n i j : Nat) : (s.fwrap f n i j).dirty = s.dirty := rfl
@[simp] theorem fwrap_ships (f : Fld) (n i j : Nat) : (s.fwrap f n i j).ships = s.ships := rfl
@[simp] theorem fwrap_ward (f : Fld) (n i j : Nat) : (s.fwrap f n i j).ward = s.ward := rfl
@[simp] theorem fwrap_moves (f : Fld) (n i j : Nat) : (s.fwrap f n i j).moves = s.moves := rfl
@[simp] theorem fwrap_units (f : Fld) (n i j : Nat) : (s.fwrap f n i j).units = s.units := rfl
@[simp] theorem fwrap_jcount (f : Fld) (n i j : Nat) : (s.fwrap f n i j).jcount = s.jcount := rfl
@[simp] theorem fwrap_feeds (f : Fld) (n i j : Nat) : (s.fwrap f n i j).feeds = s.feeds := rfl
@[simp] theorem fwrap_vxeReady (f : Fld) (n i j : Nat) : (s.fwrap f n i j).vxeReady = s.vxeReady := rfl
@[simp] theorem fwrap_step (f : Fld) (n i j : Nat) : (s.fwrap f n i j).step = s.step := rfl
@[simp] theorem fwrap_hallPending (f : Fld) (n i j : Nat) : (s.fwrap f n i j).hallPending = s.hallPending := rfl
@[simp] theorem fwrap_hallAsked (f : Fld) (n i j : Nat) : (s.fwrap f n i j).hallAsked = s.hallAsked := rfl
@[simp] theorem fwrap_beats (f : Fld) (n i j : Nat) : (s.fwrap f n i j).beats = s.beats := rfl
@[simp] theorem fwrap_collectives (f : Fld) (n i j : Nat) : (s.fwrap f n i j).collectives = s.collectives := rfl
@[simp] theorem fwrap_flows (f : Fld) (n i j : Nat) : (s.fwrap f n i j).flows = s.flows := rfl
@[simp] theorem fwrap_sessions (f : Fld) (n i j : Nat) : (s.fwrap f n i j).sessions = s.sessions := rfl
@[simp] theorem fwrap_exchanges (f : Fld) (n i j : Nat) : (s.fwrap f n i j).exchanges = s.exchanges := rfl
@[simp] theorem fwrap_ptp (f : Fld) (n i j : Nat) : (s.fwrap f n i j).ptp = s.ptp := rfl
@[simp] theorem fwrap_sideband (f : Fld) (n i j : Nat) : (s.fwrap f n i j).sideband = s.sideband := rfl
@[simp] theorem fwrap_lullSince (f : Fld) (n i j : Nat) : (s.fwrap f n i j).lullSince = s.lullSince := rfl
@[simp] theorem fwrap_coreRecs (f : Fld) (n i j : Nat) : (s.fwrap f n i j).coreRecs = s.coreRecs := rfl
@[simp] theorem fwrap_recovered (f : Fld) (n i j : Nat) : (s.fwrap f n i j).recovered = s.recovered := rfl
@[simp] theorem fwrap_lost (f : Fld) (n i j : Nat) : (s.fwrap f n i j).lost = s.lost := rfl
@[simp] theorem fwrap_retired (f : Fld) (n i j : Nat) : (s.fwrap f n i j).retired = s.retired := rfl
@[simp] theorem fwrap_promotedAt (f : Fld) (n i j : Nat) : (s.fwrap f n i j).promotedAt = s.promotedAt := rfl
@[simp] theorem fwrap_retrains (f : Fld) (n i j : Nat) : (s.fwrap f n i j).retrains = s.retrains := rfl
@[simp] theorem fwrap_retuneNext (f : Fld) (n i j : Nat) : (s.fwrap f n i j).retuneNext = s.retuneNext := rfl
@[simp] theorem fwrap_patrol (f : Fld) (n i j : Nat) : (s.fwrap f n i j).patrol = s.patrol := rfl
@[simp] theorem fwrap_linkFails (f : Fld) (n i j : Nat) : (s.fwrap f n i j).linkFails = s.linkFails := rfl
@[simp] theorem fwrap_linksOut (f : Fld) (n i j : Nat) : (s.fwrap f n i j).linksOut = s.linksOut := rfl
@[simp] theorem fwrap_slots (f : Fld) (n i j : Nat) : (s.fwrap f n i j).slots = s.slots := rfl
@[simp] theorem fwrap_boot (f : Fld) (n i j : Nat) : (s.fwrap f n i j).boot = s.boot := rfl
@[simp] theorem fwrap_owners (f : Fld) (n i j : Nat) : (s.fwrap f n i j).owners = s.owners := rfl
@[simp] theorem fwrap_mlog (f : Fld) (n i j : Nat) : (s.fwrap f n i j).mlog = s.mlog := rfl
@[simp] theorem fwrap_rings (f : Fld) (n i j : Nat) : (s.fwrap f n i j).rings = s.rings := rfl
@[simp] theorem fwrap_edgeSup (f : Fld) (n i j : Nat) : (s.fwrap f n i j).edgeSup = s.edgeSup := rfl
@[simp] theorem fwrap_handlers (f : Fld) (n i j : Nat) : (s.fwrap f n i j).handlers = s.handlers := rfl
@[simp] theorem fwrap_msixOn (f : Fld) (n i j : Nat) : (s.fwrap f n i j).msixOn = s.msixOn := rfl
@[simp] theorem fwrap_msixMask (f : Fld) (n i j : Nat) : (s.fwrap f n i j).msixMask = s.msixMask := rfl
@[simp] theorem fwrap_msixRaised (f : Fld) (n i j : Nat) : (s.fwrap f n i j).msixRaised = s.msixRaised := rfl
@[simp] theorem fwrap_spdmDoe (f : Fld) (n i j : Nat) : (s.fwrap f n i j).spdmDoe = s.spdmDoe := rfl
@[simp] theorem fwrap_spdmMctp (f : Fld) (n i j : Nat) : (s.fwrap f n i j).spdmMctp = s.spdmMctp := rfl
@[simp] theorem fwrap_challenge (f : Fld) (n i j : Nat) : (s.fwrap f n i j).challenge = s.challenge := rfl
@[simp] theorem fwrap_jtag (f : Fld) (n i j : Nat) : (s.fwrap f n i j).jtag = s.jtag := rfl
@[simp] theorem fwrap_muxNext (f : Fld) (n i j : Nat) : (s.fwrap f n i j).muxNext = s.muxNext := rfl
@[simp] theorem fwrap_bist (f : Fld) (n i j : Nat) : (s.fwrap f n i j).bist = s.bist := rfl
@[simp] theorem fwrap_keeperApplies (f : Fld) (n i j : Nat) : (s.fwrap f n i j).keeperApplies = s.keeperApplies := rfl
@[simp] theorem fwrap_lastBeat (f : Fld) (n i j : Nat) : (s.fwrap f n i j).lastBeat = s.lastBeat := rfl
@[simp] theorem fwrap_paused (f : Fld) (n i j : Nat) : (s.fwrap f n i j).paused = s.paused := rfl
@[simp] theorem fwrap_alert (f : Fld) (n i j : Nat) : (s.fwrap f n i j).alert = s.alert := rfl
@[simp] theorem fwrap_thermtrip (f : Fld) (n i j : Nat) : (s.fwrap f n i j).thermtrip = s.thermtrip := rfl
@[simp] theorem fwrap_latched (f : Fld) (n i j : Nat) : (s.fwrap f n i j).latched = s.latched := rfl
@[simp] theorem fwrap_out (f : Fld) (n i j : Nat) : (s.fwrap f n i j).out = s.out := rfl
@[simp] theorem fwrap_free (f : Fld) (n i j : Nat) : (s.fwrap f n i j).free = s.free := rfl
@[simp] theorem fwrap_draws (f : Fld) (n i j : Nat) : (s.fwrap f n i j).draws = s.draws := rfl
@[simp] theorem fwrap_promotions (f : Fld) (n i j : Nat) : (s.fwrap f n i j).promotions = s.promotions := rfl
@[simp] theorem fwrap_hsSeen (f : Fld) (n i j : Nat) : (s.fwrap f n i j).hsSeen = s.hsSeen := rfl
@[simp] theorem fwrap_gateways (f : Fld) (n i j : Nat) : (s.fwrap f n i j).gateways = s.gateways := rfl
@[simp] theorem fwrap_tested (f : Fld) (n i j : Nat) : (s.fwrap f n i j).tested = s.tested := rfl
@[simp] theorem fwrap_dropRun (f : Fld) (n i j : Nat) : (s.fwrap f n i j).dropRun = s.dropRun := rfl
@[simp] theorem fwrap_fullDebug (f : Fld) (n i j : Nat) : (s.fwrap f n i j).fullDebug = s.fullDebug := rfl
@[simp] theorem fwrap_jtagEdge (f : Fld) (n i j : Nat) : (s.fwrap f n i j).jtagEdge = s.jtagEdge := rfl
@[simp] theorem fwrap_dbgOut (f : Fld) (n i j : Nat) : (s.fwrap f n i j).dbgOut = s.dbgOut := rfl
@[simp] theorem fwrap_pcieClock (f : Fld) (n i j : Nat) : (s.fwrap f n i j).pcieClock = s.pcieClock := rfl
@[simp] theorem fwrap_badReads (f : Fld) (n i j : Nat) : (s.fwrap f n i j).badReads = s.badReads := rfl
@[simp] theorem fwrap_widened (f : Fld) (n i j : Nat) : (s.fwrap f n i j).widened = s.widened := rfl
@[simp] theorem fwrap_edgeCmds (f : Fld) (n i j : Nat) : (s.fwrap f n i j).edgeCmds = s.edgeCmds := rfl
@[simp] theorem fwrap_tickRegs (f : Fld) (n i j : Nat) : (s.fwrap f n i j).tickRegs = s.tickRegs := rfl
@[simp] theorem fwrap_released (f : Fld) (n i j : Nat) : (s.fwrap f n i j).released = s.released := rfl
@[simp] theorem fwrap_releases (f : Fld) (n i j : Nat) : (s.fwrap f n i j).releases = s.releases := rfl
@[simp] theorem fwrap_arrivals (f : Fld) (n i j : Nat) : (s.fwrap f n i j).arrivals = s.arrivals := rfl
@[simp] theorem fwrap_lines (f : Fld) (n i j : Nat) : (s.fwrap f n i j).lines = s.lines := rfl
@[simp] theorem fwrap_carried (f : Fld) (n i j : Nat) : (s.fwrap f n i j).carried = s.carried := rfl
@[simp] theorem fwrap_idle (f : Fld) (n i j : Nat) : (s.fwrap f n i j).idle = s.idle := rfl
@[simp] theorem fwrap_retuneTemps (f : Fld) (n i j : Nat) : (s.fwrap f n i j).retuneTemps = s.retuneTemps := rfl
@[simp] theorem fwrap_sweeps (f : Fld) (n i j : Nat) : (s.fwrap f n i j).sweeps = s.sweeps := rfl
@[simp] theorem fwrap_gatewayAt (f : Fld) (n i j : Nat) : (s.fwrap f n i j).gatewayAt = s.gatewayAt := rfl
@[simp] theorem fwrap_retuneAt (f : Fld) (n i j : Nat) : (s.fwrap f n i j).retuneAt = s.retuneAt := rfl
@[simp] theorem fwrap_quiet (f : Fld) (n i j : Nat) : (s.fwrap f n i j).quiet = s.quiet := rfl
@[simp] theorem fwrap_tickAdds (f : Fld) (n i j : Nat) : (s.fwrap f n i j).tickAdds = s.tickAdds := rfl
@[simp] theorem fwrap_bridge (f : Fld) (n i j : Nat) : (s.fwrap f n i j).bridge = s.bridge := rfl
@[simp] theorem fwrap_pending (f : Fld) (n i j : Nat) : (s.fwrap f n i j).pending = s.pending := rfl

/-! ### emit -/

@[simp] theorem emit_grade (o : Out) : (s.emit o).grade = s.grade := rfl
@[simp] theorem emit_mem (o : Out) : (s.emit o).mem = s.mem := rfl
@[simp] theorem emit_errs (o : Out) : (s.emit o).errs = s.errs := rfl
@[simp] theorem emit_poison (o : Out) : (s.emit o).poison = s.poison := rfl
@[simp] theorem emit_regs (o : Out) : (s.emit o).regs = s.regs := rfl
@[simp] theorem emit_flags (o : Out) : (s.emit o).flags = s.flags := rfl
@[simp] theorem emit_queues (o : Out) : (s.emit o).queues = s.queues := rfl
@[simp] theorem emit_seen (o : Out) : (s.emit o).seen = s.seen := rfl
@[simp] theorem emit_execs (o : Out) : (s.emit o).execs = s.execs := rfl
@[simp] theorem emit_nextId (o : Out) : (s.emit o).nextId = s.nextId := rfl
@[simp] theorem emit_stale (o : Out) : (s.emit o).stale = s.stale := rfl
@[simp] theorem emit_groups (o : Out) : (s.emit o).groups = s.groups := rfl
@[simp] theorem emit_waitingLeaves (o : Out) : (s.emit o).waitingLeaves = s.waitingLeaves := rfl
@[simp] theorem emit_staleLeaves (o : Out) : (s.emit o).staleLeaves = s.staleLeaves := rfl
@[simp] theorem emit_dirty (o : Out) : (s.emit o).dirty = s.dirty := rfl
@[simp] theorem emit_ships (o : Out) : (s.emit o).ships = s.ships := rfl
@[simp] theorem emit_ward (o : Out) : (s.emit o).ward = s.ward := rfl
@[simp] theorem emit_moves (o : Out) : (s.emit o).moves = s.moves := rfl
@[simp] theorem emit_units (o : Out) : (s.emit o).units = s.units := rfl
@[simp] theorem emit_jcount (o : Out) : (s.emit o).jcount = s.jcount := rfl
@[simp] theorem emit_feeds (o : Out) : (s.emit o).feeds = s.feeds := rfl
@[simp] theorem emit_vxeReady (o : Out) : (s.emit o).vxeReady = s.vxeReady := rfl
@[simp] theorem emit_step (o : Out) : (s.emit o).step = s.step := rfl
@[simp] theorem emit_hallPending (o : Out) : (s.emit o).hallPending = s.hallPending := rfl
@[simp] theorem emit_hallAsked (o : Out) : (s.emit o).hallAsked = s.hallAsked := rfl
@[simp] theorem emit_beats (o : Out) : (s.emit o).beats = s.beats := rfl
@[simp] theorem emit_collectives (o : Out) : (s.emit o).collectives = s.collectives := rfl
@[simp] theorem emit_flows (o : Out) : (s.emit o).flows = s.flows := rfl
@[simp] theorem emit_sessions (o : Out) : (s.emit o).sessions = s.sessions := rfl
@[simp] theorem emit_exchanges (o : Out) : (s.emit o).exchanges = s.exchanges := rfl
@[simp] theorem emit_ptp (o : Out) : (s.emit o).ptp = s.ptp := rfl
@[simp] theorem emit_sideband (o : Out) : (s.emit o).sideband = s.sideband := rfl
@[simp] theorem emit_lullSince (o : Out) : (s.emit o).lullSince = s.lullSince := rfl
@[simp] theorem emit_coreRecs (o : Out) : (s.emit o).coreRecs = s.coreRecs := rfl
@[simp] theorem emit_recovered (o : Out) : (s.emit o).recovered = s.recovered := rfl
@[simp] theorem emit_lost (o : Out) : (s.emit o).lost = s.lost := rfl
@[simp] theorem emit_retired (o : Out) : (s.emit o).retired = s.retired := rfl
@[simp] theorem emit_promotedAt (o : Out) : (s.emit o).promotedAt = s.promotedAt := rfl
@[simp] theorem emit_retrains (o : Out) : (s.emit o).retrains = s.retrains := rfl
@[simp] theorem emit_retuneNext (o : Out) : (s.emit o).retuneNext = s.retuneNext := rfl
@[simp] theorem emit_patrol (o : Out) : (s.emit o).patrol = s.patrol := rfl
@[simp] theorem emit_linkFails (o : Out) : (s.emit o).linkFails = s.linkFails := rfl
@[simp] theorem emit_linksOut (o : Out) : (s.emit o).linksOut = s.linksOut := rfl
@[simp] theorem emit_slots (o : Out) : (s.emit o).slots = s.slots := rfl
@[simp] theorem emit_boot (o : Out) : (s.emit o).boot = s.boot := rfl
@[simp] theorem emit_owners (o : Out) : (s.emit o).owners = s.owners := rfl
@[simp] theorem emit_mlog (o : Out) : (s.emit o).mlog = s.mlog := rfl
@[simp] theorem emit_rings (o : Out) : (s.emit o).rings = s.rings := rfl
@[simp] theorem emit_edgeSup (o : Out) : (s.emit o).edgeSup = s.edgeSup := rfl
@[simp] theorem emit_handlers (o : Out) : (s.emit o).handlers = s.handlers := rfl
@[simp] theorem emit_msixOn (o : Out) : (s.emit o).msixOn = s.msixOn := rfl
@[simp] theorem emit_msixMask (o : Out) : (s.emit o).msixMask = s.msixMask := rfl
@[simp] theorem emit_msixRaised (o : Out) : (s.emit o).msixRaised = s.msixRaised := rfl
@[simp] theorem emit_spdmDoe (o : Out) : (s.emit o).spdmDoe = s.spdmDoe := rfl
@[simp] theorem emit_spdmMctp (o : Out) : (s.emit o).spdmMctp = s.spdmMctp := rfl
@[simp] theorem emit_challenge (o : Out) : (s.emit o).challenge = s.challenge := rfl
@[simp] theorem emit_jtag (o : Out) : (s.emit o).jtag = s.jtag := rfl
@[simp] theorem emit_muxNext (o : Out) : (s.emit o).muxNext = s.muxNext := rfl
@[simp] theorem emit_bist (o : Out) : (s.emit o).bist = s.bist := rfl
@[simp] theorem emit_keeperApplies (o : Out) : (s.emit o).keeperApplies = s.keeperApplies := rfl
@[simp] theorem emit_lastBeat (o : Out) : (s.emit o).lastBeat = s.lastBeat := rfl
@[simp] theorem emit_paused (o : Out) : (s.emit o).paused = s.paused := rfl
@[simp] theorem emit_alert (o : Out) : (s.emit o).alert = s.alert := rfl
@[simp] theorem emit_thermtrip (o : Out) : (s.emit o).thermtrip = s.thermtrip := rfl
@[simp] theorem emit_latched (o : Out) : (s.emit o).latched = s.latched := rfl
@[simp] theorem emit_free (o : Out) : (s.emit o).free = s.free := rfl
@[simp] theorem emit_draws (o : Out) : (s.emit o).draws = s.draws := rfl
@[simp] theorem emit_promotions (o : Out) : (s.emit o).promotions = s.promotions := rfl
@[simp] theorem emit_hsSeen (o : Out) : (s.emit o).hsSeen = s.hsSeen := rfl
@[simp] theorem emit_gateways (o : Out) : (s.emit o).gateways = s.gateways := rfl
@[simp] theorem emit_tested (o : Out) : (s.emit o).tested = s.tested := rfl
@[simp] theorem emit_dropRun (o : Out) : (s.emit o).dropRun = s.dropRun := rfl
@[simp] theorem emit_fullDebug (o : Out) : (s.emit o).fullDebug = s.fullDebug := rfl
@[simp] theorem emit_jtagEdge (o : Out) : (s.emit o).jtagEdge = s.jtagEdge := rfl
@[simp] theorem emit_dbgOut (o : Out) : (s.emit o).dbgOut = s.dbgOut := rfl
@[simp] theorem emit_pcieClock (o : Out) : (s.emit o).pcieClock = s.pcieClock := rfl
@[simp] theorem emit_badReads (o : Out) : (s.emit o).badReads = s.badReads := rfl
@[simp] theorem emit_widened (o : Out) : (s.emit o).widened = s.widened := rfl
@[simp] theorem emit_edgeCmds (o : Out) : (s.emit o).edgeCmds = s.edgeCmds := rfl
@[simp] theorem emit_tickRegs (o : Out) : (s.emit o).tickRegs = s.tickRegs := rfl
@[simp] theorem emit_released (o : Out) : (s.emit o).released = s.released := rfl
@[simp] theorem emit_releases (o : Out) : (s.emit o).releases = s.releases := rfl
@[simp] theorem emit_arrivals (o : Out) : (s.emit o).arrivals = s.arrivals := rfl
@[simp] theorem emit_lines (o : Out) : (s.emit o).lines = s.lines := rfl
@[simp] theorem emit_carried (o : Out) : (s.emit o).carried = s.carried := rfl
@[simp] theorem emit_idle (o : Out) : (s.emit o).idle = s.idle := rfl
@[simp] theorem emit_retuneTemps (o : Out) : (s.emit o).retuneTemps = s.retuneTemps := rfl
@[simp] theorem emit_sweeps (o : Out) : (s.emit o).sweeps = s.sweeps := rfl
@[simp] theorem emit_gatewayAt (o : Out) : (s.emit o).gatewayAt = s.gatewayAt := rfl
@[simp] theorem emit_retuneAt (o : Out) : (s.emit o).retuneAt = s.retuneAt := rfl
@[simp] theorem emit_quiet (o : Out) : (s.emit o).quiet = s.quiet := rfl
@[simp] theorem emit_tickAdds (o : Out) : (s.emit o).tickAdds = s.tickAdds := rfl
@[simp] theorem emit_bridge (o : Out) : (s.emit o).bridge = s.bridge := rfl
@[simp] theorem emit_pending (o : Out) : (s.emit o).pending = s.pending := rfl
@[simp] theorem emit_out (o : Out) : (s.emit o).out = s.out ++ [o] := rfl

/-! ### emits -/

@[simp] theorem emits_grade (l : List Out) : (s.emits l).grade = s.grade := rfl
@[simp] theorem emits_mem (l : List Out) : (s.emits l).mem = s.mem := rfl
@[simp] theorem emits_errs (l : List Out) : (s.emits l).errs = s.errs := rfl
@[simp] theorem emits_poison (l : List Out) : (s.emits l).poison = s.poison := rfl
@[simp] theorem emits_regs (l : List Out) : (s.emits l).regs = s.regs := rfl
@[simp] theorem emits_flags (l : List Out) : (s.emits l).flags = s.flags := rfl
@[simp] theorem emits_queues (l : List Out) : (s.emits l).queues = s.queues := rfl
@[simp] theorem emits_seen (l : List Out) : (s.emits l).seen = s.seen := rfl
@[simp] theorem emits_execs (l : List Out) : (s.emits l).execs = s.execs := rfl
@[simp] theorem emits_nextId (l : List Out) : (s.emits l).nextId = s.nextId := rfl
@[simp] theorem emits_stale (l : List Out) : (s.emits l).stale = s.stale := rfl
@[simp] theorem emits_groups (l : List Out) : (s.emits l).groups = s.groups := rfl
@[simp] theorem emits_waitingLeaves (l : List Out) : (s.emits l).waitingLeaves = s.waitingLeaves := rfl
@[simp] theorem emits_staleLeaves (l : List Out) : (s.emits l).staleLeaves = s.staleLeaves := rfl
@[simp] theorem emits_dirty (l : List Out) : (s.emits l).dirty = s.dirty := rfl
@[simp] theorem emits_ships (l : List Out) : (s.emits l).ships = s.ships := rfl
@[simp] theorem emits_ward (l : List Out) : (s.emits l).ward = s.ward := rfl
@[simp] theorem emits_moves (l : List Out) : (s.emits l).moves = s.moves := rfl
@[simp] theorem emits_units (l : List Out) : (s.emits l).units = s.units := rfl
@[simp] theorem emits_jcount (l : List Out) : (s.emits l).jcount = s.jcount := rfl
@[simp] theorem emits_feeds (l : List Out) : (s.emits l).feeds = s.feeds := rfl
@[simp] theorem emits_vxeReady (l : List Out) : (s.emits l).vxeReady = s.vxeReady := rfl
@[simp] theorem emits_step (l : List Out) : (s.emits l).step = s.step := rfl
@[simp] theorem emits_hallPending (l : List Out) : (s.emits l).hallPending = s.hallPending := rfl
@[simp] theorem emits_hallAsked (l : List Out) : (s.emits l).hallAsked = s.hallAsked := rfl
@[simp] theorem emits_beats (l : List Out) : (s.emits l).beats = s.beats := rfl
@[simp] theorem emits_collectives (l : List Out) : (s.emits l).collectives = s.collectives := rfl
@[simp] theorem emits_flows (l : List Out) : (s.emits l).flows = s.flows := rfl
@[simp] theorem emits_sessions (l : List Out) : (s.emits l).sessions = s.sessions := rfl
@[simp] theorem emits_exchanges (l : List Out) : (s.emits l).exchanges = s.exchanges := rfl
@[simp] theorem emits_ptp (l : List Out) : (s.emits l).ptp = s.ptp := rfl
@[simp] theorem emits_sideband (l : List Out) : (s.emits l).sideband = s.sideband := rfl
@[simp] theorem emits_lullSince (l : List Out) : (s.emits l).lullSince = s.lullSince := rfl
@[simp] theorem emits_coreRecs (l : List Out) : (s.emits l).coreRecs = s.coreRecs := rfl
@[simp] theorem emits_recovered (l : List Out) : (s.emits l).recovered = s.recovered := rfl
@[simp] theorem emits_lost (l : List Out) : (s.emits l).lost = s.lost := rfl
@[simp] theorem emits_retired (l : List Out) : (s.emits l).retired = s.retired := rfl
@[simp] theorem emits_promotedAt (l : List Out) : (s.emits l).promotedAt = s.promotedAt := rfl
@[simp] theorem emits_retrains (l : List Out) : (s.emits l).retrains = s.retrains := rfl
@[simp] theorem emits_retuneNext (l : List Out) : (s.emits l).retuneNext = s.retuneNext := rfl
@[simp] theorem emits_patrol (l : List Out) : (s.emits l).patrol = s.patrol := rfl
@[simp] theorem emits_linkFails (l : List Out) : (s.emits l).linkFails = s.linkFails := rfl
@[simp] theorem emits_linksOut (l : List Out) : (s.emits l).linksOut = s.linksOut := rfl
@[simp] theorem emits_slots (l : List Out) : (s.emits l).slots = s.slots := rfl
@[simp] theorem emits_boot (l : List Out) : (s.emits l).boot = s.boot := rfl
@[simp] theorem emits_owners (l : List Out) : (s.emits l).owners = s.owners := rfl
@[simp] theorem emits_mlog (l : List Out) : (s.emits l).mlog = s.mlog := rfl
@[simp] theorem emits_rings (l : List Out) : (s.emits l).rings = s.rings := rfl
@[simp] theorem emits_edgeSup (l : List Out) : (s.emits l).edgeSup = s.edgeSup := rfl
@[simp] theorem emits_handlers (l : List Out) : (s.emits l).handlers = s.handlers := rfl
@[simp] theorem emits_msixOn (l : List Out) : (s.emits l).msixOn = s.msixOn := rfl
@[simp] theorem emits_msixMask (l : List Out) : (s.emits l).msixMask = s.msixMask := rfl
@[simp] theorem emits_msixRaised (l : List Out) : (s.emits l).msixRaised = s.msixRaised := rfl
@[simp] theorem emits_spdmDoe (l : List Out) : (s.emits l).spdmDoe = s.spdmDoe := rfl
@[simp] theorem emits_spdmMctp (l : List Out) : (s.emits l).spdmMctp = s.spdmMctp := rfl
@[simp] theorem emits_challenge (l : List Out) : (s.emits l).challenge = s.challenge := rfl
@[simp] theorem emits_jtag (l : List Out) : (s.emits l).jtag = s.jtag := rfl
@[simp] theorem emits_muxNext (l : List Out) : (s.emits l).muxNext = s.muxNext := rfl
@[simp] theorem emits_bist (l : List Out) : (s.emits l).bist = s.bist := rfl
@[simp] theorem emits_keeperApplies (l : List Out) : (s.emits l).keeperApplies = s.keeperApplies := rfl
@[simp] theorem emits_lastBeat (l : List Out) : (s.emits l).lastBeat = s.lastBeat := rfl
@[simp] theorem emits_paused (l : List Out) : (s.emits l).paused = s.paused := rfl
@[simp] theorem emits_alert (l : List Out) : (s.emits l).alert = s.alert := rfl
@[simp] theorem emits_thermtrip (l : List Out) : (s.emits l).thermtrip = s.thermtrip := rfl
@[simp] theorem emits_latched (l : List Out) : (s.emits l).latched = s.latched := rfl
@[simp] theorem emits_free (l : List Out) : (s.emits l).free = s.free := rfl
@[simp] theorem emits_draws (l : List Out) : (s.emits l).draws = s.draws := rfl
@[simp] theorem emits_promotions (l : List Out) : (s.emits l).promotions = s.promotions := rfl
@[simp] theorem emits_hsSeen (l : List Out) : (s.emits l).hsSeen = s.hsSeen := rfl
@[simp] theorem emits_gateways (l : List Out) : (s.emits l).gateways = s.gateways := rfl
@[simp] theorem emits_tested (l : List Out) : (s.emits l).tested = s.tested := rfl
@[simp] theorem emits_dropRun (l : List Out) : (s.emits l).dropRun = s.dropRun := rfl
@[simp] theorem emits_fullDebug (l : List Out) : (s.emits l).fullDebug = s.fullDebug := rfl
@[simp] theorem emits_jtagEdge (l : List Out) : (s.emits l).jtagEdge = s.jtagEdge := rfl
@[simp] theorem emits_dbgOut (l : List Out) : (s.emits l).dbgOut = s.dbgOut := rfl
@[simp] theorem emits_pcieClock (l : List Out) : (s.emits l).pcieClock = s.pcieClock := rfl
@[simp] theorem emits_badReads (l : List Out) : (s.emits l).badReads = s.badReads := rfl
@[simp] theorem emits_widened (l : List Out) : (s.emits l).widened = s.widened := rfl
@[simp] theorem emits_edgeCmds (l : List Out) : (s.emits l).edgeCmds = s.edgeCmds := rfl
@[simp] theorem emits_tickRegs (l : List Out) : (s.emits l).tickRegs = s.tickRegs := rfl
@[simp] theorem emits_released (l : List Out) : (s.emits l).released = s.released := rfl
@[simp] theorem emits_releases (l : List Out) : (s.emits l).releases = s.releases := rfl
@[simp] theorem emits_arrivals (l : List Out) : (s.emits l).arrivals = s.arrivals := rfl
@[simp] theorem emits_lines (l : List Out) : (s.emits l).lines = s.lines := rfl
@[simp] theorem emits_carried (l : List Out) : (s.emits l).carried = s.carried := rfl
@[simp] theorem emits_idle (l : List Out) : (s.emits l).idle = s.idle := rfl
@[simp] theorem emits_retuneTemps (l : List Out) : (s.emits l).retuneTemps = s.retuneTemps := rfl
@[simp] theorem emits_sweeps (l : List Out) : (s.emits l).sweeps = s.sweeps := rfl
@[simp] theorem emits_gatewayAt (l : List Out) : (s.emits l).gatewayAt = s.gatewayAt := rfl
@[simp] theorem emits_retuneAt (l : List Out) : (s.emits l).retuneAt = s.retuneAt := rfl
@[simp] theorem emits_quiet (l : List Out) : (s.emits l).quiet = s.quiet := rfl
@[simp] theorem emits_tickAdds (l : List Out) : (s.emits l).tickAdds = s.tickAdds := rfl
@[simp] theorem emits_bridge (l : List Out) : (s.emits l).bridge = s.bridge := rfl
@[simp] theorem emits_pending (l : List Out) : (s.emits l).pending = s.pending := rfl
@[simp] theorem emits_out (l : List Out) : (s.emits l).out = s.out ++ l := rfl

/-! ### latch -/

@[simp] theorem latch_grade (e : Event) : (s.latch e).grade = s.grade := rfl
@[simp] theorem latch_mem (e : Event) : (s.latch e).mem = s.mem := rfl
@[simp] theorem latch_errs (e : Event) : (s.latch e).errs = s.errs := rfl
@[simp] theorem latch_poison (e : Event) : (s.latch e).poison = s.poison := rfl
@[simp] theorem latch_regs (e : Event) : (s.latch e).regs = s.regs := rfl
@[simp] theorem latch_flags (e : Event) : (s.latch e).flags = s.flags := rfl
@[simp] theorem latch_queues (e : Event) : (s.latch e).queues = s.queues := rfl
@[simp] theorem latch_seen (e : Event) : (s.latch e).seen = s.seen := rfl
@[simp] theorem latch_execs (e : Event) : (s.latch e).execs = s.execs := rfl
@[simp] theorem latch_nextId (e : Event) : (s.latch e).nextId = s.nextId := rfl
@[simp] theorem latch_stale (e : Event) : (s.latch e).stale = s.stale := rfl
@[simp] theorem latch_groups (e : Event) : (s.latch e).groups = s.groups := rfl
@[simp] theorem latch_waitingLeaves (e : Event) : (s.latch e).waitingLeaves = s.waitingLeaves := rfl
@[simp] theorem latch_staleLeaves (e : Event) : (s.latch e).staleLeaves = s.staleLeaves := rfl
@[simp] theorem latch_dirty (e : Event) : (s.latch e).dirty = s.dirty := rfl
@[simp] theorem latch_ships (e : Event) : (s.latch e).ships = s.ships := rfl
@[simp] theorem latch_ward (e : Event) : (s.latch e).ward = s.ward := rfl
@[simp] theorem latch_moves (e : Event) : (s.latch e).moves = s.moves := rfl
@[simp] theorem latch_units (e : Event) : (s.latch e).units = s.units := rfl
@[simp] theorem latch_jcount (e : Event) : (s.latch e).jcount = s.jcount := rfl
@[simp] theorem latch_feeds (e : Event) : (s.latch e).feeds = s.feeds := rfl
@[simp] theorem latch_vxeReady (e : Event) : (s.latch e).vxeReady = s.vxeReady := rfl
@[simp] theorem latch_step (e : Event) : (s.latch e).step = s.step := rfl
@[simp] theorem latch_hallPending (e : Event) : (s.latch e).hallPending = s.hallPending := rfl
@[simp] theorem latch_hallAsked (e : Event) : (s.latch e).hallAsked = s.hallAsked := rfl
@[simp] theorem latch_beats (e : Event) : (s.latch e).beats = s.beats := rfl
@[simp] theorem latch_collectives (e : Event) : (s.latch e).collectives = s.collectives := rfl
@[simp] theorem latch_flows (e : Event) : (s.latch e).flows = s.flows := rfl
@[simp] theorem latch_sessions (e : Event) : (s.latch e).sessions = s.sessions := rfl
@[simp] theorem latch_exchanges (e : Event) : (s.latch e).exchanges = s.exchanges := rfl
@[simp] theorem latch_ptp (e : Event) : (s.latch e).ptp = s.ptp := rfl
@[simp] theorem latch_sideband (e : Event) : (s.latch e).sideband = s.sideband := rfl
@[simp] theorem latch_lullSince (e : Event) : (s.latch e).lullSince = s.lullSince := rfl
@[simp] theorem latch_coreRecs (e : Event) : (s.latch e).coreRecs = s.coreRecs := rfl
@[simp] theorem latch_recovered (e : Event) : (s.latch e).recovered = s.recovered := rfl
@[simp] theorem latch_lost (e : Event) : (s.latch e).lost = s.lost := rfl
@[simp] theorem latch_retired (e : Event) : (s.latch e).retired = s.retired := rfl
@[simp] theorem latch_promotedAt (e : Event) : (s.latch e).promotedAt = s.promotedAt := rfl
@[simp] theorem latch_retrains (e : Event) : (s.latch e).retrains = s.retrains := rfl
@[simp] theorem latch_retuneNext (e : Event) : (s.latch e).retuneNext = s.retuneNext := rfl
@[simp] theorem latch_patrol (e : Event) : (s.latch e).patrol = s.patrol := rfl
@[simp] theorem latch_linkFails (e : Event) : (s.latch e).linkFails = s.linkFails := rfl
@[simp] theorem latch_linksOut (e : Event) : (s.latch e).linksOut = s.linksOut := rfl
@[simp] theorem latch_slots (e : Event) : (s.latch e).slots = s.slots := rfl
@[simp] theorem latch_boot (e : Event) : (s.latch e).boot = s.boot := rfl
@[simp] theorem latch_owners (e : Event) : (s.latch e).owners = s.owners := rfl
@[simp] theorem latch_mlog (e : Event) : (s.latch e).mlog = s.mlog := rfl
@[simp] theorem latch_rings (e : Event) : (s.latch e).rings = s.rings := rfl
@[simp] theorem latch_edgeSup (e : Event) : (s.latch e).edgeSup = s.edgeSup := rfl
@[simp] theorem latch_handlers (e : Event) : (s.latch e).handlers = s.handlers := rfl
@[simp] theorem latch_msixOn (e : Event) : (s.latch e).msixOn = s.msixOn := rfl
@[simp] theorem latch_msixMask (e : Event) : (s.latch e).msixMask = s.msixMask := rfl
@[simp] theorem latch_msixRaised (e : Event) : (s.latch e).msixRaised = s.msixRaised := rfl
@[simp] theorem latch_spdmDoe (e : Event) : (s.latch e).spdmDoe = s.spdmDoe := rfl
@[simp] theorem latch_spdmMctp (e : Event) : (s.latch e).spdmMctp = s.spdmMctp := rfl
@[simp] theorem latch_challenge (e : Event) : (s.latch e).challenge = s.challenge := rfl
@[simp] theorem latch_jtag (e : Event) : (s.latch e).jtag = s.jtag := rfl
@[simp] theorem latch_muxNext (e : Event) : (s.latch e).muxNext = s.muxNext := rfl
@[simp] theorem latch_bist (e : Event) : (s.latch e).bist = s.bist := rfl
@[simp] theorem latch_keeperApplies (e : Event) : (s.latch e).keeperApplies = s.keeperApplies := rfl
@[simp] theorem latch_lastBeat (e : Event) : (s.latch e).lastBeat = s.lastBeat := rfl
@[simp] theorem latch_paused (e : Event) : (s.latch e).paused = s.paused := rfl
@[simp] theorem latch_alert (e : Event) : (s.latch e).alert = s.alert := rfl
@[simp] theorem latch_thermtrip (e : Event) : (s.latch e).thermtrip = s.thermtrip := rfl
@[simp] theorem latch_out (e : Event) : (s.latch e).out = s.out := rfl
@[simp] theorem latch_free (e : Event) : (s.latch e).free = s.free := rfl
@[simp] theorem latch_draws (e : Event) : (s.latch e).draws = s.draws := rfl
@[simp] theorem latch_promotions (e : Event) : (s.latch e).promotions = s.promotions := rfl
@[simp] theorem latch_hsSeen (e : Event) : (s.latch e).hsSeen = s.hsSeen := rfl
@[simp] theorem latch_gateways (e : Event) : (s.latch e).gateways = s.gateways := rfl
@[simp] theorem latch_tested (e : Event) : (s.latch e).tested = s.tested := rfl
@[simp] theorem latch_dropRun (e : Event) : (s.latch e).dropRun = s.dropRun := rfl
@[simp] theorem latch_fullDebug (e : Event) : (s.latch e).fullDebug = s.fullDebug := rfl
@[simp] theorem latch_jtagEdge (e : Event) : (s.latch e).jtagEdge = s.jtagEdge := rfl
@[simp] theorem latch_dbgOut (e : Event) : (s.latch e).dbgOut = s.dbgOut := rfl
@[simp] theorem latch_pcieClock (e : Event) : (s.latch e).pcieClock = s.pcieClock := rfl
@[simp] theorem latch_badReads (e : Event) : (s.latch e).badReads = s.badReads := rfl
@[simp] theorem latch_widened (e : Event) : (s.latch e).widened = s.widened := rfl
@[simp] theorem latch_edgeCmds (e : Event) : (s.latch e).edgeCmds = s.edgeCmds := rfl
@[simp] theorem latch_tickRegs (e : Event) : (s.latch e).tickRegs = s.tickRegs := rfl
@[simp] theorem latch_released (e : Event) : (s.latch e).released = s.released := rfl
@[simp] theorem latch_releases (e : Event) : (s.latch e).releases = s.releases := rfl
@[simp] theorem latch_arrivals (e : Event) : (s.latch e).arrivals = s.arrivals := rfl
@[simp] theorem latch_lines (e : Event) : (s.latch e).lines = s.lines := rfl
@[simp] theorem latch_carried (e : Event) : (s.latch e).carried = s.carried := rfl
@[simp] theorem latch_idle (e : Event) : (s.latch e).idle = s.idle := rfl
@[simp] theorem latch_retuneTemps (e : Event) : (s.latch e).retuneTemps = s.retuneTemps := rfl
@[simp] theorem latch_sweeps (e : Event) : (s.latch e).sweeps = s.sweeps := rfl
@[simp] theorem latch_gatewayAt (e : Event) : (s.latch e).gatewayAt = s.gatewayAt := rfl
@[simp] theorem latch_retuneAt (e : Event) : (s.latch e).retuneAt = s.retuneAt := rfl
@[simp] theorem latch_quiet (e : Event) : (s.latch e).quiet = s.quiet := rfl
@[simp] theorem latch_tickAdds (e : Event) : (s.latch e).tickAdds = s.tickAdds := rfl
@[simp] theorem latch_bridge (e : Event) : (s.latch e).bridge = s.bridge := rfl
@[simp] theorem latch_pending (e : Event) : (s.latch e).pending = s.pending := rfl
@[simp] theorem latch_latched (e : Event) : (s.latch e).latched = s.latched ++ [e] := rfl

/-! ### raise -/

@[simp] theorem raise_grade (c n : Nat) : (s.raise c n).grade = s.grade := rfl
@[simp] theorem raise_mem (c n : Nat) : (s.raise c n).mem = s.mem := rfl
@[simp] theorem raise_errs (c n : Nat) : (s.raise c n).errs = s.errs := rfl
@[simp] theorem raise_poison (c n : Nat) : (s.raise c n).poison = s.poison := rfl
@[simp] theorem raise_regs (c n : Nat) : (s.raise c n).regs = s.regs := rfl
@[simp] theorem raise_flags (c n : Nat) : (s.raise c n).flags = s.flags := rfl
@[simp] theorem raise_queues (c n : Nat) : (s.raise c n).queues = s.queues := rfl
@[simp] theorem raise_seen (c n : Nat) : (s.raise c n).seen = s.seen := rfl
@[simp] theorem raise_execs (c n : Nat) : (s.raise c n).execs = s.execs := rfl
@[simp] theorem raise_nextId (c n : Nat) : (s.raise c n).nextId = s.nextId := rfl
@[simp] theorem raise_stale (c n : Nat) : (s.raise c n).stale = s.stale := rfl
@[simp] theorem raise_groups (c n : Nat) : (s.raise c n).groups = s.groups := rfl
@[simp] theorem raise_waitingLeaves (c n : Nat) : (s.raise c n).waitingLeaves = s.waitingLeaves := rfl
@[simp] theorem raise_staleLeaves (c n : Nat) : (s.raise c n).staleLeaves = s.staleLeaves := rfl
@[simp] theorem raise_dirty (c n : Nat) : (s.raise c n).dirty = s.dirty := rfl
@[simp] theorem raise_ships (c n : Nat) : (s.raise c n).ships = s.ships := rfl
@[simp] theorem raise_ward (c n : Nat) : (s.raise c n).ward = s.ward := rfl
@[simp] theorem raise_moves (c n : Nat) : (s.raise c n).moves = s.moves := rfl
@[simp] theorem raise_units (c n : Nat) : (s.raise c n).units = s.units := rfl
@[simp] theorem raise_jcount (c n : Nat) : (s.raise c n).jcount = s.jcount := rfl
@[simp] theorem raise_feeds (c n : Nat) : (s.raise c n).feeds = s.feeds := rfl
@[simp] theorem raise_vxeReady (c n : Nat) : (s.raise c n).vxeReady = s.vxeReady := rfl
@[simp] theorem raise_step (c n : Nat) : (s.raise c n).step = s.step := rfl
@[simp] theorem raise_hallPending (c n : Nat) : (s.raise c n).hallPending = s.hallPending := rfl
@[simp] theorem raise_hallAsked (c n : Nat) : (s.raise c n).hallAsked = s.hallAsked := rfl
@[simp] theorem raise_beats (c n : Nat) : (s.raise c n).beats = s.beats := rfl
@[simp] theorem raise_collectives (c n : Nat) : (s.raise c n).collectives = s.collectives := rfl
@[simp] theorem raise_flows (c n : Nat) : (s.raise c n).flows = s.flows := rfl
@[simp] theorem raise_sessions (c n : Nat) : (s.raise c n).sessions = s.sessions := rfl
@[simp] theorem raise_exchanges (c n : Nat) : (s.raise c n).exchanges = s.exchanges := rfl
@[simp] theorem raise_ptp (c n : Nat) : (s.raise c n).ptp = s.ptp := rfl
@[simp] theorem raise_sideband (c n : Nat) : (s.raise c n).sideband = s.sideband := rfl
@[simp] theorem raise_lullSince (c n : Nat) : (s.raise c n).lullSince = s.lullSince := rfl
@[simp] theorem raise_coreRecs (c n : Nat) : (s.raise c n).coreRecs = s.coreRecs := rfl
@[simp] theorem raise_recovered (c n : Nat) : (s.raise c n).recovered = s.recovered := rfl
@[simp] theorem raise_lost (c n : Nat) : (s.raise c n).lost = s.lost := rfl
@[simp] theorem raise_retired (c n : Nat) : (s.raise c n).retired = s.retired := rfl
@[simp] theorem raise_promotedAt (c n : Nat) : (s.raise c n).promotedAt = s.promotedAt := rfl
@[simp] theorem raise_retrains (c n : Nat) : (s.raise c n).retrains = s.retrains := rfl
@[simp] theorem raise_retuneNext (c n : Nat) : (s.raise c n).retuneNext = s.retuneNext := rfl
@[simp] theorem raise_patrol (c n : Nat) : (s.raise c n).patrol = s.patrol := rfl
@[simp] theorem raise_linkFails (c n : Nat) : (s.raise c n).linkFails = s.linkFails := rfl
@[simp] theorem raise_linksOut (c n : Nat) : (s.raise c n).linksOut = s.linksOut := rfl
@[simp] theorem raise_slots (c n : Nat) : (s.raise c n).slots = s.slots := rfl
@[simp] theorem raise_boot (c n : Nat) : (s.raise c n).boot = s.boot := rfl
@[simp] theorem raise_owners (c n : Nat) : (s.raise c n).owners = s.owners := rfl
@[simp] theorem raise_mlog (c n : Nat) : (s.raise c n).mlog = s.mlog := rfl
@[simp] theorem raise_rings (c n : Nat) : (s.raise c n).rings = s.rings := rfl
@[simp] theorem raise_edgeSup (c n : Nat) : (s.raise c n).edgeSup = s.edgeSup := rfl
@[simp] theorem raise_handlers (c n : Nat) : (s.raise c n).handlers = s.handlers := rfl
@[simp] theorem raise_msixOn (c n : Nat) : (s.raise c n).msixOn = s.msixOn := rfl
@[simp] theorem raise_msixMask (c n : Nat) : (s.raise c n).msixMask = s.msixMask := rfl
@[simp] theorem raise_msixRaised (c n : Nat) : (s.raise c n).msixRaised = s.msixRaised := rfl
@[simp] theorem raise_spdmDoe (c n : Nat) : (s.raise c n).spdmDoe = s.spdmDoe := rfl
@[simp] theorem raise_spdmMctp (c n : Nat) : (s.raise c n).spdmMctp = s.spdmMctp := rfl
@[simp] theorem raise_challenge (c n : Nat) : (s.raise c n).challenge = s.challenge := rfl
@[simp] theorem raise_jtag (c n : Nat) : (s.raise c n).jtag = s.jtag := rfl
@[simp] theorem raise_muxNext (c n : Nat) : (s.raise c n).muxNext = s.muxNext := rfl
@[simp] theorem raise_bist (c n : Nat) : (s.raise c n).bist = s.bist := rfl
@[simp] theorem raise_keeperApplies (c n : Nat) : (s.raise c n).keeperApplies = s.keeperApplies := rfl
@[simp] theorem raise_lastBeat (c n : Nat) : (s.raise c n).lastBeat = s.lastBeat := rfl
@[simp] theorem raise_paused (c n : Nat) : (s.raise c n).paused = s.paused := rfl
@[simp] theorem raise_alert (c n : Nat) : (s.raise c n).alert = s.alert := rfl
@[simp] theorem raise_thermtrip (c n : Nat) : (s.raise c n).thermtrip = s.thermtrip := rfl
@[simp] theorem raise_out (c n : Nat) : (s.raise c n).out = s.out := rfl
@[simp] theorem raise_free (c n : Nat) : (s.raise c n).free = s.free := rfl
@[simp] theorem raise_draws (c n : Nat) : (s.raise c n).draws = s.draws := rfl
@[simp] theorem raise_promotions (c n : Nat) : (s.raise c n).promotions = s.promotions := rfl
@[simp] theorem raise_hsSeen (c n : Nat) : (s.raise c n).hsSeen = s.hsSeen := rfl
@[simp] theorem raise_gateways (c n : Nat) : (s.raise c n).gateways = s.gateways := rfl
@[simp] theorem raise_tested (c n : Nat) : (s.raise c n).tested = s.tested := rfl
@[simp] theorem raise_dropRun (c n : Nat) : (s.raise c n).dropRun = s.dropRun := rfl
@[simp] theorem raise_fullDebug (c n : Nat) : (s.raise c n).fullDebug = s.fullDebug := rfl
@[simp] theorem raise_jtagEdge (c n : Nat) : (s.raise c n).jtagEdge = s.jtagEdge := rfl
@[simp] theorem raise_dbgOut (c n : Nat) : (s.raise c n).dbgOut = s.dbgOut := rfl
@[simp] theorem raise_pcieClock (c n : Nat) : (s.raise c n).pcieClock = s.pcieClock := rfl
@[simp] theorem raise_badReads (c n : Nat) : (s.raise c n).badReads = s.badReads := rfl
@[simp] theorem raise_widened (c n : Nat) : (s.raise c n).widened = s.widened := rfl
@[simp] theorem raise_edgeCmds (c n : Nat) : (s.raise c n).edgeCmds = s.edgeCmds := rfl
@[simp] theorem raise_tickRegs (c n : Nat) : (s.raise c n).tickRegs = s.tickRegs := rfl
@[simp] theorem raise_released (c n : Nat) : (s.raise c n).released = s.released := rfl
@[simp] theorem raise_releases (c n : Nat) : (s.raise c n).releases = s.releases := rfl
@[simp] theorem raise_arrivals (c n : Nat) : (s.raise c n).arrivals = s.arrivals := rfl
@[simp] theorem raise_lines (c n : Nat) : (s.raise c n).lines = s.lines := rfl
@[simp] theorem raise_carried (c n : Nat) : (s.raise c n).carried = s.carried := rfl
@[simp] theorem raise_idle (c n : Nat) : (s.raise c n).idle = s.idle := rfl
@[simp] theorem raise_retuneTemps (c n : Nat) : (s.raise c n).retuneTemps = s.retuneTemps := rfl
@[simp] theorem raise_sweeps (c n : Nat) : (s.raise c n).sweeps = s.sweeps := rfl
@[simp] theorem raise_gatewayAt (c n : Nat) : (s.raise c n).gatewayAt = s.gatewayAt := rfl
@[simp] theorem raise_retuneAt (c n : Nat) : (s.raise c n).retuneAt = s.retuneAt := rfl
@[simp] theorem raise_quiet (c n : Nat) : (s.raise c n).quiet = s.quiet := rfl
@[simp] theorem raise_tickAdds (c n : Nat) : (s.raise c n).tickAdds = s.tickAdds := rfl
@[simp] theorem raise_bridge (c n : Nat) : (s.raise c n).bridge = s.bridge := rfl
@[simp] theorem raise_pending (c n : Nat) : (s.raise c n).pending = s.pending := rfl
@[simp] theorem raise_latched (c n : Nat) : (s.raise c n).latched = s.latched ++ [{ code := c, source := n }] := rfl

/-! ### error -/

@[simp] theorem error_grade (c v d g a x t : Nat) : (s.error c v d g a x t).grade = s.grade := rfl
@[simp] theorem error_mem (c v d g a x t : Nat) : (s.error c v d g a x t).mem = s.mem := rfl
@[simp] theorem error_errs (c v d g a x t : Nat) : (s.error c v d g a x t).errs = s.errs := rfl
@[simp] theorem error_poison (c v d g a x t : Nat) : (s.error c v d g a x t).poison = s.poison := rfl
@[simp] theorem error_regs (c v d g a x t : Nat) : (s.error c v d g a x t).regs = s.regs := rfl
@[simp] theorem error_flags (c v d g a x t : Nat) : (s.error c v d g a x t).flags = s.flags := rfl
@[simp] theorem error_queues (c v d g a x t : Nat) : (s.error c v d g a x t).queues = s.queues := rfl
@[simp] theorem error_seen (c v d g a x t : Nat) : (s.error c v d g a x t).seen = s.seen := rfl
@[simp] theorem error_execs (c v d g a x t : Nat) : (s.error c v d g a x t).execs = s.execs := rfl
@[simp] theorem error_nextId (c v d g a x t : Nat) : (s.error c v d g a x t).nextId = s.nextId := rfl
@[simp] theorem error_stale (c v d g a x t : Nat) : (s.error c v d g a x t).stale = s.stale := rfl
@[simp] theorem error_groups (c v d g a x t : Nat) : (s.error c v d g a x t).groups = s.groups := rfl
@[simp] theorem error_waitingLeaves (c v d g a x t : Nat) : (s.error c v d g a x t).waitingLeaves = s.waitingLeaves := rfl
@[simp] theorem error_staleLeaves (c v d g a x t : Nat) : (s.error c v d g a x t).staleLeaves = s.staleLeaves := rfl
@[simp] theorem error_dirty (c v d g a x t : Nat) : (s.error c v d g a x t).dirty = s.dirty := rfl
@[simp] theorem error_ships (c v d g a x t : Nat) : (s.error c v d g a x t).ships = s.ships := rfl
@[simp] theorem error_ward (c v d g a x t : Nat) : (s.error c v d g a x t).ward = s.ward := rfl
@[simp] theorem error_moves (c v d g a x t : Nat) : (s.error c v d g a x t).moves = s.moves := rfl
@[simp] theorem error_units (c v d g a x t : Nat) : (s.error c v d g a x t).units = s.units := rfl
@[simp] theorem error_jcount (c v d g a x t : Nat) : (s.error c v d g a x t).jcount = s.jcount := rfl
@[simp] theorem error_feeds (c v d g a x t : Nat) : (s.error c v d g a x t).feeds = s.feeds := rfl
@[simp] theorem error_vxeReady (c v d g a x t : Nat) : (s.error c v d g a x t).vxeReady = s.vxeReady := rfl
@[simp] theorem error_step (c v d g a x t : Nat) : (s.error c v d g a x t).step = s.step := rfl
@[simp] theorem error_hallPending (c v d g a x t : Nat) : (s.error c v d g a x t).hallPending = s.hallPending := rfl
@[simp] theorem error_hallAsked (c v d g a x t : Nat) : (s.error c v d g a x t).hallAsked = s.hallAsked := rfl
@[simp] theorem error_beats (c v d g a x t : Nat) : (s.error c v d g a x t).beats = s.beats := rfl
@[simp] theorem error_collectives (c v d g a x t : Nat) : (s.error c v d g a x t).collectives = s.collectives := rfl
@[simp] theorem error_flows (c v d g a x t : Nat) : (s.error c v d g a x t).flows = s.flows := rfl
@[simp] theorem error_sessions (c v d g a x t : Nat) : (s.error c v d g a x t).sessions = s.sessions := rfl
@[simp] theorem error_exchanges (c v d g a x t : Nat) : (s.error c v d g a x t).exchanges = s.exchanges := rfl
@[simp] theorem error_ptp (c v d g a x t : Nat) : (s.error c v d g a x t).ptp = s.ptp := rfl
@[simp] theorem error_sideband (c v d g a x t : Nat) : (s.error c v d g a x t).sideband = s.sideband := rfl
@[simp] theorem error_lullSince (c v d g a x t : Nat) : (s.error c v d g a x t).lullSince = s.lullSince := rfl
@[simp] theorem error_coreRecs (c v d g a x t : Nat) : (s.error c v d g a x t).coreRecs = s.coreRecs := rfl
@[simp] theorem error_recovered (c v d g a x t : Nat) : (s.error c v d g a x t).recovered = s.recovered := rfl
@[simp] theorem error_lost (c v d g a x t : Nat) : (s.error c v d g a x t).lost = s.lost := rfl
@[simp] theorem error_retired (c v d g a x t : Nat) : (s.error c v d g a x t).retired = s.retired := rfl
@[simp] theorem error_promotedAt (c v d g a x t : Nat) : (s.error c v d g a x t).promotedAt = s.promotedAt := rfl
@[simp] theorem error_retrains (c v d g a x t : Nat) : (s.error c v d g a x t).retrains = s.retrains := rfl
@[simp] theorem error_retuneNext (c v d g a x t : Nat) : (s.error c v d g a x t).retuneNext = s.retuneNext := rfl
@[simp] theorem error_patrol (c v d g a x t : Nat) : (s.error c v d g a x t).patrol = s.patrol := rfl
@[simp] theorem error_linkFails (c v d g a x t : Nat) : (s.error c v d g a x t).linkFails = s.linkFails := rfl
@[simp] theorem error_linksOut (c v d g a x t : Nat) : (s.error c v d g a x t).linksOut = s.linksOut := rfl
@[simp] theorem error_slots (c v d g a x t : Nat) : (s.error c v d g a x t).slots = s.slots := rfl
@[simp] theorem error_boot (c v d g a x t : Nat) : (s.error c v d g a x t).boot = s.boot := rfl
@[simp] theorem error_owners (c v d g a x t : Nat) : (s.error c v d g a x t).owners = s.owners := rfl
@[simp] theorem error_mlog (c v d g a x t : Nat) : (s.error c v d g a x t).mlog = s.mlog := rfl
@[simp] theorem error_rings (c v d g a x t : Nat) : (s.error c v d g a x t).rings = s.rings := rfl
@[simp] theorem error_edgeSup (c v d g a x t : Nat) : (s.error c v d g a x t).edgeSup = s.edgeSup := rfl
@[simp] theorem error_handlers (c v d g a x t : Nat) : (s.error c v d g a x t).handlers = s.handlers := rfl
@[simp] theorem error_msixOn (c v d g a x t : Nat) : (s.error c v d g a x t).msixOn = s.msixOn := rfl
@[simp] theorem error_msixMask (c v d g a x t : Nat) : (s.error c v d g a x t).msixMask = s.msixMask := rfl
@[simp] theorem error_msixRaised (c v d g a x t : Nat) : (s.error c v d g a x t).msixRaised = s.msixRaised := rfl
@[simp] theorem error_spdmDoe (c v d g a x t : Nat) : (s.error c v d g a x t).spdmDoe = s.spdmDoe := rfl
@[simp] theorem error_spdmMctp (c v d g a x t : Nat) : (s.error c v d g a x t).spdmMctp = s.spdmMctp := rfl
@[simp] theorem error_challenge (c v d g a x t : Nat) : (s.error c v d g a x t).challenge = s.challenge := rfl
@[simp] theorem error_jtag (c v d g a x t : Nat) : (s.error c v d g a x t).jtag = s.jtag := rfl
@[simp] theorem error_muxNext (c v d g a x t : Nat) : (s.error c v d g a x t).muxNext = s.muxNext := rfl
@[simp] theorem error_bist (c v d g a x t : Nat) : (s.error c v d g a x t).bist = s.bist := rfl
@[simp] theorem error_keeperApplies (c v d g a x t : Nat) : (s.error c v d g a x t).keeperApplies = s.keeperApplies := rfl
@[simp] theorem error_lastBeat (c v d g a x t : Nat) : (s.error c v d g a x t).lastBeat = s.lastBeat := rfl
@[simp] theorem error_paused (c v d g a x t : Nat) : (s.error c v d g a x t).paused = s.paused := rfl
@[simp] theorem error_alert (c v d g a x t : Nat) : (s.error c v d g a x t).alert = s.alert := rfl
@[simp] theorem error_thermtrip (c v d g a x t : Nat) : (s.error c v d g a x t).thermtrip = s.thermtrip := rfl
@[simp] theorem error_out (c v d g a x t : Nat) : (s.error c v d g a x t).out = s.out := rfl
@[simp] theorem error_free (c v d g a x t : Nat) : (s.error c v d g a x t).free = s.free := rfl
@[simp] theorem error_draws (c v d g a x t : Nat) : (s.error c v d g a x t).draws = s.draws := rfl
@[simp] theorem error_promotions (c v d g a x t : Nat) : (s.error c v d g a x t).promotions = s.promotions := rfl
@[simp] theorem error_hsSeen (c v d g a x t : Nat) : (s.error c v d g a x t).hsSeen = s.hsSeen := rfl
@[simp] theorem error_gateways (c v d g a x t : Nat) : (s.error c v d g a x t).gateways = s.gateways := rfl
@[simp] theorem error_tested (c v d g a x t : Nat) : (s.error c v d g a x t).tested = s.tested := rfl
@[simp] theorem error_dropRun (c v d g a x t : Nat) : (s.error c v d g a x t).dropRun = s.dropRun := rfl
@[simp] theorem error_fullDebug (c v d g a x t : Nat) : (s.error c v d g a x t).fullDebug = s.fullDebug := rfl
@[simp] theorem error_jtagEdge (c v d g a x t : Nat) : (s.error c v d g a x t).jtagEdge = s.jtagEdge := rfl
@[simp] theorem error_dbgOut (c v d g a x t : Nat) : (s.error c v d g a x t).dbgOut = s.dbgOut := rfl
@[simp] theorem error_pcieClock (c v d g a x t : Nat) : (s.error c v d g a x t).pcieClock = s.pcieClock := rfl
@[simp] theorem error_badReads (c v d g a x t : Nat) : (s.error c v d g a x t).badReads = s.badReads := rfl
@[simp] theorem error_widened (c v d g a x t : Nat) : (s.error c v d g a x t).widened = s.widened := rfl
@[simp] theorem error_edgeCmds (c v d g a x t : Nat) : (s.error c v d g a x t).edgeCmds = s.edgeCmds := rfl
@[simp] theorem error_tickRegs (c v d g a x t : Nat) : (s.error c v d g a x t).tickRegs = s.tickRegs := rfl
@[simp] theorem error_released (c v d g a x t : Nat) : (s.error c v d g a x t).released = s.released := rfl
@[simp] theorem error_releases (c v d g a x t : Nat) : (s.error c v d g a x t).releases = s.releases := rfl
@[simp] theorem error_arrivals (c v d g a x t : Nat) : (s.error c v d g a x t).arrivals = s.arrivals := rfl
@[simp] theorem error_lines (c v d g a x t : Nat) : (s.error c v d g a x t).lines = s.lines := rfl
@[simp] theorem error_carried (c v d g a x t : Nat) : (s.error c v d g a x t).carried = s.carried := rfl
@[simp] theorem error_idle (c v d g a x t : Nat) : (s.error c v d g a x t).idle = s.idle := rfl
@[simp] theorem error_retuneTemps (c v d g a x t : Nat) : (s.error c v d g a x t).retuneTemps = s.retuneTemps := rfl
@[simp] theorem error_sweeps (c v d g a x t : Nat) : (s.error c v d g a x t).sweeps = s.sweeps := rfl
@[simp] theorem error_gatewayAt (c v d g a x t : Nat) : (s.error c v d g a x t).gatewayAt = s.gatewayAt := rfl
@[simp] theorem error_retuneAt (c v d g a x t : Nat) : (s.error c v d g a x t).retuneAt = s.retuneAt := rfl
@[simp] theorem error_quiet (c v d g a x t : Nat) : (s.error c v d g a x t).quiet = s.quiet := rfl
@[simp] theorem error_tickAdds (c v d g a x t : Nat) : (s.error c v d g a x t).tickAdds = s.tickAdds := rfl
@[simp] theorem error_bridge (c v d g a x t : Nat) : (s.error c v d g a x t).bridge = s.bridge := rfl
@[simp] theorem error_pending (c v d g a x t : Nat) : (s.error c v d g a x t).pending = s.pending := rfl

/-! ### setByte -/

@[simp] theorem setByte_grade (b : Bank) (k : Nat) (v : Byte) : (s.setByte b k v).grade = s.grade := rfl
@[simp] theorem setByte_errs (b : Bank) (k : Nat) (v : Byte) : (s.setByte b k v).errs = s.errs := rfl
@[simp] theorem setByte_poison (b : Bank) (k : Nat) (v : Byte) : (s.setByte b k v).poison = s.poison := rfl
@[simp] theorem setByte_regs (b : Bank) (k : Nat) (v : Byte) : (s.setByte b k v).regs = s.regs := rfl
@[simp] theorem setByte_flags (b : Bank) (k : Nat) (v : Byte) : (s.setByte b k v).flags = s.flags := rfl
@[simp] theorem setByte_queues (b : Bank) (k : Nat) (v : Byte) : (s.setByte b k v).queues = s.queues := rfl
@[simp] theorem setByte_seen (b : Bank) (k : Nat) (v : Byte) : (s.setByte b k v).seen = s.seen := rfl
@[simp] theorem setByte_execs (b : Bank) (k : Nat) (v : Byte) : (s.setByte b k v).execs = s.execs := rfl
@[simp] theorem setByte_nextId (b : Bank) (k : Nat) (v : Byte) : (s.setByte b k v).nextId = s.nextId := rfl
@[simp] theorem setByte_stale (b : Bank) (k : Nat) (v : Byte) : (s.setByte b k v).stale = s.stale := rfl
@[simp] theorem setByte_groups (b : Bank) (k : Nat) (v : Byte) : (s.setByte b k v).groups = s.groups := rfl
@[simp] theorem setByte_waitingLeaves (b : Bank) (k : Nat) (v : Byte) : (s.setByte b k v).waitingLeaves = s.waitingLeaves := rfl
@[simp] theorem setByte_staleLeaves (b : Bank) (k : Nat) (v : Byte) : (s.setByte b k v).staleLeaves = s.staleLeaves := rfl
@[simp] theorem setByte_dirty (b : Bank) (k : Nat) (v : Byte) : (s.setByte b k v).dirty = s.dirty := rfl
@[simp] theorem setByte_ships (b : Bank) (k : Nat) (v : Byte) : (s.setByte b k v).ships = s.ships := rfl
@[simp] theorem setByte_ward (b : Bank) (k : Nat) (v : Byte) : (s.setByte b k v).ward = s.ward := rfl
@[simp] theorem setByte_moves (b : Bank) (k : Nat) (v : Byte) : (s.setByte b k v).moves = s.moves := rfl
@[simp] theorem setByte_units (b : Bank) (k : Nat) (v : Byte) : (s.setByte b k v).units = s.units := rfl
@[simp] theorem setByte_jcount (b : Bank) (k : Nat) (v : Byte) : (s.setByte b k v).jcount = s.jcount := rfl
@[simp] theorem setByte_feeds (b : Bank) (k : Nat) (v : Byte) : (s.setByte b k v).feeds = s.feeds := rfl
@[simp] theorem setByte_vxeReady (b : Bank) (k : Nat) (v : Byte) : (s.setByte b k v).vxeReady = s.vxeReady := rfl
@[simp] theorem setByte_step (b : Bank) (k : Nat) (v : Byte) : (s.setByte b k v).step = s.step := rfl
@[simp] theorem setByte_hallPending (b : Bank) (k : Nat) (v : Byte) : (s.setByte b k v).hallPending = s.hallPending := rfl
@[simp] theorem setByte_hallAsked (b : Bank) (k : Nat) (v : Byte) : (s.setByte b k v).hallAsked = s.hallAsked := rfl
@[simp] theorem setByte_beats (b : Bank) (k : Nat) (v : Byte) : (s.setByte b k v).beats = s.beats := rfl
@[simp] theorem setByte_collectives (b : Bank) (k : Nat) (v : Byte) : (s.setByte b k v).collectives = s.collectives := rfl
@[simp] theorem setByte_flows (b : Bank) (k : Nat) (v : Byte) : (s.setByte b k v).flows = s.flows := rfl
@[simp] theorem setByte_sessions (b : Bank) (k : Nat) (v : Byte) : (s.setByte b k v).sessions = s.sessions := rfl
@[simp] theorem setByte_exchanges (b : Bank) (k : Nat) (v : Byte) : (s.setByte b k v).exchanges = s.exchanges := rfl
@[simp] theorem setByte_ptp (b : Bank) (k : Nat) (v : Byte) : (s.setByte b k v).ptp = s.ptp := rfl
@[simp] theorem setByte_sideband (b : Bank) (k : Nat) (v : Byte) : (s.setByte b k v).sideband = s.sideband := rfl
@[simp] theorem setByte_lullSince (b : Bank) (k : Nat) (v : Byte) : (s.setByte b k v).lullSince = s.lullSince := rfl
@[simp] theorem setByte_coreRecs (b : Bank) (k : Nat) (v : Byte) : (s.setByte b k v).coreRecs = s.coreRecs := rfl
@[simp] theorem setByte_recovered (b : Bank) (k : Nat) (v : Byte) : (s.setByte b k v).recovered = s.recovered := rfl
@[simp] theorem setByte_lost (b : Bank) (k : Nat) (v : Byte) : (s.setByte b k v).lost = s.lost := rfl
@[simp] theorem setByte_retired (b : Bank) (k : Nat) (v : Byte) : (s.setByte b k v).retired = s.retired := rfl
@[simp] theorem setByte_promotedAt (b : Bank) (k : Nat) (v : Byte) : (s.setByte b k v).promotedAt = s.promotedAt := rfl
@[simp] theorem setByte_retrains (b : Bank) (k : Nat) (v : Byte) : (s.setByte b k v).retrains = s.retrains := rfl
@[simp] theorem setByte_retuneNext (b : Bank) (k : Nat) (v : Byte) : (s.setByte b k v).retuneNext = s.retuneNext := rfl
@[simp] theorem setByte_patrol (b : Bank) (k : Nat) (v : Byte) : (s.setByte b k v).patrol = s.patrol := rfl
@[simp] theorem setByte_linkFails (b : Bank) (k : Nat) (v : Byte) : (s.setByte b k v).linkFails = s.linkFails := rfl
@[simp] theorem setByte_linksOut (b : Bank) (k : Nat) (v : Byte) : (s.setByte b k v).linksOut = s.linksOut := rfl
@[simp] theorem setByte_slots (b : Bank) (k : Nat) (v : Byte) : (s.setByte b k v).slots = s.slots := rfl
@[simp] theorem setByte_boot (b : Bank) (k : Nat) (v : Byte) : (s.setByte b k v).boot = s.boot := rfl
@[simp] theorem setByte_owners (b : Bank) (k : Nat) (v : Byte) : (s.setByte b k v).owners = s.owners := rfl
@[simp] theorem setByte_mlog (b : Bank) (k : Nat) (v : Byte) : (s.setByte b k v).mlog = s.mlog := rfl
@[simp] theorem setByte_rings (b : Bank) (k : Nat) (v : Byte) : (s.setByte b k v).rings = s.rings := rfl
@[simp] theorem setByte_edgeSup (b : Bank) (k : Nat) (v : Byte) : (s.setByte b k v).edgeSup = s.edgeSup := rfl
@[simp] theorem setByte_handlers (b : Bank) (k : Nat) (v : Byte) : (s.setByte b k v).handlers = s.handlers := rfl
@[simp] theorem setByte_msixOn (b : Bank) (k : Nat) (v : Byte) : (s.setByte b k v).msixOn = s.msixOn := rfl
@[simp] theorem setByte_msixMask (b : Bank) (k : Nat) (v : Byte) : (s.setByte b k v).msixMask = s.msixMask := rfl
@[simp] theorem setByte_msixRaised (b : Bank) (k : Nat) (v : Byte) : (s.setByte b k v).msixRaised = s.msixRaised := rfl
@[simp] theorem setByte_spdmDoe (b : Bank) (k : Nat) (v : Byte) : (s.setByte b k v).spdmDoe = s.spdmDoe := rfl
@[simp] theorem setByte_spdmMctp (b : Bank) (k : Nat) (v : Byte) : (s.setByte b k v).spdmMctp = s.spdmMctp := rfl
@[simp] theorem setByte_challenge (b : Bank) (k : Nat) (v : Byte) : (s.setByte b k v).challenge = s.challenge := rfl
@[simp] theorem setByte_jtag (b : Bank) (k : Nat) (v : Byte) : (s.setByte b k v).jtag = s.jtag := rfl
@[simp] theorem setByte_muxNext (b : Bank) (k : Nat) (v : Byte) : (s.setByte b k v).muxNext = s.muxNext := rfl
@[simp] theorem setByte_bist (b : Bank) (k : Nat) (v : Byte) : (s.setByte b k v).bist = s.bist := rfl
@[simp] theorem setByte_keeperApplies (b : Bank) (k : Nat) (v : Byte) : (s.setByte b k v).keeperApplies = s.keeperApplies := rfl
@[simp] theorem setByte_lastBeat (b : Bank) (k : Nat) (v : Byte) : (s.setByte b k v).lastBeat = s.lastBeat := rfl
@[simp] theorem setByte_paused (b : Bank) (k : Nat) (v : Byte) : (s.setByte b k v).paused = s.paused := rfl
@[simp] theorem setByte_alert (b : Bank) (k : Nat) (v : Byte) : (s.setByte b k v).alert = s.alert := rfl
@[simp] theorem setByte_thermtrip (b : Bank) (k : Nat) (v : Byte) : (s.setByte b k v).thermtrip = s.thermtrip := rfl
@[simp] theorem setByte_latched (b : Bank) (k : Nat) (v : Byte) : (s.setByte b k v).latched = s.latched := rfl
@[simp] theorem setByte_out (b : Bank) (k : Nat) (v : Byte) : (s.setByte b k v).out = s.out := rfl
@[simp] theorem setByte_free (b : Bank) (k : Nat) (v : Byte) : (s.setByte b k v).free = s.free := rfl
@[simp] theorem setByte_draws (b : Bank) (k : Nat) (v : Byte) : (s.setByte b k v).draws = s.draws := rfl
@[simp] theorem setByte_promotions (b : Bank) (k : Nat) (v : Byte) : (s.setByte b k v).promotions = s.promotions := rfl
@[simp] theorem setByte_hsSeen (b : Bank) (k : Nat) (v : Byte) : (s.setByte b k v).hsSeen = s.hsSeen := rfl
@[simp] theorem setByte_gateways (b : Bank) (k : Nat) (v : Byte) : (s.setByte b k v).gateways = s.gateways := rfl
@[simp] theorem setByte_tested (b : Bank) (k : Nat) (v : Byte) : (s.setByte b k v).tested = s.tested := rfl
@[simp] theorem setByte_dropRun (b : Bank) (k : Nat) (v : Byte) : (s.setByte b k v).dropRun = s.dropRun := rfl
@[simp] theorem setByte_fullDebug (b : Bank) (k : Nat) (v : Byte) : (s.setByte b k v).fullDebug = s.fullDebug := rfl
@[simp] theorem setByte_jtagEdge (b : Bank) (k : Nat) (v : Byte) : (s.setByte b k v).jtagEdge = s.jtagEdge := rfl
@[simp] theorem setByte_dbgOut (b : Bank) (k : Nat) (v : Byte) : (s.setByte b k v).dbgOut = s.dbgOut := rfl
@[simp] theorem setByte_pcieClock (b : Bank) (k : Nat) (v : Byte) : (s.setByte b k v).pcieClock = s.pcieClock := rfl
@[simp] theorem setByte_badReads (b : Bank) (k : Nat) (v : Byte) : (s.setByte b k v).badReads = s.badReads := rfl
@[simp] theorem setByte_widened (b : Bank) (k : Nat) (v : Byte) : (s.setByte b k v).widened = s.widened := rfl
@[simp] theorem setByte_edgeCmds (b : Bank) (k : Nat) (v : Byte) : (s.setByte b k v).edgeCmds = s.edgeCmds := rfl
@[simp] theorem setByte_tickRegs (b : Bank) (k : Nat) (v : Byte) : (s.setByte b k v).tickRegs = s.tickRegs := rfl
@[simp] theorem setByte_released (b : Bank) (k : Nat) (v : Byte) : (s.setByte b k v).released = s.released := rfl
@[simp] theorem setByte_releases (b : Bank) (k : Nat) (v : Byte) : (s.setByte b k v).releases = s.releases := rfl
@[simp] theorem setByte_arrivals (b : Bank) (k : Nat) (v : Byte) : (s.setByte b k v).arrivals = s.arrivals := rfl
@[simp] theorem setByte_lines (b : Bank) (k : Nat) (v : Byte) : (s.setByte b k v).lines = s.lines := rfl
@[simp] theorem setByte_carried (b : Bank) (k : Nat) (v : Byte) : (s.setByte b k v).carried = s.carried := rfl
@[simp] theorem setByte_idle (b : Bank) (k : Nat) (v : Byte) : (s.setByte b k v).idle = s.idle := rfl
@[simp] theorem setByte_retuneTemps (b : Bank) (k : Nat) (v : Byte) : (s.setByte b k v).retuneTemps = s.retuneTemps := rfl
@[simp] theorem setByte_sweeps (b : Bank) (k : Nat) (v : Byte) : (s.setByte b k v).sweeps = s.sweeps := rfl
@[simp] theorem setByte_gatewayAt (b : Bank) (k : Nat) (v : Byte) : (s.setByte b k v).gatewayAt = s.gatewayAt := rfl
@[simp] theorem setByte_retuneAt (b : Bank) (k : Nat) (v : Byte) : (s.setByte b k v).retuneAt = s.retuneAt := rfl
@[simp] theorem setByte_quiet (b : Bank) (k : Nat) (v : Byte) : (s.setByte b k v).quiet = s.quiet := rfl
@[simp] theorem setByte_tickAdds (b : Bank) (k : Nat) (v : Byte) : (s.setByte b k v).tickAdds = s.tickAdds := rfl
@[simp] theorem setByte_bridge (b : Bank) (k : Nat) (v : Byte) : (s.setByte b k v).bridge = s.bridge := rfl
@[simp] theorem setByte_pending (b : Bank) (k : Nat) (v : Byte) : (s.setByte b k v).pending = s.pending := rfl

/-! ### setBytes -/

@[simp] theorem setBytes_grade (b : Bank) (k : Nat) (l : List Byte) : (s.setBytes b k l).grade = s.grade := rfl
@[simp] theorem setBytes_errs (b : Bank) (k : Nat) (l : List Byte) : (s.setBytes b k l).errs = s.errs := rfl
@[simp] theorem setBytes_poison (b : Bank) (k : Nat) (l : List Byte) : (s.setBytes b k l).poison = s.poison := rfl
@[simp] theorem setBytes_regs (b : Bank) (k : Nat) (l : List Byte) : (s.setBytes b k l).regs = s.regs := rfl
@[simp] theorem setBytes_flags (b : Bank) (k : Nat) (l : List Byte) : (s.setBytes b k l).flags = s.flags := rfl
@[simp] theorem setBytes_queues (b : Bank) (k : Nat) (l : List Byte) : (s.setBytes b k l).queues = s.queues := rfl
@[simp] theorem setBytes_seen (b : Bank) (k : Nat) (l : List Byte) : (s.setBytes b k l).seen = s.seen := rfl
@[simp] theorem setBytes_execs (b : Bank) (k : Nat) (l : List Byte) : (s.setBytes b k l).execs = s.execs := rfl
@[simp] theorem setBytes_nextId (b : Bank) (k : Nat) (l : List Byte) : (s.setBytes b k l).nextId = s.nextId := rfl
@[simp] theorem setBytes_stale (b : Bank) (k : Nat) (l : List Byte) : (s.setBytes b k l).stale = s.stale := rfl
@[simp] theorem setBytes_groups (b : Bank) (k : Nat) (l : List Byte) : (s.setBytes b k l).groups = s.groups := rfl
@[simp] theorem setBytes_waitingLeaves (b : Bank) (k : Nat) (l : List Byte) : (s.setBytes b k l).waitingLeaves = s.waitingLeaves := rfl
@[simp] theorem setBytes_staleLeaves (b : Bank) (k : Nat) (l : List Byte) : (s.setBytes b k l).staleLeaves = s.staleLeaves := rfl
@[simp] theorem setBytes_dirty (b : Bank) (k : Nat) (l : List Byte) : (s.setBytes b k l).dirty = s.dirty := rfl
@[simp] theorem setBytes_ships (b : Bank) (k : Nat) (l : List Byte) : (s.setBytes b k l).ships = s.ships := rfl
@[simp] theorem setBytes_ward (b : Bank) (k : Nat) (l : List Byte) : (s.setBytes b k l).ward = s.ward := rfl
@[simp] theorem setBytes_moves (b : Bank) (k : Nat) (l : List Byte) : (s.setBytes b k l).moves = s.moves := rfl
@[simp] theorem setBytes_units (b : Bank) (k : Nat) (l : List Byte) : (s.setBytes b k l).units = s.units := rfl
@[simp] theorem setBytes_jcount (b : Bank) (k : Nat) (l : List Byte) : (s.setBytes b k l).jcount = s.jcount := rfl
@[simp] theorem setBytes_feeds (b : Bank) (k : Nat) (l : List Byte) : (s.setBytes b k l).feeds = s.feeds := rfl
@[simp] theorem setBytes_vxeReady (b : Bank) (k : Nat) (l : List Byte) : (s.setBytes b k l).vxeReady = s.vxeReady := rfl
@[simp] theorem setBytes_step (b : Bank) (k : Nat) (l : List Byte) : (s.setBytes b k l).step = s.step := rfl
@[simp] theorem setBytes_hallPending (b : Bank) (k : Nat) (l : List Byte) : (s.setBytes b k l).hallPending = s.hallPending := rfl
@[simp] theorem setBytes_hallAsked (b : Bank) (k : Nat) (l : List Byte) : (s.setBytes b k l).hallAsked = s.hallAsked := rfl
@[simp] theorem setBytes_beats (b : Bank) (k : Nat) (l : List Byte) : (s.setBytes b k l).beats = s.beats := rfl
@[simp] theorem setBytes_collectives (b : Bank) (k : Nat) (l : List Byte) : (s.setBytes b k l).collectives = s.collectives := rfl
@[simp] theorem setBytes_flows (b : Bank) (k : Nat) (l : List Byte) : (s.setBytes b k l).flows = s.flows := rfl
@[simp] theorem setBytes_sessions (b : Bank) (k : Nat) (l : List Byte) : (s.setBytes b k l).sessions = s.sessions := rfl
@[simp] theorem setBytes_exchanges (b : Bank) (k : Nat) (l : List Byte) : (s.setBytes b k l).exchanges = s.exchanges := rfl
@[simp] theorem setBytes_ptp (b : Bank) (k : Nat) (l : List Byte) : (s.setBytes b k l).ptp = s.ptp := rfl
@[simp] theorem setBytes_sideband (b : Bank) (k : Nat) (l : List Byte) : (s.setBytes b k l).sideband = s.sideband := rfl
@[simp] theorem setBytes_lullSince (b : Bank) (k : Nat) (l : List Byte) : (s.setBytes b k l).lullSince = s.lullSince := rfl
@[simp] theorem setBytes_coreRecs (b : Bank) (k : Nat) (l : List Byte) : (s.setBytes b k l).coreRecs = s.coreRecs := rfl
@[simp] theorem setBytes_recovered (b : Bank) (k : Nat) (l : List Byte) : (s.setBytes b k l).recovered = s.recovered := rfl
@[simp] theorem setBytes_lost (b : Bank) (k : Nat) (l : List Byte) : (s.setBytes b k l).lost = s.lost := rfl
@[simp] theorem setBytes_retired (b : Bank) (k : Nat) (l : List Byte) : (s.setBytes b k l).retired = s.retired := rfl
@[simp] theorem setBytes_promotedAt (b : Bank) (k : Nat) (l : List Byte) : (s.setBytes b k l).promotedAt = s.promotedAt := rfl
@[simp] theorem setBytes_retrains (b : Bank) (k : Nat) (l : List Byte) : (s.setBytes b k l).retrains = s.retrains := rfl
@[simp] theorem setBytes_retuneNext (b : Bank) (k : Nat) (l : List Byte) : (s.setBytes b k l).retuneNext = s.retuneNext := rfl
@[simp] theorem setBytes_patrol (b : Bank) (k : Nat) (l : List Byte) : (s.setBytes b k l).patrol = s.patrol := rfl
@[simp] theorem setBytes_linkFails (b : Bank) (k : Nat) (l : List Byte) : (s.setBytes b k l).linkFails = s.linkFails := rfl
@[simp] theorem setBytes_linksOut (b : Bank) (k : Nat) (l : List Byte) : (s.setBytes b k l).linksOut = s.linksOut := rfl
@[simp] theorem setBytes_slots (b : Bank) (k : Nat) (l : List Byte) : (s.setBytes b k l).slots = s.slots := rfl
@[simp] theorem setBytes_boot (b : Bank) (k : Nat) (l : List Byte) : (s.setBytes b k l).boot = s.boot := rfl
@[simp] theorem setBytes_owners (b : Bank) (k : Nat) (l : List Byte) : (s.setBytes b k l).owners = s.owners := rfl
@[simp] theorem setBytes_mlog (b : Bank) (k : Nat) (l : List Byte) : (s.setBytes b k l).mlog = s.mlog := rfl
@[simp] theorem setBytes_rings (b : Bank) (k : Nat) (l : List Byte) : (s.setBytes b k l).rings = s.rings := rfl
@[simp] theorem setBytes_edgeSup (b : Bank) (k : Nat) (l : List Byte) : (s.setBytes b k l).edgeSup = s.edgeSup := rfl
@[simp] theorem setBytes_handlers (b : Bank) (k : Nat) (l : List Byte) : (s.setBytes b k l).handlers = s.handlers := rfl
@[simp] theorem setBytes_msixOn (b : Bank) (k : Nat) (l : List Byte) : (s.setBytes b k l).msixOn = s.msixOn := rfl
@[simp] theorem setBytes_msixMask (b : Bank) (k : Nat) (l : List Byte) : (s.setBytes b k l).msixMask = s.msixMask := rfl
@[simp] theorem setBytes_msixRaised (b : Bank) (k : Nat) (l : List Byte) : (s.setBytes b k l).msixRaised = s.msixRaised := rfl
@[simp] theorem setBytes_spdmDoe (b : Bank) (k : Nat) (l : List Byte) : (s.setBytes b k l).spdmDoe = s.spdmDoe := rfl
@[simp] theorem setBytes_spdmMctp (b : Bank) (k : Nat) (l : List Byte) : (s.setBytes b k l).spdmMctp = s.spdmMctp := rfl
@[simp] theorem setBytes_challenge (b : Bank) (k : Nat) (l : List Byte) : (s.setBytes b k l).challenge = s.challenge := rfl
@[simp] theorem setBytes_jtag (b : Bank) (k : Nat) (l : List Byte) : (s.setBytes b k l).jtag = s.jtag := rfl
@[simp] theorem setBytes_muxNext (b : Bank) (k : Nat) (l : List Byte) : (s.setBytes b k l).muxNext = s.muxNext := rfl
@[simp] theorem setBytes_bist (b : Bank) (k : Nat) (l : List Byte) : (s.setBytes b k l).bist = s.bist := rfl
@[simp] theorem setBytes_keeperApplies (b : Bank) (k : Nat) (l : List Byte) : (s.setBytes b k l).keeperApplies = s.keeperApplies := rfl
@[simp] theorem setBytes_lastBeat (b : Bank) (k : Nat) (l : List Byte) : (s.setBytes b k l).lastBeat = s.lastBeat := rfl
@[simp] theorem setBytes_paused (b : Bank) (k : Nat) (l : List Byte) : (s.setBytes b k l).paused = s.paused := rfl
@[simp] theorem setBytes_alert (b : Bank) (k : Nat) (l : List Byte) : (s.setBytes b k l).alert = s.alert := rfl
@[simp] theorem setBytes_thermtrip (b : Bank) (k : Nat) (l : List Byte) : (s.setBytes b k l).thermtrip = s.thermtrip := rfl
@[simp] theorem setBytes_latched (b : Bank) (k : Nat) (l : List Byte) : (s.setBytes b k l).latched = s.latched := rfl
@[simp] theorem setBytes_out (b : Bank) (k : Nat) (l : List Byte) : (s.setBytes b k l).out = s.out := rfl
@[simp] theorem setBytes_free (b : Bank) (k : Nat) (l : List Byte) : (s.setBytes b k l).free = s.free := rfl
@[simp] theorem setBytes_draws (b : Bank) (k : Nat) (l : List Byte) : (s.setBytes b k l).draws = s.draws := rfl
@[simp] theorem setBytes_promotions (b : Bank) (k : Nat) (l : List Byte) : (s.setBytes b k l).promotions = s.promotions := rfl
@[simp] theorem setBytes_hsSeen (b : Bank) (k : Nat) (l : List Byte) : (s.setBytes b k l).hsSeen = s.hsSeen := rfl
@[simp] theorem setBytes_gateways (b : Bank) (k : Nat) (l : List Byte) : (s.setBytes b k l).gateways = s.gateways := rfl
@[simp] theorem setBytes_tested (b : Bank) (k : Nat) (l : List Byte) : (s.setBytes b k l).tested = s.tested := rfl
@[simp] theorem setBytes_dropRun (b : Bank) (k : Nat) (l : List Byte) : (s.setBytes b k l).dropRun = s.dropRun := rfl
@[simp] theorem setBytes_fullDebug (b : Bank) (k : Nat) (l : List Byte) : (s.setBytes b k l).fullDebug = s.fullDebug := rfl
@[simp] theorem setBytes_jtagEdge (b : Bank) (k : Nat) (l : List Byte) : (s.setBytes b k l).jtagEdge = s.jtagEdge := rfl
@[simp] theorem setBytes_dbgOut (b : Bank) (k : Nat) (l : List Byte) : (s.setBytes b k l).dbgOut = s.dbgOut := rfl
@[simp] theorem setBytes_pcieClock (b : Bank) (k : Nat) (l : List Byte) : (s.setBytes b k l).pcieClock = s.pcieClock := rfl
@[simp] theorem setBytes_badReads (b : Bank) (k : Nat) (l : List Byte) : (s.setBytes b k l).badReads = s.badReads := rfl
@[simp] theorem setBytes_widened (b : Bank) (k : Nat) (l : List Byte) : (s.setBytes b k l).widened = s.widened := rfl
@[simp] theorem setBytes_edgeCmds (b : Bank) (k : Nat) (l : List Byte) : (s.setBytes b k l).edgeCmds = s.edgeCmds := rfl
@[simp] theorem setBytes_tickRegs (b : Bank) (k : Nat) (l : List Byte) : (s.setBytes b k l).tickRegs = s.tickRegs := rfl
@[simp] theorem setBytes_released (b : Bank) (k : Nat) (l : List Byte) : (s.setBytes b k l).released = s.released := rfl
@[simp] theorem setBytes_releases (b : Bank) (k : Nat) (l : List Byte) : (s.setBytes b k l).releases = s.releases := rfl
@[simp] theorem setBytes_arrivals (b : Bank) (k : Nat) (l : List Byte) : (s.setBytes b k l).arrivals = s.arrivals := rfl
@[simp] theorem setBytes_lines (b : Bank) (k : Nat) (l : List Byte) : (s.setBytes b k l).lines = s.lines := rfl
@[simp] theorem setBytes_carried (b : Bank) (k : Nat) (l : List Byte) : (s.setBytes b k l).carried = s.carried := rfl
@[simp] theorem setBytes_idle (b : Bank) (k : Nat) (l : List Byte) : (s.setBytes b k l).idle = s.idle := rfl
@[simp] theorem setBytes_retuneTemps (b : Bank) (k : Nat) (l : List Byte) : (s.setBytes b k l).retuneTemps = s.retuneTemps := rfl
@[simp] theorem setBytes_sweeps (b : Bank) (k : Nat) (l : List Byte) : (s.setBytes b k l).sweeps = s.sweeps := rfl
@[simp] theorem setBytes_gatewayAt (b : Bank) (k : Nat) (l : List Byte) : (s.setBytes b k l).gatewayAt = s.gatewayAt := rfl
@[simp] theorem setBytes_retuneAt (b : Bank) (k : Nat) (l : List Byte) : (s.setBytes b k l).retuneAt = s.retuneAt := rfl
@[simp] theorem setBytes_quiet (b : Bank) (k : Nat) (l : List Byte) : (s.setBytes b k l).quiet = s.quiet := rfl
@[simp] theorem setBytes_tickAdds (b : Bank) (k : Nat) (l : List Byte) : (s.setBytes b k l).tickAdds = s.tickAdds := rfl
@[simp] theorem setBytes_bridge (b : Bank) (k : Nat) (l : List Byte) : (s.setBytes b k l).bridge = s.bridge := rfl
@[simp] theorem setBytes_pending (b : Bank) (k : Nat) (l : List Byte) : (s.setBytes b k l).pending = s.pending := rfl

/-! ### setCell -/

@[simp] theorem setCell_grade (b : Bank) (k : Nat) (v : Word) (p : Bool) : (s.setCell b k v p).grade = s.grade := rfl
@[simp] theorem setCell_regs (b : Bank) (k : Nat) (v : Word) (p : Bool) : (s.setCell b k v p).regs = s.regs := rfl
@[simp] theorem setCell_flags (b : Bank) (k : Nat) (v : Word) (p : Bool) : (s.setCell b k v p).flags = s.flags := rfl
@[simp] theorem setCell_queues (b : Bank) (k : Nat) (v : Word) (p : Bool) : (s.setCell b k v p).queues = s.queues := rfl
@[simp] theorem setCell_seen (b : Bank) (k : Nat) (v : Word) (p : Bool) : (s.setCell b k v p).seen = s.seen := rfl
@[simp] theorem setCell_execs (b : Bank) (k : Nat) (v : Word) (p : Bool) : (s.setCell b k v p).execs = s.execs := rfl
@[simp] theorem setCell_nextId (b : Bank) (k : Nat) (v : Word) (p : Bool) : (s.setCell b k v p).nextId = s.nextId := rfl
@[simp] theorem setCell_stale (b : Bank) (k : Nat) (v : Word) (p : Bool) : (s.setCell b k v p).stale = s.stale := rfl
@[simp] theorem setCell_groups (b : Bank) (k : Nat) (v : Word) (p : Bool) : (s.setCell b k v p).groups = s.groups := rfl
@[simp] theorem setCell_waitingLeaves (b : Bank) (k : Nat) (v : Word) (p : Bool) : (s.setCell b k v p).waitingLeaves = s.waitingLeaves := rfl
@[simp] theorem setCell_staleLeaves (b : Bank) (k : Nat) (v : Word) (p : Bool) : (s.setCell b k v p).staleLeaves = s.staleLeaves := rfl
@[simp] theorem setCell_dirty (b : Bank) (k : Nat) (v : Word) (p : Bool) : (s.setCell b k v p).dirty = s.dirty := rfl
@[simp] theorem setCell_ships (b : Bank) (k : Nat) (v : Word) (p : Bool) : (s.setCell b k v p).ships = s.ships := rfl
@[simp] theorem setCell_ward (b : Bank) (k : Nat) (v : Word) (p : Bool) : (s.setCell b k v p).ward = s.ward := rfl
@[simp] theorem setCell_moves (b : Bank) (k : Nat) (v : Word) (p : Bool) : (s.setCell b k v p).moves = s.moves := rfl
@[simp] theorem setCell_units (b : Bank) (k : Nat) (v : Word) (p : Bool) : (s.setCell b k v p).units = s.units := rfl
@[simp] theorem setCell_jcount (b : Bank) (k : Nat) (v : Word) (p : Bool) : (s.setCell b k v p).jcount = s.jcount := rfl
@[simp] theorem setCell_feeds (b : Bank) (k : Nat) (v : Word) (p : Bool) : (s.setCell b k v p).feeds = s.feeds := rfl
@[simp] theorem setCell_vxeReady (b : Bank) (k : Nat) (v : Word) (p : Bool) : (s.setCell b k v p).vxeReady = s.vxeReady := rfl
@[simp] theorem setCell_step (b : Bank) (k : Nat) (v : Word) (p : Bool) : (s.setCell b k v p).step = s.step := rfl
@[simp] theorem setCell_hallPending (b : Bank) (k : Nat) (v : Word) (p : Bool) : (s.setCell b k v p).hallPending = s.hallPending := rfl
@[simp] theorem setCell_hallAsked (b : Bank) (k : Nat) (v : Word) (p : Bool) : (s.setCell b k v p).hallAsked = s.hallAsked := rfl
@[simp] theorem setCell_beats (b : Bank) (k : Nat) (v : Word) (p : Bool) : (s.setCell b k v p).beats = s.beats := rfl
@[simp] theorem setCell_collectives (b : Bank) (k : Nat) (v : Word) (p : Bool) : (s.setCell b k v p).collectives = s.collectives := rfl
@[simp] theorem setCell_flows (b : Bank) (k : Nat) (v : Word) (p : Bool) : (s.setCell b k v p).flows = s.flows := rfl
@[simp] theorem setCell_sessions (b : Bank) (k : Nat) (v : Word) (p : Bool) : (s.setCell b k v p).sessions = s.sessions := rfl
@[simp] theorem setCell_exchanges (b : Bank) (k : Nat) (v : Word) (p : Bool) : (s.setCell b k v p).exchanges = s.exchanges := rfl
@[simp] theorem setCell_ptp (b : Bank) (k : Nat) (v : Word) (p : Bool) : (s.setCell b k v p).ptp = s.ptp := rfl
@[simp] theorem setCell_sideband (b : Bank) (k : Nat) (v : Word) (p : Bool) : (s.setCell b k v p).sideband = s.sideband := rfl
@[simp] theorem setCell_lullSince (b : Bank) (k : Nat) (v : Word) (p : Bool) : (s.setCell b k v p).lullSince = s.lullSince := rfl
@[simp] theorem setCell_coreRecs (b : Bank) (k : Nat) (v : Word) (p : Bool) : (s.setCell b k v p).coreRecs = s.coreRecs := rfl
@[simp] theorem setCell_recovered (b : Bank) (k : Nat) (v : Word) (p : Bool) : (s.setCell b k v p).recovered = s.recovered := rfl
@[simp] theorem setCell_lost (b : Bank) (k : Nat) (v : Word) (p : Bool) : (s.setCell b k v p).lost = s.lost := rfl
@[simp] theorem setCell_retired (b : Bank) (k : Nat) (v : Word) (p : Bool) : (s.setCell b k v p).retired = s.retired := rfl
@[simp] theorem setCell_promotedAt (b : Bank) (k : Nat) (v : Word) (p : Bool) : (s.setCell b k v p).promotedAt = s.promotedAt := rfl
@[simp] theorem setCell_retrains (b : Bank) (k : Nat) (v : Word) (p : Bool) : (s.setCell b k v p).retrains = s.retrains := rfl
@[simp] theorem setCell_retuneNext (b : Bank) (k : Nat) (v : Word) (p : Bool) : (s.setCell b k v p).retuneNext = s.retuneNext := rfl
@[simp] theorem setCell_patrol (b : Bank) (k : Nat) (v : Word) (p : Bool) : (s.setCell b k v p).patrol = s.patrol := rfl
@[simp] theorem setCell_linkFails (b : Bank) (k : Nat) (v : Word) (p : Bool) : (s.setCell b k v p).linkFails = s.linkFails := rfl
@[simp] theorem setCell_linksOut (b : Bank) (k : Nat) (v : Word) (p : Bool) : (s.setCell b k v p).linksOut = s.linksOut := rfl
@[simp] theorem setCell_slots (b : Bank) (k : Nat) (v : Word) (p : Bool) : (s.setCell b k v p).slots = s.slots := rfl
@[simp] theorem setCell_boot (b : Bank) (k : Nat) (v : Word) (p : Bool) : (s.setCell b k v p).boot = s.boot := rfl
@[simp] theorem setCell_owners (b : Bank) (k : Nat) (v : Word) (p : Bool) : (s.setCell b k v p).owners = s.owners := rfl
@[simp] theorem setCell_mlog (b : Bank) (k : Nat) (v : Word) (p : Bool) : (s.setCell b k v p).mlog = s.mlog := rfl
@[simp] theorem setCell_rings (b : Bank) (k : Nat) (v : Word) (p : Bool) : (s.setCell b k v p).rings = s.rings := rfl
@[simp] theorem setCell_edgeSup (b : Bank) (k : Nat) (v : Word) (p : Bool) : (s.setCell b k v p).edgeSup = s.edgeSup := rfl
@[simp] theorem setCell_handlers (b : Bank) (k : Nat) (v : Word) (p : Bool) : (s.setCell b k v p).handlers = s.handlers := rfl
@[simp] theorem setCell_msixOn (b : Bank) (k : Nat) (v : Word) (p : Bool) : (s.setCell b k v p).msixOn = s.msixOn := rfl
@[simp] theorem setCell_msixMask (b : Bank) (k : Nat) (v : Word) (p : Bool) : (s.setCell b k v p).msixMask = s.msixMask := rfl
@[simp] theorem setCell_msixRaised (b : Bank) (k : Nat) (v : Word) (p : Bool) : (s.setCell b k v p).msixRaised = s.msixRaised := rfl
@[simp] theorem setCell_spdmDoe (b : Bank) (k : Nat) (v : Word) (p : Bool) : (s.setCell b k v p).spdmDoe = s.spdmDoe := rfl
@[simp] theorem setCell_spdmMctp (b : Bank) (k : Nat) (v : Word) (p : Bool) : (s.setCell b k v p).spdmMctp = s.spdmMctp := rfl
@[simp] theorem setCell_challenge (b : Bank) (k : Nat) (v : Word) (p : Bool) : (s.setCell b k v p).challenge = s.challenge := rfl
@[simp] theorem setCell_jtag (b : Bank) (k : Nat) (v : Word) (p : Bool) : (s.setCell b k v p).jtag = s.jtag := rfl
@[simp] theorem setCell_muxNext (b : Bank) (k : Nat) (v : Word) (p : Bool) : (s.setCell b k v p).muxNext = s.muxNext := rfl
@[simp] theorem setCell_bist (b : Bank) (k : Nat) (v : Word) (p : Bool) : (s.setCell b k v p).bist = s.bist := rfl
@[simp] theorem setCell_keeperApplies (b : Bank) (k : Nat) (v : Word) (p : Bool) : (s.setCell b k v p).keeperApplies = s.keeperApplies := rfl
@[simp] theorem setCell_lastBeat (b : Bank) (k : Nat) (v : Word) (p : Bool) : (s.setCell b k v p).lastBeat = s.lastBeat := rfl
@[simp] theorem setCell_paused (b : Bank) (k : Nat) (v : Word) (p : Bool) : (s.setCell b k v p).paused = s.paused := rfl
@[simp] theorem setCell_alert (b : Bank) (k : Nat) (v : Word) (p : Bool) : (s.setCell b k v p).alert = s.alert := rfl
@[simp] theorem setCell_thermtrip (b : Bank) (k : Nat) (v : Word) (p : Bool) : (s.setCell b k v p).thermtrip = s.thermtrip := rfl
@[simp] theorem setCell_latched (b : Bank) (k : Nat) (v : Word) (p : Bool) : (s.setCell b k v p).latched = s.latched := rfl
@[simp] theorem setCell_out (b : Bank) (k : Nat) (v : Word) (p : Bool) : (s.setCell b k v p).out = s.out := rfl
@[simp] theorem setCell_free (b : Bank) (k : Nat) (v : Word) (p : Bool) : (s.setCell b k v p).free = s.free := rfl
@[simp] theorem setCell_draws (b : Bank) (k : Nat) (v : Word) (p : Bool) : (s.setCell b k v p).draws = s.draws := rfl
@[simp] theorem setCell_promotions (b : Bank) (k : Nat) (v : Word) (p : Bool) : (s.setCell b k v p).promotions = s.promotions := rfl
@[simp] theorem setCell_hsSeen (b : Bank) (k : Nat) (v : Word) (p : Bool) : (s.setCell b k v p).hsSeen = s.hsSeen := rfl
@[simp] theorem setCell_gateways (b : Bank) (k : Nat) (v : Word) (p : Bool) : (s.setCell b k v p).gateways = s.gateways := rfl
@[simp] theorem setCell_tested (b : Bank) (k : Nat) (v : Word) (p : Bool) : (s.setCell b k v p).tested = s.tested := rfl
@[simp] theorem setCell_dropRun (b : Bank) (k : Nat) (v : Word) (p : Bool) : (s.setCell b k v p).dropRun = s.dropRun := rfl
@[simp] theorem setCell_fullDebug (b : Bank) (k : Nat) (v : Word) (p : Bool) : (s.setCell b k v p).fullDebug = s.fullDebug := rfl
@[simp] theorem setCell_jtagEdge (b : Bank) (k : Nat) (v : Word) (p : Bool) : (s.setCell b k v p).jtagEdge = s.jtagEdge := rfl
@[simp] theorem setCell_dbgOut (b : Bank) (k : Nat) (v : Word) (p : Bool) : (s.setCell b k v p).dbgOut = s.dbgOut := rfl
@[simp] theorem setCell_pcieClock (b : Bank) (k : Nat) (v : Word) (p : Bool) : (s.setCell b k v p).pcieClock = s.pcieClock := rfl
@[simp] theorem setCell_badReads (b : Bank) (k : Nat) (v : Word) (p : Bool) : (s.setCell b k v p).badReads = s.badReads := rfl
@[simp] theorem setCell_widened (b : Bank) (k : Nat) (v : Word) (p : Bool) : (s.setCell b k v p).widened = s.widened := rfl
@[simp] theorem setCell_edgeCmds (b : Bank) (k : Nat) (v : Word) (p : Bool) : (s.setCell b k v p).edgeCmds = s.edgeCmds := rfl
@[simp] theorem setCell_tickRegs (b : Bank) (k : Nat) (v : Word) (p : Bool) : (s.setCell b k v p).tickRegs = s.tickRegs := rfl
@[simp] theorem setCell_released (b : Bank) (k : Nat) (v : Word) (p : Bool) : (s.setCell b k v p).released = s.released := rfl
@[simp] theorem setCell_releases (b : Bank) (k : Nat) (v : Word) (p : Bool) : (s.setCell b k v p).releases = s.releases := rfl
@[simp] theorem setCell_arrivals (b : Bank) (k : Nat) (v : Word) (p : Bool) : (s.setCell b k v p).arrivals = s.arrivals := rfl
@[simp] theorem setCell_lines (b : Bank) (k : Nat) (v : Word) (p : Bool) : (s.setCell b k v p).lines = s.lines := rfl
@[simp] theorem setCell_carried (b : Bank) (k : Nat) (v : Word) (p : Bool) : (s.setCell b k v p).carried = s.carried := rfl
@[simp] theorem setCell_idle (b : Bank) (k : Nat) (v : Word) (p : Bool) : (s.setCell b k v p).idle = s.idle := rfl
@[simp] theorem setCell_retuneTemps (b : Bank) (k : Nat) (v : Word) (p : Bool) : (s.setCell b k v p).retuneTemps = s.retuneTemps := rfl
@[simp] theorem setCell_sweeps (b : Bank) (k : Nat) (v : Word) (p : Bool) : (s.setCell b k v p).sweeps = s.sweeps := rfl
@[simp] theorem setCell_gatewayAt (b : Bank) (k : Nat) (v : Word) (p : Bool) : (s.setCell b k v p).gatewayAt = s.gatewayAt := rfl
@[simp] theorem setCell_retuneAt (b : Bank) (k : Nat) (v : Word) (p : Bool) : (s.setCell b k v p).retuneAt = s.retuneAt := rfl
@[simp] theorem setCell_quiet (b : Bank) (k : Nat) (v : Word) (p : Bool) : (s.setCell b k v p).quiet = s.quiet := rfl
@[simp] theorem setCell_tickAdds (b : Bank) (k : Nat) (v : Word) (p : Bool) : (s.setCell b k v p).tickAdds = s.tickAdds := rfl
@[simp] theorem setCell_bridge (b : Bank) (k : Nat) (v : Word) (p : Bool) : (s.setCell b k v p).bridge = s.bridge := rfl
@[simp] theorem setCell_pending (b : Bank) (k : Nat) (v : Word) (p : Bool) : (s.setCell b k v p).pending = s.pending := rfl

/-! ### flagAdd -/

@[simp] theorem flagAdd_grade (d i n : Nat) : (s.flagAdd d i n).grade = s.grade := rfl
@[simp] theorem flagAdd_mem (d i n : Nat) : (s.flagAdd d i n).mem = s.mem := rfl
@[simp] theorem flagAdd_errs (d i n : Nat) : (s.flagAdd d i n).errs = s.errs := rfl
@[simp] theorem flagAdd_poison (d i n : Nat) : (s.flagAdd d i n).poison = s.poison := rfl
@[simp] theorem flagAdd_regs (d i n : Nat) : (s.flagAdd d i n).regs = s.regs := rfl
@[simp] theorem flagAdd_queues (d i n : Nat) : (s.flagAdd d i n).queues = s.queues := rfl
@[simp] theorem flagAdd_seen (d i n : Nat) : (s.flagAdd d i n).seen = s.seen := rfl
@[simp] theorem flagAdd_execs (d i n : Nat) : (s.flagAdd d i n).execs = s.execs := rfl
@[simp] theorem flagAdd_nextId (d i n : Nat) : (s.flagAdd d i n).nextId = s.nextId := rfl
@[simp] theorem flagAdd_stale (d i n : Nat) : (s.flagAdd d i n).stale = s.stale := rfl
@[simp] theorem flagAdd_groups (d i n : Nat) : (s.flagAdd d i n).groups = s.groups := rfl
@[simp] theorem flagAdd_waitingLeaves (d i n : Nat) : (s.flagAdd d i n).waitingLeaves = s.waitingLeaves := rfl
@[simp] theorem flagAdd_staleLeaves (d i n : Nat) : (s.flagAdd d i n).staleLeaves = s.staleLeaves := rfl
@[simp] theorem flagAdd_dirty (d i n : Nat) : (s.flagAdd d i n).dirty = s.dirty := rfl
@[simp] theorem flagAdd_ships (d i n : Nat) : (s.flagAdd d i n).ships = s.ships := rfl
@[simp] theorem flagAdd_ward (d i n : Nat) : (s.flagAdd d i n).ward = s.ward := rfl
@[simp] theorem flagAdd_moves (d i n : Nat) : (s.flagAdd d i n).moves = s.moves := rfl
@[simp] theorem flagAdd_units (d i n : Nat) : (s.flagAdd d i n).units = s.units := rfl
@[simp] theorem flagAdd_jcount (d i n : Nat) : (s.flagAdd d i n).jcount = s.jcount := rfl
@[simp] theorem flagAdd_feeds (d i n : Nat) : (s.flagAdd d i n).feeds = s.feeds := rfl
@[simp] theorem flagAdd_vxeReady (d i n : Nat) : (s.flagAdd d i n).vxeReady = s.vxeReady := rfl
@[simp] theorem flagAdd_step (d i n : Nat) : (s.flagAdd d i n).step = s.step := rfl
@[simp] theorem flagAdd_hallPending (d i n : Nat) : (s.flagAdd d i n).hallPending = s.hallPending := rfl
@[simp] theorem flagAdd_hallAsked (d i n : Nat) : (s.flagAdd d i n).hallAsked = s.hallAsked := rfl
@[simp] theorem flagAdd_beats (d i n : Nat) : (s.flagAdd d i n).beats = s.beats := rfl
@[simp] theorem flagAdd_collectives (d i n : Nat) : (s.flagAdd d i n).collectives = s.collectives := rfl
@[simp] theorem flagAdd_flows (d i n : Nat) : (s.flagAdd d i n).flows = s.flows := rfl
@[simp] theorem flagAdd_sessions (d i n : Nat) : (s.flagAdd d i n).sessions = s.sessions := rfl
@[simp] theorem flagAdd_exchanges (d i n : Nat) : (s.flagAdd d i n).exchanges = s.exchanges := rfl
@[simp] theorem flagAdd_ptp (d i n : Nat) : (s.flagAdd d i n).ptp = s.ptp := rfl
@[simp] theorem flagAdd_sideband (d i n : Nat) : (s.flagAdd d i n).sideband = s.sideband := rfl
@[simp] theorem flagAdd_lullSince (d i n : Nat) : (s.flagAdd d i n).lullSince = s.lullSince := rfl
@[simp] theorem flagAdd_coreRecs (d i n : Nat) : (s.flagAdd d i n).coreRecs = s.coreRecs := rfl
@[simp] theorem flagAdd_recovered (d i n : Nat) : (s.flagAdd d i n).recovered = s.recovered := rfl
@[simp] theorem flagAdd_lost (d i n : Nat) : (s.flagAdd d i n).lost = s.lost := rfl
@[simp] theorem flagAdd_retired (d i n : Nat) : (s.flagAdd d i n).retired = s.retired := rfl
@[simp] theorem flagAdd_promotedAt (d i n : Nat) : (s.flagAdd d i n).promotedAt = s.promotedAt := rfl
@[simp] theorem flagAdd_retrains (d i n : Nat) : (s.flagAdd d i n).retrains = s.retrains := rfl
@[simp] theorem flagAdd_retuneNext (d i n : Nat) : (s.flagAdd d i n).retuneNext = s.retuneNext := rfl
@[simp] theorem flagAdd_patrol (d i n : Nat) : (s.flagAdd d i n).patrol = s.patrol := rfl
@[simp] theorem flagAdd_linkFails (d i n : Nat) : (s.flagAdd d i n).linkFails = s.linkFails := rfl
@[simp] theorem flagAdd_linksOut (d i n : Nat) : (s.flagAdd d i n).linksOut = s.linksOut := rfl
@[simp] theorem flagAdd_slots (d i n : Nat) : (s.flagAdd d i n).slots = s.slots := rfl
@[simp] theorem flagAdd_boot (d i n : Nat) : (s.flagAdd d i n).boot = s.boot := rfl
@[simp] theorem flagAdd_owners (d i n : Nat) : (s.flagAdd d i n).owners = s.owners := rfl
@[simp] theorem flagAdd_mlog (d i n : Nat) : (s.flagAdd d i n).mlog = s.mlog := rfl
@[simp] theorem flagAdd_rings (d i n : Nat) : (s.flagAdd d i n).rings = s.rings := rfl
@[simp] theorem flagAdd_edgeSup (d i n : Nat) : (s.flagAdd d i n).edgeSup = s.edgeSup := rfl
@[simp] theorem flagAdd_handlers (d i n : Nat) : (s.flagAdd d i n).handlers = s.handlers := rfl
@[simp] theorem flagAdd_msixOn (d i n : Nat) : (s.flagAdd d i n).msixOn = s.msixOn := rfl
@[simp] theorem flagAdd_msixMask (d i n : Nat) : (s.flagAdd d i n).msixMask = s.msixMask := rfl
@[simp] theorem flagAdd_msixRaised (d i n : Nat) : (s.flagAdd d i n).msixRaised = s.msixRaised := rfl
@[simp] theorem flagAdd_spdmDoe (d i n : Nat) : (s.flagAdd d i n).spdmDoe = s.spdmDoe := rfl
@[simp] theorem flagAdd_spdmMctp (d i n : Nat) : (s.flagAdd d i n).spdmMctp = s.spdmMctp := rfl
@[simp] theorem flagAdd_challenge (d i n : Nat) : (s.flagAdd d i n).challenge = s.challenge := rfl
@[simp] theorem flagAdd_jtag (d i n : Nat) : (s.flagAdd d i n).jtag = s.jtag := rfl
@[simp] theorem flagAdd_muxNext (d i n : Nat) : (s.flagAdd d i n).muxNext = s.muxNext := rfl
@[simp] theorem flagAdd_bist (d i n : Nat) : (s.flagAdd d i n).bist = s.bist := rfl
@[simp] theorem flagAdd_keeperApplies (d i n : Nat) : (s.flagAdd d i n).keeperApplies = s.keeperApplies := rfl
@[simp] theorem flagAdd_lastBeat (d i n : Nat) : (s.flagAdd d i n).lastBeat = s.lastBeat := rfl
@[simp] theorem flagAdd_paused (d i n : Nat) : (s.flagAdd d i n).paused = s.paused := rfl
@[simp] theorem flagAdd_alert (d i n : Nat) : (s.flagAdd d i n).alert = s.alert := rfl
@[simp] theorem flagAdd_thermtrip (d i n : Nat) : (s.flagAdd d i n).thermtrip = s.thermtrip := rfl
@[simp] theorem flagAdd_latched (d i n : Nat) : (s.flagAdd d i n).latched = s.latched := rfl
@[simp] theorem flagAdd_out (d i n : Nat) : (s.flagAdd d i n).out = s.out := rfl
@[simp] theorem flagAdd_free (d i n : Nat) : (s.flagAdd d i n).free = s.free := rfl
@[simp] theorem flagAdd_draws (d i n : Nat) : (s.flagAdd d i n).draws = s.draws := rfl
@[simp] theorem flagAdd_promotions (d i n : Nat) : (s.flagAdd d i n).promotions = s.promotions := rfl
@[simp] theorem flagAdd_hsSeen (d i n : Nat) : (s.flagAdd d i n).hsSeen = s.hsSeen := rfl
@[simp] theorem flagAdd_gateways (d i n : Nat) : (s.flagAdd d i n).gateways = s.gateways := rfl
@[simp] theorem flagAdd_tested (d i n : Nat) : (s.flagAdd d i n).tested = s.tested := rfl
@[simp] theorem flagAdd_dropRun (d i n : Nat) : (s.flagAdd d i n).dropRun = s.dropRun := rfl
@[simp] theorem flagAdd_fullDebug (d i n : Nat) : (s.flagAdd d i n).fullDebug = s.fullDebug := rfl
@[simp] theorem flagAdd_jtagEdge (d i n : Nat) : (s.flagAdd d i n).jtagEdge = s.jtagEdge := rfl
@[simp] theorem flagAdd_dbgOut (d i n : Nat) : (s.flagAdd d i n).dbgOut = s.dbgOut := rfl
@[simp] theorem flagAdd_pcieClock (d i n : Nat) : (s.flagAdd d i n).pcieClock = s.pcieClock := rfl
@[simp] theorem flagAdd_badReads (d i n : Nat) : (s.flagAdd d i n).badReads = s.badReads := rfl
@[simp] theorem flagAdd_widened (d i n : Nat) : (s.flagAdd d i n).widened = s.widened := rfl
@[simp] theorem flagAdd_edgeCmds (d i n : Nat) : (s.flagAdd d i n).edgeCmds = s.edgeCmds := rfl
@[simp] theorem flagAdd_tickRegs (d i n : Nat) : (s.flagAdd d i n).tickRegs = s.tickRegs := rfl
@[simp] theorem flagAdd_released (d i n : Nat) : (s.flagAdd d i n).released = s.released := rfl
@[simp] theorem flagAdd_releases (d i n : Nat) : (s.flagAdd d i n).releases = s.releases := rfl
@[simp] theorem flagAdd_arrivals (d i n : Nat) : (s.flagAdd d i n).arrivals = s.arrivals := rfl
@[simp] theorem flagAdd_lines (d i n : Nat) : (s.flagAdd d i n).lines = s.lines := rfl
@[simp] theorem flagAdd_carried (d i n : Nat) : (s.flagAdd d i n).carried = s.carried := rfl
@[simp] theorem flagAdd_idle (d i n : Nat) : (s.flagAdd d i n).idle = s.idle := rfl
@[simp] theorem flagAdd_retuneTemps (d i n : Nat) : (s.flagAdd d i n).retuneTemps = s.retuneTemps := rfl
@[simp] theorem flagAdd_sweeps (d i n : Nat) : (s.flagAdd d i n).sweeps = s.sweeps := rfl
@[simp] theorem flagAdd_gatewayAt (d i n : Nat) : (s.flagAdd d i n).gatewayAt = s.gatewayAt := rfl
@[simp] theorem flagAdd_retuneAt (d i n : Nat) : (s.flagAdd d i n).retuneAt = s.retuneAt := rfl
@[simp] theorem flagAdd_quiet (d i n : Nat) : (s.flagAdd d i n).quiet = s.quiet := rfl
@[simp] theorem flagAdd_tickAdds (d i n : Nat) : (s.flagAdd d i n).tickAdds = s.tickAdds := rfl
@[simp] theorem flagAdd_bridge (d i n : Nat) : (s.flagAdd d i n).bridge = s.bridge := rfl
@[simp] theorem flagAdd_pending (d i n : Nat) : (s.flagAdd d i n).pending = s.pending := rfl

/-! ### setQueue -/

@[simp] theorem setQueue_grade (q : Nat) (x : QueueRt) : (s.setQueue q x).grade = s.grade := rfl
@[simp] theorem setQueue_mem (q : Nat) (x : QueueRt) : (s.setQueue q x).mem = s.mem := rfl
@[simp] theorem setQueue_errs (q : Nat) (x : QueueRt) : (s.setQueue q x).errs = s.errs := rfl
@[simp] theorem setQueue_poison (q : Nat) (x : QueueRt) : (s.setQueue q x).poison = s.poison := rfl
@[simp] theorem setQueue_regs (q : Nat) (x : QueueRt) : (s.setQueue q x).regs = s.regs := rfl
@[simp] theorem setQueue_flags (q : Nat) (x : QueueRt) : (s.setQueue q x).flags = s.flags := rfl
@[simp] theorem setQueue_seen (q : Nat) (x : QueueRt) : (s.setQueue q x).seen = s.seen := rfl
@[simp] theorem setQueue_execs (q : Nat) (x : QueueRt) : (s.setQueue q x).execs = s.execs := rfl
@[simp] theorem setQueue_nextId (q : Nat) (x : QueueRt) : (s.setQueue q x).nextId = s.nextId := rfl
@[simp] theorem setQueue_stale (q : Nat) (x : QueueRt) : (s.setQueue q x).stale = s.stale := rfl
@[simp] theorem setQueue_groups (q : Nat) (x : QueueRt) : (s.setQueue q x).groups = s.groups := rfl
@[simp] theorem setQueue_waitingLeaves (q : Nat) (x : QueueRt) : (s.setQueue q x).waitingLeaves = s.waitingLeaves := rfl
@[simp] theorem setQueue_staleLeaves (q : Nat) (x : QueueRt) : (s.setQueue q x).staleLeaves = s.staleLeaves := rfl
@[simp] theorem setQueue_dirty (q : Nat) (x : QueueRt) : (s.setQueue q x).dirty = s.dirty := rfl
@[simp] theorem setQueue_ships (q : Nat) (x : QueueRt) : (s.setQueue q x).ships = s.ships := rfl
@[simp] theorem setQueue_ward (q : Nat) (x : QueueRt) : (s.setQueue q x).ward = s.ward := rfl
@[simp] theorem setQueue_moves (q : Nat) (x : QueueRt) : (s.setQueue q x).moves = s.moves := rfl
@[simp] theorem setQueue_units (q : Nat) (x : QueueRt) : (s.setQueue q x).units = s.units := rfl
@[simp] theorem setQueue_jcount (q : Nat) (x : QueueRt) : (s.setQueue q x).jcount = s.jcount := rfl
@[simp] theorem setQueue_feeds (q : Nat) (x : QueueRt) : (s.setQueue q x).feeds = s.feeds := rfl
@[simp] theorem setQueue_vxeReady (q : Nat) (x : QueueRt) : (s.setQueue q x).vxeReady = s.vxeReady := rfl
@[simp] theorem setQueue_step (q : Nat) (x : QueueRt) : (s.setQueue q x).step = s.step := rfl
@[simp] theorem setQueue_hallPending (q : Nat) (x : QueueRt) : (s.setQueue q x).hallPending = s.hallPending := rfl
@[simp] theorem setQueue_hallAsked (q : Nat) (x : QueueRt) : (s.setQueue q x).hallAsked = s.hallAsked := rfl
@[simp] theorem setQueue_beats (q : Nat) (x : QueueRt) : (s.setQueue q x).beats = s.beats := rfl
@[simp] theorem setQueue_collectives (q : Nat) (x : QueueRt) : (s.setQueue q x).collectives = s.collectives := rfl
@[simp] theorem setQueue_flows (q : Nat) (x : QueueRt) : (s.setQueue q x).flows = s.flows := rfl
@[simp] theorem setQueue_sessions (q : Nat) (x : QueueRt) : (s.setQueue q x).sessions = s.sessions := rfl
@[simp] theorem setQueue_exchanges (q : Nat) (x : QueueRt) : (s.setQueue q x).exchanges = s.exchanges := rfl
@[simp] theorem setQueue_ptp (q : Nat) (x : QueueRt) : (s.setQueue q x).ptp = s.ptp := rfl
@[simp] theorem setQueue_sideband (q : Nat) (x : QueueRt) : (s.setQueue q x).sideband = s.sideband := rfl
@[simp] theorem setQueue_lullSince (q : Nat) (x : QueueRt) : (s.setQueue q x).lullSince = s.lullSince := rfl
@[simp] theorem setQueue_coreRecs (q : Nat) (x : QueueRt) : (s.setQueue q x).coreRecs = s.coreRecs := rfl
@[simp] theorem setQueue_recovered (q : Nat) (x : QueueRt) : (s.setQueue q x).recovered = s.recovered := rfl
@[simp] theorem setQueue_lost (q : Nat) (x : QueueRt) : (s.setQueue q x).lost = s.lost := rfl
@[simp] theorem setQueue_retired (q : Nat) (x : QueueRt) : (s.setQueue q x).retired = s.retired := rfl
@[simp] theorem setQueue_promotedAt (q : Nat) (x : QueueRt) : (s.setQueue q x).promotedAt = s.promotedAt := rfl
@[simp] theorem setQueue_retrains (q : Nat) (x : QueueRt) : (s.setQueue q x).retrains = s.retrains := rfl
@[simp] theorem setQueue_retuneNext (q : Nat) (x : QueueRt) : (s.setQueue q x).retuneNext = s.retuneNext := rfl
@[simp] theorem setQueue_patrol (q : Nat) (x : QueueRt) : (s.setQueue q x).patrol = s.patrol := rfl
@[simp] theorem setQueue_linkFails (q : Nat) (x : QueueRt) : (s.setQueue q x).linkFails = s.linkFails := rfl
@[simp] theorem setQueue_linksOut (q : Nat) (x : QueueRt) : (s.setQueue q x).linksOut = s.linksOut := rfl
@[simp] theorem setQueue_slots (q : Nat) (x : QueueRt) : (s.setQueue q x).slots = s.slots := rfl
@[simp] theorem setQueue_boot (q : Nat) (x : QueueRt) : (s.setQueue q x).boot = s.boot := rfl
@[simp] theorem setQueue_owners (q : Nat) (x : QueueRt) : (s.setQueue q x).owners = s.owners := rfl
@[simp] theorem setQueue_mlog (q : Nat) (x : QueueRt) : (s.setQueue q x).mlog = s.mlog := rfl
@[simp] theorem setQueue_rings (q : Nat) (x : QueueRt) : (s.setQueue q x).rings = s.rings := rfl
@[simp] theorem setQueue_edgeSup (q : Nat) (x : QueueRt) : (s.setQueue q x).edgeSup = s.edgeSup := rfl
@[simp] theorem setQueue_handlers (q : Nat) (x : QueueRt) : (s.setQueue q x).handlers = s.handlers := rfl
@[simp] theorem setQueue_msixOn (q : Nat) (x : QueueRt) : (s.setQueue q x).msixOn = s.msixOn := rfl
@[simp] theorem setQueue_msixMask (q : Nat) (x : QueueRt) : (s.setQueue q x).msixMask = s.msixMask := rfl
@[simp] theorem setQueue_msixRaised (q : Nat) (x : QueueRt) : (s.setQueue q x).msixRaised = s.msixRaised := rfl
@[simp] theorem setQueue_spdmDoe (q : Nat) (x : QueueRt) : (s.setQueue q x).spdmDoe = s.spdmDoe := rfl
@[simp] theorem setQueue_spdmMctp (q : Nat) (x : QueueRt) : (s.setQueue q x).spdmMctp = s.spdmMctp := rfl
@[simp] theorem setQueue_challenge (q : Nat) (x : QueueRt) : (s.setQueue q x).challenge = s.challenge := rfl
@[simp] theorem setQueue_jtag (q : Nat) (x : QueueRt) : (s.setQueue q x).jtag = s.jtag := rfl
@[simp] theorem setQueue_muxNext (q : Nat) (x : QueueRt) : (s.setQueue q x).muxNext = s.muxNext := rfl
@[simp] theorem setQueue_bist (q : Nat) (x : QueueRt) : (s.setQueue q x).bist = s.bist := rfl
@[simp] theorem setQueue_keeperApplies (q : Nat) (x : QueueRt) : (s.setQueue q x).keeperApplies = s.keeperApplies := rfl
@[simp] theorem setQueue_lastBeat (q : Nat) (x : QueueRt) : (s.setQueue q x).lastBeat = s.lastBeat := rfl
@[simp] theorem setQueue_paused (q : Nat) (x : QueueRt) : (s.setQueue q x).paused = s.paused := rfl
@[simp] theorem setQueue_alert (q : Nat) (x : QueueRt) : (s.setQueue q x).alert = s.alert := rfl
@[simp] theorem setQueue_thermtrip (q : Nat) (x : QueueRt) : (s.setQueue q x).thermtrip = s.thermtrip := rfl
@[simp] theorem setQueue_latched (q : Nat) (x : QueueRt) : (s.setQueue q x).latched = s.latched := rfl
@[simp] theorem setQueue_out (q : Nat) (x : QueueRt) : (s.setQueue q x).out = s.out := rfl
@[simp] theorem setQueue_free (q : Nat) (x : QueueRt) : (s.setQueue q x).free = s.free := rfl
@[simp] theorem setQueue_draws (q : Nat) (x : QueueRt) : (s.setQueue q x).draws = s.draws := rfl
@[simp] theorem setQueue_promotions (q : Nat) (x : QueueRt) : (s.setQueue q x).promotions = s.promotions := rfl
@[simp] theorem setQueue_hsSeen (q : Nat) (x : QueueRt) : (s.setQueue q x).hsSeen = s.hsSeen := rfl
@[simp] theorem setQueue_gateways (q : Nat) (x : QueueRt) : (s.setQueue q x).gateways = s.gateways := rfl
@[simp] theorem setQueue_tested (q : Nat) (x : QueueRt) : (s.setQueue q x).tested = s.tested := rfl
@[simp] theorem setQueue_dropRun (q : Nat) (x : QueueRt) : (s.setQueue q x).dropRun = s.dropRun := rfl
@[simp] theorem setQueue_fullDebug (q : Nat) (x : QueueRt) : (s.setQueue q x).fullDebug = s.fullDebug := rfl
@[simp] theorem setQueue_jtagEdge (q : Nat) (x : QueueRt) : (s.setQueue q x).jtagEdge = s.jtagEdge := rfl
@[simp] theorem setQueue_dbgOut (q : Nat) (x : QueueRt) : (s.setQueue q x).dbgOut = s.dbgOut := rfl
@[simp] theorem setQueue_pcieClock (q : Nat) (x : QueueRt) : (s.setQueue q x).pcieClock = s.pcieClock := rfl
@[simp] theorem setQueue_badReads (q : Nat) (x : QueueRt) : (s.setQueue q x).badReads = s.badReads := rfl
@[simp] theorem setQueue_widened (q : Nat) (x : QueueRt) : (s.setQueue q x).widened = s.widened := rfl
@[simp] theorem setQueue_edgeCmds (q : Nat) (x : QueueRt) : (s.setQueue q x).edgeCmds = s.edgeCmds := rfl
@[simp] theorem setQueue_tickRegs (q : Nat) (x : QueueRt) : (s.setQueue q x).tickRegs = s.tickRegs := rfl
@[simp] theorem setQueue_released (q : Nat) (x : QueueRt) : (s.setQueue q x).released = s.released := rfl
@[simp] theorem setQueue_releases (q : Nat) (x : QueueRt) : (s.setQueue q x).releases = s.releases := rfl
@[simp] theorem setQueue_arrivals (q : Nat) (x : QueueRt) : (s.setQueue q x).arrivals = s.arrivals := rfl
@[simp] theorem setQueue_lines (q : Nat) (x : QueueRt) : (s.setQueue q x).lines = s.lines := rfl
@[simp] theorem setQueue_carried (q : Nat) (x : QueueRt) : (s.setQueue q x).carried = s.carried := rfl
@[simp] theorem setQueue_idle (q : Nat) (x : QueueRt) : (s.setQueue q x).idle = s.idle := rfl
@[simp] theorem setQueue_retuneTemps (q : Nat) (x : QueueRt) : (s.setQueue q x).retuneTemps = s.retuneTemps := rfl
@[simp] theorem setQueue_sweeps (q : Nat) (x : QueueRt) : (s.setQueue q x).sweeps = s.sweeps := rfl
@[simp] theorem setQueue_gatewayAt (q : Nat) (x : QueueRt) : (s.setQueue q x).gatewayAt = s.gatewayAt := rfl
@[simp] theorem setQueue_retuneAt (q : Nat) (x : QueueRt) : (s.setQueue q x).retuneAt = s.retuneAt := rfl
@[simp] theorem setQueue_quiet (q : Nat) (x : QueueRt) : (s.setQueue q x).quiet = s.quiet := rfl
@[simp] theorem setQueue_tickAdds (q : Nat) (x : QueueRt) : (s.setQueue q x).tickAdds = s.tickAdds := rfl
@[simp] theorem setQueue_bridge (q : Nat) (x : QueueRt) : (s.setQueue q x).bridge = s.bridge := rfl
@[simp] theorem setQueue_pending (q : Nat) (x : QueueRt) : (s.setQueue q x).pending = s.pending := rfl

/-! ### openValue -/

@[simp] theorem openValue_grade : (s.open_.2).grade = s.grade := rfl
@[simp] theorem openValue_mem : (s.open_.2).mem = s.mem := rfl
@[simp] theorem openValue_errs : (s.open_.2).errs = s.errs := rfl
@[simp] theorem openValue_poison : (s.open_.2).poison = s.poison := rfl
@[simp] theorem openValue_regs : (s.open_.2).regs = s.regs := rfl
@[simp] theorem openValue_flags : (s.open_.2).flags = s.flags := rfl
@[simp] theorem openValue_queues : (s.open_.2).queues = s.queues := rfl
@[simp] theorem openValue_seen : (s.open_.2).seen = s.seen := rfl
@[simp] theorem openValue_execs : (s.open_.2).execs = s.execs := rfl
@[simp] theorem openValue_nextId : (s.open_.2).nextId = s.nextId := rfl
@[simp] theorem openValue_stale : (s.open_.2).stale = s.stale := rfl
@[simp] theorem openValue_groups : (s.open_.2).groups = s.groups := rfl
@[simp] theorem openValue_waitingLeaves : (s.open_.2).waitingLeaves = s.waitingLeaves := rfl
@[simp] theorem openValue_staleLeaves : (s.open_.2).staleLeaves = s.staleLeaves := rfl
@[simp] theorem openValue_dirty : (s.open_.2).dirty = s.dirty := rfl
@[simp] theorem openValue_ships : (s.open_.2).ships = s.ships := rfl
@[simp] theorem openValue_ward : (s.open_.2).ward = s.ward := rfl
@[simp] theorem openValue_moves : (s.open_.2).moves = s.moves := rfl
@[simp] theorem openValue_units : (s.open_.2).units = s.units := rfl
@[simp] theorem openValue_jcount : (s.open_.2).jcount = s.jcount := rfl
@[simp] theorem openValue_feeds : (s.open_.2).feeds = s.feeds := rfl
@[simp] theorem openValue_vxeReady : (s.open_.2).vxeReady = s.vxeReady := rfl
@[simp] theorem openValue_step : (s.open_.2).step = s.step := rfl
@[simp] theorem openValue_hallPending : (s.open_.2).hallPending = s.hallPending := rfl
@[simp] theorem openValue_hallAsked : (s.open_.2).hallAsked = s.hallAsked := rfl
@[simp] theorem openValue_beats : (s.open_.2).beats = s.beats := rfl
@[simp] theorem openValue_collectives : (s.open_.2).collectives = s.collectives := rfl
@[simp] theorem openValue_flows : (s.open_.2).flows = s.flows := rfl
@[simp] theorem openValue_sessions : (s.open_.2).sessions = s.sessions := rfl
@[simp] theorem openValue_exchanges : (s.open_.2).exchanges = s.exchanges := rfl
@[simp] theorem openValue_ptp : (s.open_.2).ptp = s.ptp := rfl
@[simp] theorem openValue_sideband : (s.open_.2).sideband = s.sideband := rfl
@[simp] theorem openValue_lullSince : (s.open_.2).lullSince = s.lullSince := rfl
@[simp] theorem openValue_coreRecs : (s.open_.2).coreRecs = s.coreRecs := rfl
@[simp] theorem openValue_recovered : (s.open_.2).recovered = s.recovered := rfl
@[simp] theorem openValue_lost : (s.open_.2).lost = s.lost := rfl
@[simp] theorem openValue_retired : (s.open_.2).retired = s.retired := rfl
@[simp] theorem openValue_promotedAt : (s.open_.2).promotedAt = s.promotedAt := rfl
@[simp] theorem openValue_retrains : (s.open_.2).retrains = s.retrains := rfl
@[simp] theorem openValue_retuneNext : (s.open_.2).retuneNext = s.retuneNext := rfl
@[simp] theorem openValue_patrol : (s.open_.2).patrol = s.patrol := rfl
@[simp] theorem openValue_linkFails : (s.open_.2).linkFails = s.linkFails := rfl
@[simp] theorem openValue_linksOut : (s.open_.2).linksOut = s.linksOut := rfl
@[simp] theorem openValue_slots : (s.open_.2).slots = s.slots := rfl
@[simp] theorem openValue_boot : (s.open_.2).boot = s.boot := rfl
@[simp] theorem openValue_owners : (s.open_.2).owners = s.owners := rfl
@[simp] theorem openValue_mlog : (s.open_.2).mlog = s.mlog := rfl
@[simp] theorem openValue_rings : (s.open_.2).rings = s.rings := rfl
@[simp] theorem openValue_edgeSup : (s.open_.2).edgeSup = s.edgeSup := rfl
@[simp] theorem openValue_handlers : (s.open_.2).handlers = s.handlers := rfl
@[simp] theorem openValue_msixOn : (s.open_.2).msixOn = s.msixOn := rfl
@[simp] theorem openValue_msixMask : (s.open_.2).msixMask = s.msixMask := rfl
@[simp] theorem openValue_msixRaised : (s.open_.2).msixRaised = s.msixRaised := rfl
@[simp] theorem openValue_spdmDoe : (s.open_.2).spdmDoe = s.spdmDoe := rfl
@[simp] theorem openValue_spdmMctp : (s.open_.2).spdmMctp = s.spdmMctp := rfl
@[simp] theorem openValue_challenge : (s.open_.2).challenge = s.challenge := rfl
@[simp] theorem openValue_jtag : (s.open_.2).jtag = s.jtag := rfl
@[simp] theorem openValue_muxNext : (s.open_.2).muxNext = s.muxNext := rfl
@[simp] theorem openValue_bist : (s.open_.2).bist = s.bist := rfl
@[simp] theorem openValue_keeperApplies : (s.open_.2).keeperApplies = s.keeperApplies := rfl
@[simp] theorem openValue_lastBeat : (s.open_.2).lastBeat = s.lastBeat := rfl
@[simp] theorem openValue_paused : (s.open_.2).paused = s.paused := rfl
@[simp] theorem openValue_alert : (s.open_.2).alert = s.alert := rfl
@[simp] theorem openValue_thermtrip : (s.open_.2).thermtrip = s.thermtrip := rfl
@[simp] theorem openValue_latched : (s.open_.2).latched = s.latched := rfl
@[simp] theorem openValue_out : (s.open_.2).out = s.out := rfl
@[simp] theorem openValue_draws : (s.open_.2).draws = s.draws := rfl
@[simp] theorem openValue_promotions : (s.open_.2).promotions = s.promotions := rfl
@[simp] theorem openValue_hsSeen : (s.open_.2).hsSeen = s.hsSeen := rfl
@[simp] theorem openValue_gateways : (s.open_.2).gateways = s.gateways := rfl
@[simp] theorem openValue_tested : (s.open_.2).tested = s.tested := rfl
@[simp] theorem openValue_dropRun : (s.open_.2).dropRun = s.dropRun := rfl
@[simp] theorem openValue_fullDebug : (s.open_.2).fullDebug = s.fullDebug := rfl
@[simp] theorem openValue_jtagEdge : (s.open_.2).jtagEdge = s.jtagEdge := rfl
@[simp] theorem openValue_dbgOut : (s.open_.2).dbgOut = s.dbgOut := rfl
@[simp] theorem openValue_pcieClock : (s.open_.2).pcieClock = s.pcieClock := rfl
@[simp] theorem openValue_badReads : (s.open_.2).badReads = s.badReads := rfl
@[simp] theorem openValue_widened : (s.open_.2).widened = s.widened := rfl
@[simp] theorem openValue_edgeCmds : (s.open_.2).edgeCmds = s.edgeCmds := rfl
@[simp] theorem openValue_tickRegs : (s.open_.2).tickRegs = s.tickRegs := rfl
@[simp] theorem openValue_released : (s.open_.2).released = s.released := rfl
@[simp] theorem openValue_releases : (s.open_.2).releases = s.releases := rfl
@[simp] theorem openValue_arrivals : (s.open_.2).arrivals = s.arrivals := rfl
@[simp] theorem openValue_lines : (s.open_.2).lines = s.lines := rfl
@[simp] theorem openValue_carried : (s.open_.2).carried = s.carried := rfl
@[simp] theorem openValue_idle : (s.open_.2).idle = s.idle := rfl
@[simp] theorem openValue_retuneTemps : (s.open_.2).retuneTemps = s.retuneTemps := rfl
@[simp] theorem openValue_sweeps : (s.open_.2).sweeps = s.sweeps := rfl
@[simp] theorem openValue_gatewayAt : (s.open_.2).gatewayAt = s.gatewayAt := rfl
@[simp] theorem openValue_retuneAt : (s.open_.2).retuneAt = s.retuneAt := rfl
@[simp] theorem openValue_quiet : (s.open_.2).quiet = s.quiet := rfl
@[simp] theorem openValue_tickAdds : (s.open_.2).tickAdds = s.tickAdds := rfl
@[simp] theorem openValue_bridge : (s.open_.2).bridge = s.bridge := rfl
@[simp] theorem openValue_pending : (s.open_.2).pending = s.pending := rfl
@[simp] theorem openValue_free : s.open_.2.free = s.free + 1 := rfl
@[simp] theorem openValue_value : s.open_.1 = Config.freeValue s.free := rfl

/-! ### draw -/

@[simp] theorem draw_grade : (s.draw.2).grade = s.grade := rfl
@[simp] theorem draw_mem : (s.draw.2).mem = s.mem := rfl
@[simp] theorem draw_errs : (s.draw.2).errs = s.errs := rfl
@[simp] theorem draw_poison : (s.draw.2).poison = s.poison := rfl
@[simp] theorem draw_regs : (s.draw.2).regs = s.regs := rfl
@[simp] theorem draw_flags : (s.draw.2).flags = s.flags := rfl
@[simp] theorem draw_queues : (s.draw.2).queues = s.queues := rfl
@[simp] theorem draw_seen : (s.draw.2).seen = s.seen := rfl
@[simp] theorem draw_execs : (s.draw.2).execs = s.execs := rfl
@[simp] theorem draw_nextId : (s.draw.2).nextId = s.nextId := rfl
@[simp] theorem draw_stale : (s.draw.2).stale = s.stale := rfl
@[simp] theorem draw_groups : (s.draw.2).groups = s.groups := rfl
@[simp] theorem draw_waitingLeaves : (s.draw.2).waitingLeaves = s.waitingLeaves := rfl
@[simp] theorem draw_staleLeaves : (s.draw.2).staleLeaves = s.staleLeaves := rfl
@[simp] theorem draw_dirty : (s.draw.2).dirty = s.dirty := rfl
@[simp] theorem draw_ships : (s.draw.2).ships = s.ships := rfl
@[simp] theorem draw_ward : (s.draw.2).ward = s.ward := rfl
@[simp] theorem draw_moves : (s.draw.2).moves = s.moves := rfl
@[simp] theorem draw_units : (s.draw.2).units = s.units := rfl
@[simp] theorem draw_jcount : (s.draw.2).jcount = s.jcount := rfl
@[simp] theorem draw_feeds : (s.draw.2).feeds = s.feeds := rfl
@[simp] theorem draw_vxeReady : (s.draw.2).vxeReady = s.vxeReady := rfl
@[simp] theorem draw_step : (s.draw.2).step = s.step := rfl
@[simp] theorem draw_hallPending : (s.draw.2).hallPending = s.hallPending := rfl
@[simp] theorem draw_hallAsked : (s.draw.2).hallAsked = s.hallAsked := rfl
@[simp] theorem draw_beats : (s.draw.2).beats = s.beats := rfl
@[simp] theorem draw_collectives : (s.draw.2).collectives = s.collectives := rfl
@[simp] theorem draw_flows : (s.draw.2).flows = s.flows := rfl
@[simp] theorem draw_sessions : (s.draw.2).sessions = s.sessions := rfl
@[simp] theorem draw_exchanges : (s.draw.2).exchanges = s.exchanges := rfl
@[simp] theorem draw_ptp : (s.draw.2).ptp = s.ptp := rfl
@[simp] theorem draw_sideband : (s.draw.2).sideband = s.sideband := rfl
@[simp] theorem draw_lullSince : (s.draw.2).lullSince = s.lullSince := rfl
@[simp] theorem draw_coreRecs : (s.draw.2).coreRecs = s.coreRecs := rfl
@[simp] theorem draw_recovered : (s.draw.2).recovered = s.recovered := rfl
@[simp] theorem draw_lost : (s.draw.2).lost = s.lost := rfl
@[simp] theorem draw_retired : (s.draw.2).retired = s.retired := rfl
@[simp] theorem draw_promotedAt : (s.draw.2).promotedAt = s.promotedAt := rfl
@[simp] theorem draw_retrains : (s.draw.2).retrains = s.retrains := rfl
@[simp] theorem draw_retuneNext : (s.draw.2).retuneNext = s.retuneNext := rfl
@[simp] theorem draw_patrol : (s.draw.2).patrol = s.patrol := rfl
@[simp] theorem draw_linkFails : (s.draw.2).linkFails = s.linkFails := rfl
@[simp] theorem draw_linksOut : (s.draw.2).linksOut = s.linksOut := rfl
@[simp] theorem draw_slots : (s.draw.2).slots = s.slots := rfl
@[simp] theorem draw_boot : (s.draw.2).boot = s.boot := rfl
@[simp] theorem draw_owners : (s.draw.2).owners = s.owners := rfl
@[simp] theorem draw_mlog : (s.draw.2).mlog = s.mlog := rfl
@[simp] theorem draw_rings : (s.draw.2).rings = s.rings := rfl
@[simp] theorem draw_edgeSup : (s.draw.2).edgeSup = s.edgeSup := rfl
@[simp] theorem draw_handlers : (s.draw.2).handlers = s.handlers := rfl
@[simp] theorem draw_msixOn : (s.draw.2).msixOn = s.msixOn := rfl
@[simp] theorem draw_msixMask : (s.draw.2).msixMask = s.msixMask := rfl
@[simp] theorem draw_msixRaised : (s.draw.2).msixRaised = s.msixRaised := rfl
@[simp] theorem draw_spdmDoe : (s.draw.2).spdmDoe = s.spdmDoe := rfl
@[simp] theorem draw_spdmMctp : (s.draw.2).spdmMctp = s.spdmMctp := rfl
@[simp] theorem draw_challenge : (s.draw.2).challenge = s.challenge := rfl
@[simp] theorem draw_jtag : (s.draw.2).jtag = s.jtag := rfl
@[simp] theorem draw_muxNext : (s.draw.2).muxNext = s.muxNext := rfl
@[simp] theorem draw_bist : (s.draw.2).bist = s.bist := rfl
@[simp] theorem draw_keeperApplies : (s.draw.2).keeperApplies = s.keeperApplies := rfl
@[simp] theorem draw_lastBeat : (s.draw.2).lastBeat = s.lastBeat := rfl
@[simp] theorem draw_paused : (s.draw.2).paused = s.paused := rfl
@[simp] theorem draw_alert : (s.draw.2).alert = s.alert := rfl
@[simp] theorem draw_thermtrip : (s.draw.2).thermtrip = s.thermtrip := rfl
@[simp] theorem draw_latched : (s.draw.2).latched = s.latched := rfl
@[simp] theorem draw_out : (s.draw.2).out = s.out := rfl
@[simp] theorem draw_free : (s.draw.2).free = s.free := rfl
@[simp] theorem draw_promotions : (s.draw.2).promotions = s.promotions := rfl
@[simp] theorem draw_hsSeen : (s.draw.2).hsSeen = s.hsSeen := rfl
@[simp] theorem draw_gateways : (s.draw.2).gateways = s.gateways := rfl
@[simp] theorem draw_tested : (s.draw.2).tested = s.tested := rfl
@[simp] theorem draw_dropRun : (s.draw.2).dropRun = s.dropRun := rfl
@[simp] theorem draw_fullDebug : (s.draw.2).fullDebug = s.fullDebug := rfl
@[simp] theorem draw_jtagEdge : (s.draw.2).jtagEdge = s.jtagEdge := rfl
@[simp] theorem draw_dbgOut : (s.draw.2).dbgOut = s.dbgOut := rfl
@[simp] theorem draw_pcieClock : (s.draw.2).pcieClock = s.pcieClock := rfl
@[simp] theorem draw_badReads : (s.draw.2).badReads = s.badReads := rfl
@[simp] theorem draw_widened : (s.draw.2).widened = s.widened := rfl
@[simp] theorem draw_edgeCmds : (s.draw.2).edgeCmds = s.edgeCmds := rfl
@[simp] theorem draw_tickRegs : (s.draw.2).tickRegs = s.tickRegs := rfl
@[simp] theorem draw_released : (s.draw.2).released = s.released := rfl
@[simp] theorem draw_releases : (s.draw.2).releases = s.releases := rfl
@[simp] theorem draw_arrivals : (s.draw.2).arrivals = s.arrivals := rfl
@[simp] theorem draw_lines : (s.draw.2).lines = s.lines := rfl
@[simp] theorem draw_carried : (s.draw.2).carried = s.carried := rfl
@[simp] theorem draw_idle : (s.draw.2).idle = s.idle := rfl
@[simp] theorem draw_retuneTemps : (s.draw.2).retuneTemps = s.retuneTemps := rfl
@[simp] theorem draw_sweeps : (s.draw.2).sweeps = s.sweeps := rfl
@[simp] theorem draw_gatewayAt : (s.draw.2).gatewayAt = s.gatewayAt := rfl
@[simp] theorem draw_retuneAt : (s.draw.2).retuneAt = s.retuneAt := rfl
@[simp] theorem draw_quiet : (s.draw.2).quiet = s.quiet := rfl
@[simp] theorem draw_tickAdds : (s.draw.2).tickAdds = s.tickAdds := rfl
@[simp] theorem draw_bridge : (s.draw.2).bridge = s.bridge := rfl
@[simp] theorem draw_pending : (s.draw.2).pending = s.pending := rfl
@[simp] theorem draw_draws : s.draw.2.draws = s.draws + 1 := rfl
@[simp] theorem draw_value : s.draw.1 = Config.random s.draws := rfl

end Sys2Proof.Laws
end

