-- ==== Sys2Proof/Laws/Store.lean ====
section
/-! SUPPORT. The laws of sparse storage: what a read gives after a write, and that a write, an erasure and a filter keep the canonical form. -/

namespace Sys2Proof.Laws

open Sys2Proof.Machine

variable {κ α : Type} [DecidableEq κ] [DecidableEq α] {d : κ → α} {ord : κ → Nat} {m : List (κ × α)} {k k' : κ} {v : α}

omit [DecidableEq α] in
theorem get_erase_same : Store.get d (Store.erase m k) k = d k := by
  induction m with
  | nil => rfl
  | cons c m ih =>
    by_cases h : c.1 = k
    · simpa [Store.erase, h] using ih
    · simpa [Store.erase, h, Store.get] using ih

omit [DecidableEq α] in
theorem get_erase_other (h : k' ≠ k) : Store.get d (Store.erase m k) k' = Store.get d m k' := by
  induction m with
  | nil => rfl
  | cons c m ih =>
    by_cases hc : c.1 = k
    · have : c.1 ≠ k' := fun e => h (e ▸ hc)
      simpa [Store.erase, hc, Store.get, Ne.symm h] using ih
    · by_cases hk : c.1 = k'
      · simp [Store.erase, Store.get, hk, h]
      · simpa [Store.erase, hc, Store.get, hk] using ih

omit [DecidableEq α] in
theorem get_insert_same (h : ∀ c ∈ m, c.1 ≠ k) : Store.get d (Store.insert ord k v m) k = v := by
  induction m with
  | nil => simp [Store.insert, Store.get]
  | cons c m ih =>
    have hc : c.1 ≠ k := h c (by simp)
    unfold Store.insert
    split
    · simp [Store.get]
    · simpa [Store.get, hc] using ih fun x hx => h x (by simp [hx])

omit [DecidableEq α] in
theorem get_insert_other (h : k' ≠ k) : Store.get d (Store.insert ord k v m) k' = Store.get d m k' := by
  induction m with
  | nil => simp [Store.insert, Store.get, Ne.symm h]
  | cons c m ih =>
    unfold Store.insert
    split
    · simp [Store.get, Ne.symm h]
    · simp [Store.get, ih]

omit [DecidableEq α] in
theorem erase_ne (c : κ × α) (h : c ∈ Store.erase m k) : c.1 ≠ k := by
  simpa using (List.mem_filter.mp h).2

/-- A read of a key just written gives the value written. -/
theorem get_set_same : Store.get d (Store.set d ord m k v) k = v := by
  unfold Store.set
  split
  · next h => rw [get_erase_same, h]
  · exact get_insert_same erase_ne

/-- A write leaves every other key alone. -/
theorem get_set_other (h : k' ≠ k) : Store.get d (Store.set d ord m k v) k' = Store.get d m k' := by
  unfold Store.set
  split
  · exact get_erase_other h
  · rw [get_insert_other h, get_erase_other h]

omit [DecidableEq κ] in
theorem wf_iff : Store.wf d ord m = true ↔ m.Pairwise (fun a b => ord a.1 < ord b.1) ∧ ∀ c ∈ m, c.2 ≠ d c.1 := by
  simp [Store.wf]

omit [DecidableEq κ] in
/-- A part of a store in canonical form is in canonical form. -/
theorem wf_filter (p : κ × α → Bool) (h : Store.wf d ord m = true) : Store.wf d ord (m.filter p) = true := by
  rw [wf_iff] at *
  exact ⟨h.1.filter p, fun c hc => h.2 c (List.mem_filter.mp hc).1⟩

theorem wf_erase (h : Store.wf d ord m = true) : Store.wf d ord (Store.erase m k) = true := wf_filter _ h

omit [DecidableEq κ] [DecidableEq α] in
theorem mem_insert (c : κ × α) (h : c ∈ Store.insert ord k v m) : c = (k, v) ∨ c ∈ m := by
  induction m with
  | nil => simpa [Store.insert] using h
  | cons a m ih =>
    unfold Store.insert at h
    split at h
    · simpa using h
    · rcases List.mem_cons.mp h with h | h
      · exact .inr (by simp [h])
      · rcases ih h with h | h
        · exact .inl h
        · exact .inr (by simp [h])

omit [DecidableEq κ] [DecidableEq α] in
theorem pairwise_insert (h : m.Pairwise fun a b => ord a.1 < ord b.1) (hk : ∀ c ∈ m, ord c.1 ≠ ord k) :
    (Store.insert ord k v m).Pairwise fun a b => ord a.1 < ord b.1 := by
  induction m with
  | nil => simp [Store.insert]
  | cons a m ih =>
    have hp := List.pairwise_cons.mp h
    unfold Store.insert
    split
    · next hlt =>
      refine List.pairwise_cons.mpr ⟨fun c hc => ?_, h⟩
      rcases List.mem_cons.mp hc with rfl | hc
      · exact hlt
      · exact hlt.trans (hp.1 c hc)
    · next hge =>
      refine List.pairwise_cons.mpr ⟨fun c hc => ?_, ih hp.2 fun c hc => hk c (by simp [hc])⟩
      rcases mem_insert c hc with rfl | hc
      · have := hk a (by simp)
        simp only at hge ⊢
        omega
      · exact hp.1 c hc

/-- A write keeps the canonical form, where `ord` tells the keys in the store from the key written. -/
theorem wf_set (hinj : ∀ c ∈ m, ord c.1 = ord k → c.1 = k) (h : Store.wf d ord m = true) : Store.wf d ord (Store.set d ord m k v) = true := by
  unfold Store.set
  split
  · exact wf_erase h
  · next hv =>
    have he := wf_iff.mp (wf_erase (k := k) h)
    refine wf_iff.mpr ⟨pairwise_insert he.1 fun c hc e => erase_ne c hc (hinj c (List.mem_filter.mp hc).1 e), fun c hc => ?_⟩
    rcases mem_insert c hc with rfl | hc
    · exact hv
    · exact he.2 c hc

/-- The same for stores keyed by numbers. -/
theorem wf_set_nat {d : Nat → α} {m : List (Nat × α)} {k : Nat} (h : Store.wf d id m = true) : Store.wf d id (Store.set d id m k v) = true :=
  wf_set (fun _ _ e => e) h

end Sys2Proof.Laws
end

