-- ==== Sys2Proof/Laws/Regs.lean ====
section
/-! SUPPORT. The laws of registers and fields: what a read gives after a write, of the same place and of another. -/

namespace Sys2Proof.Laws

open Sys2Proof.Machine

set_option Elab.async false

variable {s : State} {r r' : Reg} {v : Word} {f g : Fld} {lo w lo' w' x i j i' j' : Nat}

/-! ### The order of registers in the store -/

/-- Different pairs have different numbers. -/
theorem pairNum_injective {a b c d : Nat} (h : pairNum a b = pairNum c d) : a = c ∧ b = d := by
  unfold pairNum at h
  have e (n : Nat) : (n + 1) * (n + 1 + 1) / 2 = n * (n + 1) / 2 + (n + 1) := by
    have : (n + 1) * (n + 1 + 1) = n * (n + 1) + 2 * (n + 1) := by ring
    omega
  have grow (m k : Nat) : m * (m + 1) / 2 + m + k ≤ (m + k) * (m + k + 1) / 2 + m + k := by
    induction k with
    | zero => simp
    | succ k ih =>
      have := e (m + k)
      rw [show m + (k + 1) = m + k + 1 by omega]
      omega
  have below (m n : Nat) (hmn : m < n) : m * (m + 1) / 2 + m < n * (n + 1) / 2 := by
    obtain ⟨k, rfl⟩ : ∃ k, n = m + 1 + k := ⟨n - m - 1, by omega⟩
    have h1 := e m
    have h2 := grow (m + 1) k
    omega
  rcases Nat.lt_trichotomy (a + b) (c + d) with g | g | g
  · have := below _ _ g
    omega
  · rw [g] at h
    omega
  · have := below _ _ g
    omega

/-- The order of the store tells registers apart. -/
theorem ord_injective (h : r.ord = r'.ord) : r = r' := by
  obtain ⟨h1, h2⟩ := pairNum_injective h
  obtain ⟨h3, h4⟩ := pairNum_injective h1
  have h5 : r.name = r'.name := by rw [← RegName.ofNat_ctorIdx r.name, h2, RegName.ofNat_ctorIdx]
  cases r
  cases r'
  simp_all

/-! ### Bit fields -/

theorem testBit_mask (w k : Nat) : (BitVec.ofNat 64 (2 ^ w - 1)).getLsbD k = (decide (k < 64) && decide (k < w)) := by
  simp [BitVec.getLsbD_ofNat, Nat.testBit_two_pow_sub_one]

theorem testBit_getBits (k : Nat) : (getBits v lo w).testBit k = (decide (k < w) && v.getLsbD (lo + k)) := by
  unfold getBits
  rw [BitVec.testBit_toNat, BitVec.getLsbD_and, testBit_mask, BitVec.getLsbD_ushiftRight]
  by_cases hk : k < 64
  · simp [hk, Bool.and_comm]
  · simp [hk, BitVec.getLsbD_of_ge v (lo + k) (by omega)]

theorem getLsbD_fieldMask (k : Nat) : (fieldMask lo w).getLsbD k = (decide (k < 64) && decide (lo ≤ k ∧ k < lo + w)) := by
  unfold fieldMask
  rw [BitVec.getLsbD_shiftLeft, testBit_mask]
  by_cases h : k < 64 <;> by_cases hl : k < lo
  · simp [h, hl]
  · have h1 : k - lo < 64 := by omega
    have h2 : k - lo < w ↔ k < lo + w := by omega
    simp [h, hl, h1, h2, Nat.le_of_not_lt hl]
  · simp [h]
  · simp [h]

theorem getLsbD_setBits (k : Nat) (hk : k < 64) :
    (setBits v lo w x).getLsbD k = if lo ≤ k ∧ k < lo + w then x.testBit (k - lo) else v.getLsbD k := by
  unfold setBits
  rw [BitVec.getLsbD_or, BitVec.getLsbD_and, BitVec.getLsbD_and, BitVec.getLsbD_not, getLsbD_fieldMask, BitVec.getLsbD_shiftLeft,
    BitVec.getLsbD_ofNat]
  by_cases h : lo ≤ k ∧ k < lo + w
  · have h1 : ¬ k < lo := by omega
    have h2 : k - lo < 64 := by omega
    simp [hk, h, h1, h2]
  · simp [hk, h]

/-- A field just written reads back, where it lies in the word and the value fits it. -/
theorem getBits_setBits_same (h : lo + w ≤ 64) (hx : x < 2 ^ w) : getBits (setBits v lo w x) lo w = x := by
  refine Nat.eq_of_testBit_eq fun k => ?_
  rw [testBit_getBits]
  by_cases hk : k < w
  · rw [getLsbD_setBits _ (by omega)]
    simp [hk]
  · simp only [hk, decide_false, Bool.false_and]
    exact (Nat.testBit_lt_two_pow (hx.trans_le (Nat.pow_le_pow_right (by omega) (by omega)))).symm

/-- A field beside the one written keeps its value. -/
theorem getBits_setBits_other (h : lo' + w' ≤ lo ∨ lo + w ≤ lo') : getBits (setBits v lo w x) lo' w' = getBits v lo' w' := by
  refine Nat.eq_of_testBit_eq fun k => ?_
  rw [testBit_getBits, testBit_getBits]
  by_cases hk : k < w'
  · by_cases h64 : lo' + k < 64
    · rw [getLsbD_setBits _ h64, if_neg (by omega)]
    · rw [BitVec.getLsbD_of_ge _ _ (by omega), BitVec.getLsbD_of_ge _ _ (by omega)]
  · simp [hk]

/-! ### Registers -/

/-- A register just written reads back. -/
@[simp] theorem rd_wr_same : (s.wr r v).rd r = v := get_set_same

/-- Another register keeps its value. -/
theorem rd_wr_other (h : r' ≠ r) : (s.wr r v).rd r' = s.rd r' := get_set_other h

/-- A field just written reads back. -/
theorem f_fset_same (h : f.lo + f.w ≤ 64) (hx : x < 2 ^ f.w) : (s.fset f x i j).f f i j = x := by
  unfold State.f State.fset
  rw [rd_wr_same, getBits_setBits_same h hx]

/-- A field of another register keeps its value. -/
theorem f_fset_other (h : (⟨g.reg, i', j'⟩ : Reg) ≠ ⟨f.reg, i, j⟩) : (s.fset f x i j).f g i' j' = s.f g i' j' := by
  unfold State.f State.fset
  rw [rd_wr_other h]

/-- A field beside the one written keeps its value. -/
theorem f_fset_beside (hr : g.reg = f.reg) (h : g.lo + g.w ≤ f.lo ∨ f.lo + f.w ≤ g.lo) : (s.fset f x i j).f g i j = s.f g i j := by
  unfold State.f State.fset
  rw [hr, rd_wr_same, getBits_setBits_other h]

/-- A register reads the grade and the register store, and nothing else. -/
theorem rd_congr {t : State} (h : t.regs = s.regs) (hg : t.grade = s.grade) : t.rd r = s.rd r := by
  simp only [State.rd, h, hg]

/-- A field reads the grade and the register store, and nothing else. -/
theorem f_congr {t : State} (h : t.regs = s.regs) (hg : t.grade = s.grade) : t.f f i j = s.f f i j := by
  simp only [State.f, rd_congr h hg]

@[simp] theorem f_emit (o : Out) : (s.emit o).f f i j = s.f f i j := rfl
@[simp] theorem f_emits (l : List Out) : (s.emits l).f f i j = s.f f i j := rfl
@[simp] theorem f_latch (e : Event) : (s.latch e).f f i j = s.f f i j := rfl
@[simp] theorem f_raise (c n : Nat) : (s.raise c n).f f i j = s.f f i j := rfl
@[simp] theorem f_error (c v d a b e t : Nat) : (s.error c v d a b e t).f f i j = s.f f i j := rfl
@[simp] theorem f_setBytes (b : Bank) (k : Nat) (l : List Byte) : (s.setBytes b k l).f f i j = s.f f i j := rfl
@[simp] theorem f_setCell (b : Bank) (k : Nat) (y : Word) (p : Bool) : (s.setCell b k y p).f f i j = s.f f i j := rfl
@[simp] theorem f_flagAdd (d k n : Nat) : (s.flagAdd d k n).f f i j = s.f f i j := rfl
@[simp] theorem f_setQueue (q : Nat) (y : QueueRt) : (s.setQueue q y).f f i j = s.f f i j := rfl
@[simp] theorem fb_emit (o : Out) : (s.emit o).fb f i j = s.fb f i j := rfl
@[simp] theorem fb_emits (l : List Out) : (s.emits l).fb f i j = s.fb f i j := rfl
@[simp] theorem fb_latch (e : Event) : (s.latch e).fb f i j = s.fb f i j := rfl
@[simp] theorem fb_raise (c n : Nat) : (s.raise c n).fb f i j = s.fb f i j := rfl
@[simp] theorem fb_setQueue (q : Nat) (y : QueueRt) : (s.setQueue q y).fb f i j = s.fb f i j := rfl

/-- A register of the reset state holds its reset value. -/
theorem rd_reset : State.reset.rd r = r.resetWord .psn8128 := rfl

/-! ### Flags -/

/-- A flag just added to holds the sum, modulo 2^16 (R169). -/
@[simp] theorem flag_flagAdd_same (d k n : Nat) : (s.flagAdd d k n).flag d k = s.flag d k + BitVec.ofNat 16 n := get_set_same

/-- Another flag keeps its value. -/
theorem flag_flagAdd_other {d k n d' k' : Nat} (h : d' * 4096 + k' ≠ d * 4096 + k) : (s.flagAdd d k n).flag d' k' = s.flag d' k' :=
  get_set_other h

end Sys2Proof.Laws
end

