-- ==== Sys2Proof/Laws/Memory.lean ====
section
/-! SUPPORT. The laws of storage: reads after writes, and that every write keeps the canonical form of the bytes, the codeword errors and the poison bits. -/

namespace Sys2Proof.Laws

open Sys2Proof.Machine

variable {s : State} {b b' : Bank} {k k' : Nat} {v : Byte} {m : List Host.Cell}

/-- A byte just written reads back. -/
@[simp] theorem byte_setByte_same : (s.setByte b k v).byte b k = v := get_set_same

/-- Another byte keeps its value. -/
theorem byte_setByte_other (h : byteKey b' k' ≠ byteKey b k) : (s.setByte b k v).byte b' k' = s.byte b' k' := get_set_other h

/-- A write of one byte keeps the canonical form. -/
theorem memWrite_wf (h : Memory.wf m = true) : Memory.wf (memWrite m k v) = true := wf_set_nat h

/-- A write of several bytes keeps the canonical form. -/
theorem foldl_memWrite_wf {α : Type} (key : α → Nat) (val : α → Byte) (l : List α) (h : Memory.wf m = true) :
    Memory.wf (l.foldl (fun m c => memWrite m (key c) (val c)) m) = true := by
  induction l generalizing m with
  | nil => exact h
  | cons c l ih => exact ih (memWrite_wf h)

/-- A write of a run of bytes keeps the canonical form. -/
theorem setBytes_wf (l : List Byte) (h : Memory.wf s.mem = true) : Memory.wf (s.setBytes b k l).mem = true :=
  foldl_memWrite_wf (fun c : Byte × Nat => byteKey b (k + c.2)) (fun c => c.1) l.zipIdx h

/-- A write of one cell keeps the canonical form. -/
theorem setCell_wf (x : Word) (p : Bool) (h : Memory.wf s.mem = true) : Memory.wf (s.setCell b k x p).mem = true := setBytes_wf _ h

/-- A part of the storage keeps the canonical form. -/
theorem filter_wf (p : Host.Cell → Bool) (h : Memory.wf m = true) : Memory.wf (m.filter p) = true := wf_filter p h

/-- The bytes of a run written do not reach a byte outside it. -/
theorem byte_setBytes_outside (l : List Byte) (h : ∀ n < l.length, byteKey b' k' ≠ byteKey b (k + n)) :
    (s.setBytes b k l).byte b' k' = s.byte b' k' := by
  have go (l : List (Byte × Nat)) (m : List Host.Cell) (h : ∀ c ∈ l, byteKey b' k' ≠ byteKey b (k + c.2)) :
      memRead (l.foldl (fun m c => memWrite m (byteKey b (k + c.2)) c.1) m) (byteKey b' k') = memRead m (byteKey b' k') := by
    induction l generalizing m with
    | nil => rfl
    | cons c l ih =>
      rw [List.foldl_cons, ih _ fun x hx => h x (by simp [hx])]
      exact get_set_other (h c (by simp))
  refine go _ _ fun c hc => h c.2 ?_
  have := List.snd_lt_of_mem_zipIdx hc
  omega

/-- A byte of a run written reads back. -/
theorem byte_setBytes_inside (l : List Byte) (n : Nat) (h : n < l.length) : (s.setBytes b k l).byte b (k + n) = l[n] := by
  have go (l : List Byte) (i : Nat) (m : List Host.Cell) (n : Nat) (h : n < l.length) :
      memRead ((l.zipIdx i).foldl (fun m c => memWrite m (byteKey b (k + c.2)) c.1) m) (byteKey b (k + (i + n))) = l[n] := by
    induction l generalizing i m n with
    | nil => simp at h
    | cons c l ih =>
      rw [List.zipIdx_cons, List.foldl_cons]
      cases n with
      | zero =>
        have keep (l : List (Byte × Nat)) (m : List Host.Cell) (hl : ∀ c ∈ l, i < c.2) :
            memRead (l.foldl (fun m c => memWrite m (byteKey b (k + c.2)) c.1) m) (byteKey b (k + i)) = memRead m (byteKey b (k + i)) := by
          induction l generalizing m with
          | nil => rfl
          | cons c l ihl =>
            rw [List.foldl_cons, ihl _ fun x hx => hl x (by simp [hx])]
            refine get_set_other ?_
            have := hl c (by simp)
            unfold byteKey
            omega
        have hlt : ∀ c ∈ l.zipIdx (i + 1), i < c.2 := fun c hc => by
          have := List.le_snd_of_mem_zipIdx hc
          omega
        exact (keep _ _ hlt).trans get_set_same
      | succ n =>
        have := ih (i + 1) (memWrite m (byteKey b (k + i)) c) n (by simpa using h)
        rw [show i + (n + 1) = i + 1 + n by omega]
        simpa using this
  have := go l 0 s.mem n h
  rwa [Nat.zero_add] at this

end Sys2Proof.Laws
end

