-- ==== Sys2Proof/Laws/Keeps.lean ====
section
/-! SUPPORT. What every function of the machine keeps: the grade, the queue of commands, and the canonical form of the storage. `Keeps r s` says it of a state `s` reached from `r`; each lemma of the files Keeps… carries it through one function. -/

namespace Sys2Proof.Laws

set_option linter.unusedTactic false
set_option linter.unreachableTactic false
set_option linter.unusedVariables false

open Sys2Proof.Machine Sys2Proof.Safety

/-- A state reached from another with the same grade and the same waiting commands, its storage canonical where the other's is. -/
structure Keeps (s t : State) : Prop where
  grade : t.grade = s.grade
  pending : t.pending = s.pending
  canonical : Canonical s → Canonical t

/-- An outcome whose next state, if it is one, is kept. -/
structure KeepsOut (s : State) (o : Host.Outcome State Fault Refusal) : Prop where
  next_keeps : ∀ t, o = .next t → Keeps s t

theorem Keeps.refl (s : State) : Keeps s s := ⟨rfl, rfl, id⟩

theorem Keeps.trans {r s t : State} (h : Keeps r s) (k : Keeps s t) : Keeps r t :=
  ⟨k.grade.trans h.grade, k.pending.trans h.pending, k.canonical ∘ h.canonical⟩

theorem KeepsOut.next {r s : State} (h : Keeps r s) : KeepsOut r (.next s) := ⟨fun _ e => by cases e; exact h⟩

theorem KeepsOut.fault {r : State} {f : Fault} : KeepsOut r (.fault f) := ⟨fun _ e => by cases e⟩

theorem KeepsOut.refused {r : State} {f : Refusal} : KeepsOut r (.refused f) := ⟨fun _ e => by cases e⟩

theorem Keeps.of_pair {α : Type} {r s : State} {a : α} {p : State × α} (e : p = (s, a)) (h : Keeps r p.1) : Keeps r s := by
  subst e
  exact h

theorem Keeps.of_swapped {α : Type} {r s : State} {a : α} {p : α × State} (e : p = (a, s)) (h : Keeps r p.2) : Keeps r s := by
  subst e
  exact h

theorem Keeps.foldl {α : Type} {r s : State} {l : List α} {f : State → α → State} (h : Keeps r s)
    (hf : ∀ s x, Keeps r s → Keeps r (f s x)) : Keeps r (l.foldl f s) := by
  induction l generalizing s with
  | nil => exact h
  | cons x l ih => exact ih (hf _ _ h)

theorem Keeps.foldl_pair {α β : Type} {r : State} {p : State × β} {l : List α} {f : State × β → α → State × β} (h : Keeps r p.1)
    (hf : ∀ p x, Keeps r p.1 → Keeps r (f p x).1) : Keeps r (l.foldl f p).1 := by
  induction l generalizing p with
  | nil => exact h
  | cons x l ih => exact ih (hf _ _ h)

/-- A change of fields that hold neither storage nor commands. -/
theorem Keeps.update {r s : State} {x0 x1 x2 x3 x4 x5 x6 x7 x8 x9 x10 x11 x12 x13 x14 x15 x16 x17 x18 x19 x20 x21 x22 x23 x24 x25 x26 x27 x28 x29 x30 x31 x32 x33 x34 x35 x36 x37 x38 x39 x40 x41 x42 x43 x44 x45 x46 x47 x48 x49 x50 x51 x52 x53 x54 x55 x56 x57 x58 x59 x60 x61 x62 x63 x64 x65 x66 x67 x68 x69 x70 x71 x72 x73 x74 x75 x76 x77 x78 x79 x80 x81 x82 x83 x84 x85 x86 x87} (h : Keeps r s) :
    Keeps r ⟨s.grade, s.mem, s.errs, s.poison, s.regs, s.flags, x0, x1, x2, x3, x4, x5, x6, x7, x8, x9, x10, x11, x12, x13, x14, x15, x16, x17, x18, x19, x20, x21, x22, x23, x24, x25, x26, x27, x28, x29, x30, x31, x32, x33, x34, x35, x36, x37, x38, x39, x40, x41, x42, x43, x44, x45, x46, x47, x48, x49, x50, x51, x52, x53, x54, x55, x56, x57, x58, x59, x60, x61, x62, x63, x64, x65, x66, x67, x68, x69, x70, x71, x72, x73, x74, x75, x76, x77, x78, x79, x80, x81, x82, x83, x84, x85, x86, x87, s.pending⟩ :=
  ⟨h.grade, h.pending, fun c => ⟨(h.canonical c).mem, (h.canonical c).errs, (h.canonical c).poison, (h.canonical c).regs, (h.canonical c).flags⟩⟩

/-- A change of storage that keeps each store canonical. -/
theorem Keeps.storage {r s : State} {mem errs poison regs flags x0 x1 x2 x3 x4 x5 x6 x7 x8 x9 x10 x11 x12 x13 x14 x15 x16 x17 x18 x19 x20 x21 x22 x23 x24 x25 x26 x27 x28 x29 x30 x31 x32 x33 x34 x35 x36 x37 x38 x39 x40 x41 x42 x43 x44 x45 x46 x47 x48 x49 x50 x51 x52 x53 x54 x55 x56 x57 x58 x59 x60 x61 x62 x63 x64 x65 x66 x67 x68 x69 x70 x71 x72 x73 x74 x75 x76 x77 x78 x79 x80 x81 x82 x83 x84 x85 x86 x87} (h : Keeps r s)
    (hm : Memory.wf s.mem = true → Memory.wf mem = true)
    (he : Store.wf (fun _ => (0 : BitVec 80)) id s.errs = true → Store.wf (fun _ => (0 : BitVec 80)) id errs = true)
    (hp : Store.wf (fun _ => false) id s.poison = true → Store.wf (fun _ => false) id poison = true)
    (hr : Store.wf (fun r : Reg => r.resetWord s.grade) Reg.ord s.regs = true → Store.wf (fun r : Reg => r.resetWord s.grade) Reg.ord regs = true)
    (hf : Store.wf (fun _ => (0 : BitVec 16)) id s.flags = true → Store.wf (fun _ => (0 : BitVec 16)) id flags = true) :
    Keeps r ⟨s.grade, mem, errs, poison, regs, flags, x0, x1, x2, x3, x4, x5, x6, x7, x8, x9, x10, x11, x12, x13, x14, x15, x16, x17, x18, x19, x20, x21, x22, x23, x24, x25, x26, x27, x28, x29, x30, x31, x32, x33, x34, x35, x36, x37, x38, x39, x40, x41, x42, x43, x44, x45, x46, x47, x48, x49, x50, x51, x52, x53, x54, x55, x56, x57, x58, x59, x60, x61, x62, x63, x64, x65, x66, x67, x68, x69, x70, x71, x72, x73, x74, x75, x76, x77, x78, x79, x80, x81, x82, x83, x84, x85, x86, x87, s.pending⟩ :=
  ⟨h.grade, h.pending, fun c => let c := h.canonical c; ⟨hm c.mem, he c.errs, hp c.poison, hr c.regs, hf c.flags⟩⟩

end Sys2Proof.Laws
end

