-- ==== Sys2Proof/Laws/KeepsRegs.lean ====
section
/-! SUPPORT. What the functions of Machine/Regs.lean keep: the grade, the waiting commands and the canonical storage. -/

namespace Sys2Proof.Laws

open Sys2Proof.Machine

set_option Elab.async false

theorem keeps_wr {r s : State} {a2 : Reg} {a3 : Word} (h : Keeps r s) : Keeps r (State.wr s a2 a3) :=
  h.trans ⟨rfl, rfl, fun c => ⟨c.mem, c.errs, c.poison, wf_set (fun _ _ e => ord_injective e) c.regs, c.flags⟩⟩

theorem keeps_fset {r s : State} {a2 : Fld} {a3 : ℕ} {a4 : ℕ} {a5 : ℕ} (h : Keeps r s)  : Keeps r (State.fset s a2 a3 a4 a5) := by
  unfold State.fset
  repeat' first
    | (with_reducible first
      | assumption | apply keeps_wr)

theorem keeps_fadd {r s : State} {a2 : Fld} {a3 : ℕ} {a4 : ℕ} {a5 : ℕ} (h : Keeps r s)  : Keeps r (State.fadd s a2 a3 a4 a5) := by
  unfold State.fadd
  repeat' first
    | (with_reducible first
      | assumption | apply keeps_fset | fail_if_no_progress apply Keeps.update)

theorem keeps_fwrap {r s : State} {a2 : Fld} {a3 : ℕ} {a4 : ℕ} {a5 : ℕ} (h : Keeps r s)  : Keeps r (State.fwrap s a2 a3 a4 a5) := by
  unfold State.fwrap
  repeat' first
    | (with_reducible first
      | assumption | apply keeps_fset)

theorem keeps_fraise {r s : State} {a2 : Fld} {a3 : ℕ} (h : Keeps r s)  : Keeps r (State.fraise s a2 a3) := by
  unfold State.fraise
  repeat' first
    | (with_reducible first
      | assumption | apply keeps_fset | fail_if_no_progress apply Keeps.update)

theorem keeps_fclear {r s : State} {a2 : Fld} {a3 : ℕ} (h : Keeps r s)  : Keeps r (State.fclear s a2 a3) := by
  unfold State.fclear
  repeat' first
    | (with_reducible first
      | assumption | apply keeps_fset | fail_if_no_progress apply Keeps.update)
    | split

theorem keeps_markTick {r s : State}  (h : Keeps r s)  : Keeps r (State.markTick s) := by
  unfold State.markTick
  repeat' first
    | (with_reducible first
      | assumption | fail_if_no_progress apply Keeps.update)

theorem keeps_swRead {r s : State} {a2 : Reg} (h : Keeps r s)  : Keeps r (State.swRead s a2).2 := by
  unfold State.swRead
  repeat' first
    | (with_reducible first
      | assumption | apply keeps_wr | fail_if_no_progress apply Keeps.update)

end Sys2Proof.Laws
end

