-- ==== Sys2Proof/Laws/KeepsOps.lean ====
section
/-! SUPPORT. What the functions of Machine/Ops.lean keep: the grade, the waiting commands and the canonical storage. -/

namespace Sys2Proof.Laws

open Sys2Proof.Machine

set_option Elab.async false

theorem keeps_setBytes {r s : State} {a2 : Bank} {a3 : Nat} {a4 : List Byte} (h : Keeps r s) : Keeps r (State.setBytes s a2 a3 a4) :=
  h.trans ⟨rfl, rfl, fun c => ⟨setBytes_wf _ c.mem, c.errs, c.poison, c.regs, c.flags⟩⟩

theorem keeps_setCell {r s : State} {a2 : Bank} {a3 : Nat} {a4 : Word} {a5 : Bool} (h : Keeps r s) : Keeps r (State.setCell s a2 a3 a4 a5) := by
  unfold State.setCell
  exact Keeps.storage (keeps_setBytes h) id wf_set_nat wf_set_nat id id

theorem keeps_wakeStack {r s : State} {a2 : ℕ} (h : Keeps r s)  : Keeps r (State.wakeStack s a2) := by
  unfold State.wakeStack
  repeat' first
    | (with_reducible first
      | assumption | apply keeps_fset | fail_if_no_progress apply Keeps.update)
    | split

theorem keeps_setWord {r s : State} {a2 : Bank} {a3 : ℕ} {a4 : Word} {a5 : Bool} (h : Keeps r s)  : Keeps r (State.setWord s a2 a3 a4 a5) := by
  unfold State.setWord
  repeat' first
    | (with_reducible first
      | assumption | apply keeps_setCell | apply keeps_wakeStack | fail_if_no_progress apply Keeps.update | apply Keeps.foldl
      | apply Keeps.foldl_pair)
    | split | intro _

theorem keeps_setLedgerWord {r s : State} {a2 : ℕ} {a3 : Word} (h : Keeps r s)  : Keeps r (State.setLedgerWord s a2 a3) := by
  unfold State.setLedgerWord
  repeat' first
    | (with_reducible first
      | assumption | apply keeps_setWord | fail_if_no_progress apply Keeps.update | refine Keeps.of_pair (by assumption) ?_
      | refine Keeps.of_swapped (by assumption) ?_)
    | split | intro _ | dsimp only

theorem keeps_set1 {r s : State} {a2 : Bank} {a3 : ℕ} {a4 : Word} (h : Keeps r s)  : Keeps r (State.set1 s a2 a3 a4) := by
  unfold State.set1
  repeat' first
    | (with_reducible first
      | assumption | apply keeps_setLedgerWord | apply keeps_setWord | fail_if_no_progress apply Keeps.update)
    | split

theorem keeps_eccCount {r s : State} {a2 : Bank} {a3 : ℕ} {a4 : Fld} {a5 : Fld} (h : Keeps r s)  : Keeps r (State.eccCount s a2 a3 a4 a5) := by
  unfold State.eccCount
  repeat' first
    | (with_reducible first
      | assumption | apply keeps_fadd | fail_if_no_progress apply Keeps.update)
    | split

theorem keeps_countUncorrectable {r s : State} {a2 : ℕ} (h : Keeps r s)  : Keeps r (State.countUncorrectable s a2) := by
  unfold State.countUncorrectable
  repeat' first
    | (with_reducible first
      | assumption | fail_if_no_progress apply Keeps.update)

theorem keeps_latch {r s : State} {a2 : Event} (h : Keeps r s)  : Keeps r (State.latch s a2) := by
  unfold State.latch
  repeat' first
    | (with_reducible first
      | assumption | fail_if_no_progress apply Keeps.update)

theorem keeps_error {r s : State} {a2 : ℕ} {a3 : ℕ} {a4 : ℕ} {a5 : ℕ} {a6 : ℕ} {a7 : ℕ} {a8 : ℕ} (h : Keeps r s)  : Keeps r (State.error s a2 a3 a4 a5 a6 a7 a8) := by
  unfold State.error
  repeat' first
    | (with_reducible first
      | assumption | apply keeps_latch)

theorem keeps_alter {r s : State} {a2 : Bank} {a3 : ℕ} {a4 : Word} (h : Keeps r s)  : Keeps r (State.alter s a2 a3 a4) := by
  unfold State.alter
  repeat' first
    | (with_reducible first
      | assumption | apply keeps_setBytes | fail_if_no_progress apply Keeps.update)
    | split

theorem keeps_fetchCell {r s : State} {a2 : Bank} {a3 : ℕ} (h : Keeps r s)  : Keeps r (State.fetchCell s a2 a3).1 := by
  unfold State.fetchCell
  repeat' first
    | (with_reducible first
      | assumption | apply keeps_eccCount | apply keeps_setCell | apply keeps_countUncorrectable | apply keeps_error | apply keeps_alter
      | apply keeps_fadd | fail_if_no_progress apply Keeps.update | refine Keeps.of_pair (by assumption) ?_
      | refine Keeps.of_swapped (by assumption) ?_)
    | split | intro _ | dsimp only

theorem keeps_fetchWord {r s : State} {a2 : Bank} {a3 : ℕ} (h : Keeps r s)  : Keeps r (State.fetchWord s a2 a3).1 := by
  unfold State.fetchWord
  repeat' first
    | (with_reducible first
      | assumption | apply keeps_fetchCell | apply keeps_wakeStack | fail_if_no_progress apply Keeps.update)
    | split

theorem keeps_askHove {r s : State} {a2 : ℕ} (h : Keeps r s)  : Keeps r (State.askHove s a2) := by
  unfold State.askHove
  repeat' first
    | (with_reducible first
      | assumption | apply keeps_latch)

theorem keeps_open_ {r s : State}  (h : Keeps r s)  : Keeps r (State.open_ s).2 := by
  unfold State.open_
  repeat' first
    | (with_reducible first
      | assumption | fail_if_no_progress apply Keeps.update)

theorem keeps_fetchCopy {r s : State} {a2 : ℕ} {a3 : ℕ} (h : Keeps r s)  : Keeps r (State.fetchCopy s a2 a3).1 := by
  unfold State.fetchCopy
  repeat' first
    | (with_reducible first
      | assumption | apply keeps_fetchWord | apply keeps_askHove | apply keeps_open_ | fail_if_no_progress apply Keeps.update
      | refine Keeps.of_pair (by assumption) ?_ | refine Keeps.of_swapped (by assumption) ?_)
    | split | intro _ | dsimp only

theorem keeps_faultDomain {r s : State} {a2 : ℕ} {a3 : ℕ} {a4 : ℕ} (h : Keeps r s)  : Keeps r (State.faultDomain s a2 a3 a4) := by
  unfold State.faultDomain
  repeat' first
    | (with_reducible first
      | assumption | apply keeps_error)

theorem keeps_rewriteLedger {r s : State} {a2 : ℕ} {a3 : ℕ} {a4 : Word} (h : Keeps r s)  : Keeps r (State.rewriteLedger s a2 a3 a4) := by
  unfold State.rewriteLedger
  repeat' first
    | (with_reducible first
      | assumption | apply keeps_open_ | apply keeps_faultDomain | apply keeps_setWord | fail_if_no_progress apply Keeps.update
      | refine Keeps.of_pair (by assumption) ?_ | refine Keeps.of_swapped (by assumption) ?_)
    | split | intro _

theorem keeps_fetchLedger {r s : State} {a2 : ℕ} (h : Keeps r s)  : Keeps r (State.fetchLedger s a2).1 := by
  unfold State.fetchLedger
  repeat' first
    | (with_reducible first
      | assumption | apply keeps_fetchCopy | apply keeps_rewriteLedger | apply keeps_askHove | fail_if_no_progress apply Keeps.update
      | refine Keeps.of_pair (by assumption) ?_)
    | split | intro _

theorem keeps_fetch1 {r s : State} {a2 : Bank} {a3 : ℕ} (h : Keeps r s)  : Keeps r (State.fetch1 s a2 a3).1 := by
  unfold State.fetch1
  repeat' first
    | (with_reducible first
      | assumption | apply keeps_fetchLedger | apply keeps_fetchWord | fail_if_no_progress apply Keeps.update)
    | split

theorem keeps_mergeWord {r s : State} {a2 : Bank} {a3 : ℕ} {a4 : List (Option Byte)} (h : Keeps r s)  : Keeps r (State.mergeWord s a2 a3 a4).1 := by
  unfold State.mergeWord
  repeat' first
    | (with_reducible first
      | assumption | apply keeps_set1 | apply keeps_fetch1 | fail_if_no_progress apply Keeps.update
      | refine Keeps.of_pair (by assumption) ?_)
    | split | intro _

theorem keeps_mergeWords {r s : State} {a2 : Bank} {a3 : List (ℕ × List (Option Byte))} (h : Keeps r s)  : Keeps r (State.mergeWords s a2 a3).1 := by
  induction a3 generalizing s a2 with
  | nil =>
    unfold State.mergeWords
    repeat' first
      | (with_reducible first
        | assumption)
  | cons x l ih =>
    unfold State.mergeWords
    repeat' first
      | (with_reducible first
        | assumption | apply keeps_mergeWord | apply ih)

theorem keeps_writeBytes {r s : State} {a2 : Bank} {a3 : ℕ} {a4 : List Byte} (h : Keeps r s)  : Keeps r (State.writeBytes s a2 a3 a4).1 := by
  unfold State.writeBytes
  repeat' first
    | (with_reducible first
      | assumption | apply keeps_mergeWords)

theorem keeps_setLed {r s : State} {a2 : ℕ} {a3 : ℕ} {a4 : ℕ} (h : Keeps r s)  : Keeps r (State.setLed s a2 a3 a4) := by
  unfold State.setLed
  repeat' first
    | (with_reducible first
      | assumption | apply keeps_writeBytes)

theorem keeps_fetchWords {r s : State} {a2 : Bank} {a3 : List ℕ} (h : Keeps r s)  : Keeps r (State.fetchWords s a2 a3).1 := by
  induction a3 generalizing s a2 with
  | nil =>
    unfold State.fetchWords
    repeat' first
      | (with_reducible first
        | assumption)
  | cons x l ih =>
    unfold State.fetchWords
    repeat' first
      | (with_reducible first
        | assumption | apply keeps_fetch1 | apply ih)

theorem keeps_readBytes {r s : State} {a2 : Bank} {a3 : ℕ} {a4 : ℕ} (h : Keeps r s)  : Keeps r (State.readBytes s a2 a3 a4).1 := by
  unfold State.readBytes
  repeat' first
    | (with_reducible first
      | assumption | apply keeps_fetchWords)

theorem keeps_emit {r s : State} {a2 : Out} (h : Keeps r s)  : Keeps r (State.emit s a2) := by
  unfold State.emit
  repeat' first
    | (with_reducible first
      | assumption | fail_if_no_progress apply Keeps.update)

theorem keeps_raise {r s : State} {a2 : ℕ} {a3 : ℕ} (h : Keeps r s)  : Keeps r (State.raise s a2 a3) := by
  unfold State.raise
  repeat' first
    | (with_reducible first
      | assumption | apply keeps_latch)

theorem keeps_addressFault {r s : State} {a2 : ℕ} {a3 : ℕ} (h : Keeps r s)  : Keeps r (State.addressFault s a2 a3) := by
  unfold State.addressFault
  repeat' first
    | (with_reducible first
      | assumption | apply keeps_error)

theorem keeps_refuse40 {r s : State} {a2 : ℕ} {a3 : ℕ} {a4 : Bool} (h : Keeps r s)  : Keeps r (State.refuse40 s a2 a3 a4) := by
  unfold State.refuse40
  repeat' first
    | (with_reducible first
      | assumption | apply keeps_addressFault | fail_if_no_progress apply Keeps.update)
    | split

theorem keeps_emits {r s : State} {a2 : List Out} (h : Keeps r s)  : Keeps r (State.emits s a2) := by
  unfold State.emits
  repeat' first
    | (with_reducible first
      | assumption | fail_if_no_progress apply Keeps.update)

theorem keeps_readLed {r s : State} {a2 : ℕ} {a3 : ℕ} (h : Keeps r s)  : Keeps r (State.readLed s a2 a3) := by
  unfold State.readLed
  repeat' first
    | (with_reducible first
      | assumption | apply keeps_fetchLedger | fail_if_no_progress apply Keeps.update | apply Keeps.foldl)

theorem keeps_draw {r s : State}  (h : Keeps r s)  : Keeps r (State.draw s).2 := by
  unfold State.draw
  repeat' first
    | (with_reducible first
      | assumption | fail_if_no_progress apply Keeps.update)

theorem keeps_copyCell {r s : State} {a2 : ℕ} {a3 : ℕ} (h : Keeps r s)  : Keeps r (State.copyCell s a2 a3) := by
  unfold State.copyCell
  repeat' first
    | (with_reducible first
      | assumption | apply keeps_fetchCell | apply keeps_setCell | fail_if_no_progress apply Keeps.update
      | refine Keeps.of_pair (by assumption) ?_)
    | split | intro _

theorem keeps_consult {r s : State}  (h : Keeps r s)  : Keeps r (State.consult s) := by
  unfold State.consult
  repeat' first
    | (with_reducible first
      | assumption | apply keeps_readLed | fail_if_no_progress apply Keeps.update | apply Keeps.foldl | apply Keeps.foldl_pair)
    | split | intro _

theorem keeps_flushBridge {r s : State}  (h : Keeps r s)  : Keeps r (State.flushBridge s) := by
  unfold State.flushBridge
  repeat' first
    | (with_reducible first
      | assumption | apply keeps_setWord | fail_if_no_progress apply Keeps.update | apply Keeps.foldl | apply Keeps.foldl_pair)
    | split | intro _

theorem keeps_setByte {r s : State} {a2 : Bank} {a3 : Nat} {a4 : Byte} (h : Keeps r s) : Keeps r (State.setByte s a2 a3 a4) :=
  h.trans ⟨rfl, rfl, fun c => ⟨memWrite_wf c.mem, c.errs, c.poison, c.regs, c.flags⟩⟩

end Sys2Proof.Laws
end

