-- ==== Sys2Proof/Laws/KeepsFlags.lean ====
section
/-! SUPPORT. What the functions of Machine/Flags.lean keep: the grade, the waiting commands and the canonical storage. -/

namespace Sys2Proof.Laws

open Sys2Proof.Machine

set_option Elab.async false

theorem keeps_enter {r s : State} {a2 : ℕ} {a3 : ℕ} (h : Keeps r s)  : Keeps r (State.enter s a2 a3) := by
  unfold State.enter
  repeat' first
    | (with_reducible first
      | assumption | apply keeps_fset | fail_if_no_progress apply Keeps.update)
    | split

theorem keeps_setQueue {r s : State} {a2 : ℕ} {a3 : QueueRt} (h : Keeps r s)  : Keeps r (State.setQueue s a2 a3) := by
  unfold State.setQueue
  repeat' first
    | (with_reducible first
      | assumption | fail_if_no_progress apply Keeps.update)

theorem keeps_endWait {r s : State} {a2 : ℕ} (h : Keeps r s)  : Keeps r (State.endWait s a2) := by
  unfold State.endWait
  repeat' first
    | (with_reducible first
      | assumption | apply keeps_wr)

theorem keeps_flagAdd {r s : State} {a2 a3 a4 : Nat} (h : Keeps r s) : Keeps r (State.flagAdd s a2 a3 a4) :=
  h.trans ⟨rfl, rfl, fun c => ⟨c.mem, c.errs, c.poison, c.regs, wf_set_nat c.flags⟩⟩

theorem keeps_pumpVotes {r s : State}  (h : Keeps r s)  : Keeps r (State.pumpVotes s) := by
  unfold State.pumpVotes
  repeat' first
    | (with_reducible first
      | assumption | apply keeps_emit | fail_if_no_progress apply Keeps.update | refine Keeps.of_pair (by assumption) ?_
      | refine Keeps.of_swapped (by assumption) ?_)
    | split | intro _ | dsimp only

theorem keeps_sendVote {r s : State} {a2 : Bool} (h : Keeps r s)  : Keeps r (State.sendVote s a2) := by
  unfold State.sendVote
  repeat' first
    | (with_reducible first
      | assumption | apply keeps_pumpVotes | apply keeps_fset | fail_if_no_progress apply Keeps.update)
    | split

theorem keeps_abortVote {r s : State}  (h : Keeps r s)  : Keeps r (State.abortVote s) := by
  unfold State.abortVote
  repeat' first
    | (with_reducible first
      | assumption | apply keeps_sendVote | fail_if_no_progress apply Keeps.update | refine Keeps.of_pair (by assumption) ?_
      | refine Keeps.of_swapped (by assumption) ?_)
    | split | intro _ | dsimp only

theorem keeps_showExec {r s : State} {a2 : ℕ} (h : Keeps r s)  : Keeps r (State.showExec s a2) := by
  unfold State.showExec
  repeat' first
    | (with_reducible first
      | assumption | apply keeps_fset)

theorem keeps_tallyWindow {r s : State} {a2 : Fmt} {a3 : Tally} (h : Keeps r s)  : Keeps r (State.tallyWindow s a2 a3) := by
  unfold State.tallyWindow
  repeat' first
    | (with_reducible first
      | assumption | apply keeps_fset | fail_if_no_progress apply Keeps.update)
    | split

theorem keeps_nonfinite {r s : State}  (h : Keeps r s)  : Keeps r (State.nonfinite s) := by
  unfold State.nonfinite
  repeat' first
    | (with_reducible first
      | assumption | apply keeps_fadd | apply keeps_fset | fail_if_no_progress apply Keeps.update
      | refine Keeps.of_pair (by assumption) ?_ | refine Keeps.of_swapped (by assumption) ?_)
    | split | intro _ | dsimp only

theorem keeps_watch {r s : State} {a2 : ℕ} {a3 : List Val} (h : Keeps r s)  : Keeps r (State.watch s a2 a3) := by
  unfold State.watch
  repeat' first
    | (with_reducible first
      | assumption | fail_if_no_progress apply Keeps.update | apply Keeps.foldl | apply Keeps.foldl_pair)
    | split | intro _

theorem keeps_badCmd {r s : State} {a2 : ℕ} (h : Keeps r s)  : Keeps r (State.badCmd s a2) := by
  unfold State.badCmd
  repeat' first
    | (with_reducible first
      | assumption | apply keeps_fadd)

end Sys2Proof.Laws
end

