-- ==== Sys2Proof/Laws/KeepsOperands.lean ====
section
/-! SUPPORT. What the functions of Machine/Operands.lean keep: the grade, the waiting commands and the canonical storage. -/

namespace Sys2Proof.Laws

open Sys2Proof.Machine

set_option Elab.async false

theorem keeps_viewWords {r s : State} {a2 : Bool} {a3 : Bank} {a4 : List ℕ} (h : Keeps r s)  : Keeps r (State.viewWords s a2 a3 a4).1 := by
  induction a4 generalizing s a2 a3 with
  | nil =>
    unfold State.viewWords
    repeat' first
      | (with_reducible first
        | assumption)
  | cons x l ih =>
    unfold State.viewWords
    repeat' first
      | (with_reducible first
        | assumption | apply keeps_fetch1 | apply ih)

theorem keeps_load {r s : State} {a2 : Bool} {a3 : Bank} {a4 : ℕ} {a5 : ℕ} (h : Keeps r s)  : Keeps r (State.load s a2 a3 a4 a5).1 := by
  unfold State.load
  repeat' first
    | (with_reducible first
      | assumption | apply keeps_viewWords)

theorem keeps_failUnit {r s : State} {a2 : ℕ} (h : Keeps r s)  : Keeps r (State.failUnit s a2) := by
  unfold State.failUnit
  repeat' first
    | (with_reducible first
      | assumption | apply keeps_abortVote | fail_if_no_progress apply Keeps.update)

theorem keeps_copyWords {r s : State} {a2 : Bank} {a3 : List (ℕ × ℕ)} (h : Keeps r s)  : Keeps r (State.copyWords s a2 a3).1 := by
  induction a3 generalizing s a2 with
  | nil =>
    unfold State.copyWords
    repeat' first
      | (with_reducible first
        | assumption)
  | cons x l ih =>
    unfold State.copyWords
    repeat' first
      | (with_reducible first
        | assumption | apply keeps_setWord | apply keeps_fetchWord | apply ih | fail_if_no_progress apply Keeps.update)
      | split

theorem keeps_journal {r s : State} {a2 : CUnit} {a3 : Bank} {a4 : ℕ} (h : Keeps r s)  : Keeps r (State.journal s a2 a3 a4).1 := by
  unfold State.journal
  repeat' first
    | (with_reducible first
      | assumption | apply keeps_fadd | apply keeps_failUnit | apply keeps_copyWords | apply keeps_mergeWords
      | fail_if_no_progress apply Keeps.update)
    | split

theorem keeps_openGranule {r s : State} {a2 : Bool} {a3 : Bank} {a4 : ℕ} (h : Keeps r s)  : Keeps r (State.openGranule s a2 a3 a4).1 := by
  unfold State.openGranule
  repeat' first
    | (with_reducible first
      | assumption | apply keeps_journal | fail_if_no_progress apply Keeps.update)
    | split

theorem keeps_openGranules {r s : State} {a2 : Bool} {a3 : Bank} {a4 : List ℕ} (h : Keeps r s)  : Keeps r (State.openGranules s a2 a3 a4).1 := by
  induction a4 generalizing s a2 a3 with
  | nil =>
    unfold State.openGranules
    repeat' first
      | (with_reducible first
        | assumption)
  | cons x l ih =>
    unfold State.openGranules
    repeat' first
      | (with_reducible first
        | assumption | apply keeps_openGranule | apply ih | fail_if_no_progress apply Keeps.update
        | refine Keeps.of_pair (by assumption) ?_)
      | split | intro _

theorem keeps_pendingLines {r s : State} {a2 : Bank} {a3 : ℕ} {a4 : ℕ} (h : Keeps r s)  : Keeps r (State.pendingLines s a2 a3 a4) := by
  unfold State.pendingLines
  repeat' first
    | (with_reducible first
      | assumption | apply keeps_readBytes | fail_if_no_progress apply Keeps.update)

theorem keeps_noteWrite {r s : State} {a2 : Bank} {a3 : ℕ} {a4 : ℕ} (h : Keeps r s)  : Keeps r (State.noteWrite s a2 a3 a4) := by
  unfold State.noteWrite
  repeat' first
    | (with_reducible first
      | assumption | fail_if_no_progress apply Keeps.update)

theorem keeps_store {r s : State} {a2 : Bool} {a3 : Bank} {a4 : ℕ} {a5 : List Byte} (h : Keeps r s)  : Keeps r (State.store s a2 a3 a4 a5).1 := by
  unfold State.store
  repeat' first
    | (with_reducible first
      | assumption | apply keeps_openGranules | apply keeps_writeBytes | apply keeps_pendingLines | apply keeps_noteWrite
      | fail_if_no_progress apply Keeps.update | refine Keeps.of_pair (by assumption) ?_)
    | split | intro _

theorem keeps_finish {r s : State} {a2 : ℕ} {a3 : Status} {a4 : ℕ} (h : Keeps r s)  : Keeps r (State.finish s a2 a3 a4) := by
  unfold State.finish
  repeat' first
    | (with_reducible first
      | assumption | fail_if_no_progress apply Keeps.update)

theorem keeps_loadAt {r s : State} {a2 : Reach} {a3 : ℕ} {a4 : ℕ} (h : Keeps r s)  : Keeps r (State.loadAt s a2 a3 a4).1 := by
  unfold State.loadAt
  repeat' first
    | (with_reducible first
      | assumption | apply keeps_load | apply keeps_addressFault | fail_if_no_progress apply Keeps.update)
    | split

theorem keeps_readDesc {r s : State} {a2 : ℕ} {a3 : ℕ} (h : Keeps r s)  : Keeps r (State.readDesc s a2 a3).1 := by
  unfold State.readDesc
  repeat' first
    | (with_reducible first
      | assumption | apply keeps_loadAt)

theorem keeps_storeAt {r s : State} {a2 : Reach} {a3 : ℕ} {a4 : List Byte} (h : Keeps r s)  : Keeps r (State.storeAt s a2 a3 a4).1 := by
  unfold State.storeAt
  repeat' first
    | (with_reducible first
      | assumption | apply keeps_store | apply keeps_addressFault | fail_if_no_progress apply Keeps.update)
    | split

theorem keeps_writeRow {r s : State} {a2 : Reach} {a3 : Desc} {a4 : Fmt} {a5 : ℕ} {a6 : Encoded} (h : Keeps r s)  : Keeps r (State.writeRow s a2 a3 a4 a5 a6).1 := by
  unfold State.writeRow
  repeat' first
    | (with_reducible first
      | assumption | apply keeps_writeBytes | apply keeps_storeAt | fail_if_no_progress apply Keeps.update
      | refine Keeps.of_pair (by assumption) ?_)
    | split | intro _

theorem keeps_undefineRows {r s : State} {a2 : Reach} {a3 : Desc} {a4 : Fmt} {a5 : ℕ} {a6 : List ℕ} (h : Keeps r s)  : Keeps r (State.undefineRows s a2 a3 a4 a5 a6) := by
  induction a6 generalizing s a2 a3 a4 a5 with
  | nil =>
    unfold State.undefineRows
    repeat' first
      | (with_reducible first
        | assumption)
  | cons x l ih =>
    unfold State.undefineRows
    repeat' first
      | (with_reducible first
        | assumption | apply keeps_writeRow | apply ih | fail_if_no_progress apply Keeps.update)
      | split

theorem keeps_undefineView {r s : State} {a2 : Reach} {a3 : Desc} {a4 : Fmt} {a5 : ℕ} {a6 : ℕ} (h : Keeps r s)  : Keeps r (State.undefineView s a2 a3 a4 a5 a6) := by
  unfold State.undefineView
  repeat' first
    | (with_reducible first
      | assumption | apply keeps_undefineRows)

theorem keeps_setDir {r s : State} {a2 : ℕ} {a3 : Dir} (h : Keeps r s)  : Keeps r (State.setDir s a2 a3) := by
  unfold State.setDir
  repeat' first
    | (with_reducible first
      | assumption | apply keeps_setLed)

theorem keeps_readDir {r s : State} {a2 : ℕ} (h : Keeps r s)  : Keeps r (State.readDir s a2) := by
  unfold State.readDir
  repeat' first
    | (with_reducible first
      | assumption | apply keeps_readLed)

theorem keeps_readRow {r s : State} {a2 : Reach} {a3 : Desc} {a4 : ℕ} {a5 : ℕ} (h : Keeps r s)  : Keeps r (State.readRow s a2 a3 a4 a5).1 := by
  unfold State.readRow
  repeat' first
    | (with_reducible first
      | assumption | apply keeps_readBytes | apply keeps_loadAt | fail_if_no_progress apply Keeps.update
      | refine Keeps.of_pair (by assumption) ?_ | refine Keeps.of_swapped (by assumption) ?_)
    | split | intro _ | dsimp only

theorem keeps_asSeen {r s : State} {a2 : Exec} {f : State → State} (h : Keeps r s) (hf : ∀ x, Keeps r x → Keeps r (f x)) : Keeps r (State.asSeen s a2 f) := by
  unfold State.asSeen
  repeat' first
    | (with_reducible first
      | assumption | apply hf | fail_if_no_progress apply Keeps.update)

theorem keeps_writeSegment {r s : State} {a2 : Reach} {a3 : Desc} {a4 : Fmt} {a5 : ℕ} {a6 : ℕ} {a7 : Encoded} (h : Keeps r s)  : Keeps r (State.writeSegment s a2 a3 a4 a5 a6 a7).1 := by
  unfold State.writeSegment
  repeat' first
    | (with_reducible first
      | assumption | apply keeps_writeBytes | apply keeps_storeAt | fail_if_no_progress apply Keeps.update
      | refine Keeps.of_pair (by assumption) ?_)
    | split | intro _

theorem keeps_readRows {r s : State} {a2 : Reach} {a3 : Desc} {a4 : ℕ} {a5 : List ℕ} (h : Keeps r s)  : Keeps r (State.readRows s a2 a3 a4 a5).1 := by
  induction a5 generalizing s a2 a3 a4 with
  | nil =>
    unfold State.readRows
    repeat' first
      | (with_reducible first
        | assumption)
  | cons x l ih =>
    unfold State.readRows
    repeat' first
      | (with_reducible first
        | assumption | apply keeps_readRow | apply ih)

theorem keeps_readView {r s : State} {a2 : Reach} {a3 : Desc} {a4 : ℕ} {a5 : ℕ} (h : Keeps r s)  : Keeps r (State.readView s a2 a3 a4 a5).1 := by
  unfold State.readView
  repeat' first
    | (with_reducible first
      | assumption | apply keeps_readRows)

theorem keeps_writeRows {r s : State} {a2 : Reach} {a3 : Desc} {a4 : Fmt} {a5 : ℕ} {a6 : List Encoded} (h : Keeps r s)  : Keeps r (State.writeRows s a2 a3 a4 a5 a6).1 := by
  induction a6 generalizing s a2 a3 a4 a5 with
  | nil =>
    unfold State.writeRows
    repeat' first
      | (with_reducible first
        | assumption)
  | cons x l ih =>
    unfold State.writeRows
    repeat' first
      | (with_reducible first
        | assumption | apply keeps_writeRow | apply ih)

theorem keeps_setDescFmt {r s : State} {a2 : ℕ} {a3 : Desc} {a4 : Fmt} (h : Keeps r s)  : Keeps r (State.setDescFmt s a2 a3 a4) := by
  unfold State.setDescFmt
  repeat' first
    | (with_reducible first
      | assumption | apply keeps_loadAt | apply keeps_storeAt | fail_if_no_progress apply Keeps.update
      | refine Keeps.of_pair (by assumption) ?_)
    | split | intro _

theorem keeps_markUnits {r s : State}  (h : Keeps r s)  : Keeps r (State.markUnits s) := by
  unfold State.markUnits
  repeat' first
    | (with_reducible first
      | assumption | fail_if_no_progress apply Keeps.update)

end Sys2Proof.Laws
end

