-- ==== Sys2Proof/Laws/KeepsRecovery.lean ====
section
/-! SUPPORT. What the functions of Machine/Recovery.lean keep: the grade, the waiting commands and the canonical storage. -/

namespace Sys2Proof.Laws

open Sys2Proof.Machine

set_option Elab.async false

theorem keeps_loseDomain {r s : State} {a2 : ℕ} {a3 : ℕ} (h : Keeps r s)  : Keeps r (State.loseDomain s a2 a3) := by
  unfold State.loseDomain
  repeat' first
    | (with_reducible first
      | assumption | apply keeps_error)

theorem keeps_liveDone {r s : State} {a2 : Status} (h : Keeps r s)  : Keeps r (State.liveDone s a2) := by
  unfold State.liveDone
  repeat' first
    | (with_reducible first
      | assumption | apply keeps_fset | apply keeps_raise | fail_if_no_progress apply Keeps.update)
    | split

theorem keeps_releaseSlot {r s : State} {a2 : ℕ} (h : Keeps r s)  : Keeps r (State.releaseSlot s a2) := by
  unfold State.releaseSlot
  repeat' first
    | (with_reducible first
      | assumption | apply keeps_fset | fail_if_no_progress apply Keeps.update)
    | split

theorem keeps_suspendUnits {r s : State} {a2 : CUnit → Bool} (h : Keeps r s)  : Keeps r (State.suspendUnits s a2) := by
  unfold State.suspendUnits
  repeat' first
    | (with_reducible first
      | assumption | apply hf | fail_if_no_progress apply Keeps.update)

theorem keeps_domainBack {r s : State} {a2 : ℕ} (h : Keeps r s)  : Keeps r (State.domainBack s a2) := by
  unfold State.domainBack
  repeat' first
    | (with_reducible first
      | assumption | apply keeps_latch | apply keeps_suspendUnits | apply keeps_releaseSlot | fail_if_no_progress apply Keeps.update)
    | split

end Sys2Proof.Laws
end

