-- ==== Sys2Proof/Laws/KeepsSuc.lean ====
section
/-! SUPPORT. What the functions of Machine/Suc.lean keep: the grade, the waiting commands and the canonical storage. -/

namespace Sys2Proof.Laws

open Sys2Proof.Machine

set_option Elab.async false

theorem keeps_atomicOp {r s : State} {a2 : Bool} {a3 : ℕ} {a4 : ℕ} {a5 : ℕ} {a6 : Word} {a7 : Word} (h : Keeps r s)  : Keeps r (State.atomicOp s a2 a3 a4 a5 a6 a7).1 := by
  unfold State.atomicOp
  repeat' first
    | (with_reducible first
      | assumption | apply keeps_load | apply keeps_store | apply keeps_refuse40 | fail_if_no_progress apply Keeps.update
      | refine Keeps.of_pair (by assumption) ?_ | refine Keeps.of_swapped (by assumption) ?_)
    | split | intro _ | dsimp only

theorem keeps_setGroup {r s : State} {a2 : Group} (h : Keeps r s)  : Keeps r (State.setGroup s a2) := by
  unfold State.setGroup
  repeat' first
    | (with_reducible first
      | assumption | fail_if_no_progress apply Keeps.update)

theorem keeps_faultGroup {r s : State} {a2 : Group} {a3 : ℕ} (h : Keeps r s)  : Keeps r (State.faultGroup s a2 a3) := by
  unfold State.faultGroup
  repeat' first
    | (with_reducible first
      | assumption | apply keeps_fadd | apply keeps_setGroup | fail_if_no_progress apply Keeps.update)
    | split

theorem keeps_sucTally {r s : State} {a2 : ℕ} {a3 : Fmt} {a4 : Tally} (h : Keeps r s)  : Keeps r (State.sucTally s a2 a3 a4) := by
  unfold State.sucTally
  repeat' first
    | (with_reducible first
      | assumption | apply keeps_tallyWindow | apply keeps_fadd)

theorem keeps_enterNode {r s : State} {a2 : ℕ} {a3 : ℕ} {a4 : Group} {a5 : Node} (h : Keeps r s)  : Keeps r (State.enterNode s a2 a3 a4 a5).1 := by
  induction a3 generalizing s a2 a4 a5 with
  | zero =>
    unfold State.enterNode
    repeat' first
      | (with_reducible first
        | assumption)
  | succ n ih =>
    unfold State.enterNode
    repeat' first
      | (with_reducible first
        | assumption | apply keeps_sucTally | apply ih | fail_if_no_progress apply Keeps.update | refine Keeps.of_pair (by assumption) ?_
        | refine Keeps.of_swapped (by assumption) ?_)
      | split | intro _ | dsimp only

theorem keeps_gaddAt {r s : State} {a2 : ℕ} {a3 : Node} (h : Keeps r s)  : Keeps r (State.gaddAt s a2 a3).1 := by
  unfold State.gaddAt
  repeat' first
    | (with_reducible first
      | assumption | apply keeps_faultGroup | apply keeps_sucTally | apply keeps_enterNode | apply keeps_setGroup
      | apply keeps_addressFault | apply keeps_store | apply keeps_fadd | fail_if_no_progress apply Keeps.update
      | refine Keeps.of_pair (by assumption) ?_ | refine Keeps.of_swapped (by assumption) ?_)
    | split | intro _ | dsimp only

theorem keeps_arrive {r s : State} {a2 : Arrival} (h : Keeps r s)  : Keeps r (State.arrive s a2) := by
  unfold State.arrive
  repeat' first
    | (with_reducible first
      | assumption | fail_if_no_progress apply Keeps.update)

theorem keeps_oldBytes {r s : State} {a2 : ℕ} {a3 : Word} (h : Keeps r s)  : Keeps r (State.oldBytes s a2 a3).1 := by
  unfold State.oldBytes
  repeat' first
    | (with_reducible first
      | assumption | apply keeps_open_ | fail_if_no_progress apply Keeps.update)
    | split

theorem keeps_atomicEntry {r s : State} {a2 : ℕ} {a3 : Exec} (h : Keeps r s)  : Keeps r (State.atomicEntry s a2 a3) := by
  unfold State.atomicEntry
  repeat' first
    | (with_reducible first
      | assumption | apply keeps_finish | apply keeps_atomicOp | apply keeps_oldBytes | apply keeps_storeAt | apply keeps_refuse40
      | fail_if_no_progress apply Keeps.update | refine Keeps.of_pair (by assumption) ?_ | refine Keeps.of_swapped (by assumption) ?_)
    | split | intro _ | dsimp only

theorem keeps_closeGroup {r s : State} {a2 : ℕ} (h : Keeps r s)  : Keeps r (State.closeGroup s a2) := by
  unfold State.closeGroup
  repeat' first
    | (with_reducible first
      | assumption | apply keeps_fset | fail_if_no_progress apply Keeps.update | apply Keeps.foldl | apply Keeps.foldl_pair)
    | split | intro _

theorem keeps_sucFails {r s : State} {a2 : ℕ} (h : Keeps r s)  : Keeps r (State.sucFails s a2) := by
  unfold State.sucFails
  repeat' first
    | (with_reducible first
      | assumption | apply keeps_faultDomain | apply keeps_error)

theorem keeps_readSpilled {r s : State} {a2 : Group} {a3 : ℕ} {a4 : List Node} (h : Keeps r s)  : Keeps r (State.readSpilled s a2 a3 a4).1 := by
  induction a4 generalizing s a2 a3 with
  | nil =>
    unfold State.readSpilled
    repeat' first
      | (with_reducible first
        | assumption)
  | cons x l ih =>
    unfold State.readSpilled
    repeat' first
      | (with_reducible first
        | assumption | apply keeps_readBytes | apply ih)

theorem keeps_rootOf {r s : State} {a2 : Group} {a3 : ℕ} {a4 : List Node} (h : Keeps r s)  : Keeps r (State.rootOf s a2 a3 a4).1 := by
  unfold State.rootOf
  repeat' first
    | (with_reducible first
      | assumption | apply keeps_readBytes | fail_if_no_progress apply Keeps.update)
    | split

theorem keeps_closeRows {r s : State} {a2 : Group} {a3 : List Node} {a4 : List ℕ} (h : Keeps r s)  : Keeps r (State.closeRows s a2 a3 a4).1 := by
  induction a4 generalizing s a2 a3 with
  | nil =>
    unfold State.closeRows
    repeat' first
      | (with_reducible first
        | assumption)
  | cons x l ih =>
    unfold State.closeRows
    repeat' first
      | (with_reducible first
        | assumption | apply keeps_rootOf | apply ih)

theorem keeps_readyRows {r s : State} {a2 : Group} {a3 : List ℕ} (h : Keeps r s)  : Keeps r (State.readyRows s a2 a3).1 := by
  induction a3 generalizing s a2 with
  | nil =>
    unfold State.readyRows
    repeat' first
      | (with_reducible first
        | assumption)
  | cons x l ih =>
    unfold State.readyRows
    repeat' first
      | (with_reducible first
        | assumption | apply keeps_openGranules | apply keeps_readBytes | apply ih | fail_if_no_progress apply Keeps.update)
      | split

theorem keeps_storeRows {r s : State} {a2 : Group} {a3 : List (ℕ × List Rounded × Tally)} (h : Keeps r s)  : Keeps r (State.storeRows s a2 a3).1 := by
  induction a3 generalizing s a2 with
  | nil =>
    unfold State.storeRows
    repeat' first
      | (with_reducible first
        | assumption)
  | cons x l ih =>
    unfold State.storeRows
    repeat' first
      | (with_reducible first
        | assumption | apply keeps_store | apply keeps_sucTally | apply keeps_nonfinite | apply keeps_watch | apply ih
        | fail_if_no_progress apply Keeps.update | apply Keeps.foldl | apply Keeps.foldl_pair)
      | split

theorem keeps_closeGroupRows {r s : State} {a2 : Group} {a3 : Option ℕ} (h : Keeps r s)  : Keeps r (State.closeGroupRows s a2 a3).1 := by
  unfold State.closeGroupRows
  repeat' first
    | (with_reducible first
      | assumption | apply keeps_closeGroup | apply keeps_sucFails | apply keeps_readSpilled | apply keeps_closeRows
      | apply keeps_readyRows | apply keeps_storeRows | fail_if_no_progress apply Keeps.update | refine Keeps.of_pair (by assumption) ?_
      | refine Keeps.of_swapped (by assumption) ?_)
    | split | intro _ | dsimp only

theorem keeps_openGroup {r s : State} {a2 : Group} (h : Keeps r s)  : Keeps r (State.openGroup s a2) := by
  unfold State.openGroup
  repeat' first
    | (with_reducible first
      | assumption | apply keeps_fset | fail_if_no_progress apply Keeps.update | apply Keeps.foldl | apply Keeps.foldl_pair)
    | split | intro _

theorem keeps_outsideAtomic {r s : State} {a2 : AtomicReq} (h : Keeps r s)  : Keeps r (State.outsideAtomic s a2) := by
  unfold State.outsideAtomic
  repeat' first
    | (with_reducible first
      | assumption | apply keeps_atomicOp | apply keeps_emit)

theorem keeps_execAtomic {r s : State} {a1 : ℕ} (h : Keeps r s)  : KeepsOut r (execAtomic a1 s) := by
  unfold execAtomic
  repeat' first
    | (with_reducible first
      | assumption | apply KeepsOut.next | exact KeepsOut.fault | exact KeepsOut.refused | apply keeps_arrive
      | fail_if_no_progress apply Keeps.update)
    | split

theorem keeps_execGadd {r s : State} {a1 : ℕ} {a2 : Node} (h : Keeps r s)  : KeepsOut r (execGadd a1 a2 s) := by
  unfold execGadd
  repeat' first
    | (with_reducible first
      | assumption | apply KeepsOut.next | exact KeepsOut.fault | exact KeepsOut.refused | apply keeps_gaddAt | apply keeps_emit)

theorem keeps_execSucAtomic {r s : State} {a1 : AtomicReq} (h : Keeps r s)  : KeepsOut r (execSucAtomic a1 s) := by
  unfold execSucAtomic
  repeat' first
    | (with_reducible first
      | assumption | apply KeepsOut.next | exact KeepsOut.fault | exact KeepsOut.refused | apply keeps_arrive)

theorem keeps_execSucTest {r s : State} {a1 : ℕ} {a2 : TestPass} (h : Keeps r s)  : KeepsOut r (execSucTest a1 a2 s) := by
  unfold execSucTest
  repeat' first
    | (with_reducible first
      | assumption | apply KeepsOut.next | exact KeepsOut.fault | exact KeepsOut.refused | apply keeps_domainBack
      | apply keeps_loseDomain | fail_if_no_progress apply Keeps.update | refine Keeps.of_pair (by assumption) ?_
      | refine Keeps.of_swapped (by assumption) ?_)
    | split | intro _ | dsimp only

end Sys2Proof.Laws
end

