-- ==== Sys2Proof/Laws/KeepsHove.lean ====
section
/-! SUPPORT. What the functions of Machine/Hove.lean keep: the grade, the waiting commands and the canonical storage. -/

namespace Sys2Proof.Laws

open Sys2Proof.Machine

set_option Elab.async false

theorem keeps_enterHove {r s : State} {a2 : ℕ} (h : Keeps r s)  : Keeps r (State.enterHove s a2) := by
  unfold State.enterHove
  repeat' first
    | (with_reducible first
      | assumption | apply keeps_fset | apply keeps_abortVote | fail_if_no_progress apply Keeps.update
      | refine Keeps.of_pair (by assumption) ?_ | refine Keeps.of_swapped (by assumption) ?_)
    | split | intro _ | dsimp only

theorem keeps_hoveNow {r s : State} {a2 : ℕ} (h : Keeps r s)  : Keeps r (State.hoveNow s a2) := by
  unfold State.hoveNow
  repeat' first
    | (with_reducible first
      | assumption | apply keeps_enterHove | apply keeps_raise | fail_if_no_progress apply Keeps.update)
    | split

end Sys2Proof.Laws
end

