-- ==== Sys2Proof/Laws/KeepsStatistics.lean ====
section
/-! SUPPORT. What the functions of Machine/Statistics.lean keep: the grade, the waiting commands and the canonical storage. -/

namespace Sys2Proof.Laws

open Sys2Proof.Machine

set_option Elab.async false

theorem keeps_showRun {r s : State} {a2 : ℕ} {a3 : Fmt} {a4 : ℕ} (h : Keeps r s)  : Keeps r (State.showRun s a2 a3 a4) := by
  unfold State.showRun
  repeat' first
    | (with_reducible first
      | assumption | apply keeps_fset)

theorem keeps_widenLog {r s : State} {a2 : ℕ} {a3 : ℕ} {a4 : ℕ} {a5 : ℕ} {a6 : Fmt} {a7 : Fmt} (h : Keeps r s)  : Keeps r (State.widenLog s a2 a3 a4 a5 a6 a7) := by
  unfold State.widenLog
  repeat' first
    | (with_reducible first
      | assumption | apply keeps_store | apply keeps_fadd | apply keeps_fset | fail_if_no_progress apply Keeps.update | apply Keeps.foldl
      | apply Keeps.foldl_pair)
    | split | intro _

theorem keeps_widenSteps {r s : State} {a2 : ℕ} {a3 : ℕ} {a4 : ℕ} {a5 : ℕ} {a6 : List (Fmt × Fmt)} (h : Keeps r s)  : Keeps r (State.widenSteps s a2 a3 a4 a5 a6) := by
  induction a6 generalizing s a2 a3 a4 a5 with
  | nil =>
    unfold State.widenSteps
    repeat' first
      | (with_reducible first
        | assumption)
  | cons x l ih =>
    unfold State.widenSteps
    repeat' first
      | (with_reducible first
        | assumption | apply keeps_widenLog | apply ih)

end Sys2Proof.Laws
end

