-- ==== Sys2Proof/Laws/KeepsVector.lean ====
section
/-! SUPPORT. What the functions of Machine/Vector.lean keep: the grade, the waiting commands and the canonical storage. -/

namespace Sys2Proof.Laws

open Sys2Proof.Machine

set_option Elab.async false

theorem keeps_undefineOutputs {r s : State} {a2 : Reach} {a3 : Bool} {a4 : ℕ} {a5 : ℕ} {a6 : List Desc} (h : Keeps r s)  : Keeps r (State.undefineOutputs s a2 a3 a4 a5 a6) := by
  unfold State.undefineOutputs
  repeat' first
    | (with_reducible first
      | assumption | apply keeps_undefineView | fail_if_no_progress apply Keeps.update | apply Keeps.foldl | apply Keeps.foldl_pair)
    | split | intro _

theorem keeps_readDescs {r s : State} {a2 : ℕ} {a3 : List ℕ} (h : Keeps r s)  : Keeps r (State.readDescs s a2 a3).1 := by
  induction a3 generalizing s a2 with
  | nil =>
    unfold State.readDescs
    repeat' first
      | (with_reducible first
        | assumption)
  | cons x l ih =>
    unfold State.readDescs
    repeat' first
      | (with_reducible first
        | assumption | apply keeps_readDesc | apply ih)

theorem keeps_vxeTally {r s : State} {a2 : ℕ} {a3 : Fmt} {a4 : Tally} (h : Keeps r s)  : Keeps r (State.vxeTally s a2 a3 a4) := by
  unfold State.vxeTally
  repeat' first
    | (with_reducible first
      | assumption | apply keeps_tallyWindow | apply keeps_fadd)

theorem keeps_writeConverted {r s : State} {a2 : ℕ} {a3 : Exec} {a4 : Reach} {a5 : ℕ} {a6 : ℕ} {a7 : ℕ} {a8 : ℤ} {a9 : Option ℕ} {a10 : ℕ} {a11 : ℕ} {a12 : Desc} {a13 : List Encoded} (h : Keeps r s)  : Keeps r (State.writeConverted s a2 a3 a4 a5 a6 a7 a8 a9 a10 a11 a12 a13) := by
  unfold State.writeConverted
  repeat' first
    | (with_reducible first
      | assumption | apply keeps_writeRows | apply keeps_storeAt | apply keeps_finish | apply keeps_undefineView | apply keeps_vxeTally
      | apply keeps_fadd | apply keeps_nonfinite | apply keeps_watch | fail_if_no_progress apply Keeps.update
      | refine Keeps.of_pair (by assumption) ?_ | refine Keeps.of_swapped (by assumption) ?_)
    | split | intro _ | dsimp only

theorem keeps_groupChecks {r s : State} {a2 : ℕ} {a3 : List (ℕ × Bool)} (h : Keeps r s)  : Keeps r (State.groupChecks s a2 a3).1 := by
  induction a3 generalizing s a2 with
  | nil =>
    unfold State.groupChecks
    repeat' first
      | (with_reducible first
        | assumption)
  | cons x l ih =>
    unfold State.groupChecks
    repeat' first
      | (with_reducible first
        | assumption | apply keeps_error | apply keeps_faultDomain | apply keeps_fadd | apply keeps_fset | apply ih
        | fail_if_no_progress apply Keeps.update)
      | split

theorem keeps_cvt {r s : State} {a2 : ℕ} {a3 : Exec} {a4 : List (ℕ × Bool)} (h : Keeps r s)  : Keeps r (State.cvt s a2 a3 a4) := by
  unfold State.cvt
  repeat' first
    | (with_reducible first
      | assumption | apply keeps_finish | apply keeps_readDesc | apply keeps_readView | apply keeps_groupChecks
      | apply keeps_writeConverted | apply keeps_undefineView | fail_if_no_progress apply Keeps.update
      | refine Keeps.of_pair (by assumption) ?_ | refine Keeps.of_swapped (by assumption) ?_)
    | split | intro _ | dsimp only

theorem keeps_readInputs {r s : State} {a2 : Reach} {a3 : ℕ} {a4 : ℕ} {a5 : List Desc} (h : Keeps r s)  : Keeps r (State.readInputs s a2 a3 a4 a5).1 := by
  induction a5 generalizing s a2 a3 a4 with
  | nil =>
    unfold State.readInputs
    repeat' first
      | (with_reducible first
        | assumption)
  | cons x l ih =>
    unfold State.readInputs
    repeat' first
      | (with_reducible first
        | assumption | apply keeps_readView | apply ih)

theorem keeps_writeOutputs {r s : State} {a2 : Reach} {a3 : List (Desc × Fmt × List Encoded)} (h : Keeps r s)  : Keeps r (State.writeOutputs s a2 a3).1 := by
  induction a3 generalizing s a2 with
  | nil =>
    unfold State.writeOutputs
    repeat' first
      | (with_reducible first
        | assumption)
  | cons x l ih =>
    unfold State.writeOutputs
    repeat' first
      | (with_reducible first
        | assumption | apply keeps_writeRows | apply ih)

theorem keeps_writeStats {r s : State} {a2 : Reach} {a3 : ℕ} {a4 : List RunStats} (h : Keeps r s)  : Keeps r (State.writeStats s a2 a3 a4).1 := by
  induction a4 generalizing s a2 a3 with
  | nil =>
    unfold State.writeStats
    repeat' first
      | (with_reducible first
        | assumption)
  | cons x l ih =>
    unfold State.writeStats
    repeat' first
      | (with_reducible first
        | assumption | apply keeps_storeAt | apply ih)

theorem keeps_eprogDo {r s : State} {a2 : ℕ} {a3 : Exec} {a4 : Eprog} {a5 : List MicroOp} {a6 : List Desc} {a7 : List Desc} {a8 : List (List (List (ℕ × ℕ)))} (h : Keeps r s)  : Keeps r (State.eprogDo s a2 a3 a4 a5 a6 a7 a8) := by
  unfold State.eprogDo
  repeat' first
    | (with_reducible first
      | assumption | apply keeps_widenSteps | apply keeps_finish | apply keeps_undefineOutputs | apply keeps_writeOutputs
      | apply keeps_writeStats | apply keeps_setDescFmt | apply keeps_vxeTally | apply keeps_fadd | apply keeps_nonfinite
      | apply keeps_watch | fail_if_no_progress apply Keeps.update | apply Keeps.foldl | apply Keeps.foldl_pair
      | refine Keeps.of_pair (by assumption) ?_ | refine Keeps.of_swapped (by assumption) ?_)
    | split | intro _ | dsimp only

theorem keeps_eprog {r s : State} {a2 : ℕ} {a3 : Exec} {a4 : List (ℕ × Bool)} (h : Keeps r s)  : Keeps r (State.eprog s a2 a3 a4) := by
  unfold State.eprog
  repeat' first
    | (with_reducible first
      | assumption | apply keeps_finish | apply keeps_fadd | apply keeps_readDescs | apply keeps_loadAt | apply keeps_readInputs
      | apply keeps_groupChecks | apply keeps_eprogDo | apply keeps_undefineOutputs | fail_if_no_progress apply Keeps.update
      | refine Keeps.of_pair (by assumption) ?_ | refine Keeps.of_swapped (by assumption) ?_)
    | split | intro _ | dsimp only

theorem keeps_execEprog {r s : State} {a1 : ℕ} {a2 : List (ℕ × Bool)} (h : Keeps r s)  : KeepsOut r (execEprog a1 a2 s) := by
  unfold execEprog
  repeat' first
    | (with_reducible first
      | assumption | apply KeepsOut.next | exact KeepsOut.fault | exact KeepsOut.refused | apply keeps_asSeen | apply keeps_eprog
      | fail_if_no_progress apply Keeps.update)
    | split | intro _

theorem keeps_execCvt {r s : State} {a1 : ℕ} {a2 : List (ℕ × Bool)} (h : Keeps r s)  : KeepsOut r (execCvt a1 a2 s) := by
  unfold execCvt
  repeat' first
    | (with_reducible first
      | assumption | apply KeepsOut.next | exact KeepsOut.fault | exact KeepsOut.refused | apply keeps_asSeen | apply keeps_cvt
      | fail_if_no_progress apply Keeps.update)
    | split | intro _

end Sys2Proof.Laws
end

