-- ==== Sys2Proof/Laws/KeepsQueues.lean ====
section
/-! SUPPORT. What the functions of Machine/Queues.lean keep: the grade, the waiting commands and the canonical storage. -/

namespace Sys2Proof.Laws

open Sys2Proof.Machine

set_option Elab.async false

theorem keeps_readEntry {r s : State} {a2 : ℕ} {a3 : ℕ} (h : Keeps r s)  : Keeps r (State.readEntry s a2 a3).1 := by
  unfold State.readEntry
  repeat' first
    | (with_reducible first
      | assumption | apply keeps_readBytes | apply keeps_load | fail_if_no_progress apply Keeps.update)
    | split

theorem keeps_headOf {r s : State} {a2 : ℕ} (h : Keeps r s)  : Keeps r (State.headOf s a2).1 := by
  unfold State.headOf
  repeat' first
    | (with_reducible first
      | assumption | apply keeps_readEntry | fail_if_no_progress apply Keeps.update | refine Keeps.of_pair (by assumption) ?_
      | refine Keeps.of_swapped (by assumption) ?_)
    | split | intro _ | dsimp only

theorem keeps_advance {r s : State} {a2 : ℕ} (h : Keeps r s)  : Keeps r (State.advance s a2) := by
  unfold State.advance
  repeat' first
    | (with_reducible first
      | assumption | apply keeps_setQueue | fail_if_no_progress apply Keeps.update | refine Keeps.of_pair (by assumption) ?_
      | refine Keeps.of_swapped (by assumption) ?_)
    | split | intro _ | dsimp only

theorem keeps_record {r s : State} {a2 : ℕ} {a3 : Head} {a4 : Status} {a5 : ℕ} (h : Keeps r s)  : Keeps r (State.record s a2 a3 a4 a5) := by
  unfold State.record
  repeat' first
    | (with_reducible first
      | assumption | apply keeps_fwrap | apply keeps_store | fail_if_no_progress apply Keeps.update)
    | split

theorem keeps_postStatus {r s : State} {a2 : ℕ} {a3 : Head} {a4 : Status} {a5 : ℕ} (h : Keeps r s)  : Keeps r (State.postStatus s a2 a3 a4 a5) := by
  unfold State.postStatus
  repeat' first
    | (with_reducible first
      | assumption | apply keeps_fset | apply keeps_flagAdd | apply keeps_record | apply keeps_raise | apply keeps_abortVote
      | fail_if_no_progress apply Keeps.update | refine Keeps.of_pair (by assumption) ?_ | refine Keeps.of_swapped (by assumption) ?_)
    | split | intro _ | dsimp only

theorem keeps_halt {r s : State} {a2 : ℕ} {a3 : Head} {a4 : Status} (h : Keeps r s)  : Keeps r (State.halt s a2 a3 a4) := by
  unfold State.halt
  repeat' first
    | (with_reducible first
      | assumption | apply keeps_endWait | apply keeps_enter | apply keeps_setQueue | fail_if_no_progress apply Keeps.update)
    | split

theorem keeps_showHead {r s : State} {a2 : ℕ} (h : Keeps r s)  : Keeps r (State.showHead s a2) := by
  unfold State.showHead
  repeat' first
    | (with_reducible first
      | assumption | apply keeps_fset | fail_if_no_progress apply Keeps.update)
    | split

theorem keeps_dropHead {r s : State} {a2 : ℕ} {a3 : Head} {a4 : Status} {a5 : Bool} (h : Keeps r s)  : Keeps r (State.dropHead s a2 a3 a4 a5) := by
  unfold State.dropHead
  repeat' first
    | (with_reducible first
      | assumption | apply keeps_advance | apply keeps_setQueue | apply keeps_fwrap | apply keeps_endWait | apply keeps_postStatus
      | apply keeps_halt | apply keeps_showHead | fail_if_no_progress apply Keeps.update)
    | split

theorem keeps_abortHead {r s : State} {a2 : ℕ} (h : Keeps r s)  : Keeps r (State.abortHead s a2) := by
  unfold State.abortHead
  repeat' first
    | (with_reducible first
      | assumption | apply keeps_headOf | apply keeps_enter | apply keeps_dropHead | fail_if_no_progress apply Keeps.update
      | refine Keeps.of_pair (by assumption) ?_)
    | split | intro _

theorem keeps_abortHeld {r s : State} {a2 : ℕ} (h : Keeps r s)  : Keeps r (State.abortHeld s a2) := by
  unfold State.abortHeld
  repeat' first
    | (with_reducible first
      | assumption | apply keeps_headOf | apply keeps_dropHead | fail_if_no_progress apply Keeps.update
      | refine Keeps.of_pair (by assumption) ?_)
    | split | intro _

theorem keeps_setParams {r s : State} {a2 : ℕ} {a3 : List (ℕ × Word)} (h : Keeps r s)  : Keeps r (State.setParams s a2 a3) := by
  unfold State.setParams
  repeat' first
    | (with_reducible first
      | assumption | apply keeps_fset | fail_if_no_progress apply Keeps.update | apply Keeps.foldl | apply Keeps.foldl_pair)
    | split | intro _

theorem keeps_endReplay {r s : State} {a2 : ℕ} {a3 : Replay} (h : Keeps r s)  : Keeps r (State.endReplay s a2 a3) := by
  unfold State.endReplay
  repeat' first
    | (with_reducible first
      | assumption | apply keeps_setParams | apply keeps_setQueue)

theorem keeps_freeJournal {r s : State}  (h : Keeps r s)  : Keeps r (State.freeJournal s) := by
  unfold State.freeJournal
  repeat' first
    | (with_reducible first
      | assumption | fail_if_no_progress apply Keeps.update)
    | split

theorem keeps_dropRetired {r s : State}  (h : Keeps r s)  : Keeps r (State.dropRetired s) := by
  unfold State.dropRetired
  repeat' first
    | (with_reducible first
      | assumption | apply keeps_freeJournal | fail_if_no_progress apply Keeps.update)

theorem keeps_showBusy {r s : State} {a2 : ℕ} (h : Keeps r s)  : Keeps r (State.showBusy s a2) := by
  unfold State.showBusy
  repeat' first
    | (with_reducible first
      | assumption | apply keeps_showExec | apply keeps_showRun | apply keeps_fset | fail_if_no_progress apply Keeps.update)
    | split

theorem keeps_rewind {r s : State} {a2 : ℕ} {a3 : Exec} {a4 : List ℕ} (h : Keeps r s)  : Keeps r (State.rewind s a2 a3 a4) := by
  unfold State.rewind
  repeat' first
    | (with_reducible first
      | assumption | apply keeps_fset | apply keeps_setQueue | fail_if_no_progress apply Keeps.update | apply Keeps.foldl
      | apply Keeps.foldl_pair | refine Keeps.of_pair (by assumption) ?_ | refine Keeps.of_swapped (by assumption) ?_)
    | split | intro _ | dsimp only

theorem keeps_sendRelease {r s : State} {a2 : ℕ} {a3 : ℕ} (h : Keeps r s)  : Keeps r (State.sendRelease s a2 a3) := by
  unfold State.sendRelease
  repeat' first
    | (with_reducible first
      | assumption | apply keeps_emit | fail_if_no_progress apply Keeps.update | refine Keeps.of_pair (by assumption) ?_
      | refine Keeps.of_swapped (by assumption) ?_)
    | split | intro _ | dsimp only

theorem keeps_complete {r s : State} {a2 : Exec} {a3 : Status} {a4 : ℕ} (h : Keeps r s)  : Keeps r (State.complete s a2 a3 a4) := by
  unfold State.complete
  repeat' first
    | (with_reducible first
      | assumption | apply keeps_dropRetired | apply keeps_showBusy | apply keeps_halt | apply keeps_postStatus | apply keeps_rewind
      | apply keeps_sendRelease | apply keeps_setQueue | apply keeps_showHead | apply keeps_fwrap | apply keeps_endWait
      | apply keeps_enter | fail_if_no_progress apply Keeps.update | refine Keeps.of_pair (by assumption) ?_
      | refine Keeps.of_swapped (by assumption) ?_)
    | split | intro _ | dsimp only

theorem keeps_leaveOutputs {r s : State} {a2 : ℕ} {a3 : Exec} (h : Keeps r s)  : Keeps r (State.leaveOutputs s a2 a3) := by
  unfold State.leaveOutputs
  repeat' first
    | (with_reducible first
      | assumption | apply keeps_readDesc | apply keeps_undefineOutputs | apply keeps_readDescs | fail_if_no_progress apply Keeps.update
      | refine Keeps.of_pair (by assumption) ?_ | refine Keeps.of_swapped (by assumption) ?_)
    | split | intro _ | dsimp only

theorem keeps_stopWith {r s : State} {a2 : ℕ} {a3 : List Exec} (h : Keeps r s)  : Keeps r (State.stopWith s a2 a3) := by
  unfold State.stopWith
  repeat' first
    | (with_reducible first
      | assumption | apply keeps_endReplay | apply keeps_setQueue | apply keeps_headOf | apply keeps_endWait | apply keeps_enter
      | apply keeps_complete | apply keeps_leaveOutputs | apply keeps_postStatus | apply keeps_fwrap | apply keeps_showHead
      | fail_if_no_progress apply Keeps.update | apply Keeps.foldl | apply Keeps.foldl_pair)
    | split | intro _

theorem keeps_stopPosition {r s : State} {a2 : ℕ} (h : Keeps r s)  : Keeps r (State.stopPosition s a2) := by
  unfold State.stopPosition
  repeat' first
    | (with_reducible first
      | assumption | apply keeps_stopWith | apply keeps_setQueue | fail_if_no_progress apply Keeps.update | apply Keeps.foldl
      | apply Keeps.foldl_pair | refine Keeps.of_pair (by assumption) ?_ | refine Keeps.of_swapped (by assumption) ?_)
    | split | intro _ | dsimp only

theorem keeps_goQueue {r s : State} {a2 : ℕ} (h : Keeps r s)  : Keeps r (State.goQueue s a2) := by
  unfold State.goQueue
  repeat' first
    | (with_reducible first
      | assumption | apply keeps_setQueue | apply keeps_showHead | apply keeps_enter | apply keeps_fset)

theorem keeps_stopQueue {r s : State} {a2 : ℕ} (h : Keeps r s)  : Keeps r (State.stopQueue s a2) := by
  unfold State.stopQueue
  repeat' first
    | (with_reducible first
      | assumption | apply keeps_stopWith)

theorem keeps_resumeQueue {r s : State} {a2 : ℕ} (h : Keeps r s)  : Keeps r (State.resumeQueue s a2) := by
  unfold State.resumeQueue
  repeat' first
    | (with_reducible first
      | assumption | apply keeps_enter | apply keeps_setParams | apply keeps_showHead | apply keeps_setQueue
      | fail_if_no_progress apply Keeps.update)
    | split

theorem keeps_retryQueue {r s : State} {a2 : ℕ} (h : Keeps r s)  : Keeps r (State.retryQueue s a2) := by
  unfold State.retryQueue
  repeat' first
    | (with_reducible first
      | assumption | apply keeps_showHead | apply keeps_enter | apply keeps_setQueue)

theorem keeps_doCommand {r s : State} {a2 : ℕ} {a3 : ℕ} (h : Keeps r s)  : Keeps r (State.doCommand s a2 a3) := by
  unfold State.doCommand
  repeat' first
    | (with_reducible first
      | assumption | apply keeps_goQueue | apply keeps_resumeQueue | apply keeps_retryQueue | apply keeps_abortHead
      | apply keeps_stopQueue | fail_if_no_progress apply Keeps.update)
    | split

theorem keeps_commandQueue {r s : State} {a2 : ℕ} {a3 : ℕ} {a4 : Sender} (h : Keeps r s)  : Keeps r (State.commandQueue s a2 a3 a4).1 := by
  unfold State.commandQueue
  repeat' first
    | (with_reducible first
      | assumption | apply keeps_doCommand | apply keeps_badCmd | fail_if_no_progress apply Keeps.update
      | refine Keeps.of_pair (by assumption) ?_ | refine Keeps.of_swapped (by assumption) ?_)
    | split | intro _ | dsimp only

theorem keeps_copyEntry {r s : State} {a2 : ℕ} {a3 : Exec} (h : Keeps r s)  : Keeps r (State.copyEntry s a2 a3) := by
  unfold State.copyEntry
  repeat' first
    | (with_reducible first
      | assumption | apply keeps_finish | apply keeps_readDesc | apply keeps_readView | apply keeps_undefineView | apply keeps_writeRows
      | apply keeps_storeAt | apply keeps_watch | apply keeps_writeConverted | fail_if_no_progress apply Keeps.update
      | refine Keeps.of_pair (by assumption) ?_ | refine Keeps.of_swapped (by assumption) ?_)
    | split | intro _ | dsimp only

theorem keeps_patchValues {r s : State} {a2 : ℕ} {a3 : ℕ} {a4 : List Patch} (h : Keeps r s)  : Keeps r (State.patchValues s a2 a3 a4).1 := by
  induction a4 generalizing s a2 a3 with
  | nil =>
    unfold State.patchValues
    repeat' first
      | (with_reducible first
        | assumption)
  | cons x l ih =>
    unfold State.patchValues
    repeat' first
      | (with_reducible first
        | assumption | apply keeps_loadAt | apply ih | fail_if_no_progress apply Keeps.update)
      | split

theorem keeps_patchReplay {r s : State} {a2 : ℕ} {a3 : Replay} (h : Keeps r s)  : Keeps r (State.patchReplay s a2 a3) := by
  unfold State.patchReplay
  repeat' first
    | (with_reducible first
      | assumption | apply keeps_patchValues | apply keeps_setQueue | apply keeps_setParams | fail_if_no_progress apply Keeps.update
      | refine Keeps.of_pair (by assumption) ?_)
    | split | intro _

theorem keeps_turnReplay {r s : State} {a2 : ℕ} (h : Keeps r s)  : Keeps r (State.turnReplay s a2) := by
  unfold State.turnReplay
  repeat' first
    | (with_reducible first
      | assumption | apply keeps_patchReplay | apply keeps_endReplay | fail_if_no_progress apply Keeps.update
      | refine Keeps.of_pair (by assumption) ?_ | refine Keeps.of_swapped (by assumption) ?_)
    | split | intro _ | dsimp only

theorem keeps_showWait {r s : State} {a2 : ℕ} {a3 : BitVec 256} {a4 : ℕ} (h : Keeps r s)  : Keeps r (State.showWait s a2 a3 a4) := by
  unfold State.showWait
  repeat' first
    | (with_reducible first
      | assumption | apply keeps_fset)

theorem keeps_start {r s : State} {a2 : ℕ} {a3 : Head} {a4 : BitVec 256} (h : Keeps r s)  : Keeps r (State.start s a2 a3 a4) := by
  unfold State.start
  repeat' first
    | (with_reducible first
      | assumption | apply keeps_setQueue | apply keeps_setParams | apply keeps_readDir | apply keeps_showRun | apply keeps_advance
      | apply keeps_patchReplay | apply keeps_showHead | apply keeps_showBusy | fail_if_no_progress apply Keeps.update)
    | split

theorem keeps_entryStart {r s : State} {a2 : ℕ} (h : Keeps r s)  : Keeps r (State.entryStart s a2) := by
  unfold State.entryStart
  repeat' first
    | (with_reducible first
      | assumption | apply keeps_showHead | apply keeps_turnReplay | apply keeps_headOf | apply keeps_dropHead | apply keeps_enter
      | apply keeps_showWait | apply keeps_endWait | apply keeps_start | fail_if_no_progress apply Keeps.update
      | refine Keeps.of_pair (by assumption) ?_ | refine Keeps.of_swapped (by assumption) ?_)
    | split | intro _ | dsimp only

theorem keeps_fillEntry {r s : State} {a2 : ℕ} {a3 : Exec} (h : Keeps r s)  : Keeps r (State.fillEntry s a2 a3) := by
  unfold State.fillEntry
  repeat' first
    | (with_reducible first
      | assumption | apply keeps_finish | apply keeps_readDesc | apply keeps_writeConverted | fail_if_no_progress apply Keeps.update
      | refine Keeps.of_pair (by assumption) ?_ | refine Keeps.of_swapped (by assumption) ?_)
    | split | intro _ | dsimp only

theorem keeps_lastTurn {r s : State} {a2 : ℕ} (h : Keeps r s)  : Keeps r (State.lastTurn s a2) := by
  unfold State.lastTurn
  repeat' first
    | (with_reducible first
      | assumption | apply keeps_endReplay | fail_if_no_progress apply Keeps.update | refine Keeps.of_pair (by assumption) ?_
      | refine Keeps.of_swapped (by assumption) ?_)
    | split | intro _ | dsimp only

theorem keeps_paramWrite {r s : State} {a2 : ℕ} {a3 : ℕ} {a4 : Word} (h : Keeps r s)  : Keeps r (State.paramWrite s a2 a3 a4) := by
  unfold State.paramWrite
  repeat' first
    | (with_reducible first
      | assumption | apply keeps_wr | apply keeps_badCmd | fail_if_no_progress apply Keeps.update)
    | split

theorem keeps_pcopy {r s : State} {a2 : ℕ} {a3 : Exec} (h : Keeps r s)  : Keeps r (State.pcopy s a2 a3) := by
  unfold State.pcopy
  repeat' first
    | (with_reducible first
      | assumption | apply keeps_finish | apply keeps_loadAt | apply keeps_setParams | fail_if_no_progress apply Keeps.update
      | refine Keeps.of_pair (by assumption) ?_ | refine Keeps.of_swapped (by assumption) ?_)
    | split | intro _ | dsimp only

theorem keeps_queueCtrl {r s : State} {a2 : ℕ} {a3 : ℕ} {a4 : Sender} (h : Keeps r s)  : Keeps r (State.queueCtrl s a2 a3 a4) := by
  unfold State.queueCtrl
  repeat' first
    | (with_reducible first
      | assumption | apply keeps_fset | fail_if_no_progress apply Keeps.update)
    | split

theorem keeps_rangeOk {r s : State} {a2 : ℕ} {a3 : List ℕ} (h : Keeps r s)  : Keeps r (State.rangeOk s a2 a3).1 := by
  induction a3 generalizing s a2 with
  | nil =>
    unfold State.rangeOk
    repeat' first
      | (with_reducible first
        | assumption)
  | cons x l ih =>
    unfold State.rangeOk
    repeat' first
      | (with_reducible first
        | assumption | apply keeps_readEntry | apply ih)

theorem keeps_replayBegin {r s : State} {a2 : ℕ} {a3 : Exec} (h : Keeps r s)  : Keeps r (State.replayBegin s a2 a3) := by
  unfold State.replayBegin
  repeat' first
    | (with_reducible first
      | assumption | apply keeps_finish | apply keeps_rangeOk | apply keeps_loadAt | apply keeps_setQueue | apply keeps_showHead
      | apply keeps_patchReplay | fail_if_no_progress apply Keeps.update | refine Keeps.of_pair (by assumption) ?_
      | refine Keeps.of_swapped (by assumption) ?_)
    | split | intro _ | dsimp only

theorem keeps_ringWrite {r s : State} {a2 : Reg} {a3 : Word} (h : Keeps r s)  : Keeps r (State.ringWrite s a2 a3) := by
  unfold State.ringWrite
  repeat' first
    | (with_reducible first
      | assumption | apply keeps_wr | apply keeps_badCmd | fail_if_no_progress apply Keeps.update
      | refine Keeps.of_pair (by assumption) ?_ | refine Keeps.of_swapped (by assumption) ?_)
    | split | intro _ | dsimp only

theorem keeps_stalePolicy {r s : State} {a2 : List ℕ} (h : Keeps r s)  : Keeps r (State.stalePolicy s a2) := by
  unfold State.stalePolicy
  repeat' first
    | (with_reducible first
      | assumption | apply keeps_abortHeld | apply keeps_latch | apply keeps_stopPosition | apply keeps_hoveNow
      | fail_if_no_progress apply Keeps.update | apply Keeps.foldl | apply Keeps.foldl_pair)
    | split | intro _

theorem keeps_staleRecord {r s : State} {a2 : StaleTrack} (h : Keeps r s)  : Keeps r (State.staleRecord s a2) := by
  unfold State.staleRecord
  repeat' first
    | (with_reducible first
      | assumption | apply keeps_fadd | apply keeps_fraise | apply keeps_fset | fail_if_no_progress apply Keeps.update
      | apply Keeps.foldl | apply Keeps.foldl_pair)
    | split | intro _

theorem keeps_staleHold {r s : State} {a2 : StaleTrack} (h : Keeps r s)  : Keeps r (State.staleHold s a2) := by
  unfold State.staleHold
  repeat' first
    | (with_reducible first
      | assumption | apply keeps_enter | apply keeps_stalePolicy | apply keeps_raise | apply keeps_staleRecord
      | fail_if_no_progress apply Keeps.update | apply Keeps.foldl | apply Keeps.foldl_pair)
    | split | intro _

theorem keeps_staleScan {r s : State}  (h : Keeps r s)  : Keeps r (State.staleScan s) := by
  unfold State.staleScan
  repeat' first
    | (with_reducible first
      | assumption | fail_if_no_progress apply Keeps.update)

theorem keeps_takeCommands {r s : State}  (h : Keeps r s)  : Keeps r (State.takeCommands s) := by
  unfold State.takeCommands
  repeat' first
    | (with_reducible first
      | assumption | apply keeps_commandQueue | apply keeps_fset | fail_if_no_progress apply Keeps.update | apply Keeps.foldl
      | apply Keeps.foldl_pair)
    | split | intro _

theorem keeps_execNop {r s : State} {a1 : ℕ} (h : Keeps r s)  : KeepsOut r (execNop a1 s) := by
  unfold execNop
  repeat' first
    | (with_reducible first
      | assumption | apply KeepsOut.next | exact KeepsOut.fault | exact KeepsOut.refused | apply keeps_finish
      | fail_if_no_progress apply Keeps.update)
    | split

theorem keeps_execReplay {r s : State} {a1 : ℕ} (h : Keeps r s)  : KeepsOut r (execReplay a1 s) := by
  unfold execReplay
  repeat' first
    | (with_reducible first
      | assumption | apply KeepsOut.next | exact KeepsOut.fault | exact KeepsOut.refused | apply keeps_lastTurn | apply keeps_finish
      | apply keeps_replayBegin | fail_if_no_progress apply Keeps.update | refine Keeps.of_pair (by assumption) ?_
      | refine Keeps.of_swapped (by assumption) ?_)
    | split | intro _ | dsimp only

theorem keeps_execPset {r s : State} {a1 : ℕ} (h : Keeps r s)  : KeepsOut r (execPset a1 s) := by
  unfold execPset
  repeat' first
    | (with_reducible first
      | assumption | apply KeepsOut.next | exact KeepsOut.fault | exact KeepsOut.refused | apply keeps_finish | apply keeps_fset
      | fail_if_no_progress apply Keeps.update)
    | split

theorem keeps_execJump {r s : State} {a1 : ℕ} (h : Keeps r s)  : KeepsOut r (execJump a1 s) := by
  unfold execJump
  repeat' first
    | (with_reducible first
      | assumption | apply KeepsOut.next | exact KeepsOut.fault | exact KeepsOut.refused | apply keeps_finish | apply keeps_fwrap
      | apply keeps_showHead | apply keeps_setQueue | fail_if_no_progress apply Keeps.update | refine Keeps.of_pair (by assumption) ?_
      | refine Keeps.of_swapped (by assumption) ?_)
    | split | intro _ | dsimp only

theorem keeps_execEndEntry {r s : State} {a1 : ℕ} (h : Keeps r s)  : KeepsOut r (execEndEntry a1 s) := by
  unfold execEndEntry
  repeat' first
    | (with_reducible first
      | assumption | apply KeepsOut.next | exact KeepsOut.fault | exact KeepsOut.refused | apply keeps_finish
      | fail_if_no_progress apply Keeps.update)
    | split

theorem keeps_execFlagadd {r s : State} {a1 : ℕ} (h : Keeps r s)  : KeepsOut r (execFlagadd a1 s) := by
  unfold execFlagadd
  repeat' first
    | (with_reducible first
      | assumption | apply KeepsOut.next | exact KeepsOut.fault | exact KeepsOut.refused | apply keeps_finish | apply keeps_flagAdd
      | fail_if_no_progress apply Keeps.update)
    | split

theorem keeps_execPcopy {r s : State} {a1 : ℕ} (h : Keeps r s)  : KeepsOut r (execPcopy a1 s) := by
  unfold execPcopy
  repeat' first
    | (with_reducible first
      | assumption | apply KeepsOut.next | exact KeepsOut.fault | exact KeepsOut.refused | apply keeps_asSeen | apply keeps_pcopy
      | fail_if_no_progress apply Keeps.update)
    | split | intro _

theorem keeps_execCopy {r s : State} {a1 : ℕ} (h : Keeps r s)  : KeepsOut r (execCopy a1 s) := by
  unfold execCopy
  repeat' first
    | (with_reducible first
      | assumption | apply KeepsOut.next | exact KeepsOut.fault | exact KeepsOut.refused | apply keeps_asSeen | apply keeps_copyEntry
      | fail_if_no_progress apply Keeps.update)
    | split | intro _

theorem keeps_execFill {r s : State} {a1 : ℕ} (h : Keeps r s)  : KeepsOut r (execFill a1 s) := by
  unfold execFill
  repeat' first
    | (with_reducible first
      | assumption | apply KeepsOut.next | exact KeepsOut.fault | exact KeepsOut.refused | apply keeps_asSeen | apply keeps_fillEntry
      | fail_if_no_progress apply Keeps.update)
    | split | intro _

theorem keeps_execEntryStart {r s : State} {a1 : ℕ} (h : Keeps r s)  : KeepsOut r (execEntryStart a1 s) := by
  unfold execEntryStart
  repeat' first
    | (with_reducible first
      | assumption | apply KeepsOut.next | exact KeepsOut.fault | exact KeepsOut.refused | apply keeps_entryStart
      | fail_if_no_progress apply Keeps.update)
    | split

theorem keeps_execEntryCompletion {r s : State} {a1 : ℕ} {a2 : ℕ} (h : Keeps r s)  : KeepsOut r (execEntryCompletion a1 a2 s) := by
  unfold execEntryCompletion
  repeat' first
    | (with_reducible first
      | assumption | apply KeepsOut.next | exact KeepsOut.fault | exact KeepsOut.refused | apply keeps_complete
      | fail_if_no_progress apply Keeps.update)
    | split

theorem keeps_execRingEntryTake {r s : State} {a1 : ℕ} (h : Keeps r s)  : KeepsOut r (execRingEntryTake a1 s) := by
  unfold execRingEntryTake
  repeat' first
    | (with_reducible first
      | assumption | apply KeepsOut.next | exact KeepsOut.fault | exact KeepsOut.refused | apply keeps_turnReplay | apply keeps_halt
      | apply keeps_postStatus | apply keeps_readEntry | apply keeps_fwrap | apply keeps_showHead | apply keeps_setQueue
      | fail_if_no_progress apply Keeps.update | refine Keeps.of_pair (by assumption) ?_ | refine Keeps.of_swapped (by assumption) ?_)
    | split | intro _ | dsimp only

theorem keeps_execGo {r s : State} {a1 : ℕ} {a2 : Sender} (h : Keeps r s)  : KeepsOut r (execGo a1 a2 s) := by
  unfold execGo
  repeat' first
    | (with_reducible first
      | assumption | apply KeepsOut.next | exact KeepsOut.fault | exact KeepsOut.refused | apply keeps_queueCtrl)

theorem keeps_execResume {r s : State} {a1 : ℕ} {a2 : Sender} (h : Keeps r s)  : KeepsOut r (execResume a1 a2 s) := by
  unfold execResume
  repeat' first
    | (with_reducible first
      | assumption | apply KeepsOut.next | exact KeepsOut.fault | exact KeepsOut.refused | apply keeps_queueCtrl)

theorem keeps_execRetry {r s : State} {a1 : ℕ} {a2 : Sender} (h : Keeps r s)  : KeepsOut r (execRetry a1 a2 s) := by
  unfold execRetry
  repeat' first
    | (with_reducible first
      | assumption | apply KeepsOut.next | exact KeepsOut.fault | exact KeepsOut.refused | apply keeps_queueCtrl)

theorem keeps_execAbortEntry {r s : State} {a1 : ℕ} {a2 : Sender} (h : Keeps r s)  : KeepsOut r (execAbortEntry a1 a2 s) := by
  unfold execAbortEntry
  repeat' first
    | (with_reducible first
      | assumption | apply KeepsOut.next | exact KeepsOut.fault | exact KeepsOut.refused | apply keeps_queueCtrl)

theorem keeps_execStop {r s : State} {a1 : ℕ} {a2 : Sender} (h : Keeps r s)  : KeepsOut r (execStop a1 a2 s) := by
  unfold execStop
  repeat' first
    | (with_reducible first
      | assumption | apply KeepsOut.next | exact KeepsOut.fault | exact KeepsOut.refused | apply keeps_queueCtrl)

theorem keeps_execStalemateScan {r s : State}  (h : Keeps r s)  : KeepsOut r (execStalemateScan s) := by
  unfold execStalemateScan
  repeat' first
    | (with_reducible first
      | assumption | apply KeepsOut.next | exact KeepsOut.fault | exact KeepsOut.refused | apply keeps_staleScan)

theorem keeps_execStalemateHold {r s : State}  (h : Keeps r s)  : KeepsOut r (execStalemateHold s) := by
  unfold execStalemateHold
  repeat' first
    | (with_reducible first
      | assumption | apply KeepsOut.next | exact KeepsOut.fault | exact KeepsOut.refused | apply keeps_staleHold
      | fail_if_no_progress apply Keeps.update | apply Keeps.foldl)

theorem keeps_execParamWrite {r s : State} {a1 : ℕ} {a2 : ℕ} {a3 : Word} (h : Keeps r s)  : KeepsOut r (execParamWrite a1 a2 a3 s) := by
  unfold execParamWrite
  repeat' first
    | (with_reducible first
      | assumption | apply KeepsOut.next | exact KeepsOut.fault | exact KeepsOut.refused | apply keeps_paramWrite
      | fail_if_no_progress apply Keeps.update)
    | split

theorem keeps_execRingRegisterWrite {r s : State} {a1 : ℕ} {a2 : Word} (h : Keeps r s)  : KeepsOut r (execRingRegisterWrite a1 a2 s) := by
  unfold execRingRegisterWrite
  repeat' first
    | (with_reducible first
      | assumption | apply KeepsOut.next | exact KeepsOut.fault | exact KeepsOut.refused | apply keeps_ringWrite
      | fail_if_no_progress apply Keeps.update)
    | split

end Sys2Proof.Laws
end

