-- ==== Sys2Proof/Laws/KeepsTables.lean ====
section
/-! SUPPORT. What the functions of Machine/Tables.lean keep: the grade, the waiting commands and the canonical storage. -/

namespace Sys2Proof.Laws

open Sys2Proof.Machine

set_option Elab.async false

theorem keeps_setHot {r s : State} {a2 : ℕ} {a3 : HotEntry} (h : Keeps r s)  : Keeps r (State.setHot s a2 a3) := by
  unfold State.setHot
  repeat' first
    | (with_reducible first
      | assumption | apply keeps_setLed)

theorem keeps_markBad {r s : State} {a2 : ℕ} (h : Keeps r s)  : Keeps r (State.markBad s a2) := by
  unfold State.markBad
  repeat' first
    | (with_reducible first
      | assumption | fail_if_no_progress apply Keeps.update)

theorem keeps_abandonMove {r s : State} {a2 : Move} (h : Keeps r s)  : Keeps r (State.abandonMove s a2) := by
  unfold State.abandonMove
  repeat' first
    | (with_reducible first
      | assumption | apply keeps_setHot | apply keeps_markBad | apply keeps_fadd | fail_if_no_progress apply Keeps.update)

theorem keeps_acceptTable {r s : State} {a2 : ℕ} {a3 : ℕ} {a4 : Option ℕ} (h : Keeps r s)  : Keeps r (State.acceptTable s a2 a3 a4) := by
  unfold State.acceptTable
  repeat' first
    | (with_reducible first
      | assumption | fail_if_no_progress apply Keeps.update)

theorem keeps_hotShift {r s : State} {a2 : ℕ} {a3 : ℕ} {a4 : ℕ} (h : Keeps r s)  : Keeps r (State.hotShift s a2 a3 a4) := by
  unfold State.hotShift
  repeat' first
    | (with_reducible first
      | assumption | apply keeps_setHot | fail_if_no_progress apply Keeps.update | apply Keeps.foldl | apply Keeps.foldl_pair
      | refine Keeps.of_pair (by assumption) ?_ | refine Keeps.of_swapped (by assumption) ?_)
    | split | intro _ | dsimp only

theorem keeps_releaseDone {r s : State} {a2 : ℕ} (h : Keeps r s)  : Keeps r (State.releaseDone s a2) := by
  unfold State.releaseDone
  repeat' first
    | (with_reducible first
      | assumption | apply keeps_hotShift | apply keeps_setDir | fail_if_no_progress apply Keeps.update
      | refine Keeps.of_pair (by assumption) ?_ | refine Keeps.of_swapped (by assumption) ?_)
    | split | intro _ | dsimp only

theorem keeps_showMoving {r s : State}  (h : Keeps r s)  : Keeps r (State.showMoving s) := by
  unfold State.showMoving
  repeat' first
    | (with_reducible first
      | assumption | apply keeps_fset | fail_if_no_progress apply Keeps.update | apply Keeps.foldl | apply Keeps.foldl_pair)
    | split | intro _

theorem keeps_refreshDone {r s : State} {a2 : ℕ} {a3 : ℕ} (h : Keeps r s)  : Keeps r (State.refreshDone s a2 a3) := by
  unfold State.refreshDone
  repeat' first
    | (with_reducible first
      | assumption | apply keeps_finish | fail_if_no_progress apply Keeps.update)
    | split

theorem keeps_retireRuns {r s : State} {a2 : ℕ} (h : Keeps r s)  : Keeps r (State.retireRuns s a2) := by
  unfold State.retireRuns
  repeat' first
    | (with_reducible first
      | assumption | apply keeps_showMoving | apply keeps_hotShift | apply keeps_abandonMove | apply keeps_refreshDone
      | fail_if_no_progress apply Keeps.update | apply Keeps.foldl | apply Keeps.foldl_pair)
    | split | intro _

theorem keeps_countReleases {r s : State} {a2 : ℕ} (h : Keeps r s)  : Keeps r (State.countReleases s a2) := by
  unfold State.countReleases
  repeat' first
    | (with_reducible first
      | assumption | fail_if_no_progress apply Keeps.update)

theorem keeps_finishTable {r s : State} {a2 : ℕ} {a3 : ℕ} {a4 : Option ℕ} {a5 : ℕ} {a6 : Status} (h : Keeps r s)  : Keeps r (State.finishTable s a2 a3 a4 a5 a6) := by
  unfold State.finishTable
  repeat' first
    | (with_reducible first
      | assumption | fail_if_no_progress apply Keeps.update)

theorem keeps_flipTable {r s : State} {a2 : ℕ} (h : Keeps r s)  : Keeps r (State.flipTable s a2) := by
  unfold State.flipTable
  repeat' first
    | (with_reducible first
      | assumption | apply keeps_retireRuns | apply keeps_countReleases | apply keeps_readDir | apply keeps_setDir
      | apply keeps_finishTable | apply keeps_sendRelease)

theorem keeps_offlineTable {r s : State} {a2 : ℕ} (h : Keeps r s)  : Keeps r (State.offlineTable s a2) := by
  unfold State.offlineTable
  repeat' first
    | (with_reducible first
      | assumption | apply keeps_retireRuns | apply keeps_countReleases | apply keeps_readDir | apply keeps_setDir
      | apply keeps_sendRelease | fail_if_no_progress apply Keeps.update)

theorem keeps_onlineTable {r s : State} {a2 : ℕ} {a3 : ℕ} (h : Keeps r s)  : Keeps r (State.onlineTable s a2 a3) := by
  unfold State.onlineTable
  repeat' first
    | (with_reducible first
      | assumption | apply keeps_finishTable | apply keeps_setDir | apply keeps_readDir)

theorem keeps_asking {r s : State} {a2 : Exec} {a3 : HallCmd} (h : Keeps r s)  : Keeps r (State.asking s a2 a3) := by
  unfold State.asking
  repeat' first
    | (with_reducible first
      | assumption | fail_if_no_progress apply Keeps.update)
    | split

theorem keeps_countRelease {r s : State} {a2 : ℕ} {a3 : ℕ} {a4 : ℕ} (h : Keeps r s)  : Keeps r (State.countRelease s a2 a3 a4) := by
  unfold State.countRelease
  repeat' first
    | (with_reducible first
      | assumption | apply keeps_releaseDone | apply keeps_setDir | fail_if_no_progress apply Keeps.update
      | refine Keeps.of_pair (by assumption) ?_ | refine Keeps.of_swapped (by assumption) ?_)
    | split | intro _ | dsimp only

theorem keeps_tableVote {r s : State} {a2 : ℕ} {a3 : ℕ} {a4 : ℕ → ℕ → HallCmd} (h : Keeps r s)  : Keeps r (State.tableVote s a2 a3 a4) := by
  unfold State.tableVote
  repeat' first
    | (with_reducible first
      | assumption | apply hf | apply keeps_finish | apply keeps_asking | fail_if_no_progress apply Keeps.update)
    | split

theorem keeps_execTstage {r s : State} {a1 : ℕ} (h : Keeps r s)  : KeepsOut r (execTstage a1 s) := by
  unfold execTstage
  repeat' first
    | (with_reducible first
      | assumption | apply KeepsOut.next | exact KeepsOut.fault | exact KeepsOut.refused | apply keeps_readDir | apply keeps_finish
      | apply keeps_setDir | fail_if_no_progress apply Keeps.update | refine Keeps.of_pair (by assumption) ?_
      | refine Keeps.of_swapped (by assumption) ?_)
    | split | intro _ | dsimp only

theorem keeps_execTflip {r s : State} {a1 : ℕ} (h : Keeps r s)  : KeepsOut r (execTflip a1 s) := by
  unfold execTflip
  repeat' first
    | (with_reducible first
      | assumption | apply KeepsOut.next | exact KeepsOut.fault | exact KeepsOut.refused | apply keeps_tableVote)

theorem keeps_execToffline {r s : State} {a1 : ℕ} (h : Keeps r s)  : KeepsOut r (execToffline a1 s) := by
  unfold execToffline
  repeat' first
    | (with_reducible first
      | assumption | apply KeepsOut.next | exact KeepsOut.fault | exact KeepsOut.refused | apply keeps_tableVote)

theorem keeps_execTonline {r s : State} {a1 : ℕ} (h : Keeps r s)  : KeepsOut r (execTonline a1 s) := by
  unfold execTonline
  repeat' first
    | (with_reducible first
      | assumption | apply KeepsOut.next | exact KeepsOut.fault | exact KeepsOut.refused | apply keeps_tableVote)

theorem keeps_execOldVersionRelease {r s : State} {a1 : ℕ} {a2 : ℕ} {a3 : ℕ} (h : Keeps r s)  : KeepsOut r (execOldVersionRelease a1 a2 a3 s) := by
  unfold execOldVersionRelease
  repeat' first
    | (with_reducible first
      | assumption | apply KeepsOut.next | exact KeepsOut.fault | exact KeepsOut.refused | apply keeps_countRelease
      | fail_if_no_progress apply Keeps.update)
    | split

end Sys2Proof.Laws
end

