-- ==== Sys2Proof/Laws/KeepsLookup.lean ====
section
/-! SUPPORT. What the functions of Machine/Lookup.lean keep: the grade, the waiting commands and the canonical storage. -/

namespace Sys2Proof.Laws

open Sys2Proof.Machine

set_option Elab.async false

theorem keeps_ackLeaf {r s : State} {a2 : Leaf} {a3 : Bool} {a4 : Bool} (h : Keeps r s)  : Keeps r (State.ackLeaf s a2 a3 a4) := by
  unfold State.ackLeaf
  repeat' first
    | (with_reducible first
      | assumption | apply keeps_emit | fail_if_no_progress apply Keeps.update)
    | split

theorem keeps_scramble {r s : State} {a2 : Bank} {a3 : ℕ} {a4 : ℕ} (h : Keeps r s)  : Keeps r (State.scramble s a2 a3 a4) := by
  unfold State.scramble
  repeat' first
    | (with_reducible first
      | assumption | apply keeps_setBytes | fail_if_no_progress apply Keeps.update)

theorem keeps_readSlots {r s : State} {a2 : Dir} {a3 : List ℕ} (h : Keeps r s)  : Keeps r (State.readSlots s a2 a3).1 := by
  induction a3 generalizing s a2 with
  | nil =>
    unfold State.readSlots
    repeat' first
      | (with_reducible first
        | assumption)
  | cons x l ih =>
    unfold State.readSlots
    repeat' first
      | (with_reducible first
        | assumption | apply keeps_fetchWord | apply ih)

theorem keeps_claimSlot {r s : State} {a2 : Dir} {a3 : ℕ} (h : Keeps r s)  : Keeps r (State.claimSlot s a2 a3).1 := by
  unfold State.claimSlot
  repeat' first
    | (with_reducible first
      | assumption | apply keeps_readSlots | apply keeps_atomicOp | fail_if_no_progress apply Keeps.update
      | refine Keeps.of_pair (by assumption) ?_ | refine Keeps.of_swapped (by assumption) ?_)
    | split | intro _ | dsimp only

theorem keeps_addLeaf {r s : State} {a2 : ℕ} {a3 : Leaf} {a4 : ℕ} {a5 : ℕ} (h : Keeps r s)  : Keeps r (State.addLeaf s a2 a3 a4 a5).1 := by
  unfold State.addLeaf
  repeat' first
    | (with_reducible first
      | assumption | apply keeps_claimSlot | apply keeps_fadd | apply keeps_gaddAt | fail_if_no_progress apply Keeps.update
      | refine Keeps.of_pair (by assumption) ?_ | refine Keeps.of_swapped (by assumption) ?_)
    | split | intro _ | dsimp only

theorem keeps_markOwn {r s : State} {a2 : Leaf} {a3 : Bool} (h : Keeps r s)  : Keeps r (State.markOwn s a2 a3) := by
  unfold State.markOwn
  repeat' first
    | (with_reducible first
      | assumption | fail_if_no_progress apply Keeps.update)
    | split

theorem keeps_answerLeaf {r s : State} {a2 : Leaf} {a3 : LeafEnd} (h : Keeps r s)  : Keeps r (State.answerLeaf s a2 a3) := by
  unfold State.answerLeaf
  repeat' first
    | (with_reducible first
      | assumption | apply keeps_markOwn | apply keeps_ackLeaf | fail_if_no_progress apply Keeps.update)
    | split

theorem keeps_badState {r s : State} {a2 : ℕ} (h : Keeps r s)  : Keeps r (State.badState s a2) := by
  unfold State.badState
  repeat' first
    | (with_reducible first
      | assumption | apply keeps_error)

theorem keeps_flipMove {r s : State} {a2 : Move} (h : Keeps r s)  : Keeps r (State.flipMove s a2) := by
  unfold State.flipMove
  repeat' first
    | (with_reducible first
      | assumption | apply keeps_readBytes | apply keeps_abandonMove | apply keeps_writeBytes | apply keeps_setHot | apply keeps_scramble
      | apply keeps_fadd | fail_if_no_progress apply Keeps.update | apply Keeps.foldl | apply Keeps.foldl_pair
      | refine Keeps.of_pair (by assumption) ?_ | refine Keeps.of_swapped (by assumption) ?_)
    | split | intro _ | dsimp only

theorem keeps_rowAt {r s : State} {a2 : Dir} {a3 : Bank} {a4 : ℕ} (h : Keeps r s)  : Keeps r (State.rowAt s a2 a3 a4).1 := by
  unfold State.rowAt
  repeat' first
    | (with_reducible first
      | assumption | apply keeps_load)

theorem keeps_readRun {r s : State} {a2 : PoolCtx} {a3 : List Pos} (h : Keeps r s)  : Keeps r (State.readRun s a2 a3).1 := by
  induction a3 generalizing s a2 with
  | nil =>
    unfold State.readRun
    repeat' first
      | (with_reducible first
        | assumption)
  | cons x l ih =>
    unfold State.readRun
    repeat' first
      | (with_reducible first
        | assumption | apply keeps_rowAt | apply ih)

theorem keeps_gatherRow {r s : State} {a2 : PoolCtx} {a3 : List Pos} {a4 : List RunReply} (h : Keeps r s)  : Keeps r (State.gatherRow s a2 a3 a4).1 := by
  unfold State.gatherRow
  repeat' first
    | (with_reducible first
      | assumption | apply keeps_readRun | fail_if_no_progress apply Keeps.update)
    | split

theorem keeps_readHot {r s : State}  (h : Keeps r s)  : Keeps r (State.readHot s) := by
  unfold State.readHot
  repeat' first
    | (with_reducible first
      | assumption | apply keeps_readLed)

theorem keeps_rejectRefresh {r s : State} {a2 : ℕ} {a3 : ℕ} {a4 : Refresh} (h : Keeps r s)  : Keeps r (State.rejectRefresh s a2 a3 a4) := by
  unfold State.rejectRefresh
  repeat' first
    | (with_reducible first
      | assumption | apply keeps_badState | apply keeps_markBad | apply keeps_fadd | fail_if_no_progress apply Keeps.update)
    | split

theorem keeps_refreshList {r s : State} {a2 : ℕ} {a3 : ℕ} {a4 : ℕ} {a5 : List Refresh} (h : Keeps r s)  : Keeps r (State.refreshList s a2 a3 a4 a5).1 := by
  induction a5 generalizing s a2 a3 a4 with
  | nil =>
    unfold State.refreshList
    repeat' first
      | (with_reducible first
        | assumption)
  | cons x l ih =>
    unfold State.refreshList
    repeat' first
      | (with_reducible first
        | assumption | apply keeps_readDir | apply keeps_setHot | apply keeps_rejectRefresh | apply ih
        | fail_if_no_progress apply Keeps.update | refine Keeps.of_pair (by assumption) ?_ | refine Keeps.of_swapped (by assumption) ?_)
      | split | intro _ | dsimp only

theorem keeps_hrefresh {r s : State} {a2 : ℕ} {a3 : Exec} (h : Keeps r s)  : Keeps r (State.hrefresh s a2 a3) := by
  unfold State.hrefresh
  repeat' first
    | (with_reducible first
      | assumption | apply keeps_finish | apply keeps_loadAt | apply keeps_readHot | apply keeps_refreshList | apply keeps_refreshDone
      | apply keeps_showMoving | fail_if_no_progress apply Keeps.update | refine Keeps.of_pair (by assumption) ?_
      | refine Keeps.of_swapped (by assumption) ?_)
    | split | intro _ | dsimp only

theorem keeps_keeperSlot {r s : State} {a2 : ℕ} {a3 : ℕ × Option Word} (h : Keeps r s)  : Keeps r (State.keeperSlot s a2 a3) := by
  unfold State.keeperSlot
  repeat' first
    | (with_reducible first
      | assumption | apply keeps_writeBytes | apply keeps_readBytes | apply keeps_tallyWindow | apply keeps_store
      | fail_if_no_progress apply Keeps.update | apply Keeps.foldl | apply Keeps.foldl_pair)
    | split

theorem keeps_keeperTable {r s : State} {a2 : Bool} {a3 : Group} (h : Keeps r s)  : Keeps r (State.keeperTable s a2 a3) := by
  unfold State.keeperTable
  repeat' first
    | (with_reducible first
      | assumption | apply keeps_closeGroup | apply keeps_closeGroupRows | apply keeps_readSlots | apply keeps_keeperSlot
      | apply keeps_writeBytes | apply keeps_openGroup | fail_if_no_progress apply Keeps.update | apply Keeps.foldl
      | apply Keeps.foldl_pair)
    | split | intro _

theorem keeps_leafGroup {r s : State} {a2 : Leaf} (h : Keeps r s)  : Keeps r (State.leafGroup s a2).1 := by
  unfold State.leafGroup
  repeat' first
    | (with_reducible first
      | assumption | apply keeps_openGroup | fail_if_no_progress apply Keeps.update)
    | split

theorem keeps_leafHove {r s : State} {a2 : Leaf} (h : Keeps r s)  : Keeps r (State.leafHove s a2) := by
  unfold State.leafHove
  repeat' first
    | (with_reducible first
      | assumption | apply keeps_emit | apply keeps_markOwn | fail_if_no_progress apply Keeps.update)
    | split

theorem keeps_takeLeaf {r s : State} {a2 : Leaf} (h : Keeps r s)  : Keeps r (State.takeLeaf s a2).1 := by
  unfold State.takeLeaf
  repeat' first
    | (with_reducible first
      | assumption | apply keeps_readDir | apply keeps_fadd | apply keeps_leafGroup | apply keeps_addLeaf
      | fail_if_no_progress apply Keeps.update | refine Keeps.of_pair (by assumption) ?_ | refine Keeps.of_swapped (by assumption) ?_)
    | split | intro _ | dsimp only

theorem keeps_leafIn {r s : State} {a2 : Leaf} {a3 : ℕ} (h : Keeps r s)  : Keeps r (State.leafIn s a2 a3) := by
  unfold State.leafIn
  repeat' first
    | (with_reducible first
      | assumption | apply keeps_takeLeaf | apply keeps_answerLeaf | fail_if_no_progress apply Keeps.update
      | refine Keeps.of_pair (by assumption) ?_)
    | split | intro _

theorem keeps_lkeTally {r s : State} {a2 : ℕ} {a3 : Fmt} {a4 : Tally} (h : Keeps r s)  : Keeps r (State.lkeTally s a2 a3 a4) := by
  unfold State.lkeTally
  repeat' first
    | (with_reducible first
      | assumption | apply keeps_tallyWindow | apply keeps_fadd)

theorem keeps_lookupAbort {r s : State} {a2 : Exec} (h : Keeps r s)  : Keeps r (State.lookupAbort s a2) := by
  unfold State.lookupAbort
  repeat' first
    | (with_reducible first
      | assumption | apply keeps_readDesc | apply keeps_undefineView | apply keeps_finish | fail_if_no_progress apply Keeps.update
      | refine Keeps.of_pair (by assumption) ?_ | refine Keeps.of_swapped (by assumption) ?_)
    | split | intro _ | dsimp only

theorem keeps_readArray {r s : State} {a2 : ℕ} {a3 : ℕ} {a4 : ℕ} (h : Keeps r s)  : Keeps r (State.readArray s a2 a3 a4).1 := by
  unfold State.readArray
  repeat' first
    | (with_reducible first
      | assumption | apply keeps_loadAt)

theorem keeps_readBags {r s : State} {a2 : ℕ} {a3 : ℕ} {a4 : ℕ} {a5 : ℕ} {a6 : Bool} {a7 : Bool} (h : Keeps r s)  : Keeps r (State.readBags s a2 a3 a4 a5 a6 a7).1 := by
  unfold State.readBags
  repeat' first
    | (with_reducible first
      | assumption | apply keeps_readArray | fail_if_no_progress apply Keeps.update | refine Keeps.of_pair (by assumption) ?_
      | refine Keeps.of_swapped (by assumption) ?_)
    | split | intro _ | dsimp only

theorem keeps_sentStage {r s : State} {a2 : Exec} (h : Keeps r s)  : Keeps r (State.sentStage s a2) := by
  unfold State.sentStage
  repeat' first
    | (with_reducible first
      | assumption | fail_if_no_progress apply Keeps.update)

theorem keeps_tryNextCopy {r s : State} {a2 : Exec} {a3 : PoolCtx} {a4 : List (ℕ × RunRequest)} {a5 : List RunReply} (h : Keeps r s)  : Keeps r (State.tryNextCopy s a2 a3 a4 a5).1 := by
  unfold State.tryNextCopy
  repeat' first
    | (with_reducible first
      | assumption | apply keeps_fadd | apply keeps_emits | fail_if_no_progress apply Keeps.update | apply Keeps.foldl
      | apply Keeps.foldl_pair | refine Keeps.of_pair (by assumption) ?_ | refine Keeps.of_swapped (by assumption) ?_)
    | split | intro _ | dsimp only

theorem keeps_runPartial {r s : State} {a2 : PoolCtx} {a3 : ℕ} {a4 : List Pos} {a5 : List RunReply} (h : Keeps r s)  : Keeps r (State.runPartial s a2 a3 a4 a5).1 := by
  unfold State.runPartial
  repeat' first
    | (with_reducible first
      | assumption | apply keeps_readRun | fail_if_no_progress apply Keeps.update)
    | split

theorem keeps_poolRuns {r s : State} {a2 : PoolCtx} {a3 : ℕ} {a4 : Option (List Partial)} {a5 : List (List Pos)} {a6 : List RunReply} (h : Keeps r s)  : Keeps r (State.poolRuns s a2 a3 a4 a5 a6).1 := by
  induction a5 generalizing s a2 a3 a4 a6 with
  | nil =>
    unfold State.poolRuns
    repeat' first
      | (with_reducible first
        | assumption)
  | cons x l ih =>
    unfold State.poolRuns
    repeat' first
      | (with_reducible first
        | assumption | apply keeps_runPartial | apply ih | fail_if_no_progress apply Keeps.update
        | refine Keeps.of_pair (by assumption) ?_)
      | split | intro _

theorem keeps_poolBag {r s : State} {a2 : PoolCtx} {a3 : Bool} {a4 : Fmt} {a5 : ℕ} {a6 : List Pos} {a7 : List RunReply} (h : Keeps r s)  : Keeps r (State.poolBag s a2 a3 a4 a5 a6 a7).1 := by
  unfold State.poolBag
  repeat' first
    | (with_reducible first
      | assumption | apply keeps_gatherRow | apply keeps_poolRuns | fail_if_no_progress apply Keeps.update)
    | split

theorem keeps_poolBags {r s : State} {a2 : PoolCtx} {a3 : Bool} {a4 : Fmt} {a5 : ℕ → ℕ} {a6 : ℕ} {a7 : List (List Pos)} {a8 : List RunReply} (h : Keeps r s)  : Keeps r (State.poolBags s a2 a3 a4 a5 a6 a7 a8).1 := by
  induction a7 generalizing s a2 a3 a4 a5 a6 a8 with
  | nil =>
    unfold State.poolBags
    repeat' first
      | (with_reducible first
        | assumption)
  | cons x l ih =>
    unfold State.poolBags
    repeat' first
      | (with_reducible first
        | assumption | apply hf | apply keeps_poolBag | apply ih | fail_if_no_progress apply Keeps.update
        | refine Keeps.of_pair (by assumption) ?_)
      | split | intro _

theorem keeps_storeRecord {r s : State} {a2 : Reach} {a3 : Option ℕ} {a4 : List Byte} (h : Keeps r s)  : Keeps r (State.storeRecord s a2 a3 a4).1 := by
  unfold State.storeRecord
  repeat' first
    | (with_reducible first
      | assumption | apply keeps_storeAt | fail_if_no_progress apply Keeps.update)
    | split

theorem keeps_lookupEnd {r s : State} {a2 : Exec} {a3 : PoolCtx} {a4 : Fmt} {a5 : LookupStats} {a6 : Tally} {a7 : List Rounded} (h : Keeps r s)  : Keeps r (State.lookupEnd s a2 a3 a4 a5 a6 a7) := by
  unfold State.lookupEnd
  repeat' first
    | (with_reducible first
      | assumption | apply keeps_fadd | apply keeps_lkeTally | apply keeps_nonfinite | apply keeps_watch | apply keeps_finish
      | fail_if_no_progress apply Keeps.update | apply Keeps.foldl | apply Keeps.foldl_pair)
    | split

theorem keeps_lookupRun {r s : State} {a2 : Exec} {a3 : PoolCtx} {a4 : Bool} {a5 : Fmt} {a6 : Desc} {a7 : Option ℕ} {a8 : List (List Pos)} {a9 : List RunReply} (h : Keeps r s)  : Keeps r (State.lookupRun s a2 a3 a4 a5 a6 a7 a8 a9) := by
  unfold State.lookupRun
  repeat' first
    | (with_reducible first
      | assumption | apply keeps_finish | apply keeps_undefineView | apply keeps_fadd | apply keeps_sentStage | apply keeps_emits
      | apply keeps_tryNextCopy | apply keeps_readHot | apply keeps_poolBags | apply keeps_writeRows | apply keeps_storeRecord
      | apply keeps_lookupEnd | fail_if_no_progress apply Keeps.update | apply Keeps.foldl | apply Keeps.foldl_pair
      | refine Keeps.of_pair (by assumption) ?_ | refine Keeps.of_swapped (by assumption) ?_)
    | split | intro _ | dsimp only

theorem keeps_lookup {r s : State} {a2 : ℕ} {a3 : Exec} {a4 : List RunReply} (h : Keeps r s)  : Keeps r (State.lookup s a2 a3 a4) := by
  unfold State.lookup
  repeat' first
    | (with_reducible first
      | assumption | apply keeps_lookupAbort | apply keeps_badState | apply keeps_readDesc | apply keeps_readBags | apply keeps_lookupRun
      | fail_if_no_progress apply Keeps.update | refine Keeps.of_pair (by assumption) ?_ | refine Keeps.of_swapped (by assumption) ?_)
    | split | intro _ | dsimp only

theorem keeps_staleIn {r s : State} {a2 : ℕ} {a3 : Leaf} (h : Keeps r s)  : Keeps r (State.staleIn s a2 a3) := by
  unfold State.staleIn
  repeat' first
    | (with_reducible first
      | assumption | apply keeps_addLeaf | apply keeps_fadd | fail_if_no_progress apply Keeps.update
      | refine Keeps.of_pair (by assumption) ?_ | refine Keeps.of_swapped (by assumption) ?_)
    | split | intro _ | dsimp only

theorem keeps_retryLeaves {r s : State}  (h : Keeps r s)  : Keeps r (State.retryLeaves s) := by
  unfold State.retryLeaves
  repeat' first
    | (with_reducible first
      | assumption | fail_if_no_progress apply Keeps.update)

theorem keeps_sendLeaf {r s : State} {a2 : Exec} {a3 : ℕ} {a4 : ℕ} {a5 : Node × ℕ} {a6 : List ℕ} (h : Keeps r s)  : Keeps r (State.sendLeaf s a2 a3 a4 a5 a6) := by
  unfold State.sendLeaf
  repeat' first
    | (with_reducible first
      | assumption | apply keeps_arrive | apply keeps_emit | fail_if_no_progress apply Keeps.update | apply Keeps.foldl
      | apply Keeps.foldl_pair)
    | split | intro _

theorem keeps_sendLeaves {r s : State} {a2 : Exec} {a3 : Dir} {a4 : ℕ} {a5 : ℕ} {a6 : List (Node × ℕ)} (h : Keeps r s)  : Keeps r (State.sendLeaves s a2 a3 a4 a5 a6) := by
  unfold State.sendLeaves
  repeat' first
    | (with_reducible first
      | assumption | apply keeps_sendLeaf | fail_if_no_progress apply Keeps.update | apply Keeps.foldl | apply Keeps.foldl_pair)
    | split | intro _

theorem keeps_scatterSend {r s : State} {a2 : ℕ} {a3 : Exec} {a4 : ℕ} {a5 : ℕ} {a6 : List (List Pos)} {a7 : List (List Val)} (h : Keeps r s)  : Keeps r (State.scatterSend s a2 a3 a4 a5 a6 a7) := by
  unfold State.scatterSend
  repeat' first
    | (with_reducible first
      | assumption | apply keeps_finish | apply keeps_fadd | apply keeps_lkeTally | apply keeps_sucTally | apply keeps_sendLeaves
      | fail_if_no_progress apply Keeps.update | refine Keeps.of_pair (by assumption) ?_ | refine Keeps.of_swapped (by assumption) ?_)
    | split | intro _ | dsimp only

theorem keeps_scatterStart {r s : State} {a2 : ℕ} {a3 : Exec} (h : Keeps r s)  : Keeps r (State.scatterStart s a2 a3) := by
  unfold State.scatterStart
  repeat' first
    | (with_reducible first
      | assumption | apply keeps_finish | apply keeps_badState | apply keeps_readDesc | apply keeps_readBags | apply keeps_fadd
      | apply keeps_readView | apply keeps_scatterSend | fail_if_no_progress apply Keeps.update | refine Keeps.of_pair (by assumption) ?_
      | refine Keeps.of_swapped (by assumption) ?_)
    | split | intro _ | dsimp only

theorem keeps_scatter {r s : State} {a2 : ℕ} {a3 : Exec} {a4 : LeafAcks} {a5 : Bool} (h : Keeps r s)  : Keeps r (State.scatter s a2 a3 a4 a5) := by
  unfold State.scatter
  repeat' first
    | (with_reducible first
      | assumption | apply keeps_asSeen | apply keeps_scatterStart | apply keeps_finish | fail_if_no_progress apply Keeps.update
      | refine Keeps.of_pair (by assumption) ?_ | refine Keeps.of_swapped (by assumption) ?_)
    | split | intro _ | dsimp only

theorem keeps_serveRun {r s : State} {a2 : RunRequest} (h : Keeps r s)  : Keeps r (State.serveRun s a2).1 := by
  unfold State.serveRun
  repeat' first
    | (with_reducible first
      | assumption | apply keeps_readHot | apply keeps_readDir | apply keeps_readRun | apply keeps_lkeTally
      | fail_if_no_progress apply Keeps.update | refine Keeps.of_pair (by assumption) ?_ | refine Keeps.of_swapped (by assumption) ?_)
    | split | intro _ | dsimp only

theorem keeps_sucAbort {r s : State} {a2 : SucVictim} (h : Keeps r s)  : Keeps r (State.sucAbort s a2) := by
  unfold State.sucAbort
  repeat' first
    | (with_reducible first
      | assumption | apply keeps_closeGroup | apply keeps_finish | apply keeps_emit | apply keeps_answerLeaf | apply keeps_keeperTable
      | fail_if_no_progress apply Keeps.update | apply Keeps.foldl | apply Keeps.foldl_pair)
    | split | intro _

theorem keeps_execLookup {r s : State} {a1 : ℕ} {a2 : List RunReply} (h : Keeps r s)  : KeepsOut r (execLookup a1 a2 s) := by
  unfold execLookup
  repeat' first
    | (with_reducible first
      | assumption | apply KeepsOut.next | exact KeepsOut.fault | exact KeepsOut.refused | apply keeps_asSeen | apply keeps_lookup
      | fail_if_no_progress apply Keeps.update)
    | split | intro _

theorem keeps_execScatter {r s : State} {a1 : ℕ} {a2 : LeafAcks} {a3 : Bool} (h : Keeps r s)  : KeepsOut r (execScatter a1 a2 a3 s) := by
  unfold execScatter
  repeat' first
    | (with_reducible first
      | assumption | apply KeepsOut.next | exact KeepsOut.fault | exact KeepsOut.refused | apply keeps_scatter
      | fail_if_no_progress apply Keeps.update)
    | split

theorem keeps_execHrefresh {r s : State} {a1 : ℕ} (h : Keeps r s)  : KeepsOut r (execHrefresh a1 s) := by
  unfold execHrefresh
  repeat' first
    | (with_reducible first
      | assumption | apply KeepsOut.next | exact KeepsOut.fault | exact KeepsOut.refused | apply keeps_asSeen | apply keeps_hrefresh
      | fail_if_no_progress apply Keeps.update)
    | split | intro _

theorem keeps_execMigrationFlip {r s : State} {a1 : List ℕ} {a2 : List ℕ} (h : Keeps r s)  : KeepsOut r (execMigrationFlip a1 a2 s) := by
  unfold execMigrationFlip
  repeat' first
    | (with_reducible first
      | assumption | apply KeepsOut.next | exact KeepsOut.fault | exact KeepsOut.refused | apply keeps_abandonMove | apply keeps_error
      | apply keeps_showMoving | apply keeps_flipMove | apply keeps_refreshDone | fail_if_no_progress apply Keeps.update
      | apply Keeps.foldl | apply Keeps.foldl_pair)
    | split | intro _

theorem keeps_execGopen {r s : State} {a1 : ℕ} (h : Keeps r s)  : KeepsOut r (execGopen a1 s) := by
  unfold execGopen
  repeat' first
    | (with_reducible first
      | assumption | apply KeepsOut.next | exact KeepsOut.fault | exact KeepsOut.refused | apply keeps_finish | apply keeps_retryLeaves
      | apply keeps_openGroup | fail_if_no_progress apply Keeps.update | refine Keeps.of_pair (by assumption) ?_
      | refine Keeps.of_swapped (by assumption) ?_)
    | split | intro _ | dsimp only

theorem keeps_execSucMismatch {r s : State} {a1 : ℕ} {a2 : Bool} {a3 : SucVictim} (h : Keeps r s)  : KeepsOut r (execSucMismatch a1 a2 a3 s) := by
  unfold execSucMismatch
  repeat' first
    | (with_reducible first
      | assumption | apply KeepsOut.next | exact KeepsOut.fault | exact KeepsOut.refused | apply keeps_sucAbort | apply keeps_sucFails
      | apply keeps_error | fail_if_no_progress apply Keeps.update)
    | split

theorem keeps_execRemoteRunRequest {r s : State} {a1 : RunRequest} (h : Keeps r s)  : KeepsOut r (execRemoteRunRequest a1 s) := by
  unfold execRemoteRunRequest
  repeat' first
    | (with_reducible first
      | assumption | apply KeepsOut.next | exact KeepsOut.fault | exact KeepsOut.refused | apply keeps_emit | apply keeps_serveRun
      | fail_if_no_progress apply Keeps.update)
    | split

theorem keeps_execLeafArrival {r s : State} {a1 : Leaf} (h : Keeps r s)  : KeepsOut r (execLeafArrival a1 s) := by
  unfold execLeafArrival
  repeat' first
    | (with_reducible first
      | assumption | apply KeepsOut.next | exact KeepsOut.fault | exact KeepsOut.refused | apply keeps_leafHove | apply keeps_ackLeaf
      | apply keeps_arrive | fail_if_no_progress apply Keeps.update)
    | split

theorem keeps_execLeafGroupWaitExpiry {r s : State}  (h : Keeps r s)  : KeepsOut r (execLeafGroupWaitExpiry s) := by
  unfold execLeafGroupWaitExpiry
  repeat' first
    | (with_reducible first
      | assumption | apply KeepsOut.next | exact KeepsOut.fault | exact KeepsOut.refused | apply keeps_answerLeaf
      | fail_if_no_progress apply Keeps.update | apply Keeps.foldl | apply Keeps.foldl_pair)
    | split | intro _

theorem keeps_execKeeperApply {r s : State}  (h : Keeps r s)  : KeepsOut r (execKeeperApply s) := by
  unfold execKeeperApply
  repeat' first
    | (with_reducible first
      | assumption | apply KeepsOut.next | exact KeepsOut.fault | exact KeepsOut.refused | apply keeps_keeperTable | apply keeps_readHot
      | apply keeps_retryLeaves | fail_if_no_progress apply Keeps.update | apply Keeps.foldl | apply Keeps.foldl_pair)
    | split | intro _

end Sys2Proof.Laws
end

