-- ==== Sys2Proof/Laws/KeepsWire.lean ====
section
/-! SUPPORT. What the functions of Machine/Wire.lean keep: the grade, the waiting commands and the canonical storage. -/

namespace Sys2Proof.Laws

open Sys2Proof.Machine

set_option Elab.async false

theorem keeps_enqueue {r s : State} {a2 : ℕ} {a3 : ℕ} {a4 : ℕ} {a5 : Out} (h : Keeps r s)  : Keeps r (State.enqueue s a2 a3 a4 a5) := by
  unfold State.enqueue
  repeat' first
    | (with_reducible first
      | assumption | fail_if_no_progress apply Keeps.update)

theorem keeps_serveLine {r s : State} {a2 : ℕ} (h : Keeps r s)  : Keeps r (State.serveLine s a2) := by
  unfold State.serveLine
  repeat' first
    | (with_reducible first
      | assumption | apply keeps_emits | apply keeps_fadd | fail_if_no_progress apply Keeps.update
      | refine Keeps.of_pair (by assumption) ?_ | refine Keeps.of_swapped (by assumption) ?_)
    | split | intro _ | dsimp only

theorem keeps_serveLines {r s : State}  (h : Keeps r s)  : Keeps r (State.serveLines s) := by
  unfold State.serveLines
  repeat' first
    | (with_reducible first
      | assumption | apply keeps_serveLine | fail_if_no_progress apply Keeps.update | apply Keeps.foldl)

end Sys2Proof.Laws
end

