-- ==== Sys2Proof/Laws/KeepsFlows.lean ====
section
/-! SUPPORT. What the functions of Machine/Flows.lean keep: the grade, the waiting commands and the canonical storage. -/

namespace Sys2Proof.Laws

open Sys2Proof.Machine

set_option Elab.async false

theorem keeps_setFlow {r s : State} {a2 : ℕ} {a3 : Flow} (h : Keeps r s)  : Keeps r (State.setFlow s a2 a3) := by
  unfold State.setFlow
  repeat' first
    | (with_reducible first
      | assumption | apply keeps_fset | fail_if_no_progress apply Keeps.update)

theorem keeps_undefineRun {r s : State} {a2 : ℕ} {a3 : ℕ} (h : Keeps r s)  : Keeps r (State.undefineRun s a2 a3) := by
  unfold State.undefineRun
  repeat' first
    | (with_reducible first
      | assumption | apply keeps_scramble | fail_if_no_progress apply Keeps.update)
    | split

theorem keeps_failOn {r s : State} {a2 : Exec} (h : Keeps r s)  : Keeps r (State.failOn s a2) := by
  unfold State.failOn
  repeat' first
    | (with_reducible first
      | assumption | apply keeps_undefineRun | apply keeps_fadd | fail_if_no_progress apply Keeps.update)
    | split

theorem keeps_flowDone {r s : State} {a2 : ℕ} {a3 : Status} (h : Keeps r s)  : Keeps r (State.flowDone s a2 a3) := by
  unfold State.flowDone
  repeat' first
    | (with_reducible first
      | assumption | fail_if_no_progress apply Keeps.update)

theorem keeps_enterFlow {r s : State} {a2 : ℕ} {a3 : ℕ} (h : Keeps r s)  : Keeps r (State.enterFlow s a2 a3) := by
  unfold State.enterFlow
  repeat' first
    | (with_reducible first
      | assumption | apply keeps_fset)

theorem keeps_failFlow {r s : State} {a2 : ℕ} (h : Keeps r s)  : Keeps r (State.failFlow s a2) := by
  unfold State.failFlow
  repeat' first
    | (with_reducible first
      | assumption | apply keeps_failOn | apply keeps_setFlow | apply keeps_flowDone | apply keeps_raise | apply keeps_enterFlow
      | fail_if_no_progress apply Keeps.update | apply Keeps.foldl | apply Keeps.foldl_pair)
    | split

theorem keeps_nextTxc {r s : State} {a2 : ℕ} {a3 : Bool} (h : Keeps r s)  : Keeps r (State.nextTxc s a2 a3).1 := by
  unfold State.nextTxc
  repeat' first
    | (with_reducible first
      | assumption | fail_if_no_progress apply Keeps.update)
    | split

theorem keeps_sourceBytes {r s : State} {a2 : ℕ} {a3 : ℕ} (h : Keeps r s)  : Keeps r (State.sourceBytes s a2 a3).1 := by
  unfold State.sourceBytes
  repeat' first
    | (with_reducible first
      | assumption | apply keeps_load | fail_if_no_progress apply Keeps.update)
    | split

theorem keeps_readSpans {r s : State} {a2 : ℕ} {a3 : ℕ} {a4 : List Span} (h : Keeps r s)  : Keeps r (State.readSpans s a2 a3 a4).1 := by
  induction a4 generalizing s a2 a3 with
  | nil =>
    unfold State.readSpans
    repeat' first
      | (with_reducible first
        | assumption)
  | cons x l ih =>
    unfold State.readSpans
    repeat' first
      | (with_reducible first
        | assumption | apply keeps_sourceBytes | apply ih | fail_if_no_progress apply Keeps.update)
      | split

theorem keeps_payloadOf {r s : State} {a2 : Piece} (h : Keeps r s)  : Keeps r (State.payloadOf s a2).1 := by
  unfold State.payloadOf
  repeat' first
    | (with_reducible first
      | assumption | apply keeps_readSpans)

theorem keeps_sendWire {r s : State} {a2 : ℕ} {a3 : ℕ} {a4 : Pkt} {a5 : List Byte} (h : Keeps r s)  : Keeps r (State.sendWire s a2 a3 a4 a5) := by
  unfold State.sendWire
  repeat' first
    | (with_reducible first
      | assumption | apply keeps_enqueue)

theorem keeps_transmit {r s : State} {a2 : ℕ} {a3 : ℕ} {a4 : Pkt} (h : Keeps r s)  : Keeps r (State.transmit s a2 a3 a4) := by
  unfold State.transmit
  repeat' first
    | (with_reducible first
      | assumption | apply keeps_sendWire)

theorem keeps_putPacket {r s : State} {a2 : ℕ} {a3 : Unacked} {a4 : Bool} (h : Keeps r s)  : Keeps r (State.putPacket s a2 a3 a4) := by
  unfold State.putPacket
  repeat' first
    | (with_reducible first
      | assumption | apply keeps_nextTxc | apply keeps_setFlow | apply keeps_fadd | apply keeps_payloadOf | apply keeps_transmit
      | fail_if_no_progress apply Keeps.update | refine Keeps.of_pair (by assumption) ?_ | refine Keeps.of_swapped (by assumption) ?_)
    | split | intro _ | dsimp only

theorem keeps_pump {r s : State} {a2 : ℕ} {a3 : ℕ} (h : Keeps r s)  : Keeps r (State.pump s a2 a3) := by
  induction a3 generalizing s a2 with
  | zero =>
    unfold State.pump
    repeat' first
      | (with_reducible first
        | assumption)
  | succ n ih =>
    unfold State.pump
    repeat' first
      | (with_reducible first
        | assumption | apply keeps_setFlow | apply keeps_putPacket | apply ih | fail_if_no_progress apply Keeps.update)
      | split

theorem keeps_sendFrom {r s : State} {a2 : ℕ} {a3 : List Span} (h : Keeps r s)  : Keeps r (State.sendFrom s a2 a3) := by
  unfold State.sendFrom
  repeat' first
    | (with_reducible first
      | assumption | apply keeps_pump | apply keeps_setFlow | fail_if_no_progress apply Keeps.update)
    | split

theorem keeps_sendMessage {r s : State} {a2 : ℕ} {a3 : List Byte} (h : Keeps r s)  : Keeps r (State.sendMessage s a2 a3) := by
  unfold State.sendMessage
  repeat' first
    | (with_reducible first
      | assumption | apply keeps_sendFrom)

theorem keeps_closeFlow {r s : State} {a2 : ℕ} (h : Keeps r s)  : Keeps r (State.closeFlow s a2) := by
  unfold State.closeFlow
  repeat' first
    | (with_reducible first
      | assumption | apply keeps_fset | apply keeps_enterFlow | apply keeps_flowDone | fail_if_no_progress apply Keeps.update
      | refine Keeps.of_pair (by assumption) ?_ | refine Keeps.of_swapped (by assumption) ?_)
    | split | intro _ | dsimp only

theorem keeps_sendPacket {r s : State} {a2 : ℕ} {a3 : PktType} {a4 : ℕ} {a5 : ℕ} {a6 : List Byte} (h : Keeps r s)  : Keeps r (State.sendPacket s a2 a3 a4 a5 a6) := by
  unfold State.sendPacket
  repeat' first
    | (with_reducible first
      | assumption | apply keeps_nextTxc | apply keeps_transmit | fail_if_no_progress apply Keeps.update)
    | split

theorem keeps_sendBusy {r s : State} {a2 : ℕ} (h : Keeps r s)  : Keeps r (State.sendBusy s a2) := by
  unfold State.sendBusy
  repeat' first
    | (with_reducible first
      | assumption | apply keeps_sendPacket | fail_if_no_progress apply Keeps.update)
    | split

theorem keeps_openFlow {r s : State} {a2 : ℕ} {a3 : ℕ} {a4 : ℕ} {a5 : ℕ} {a6 : Bool} {a7 : Option ℕ} (h : Keeps r s)  : Keeps r (State.openFlow s a2 a3 a4 a5 a6 a7) := by
  unfold State.openFlow
  repeat' first
    | (with_reducible first
      | assumption | apply keeps_setFlow | apply keeps_fset | apply keeps_enterFlow | apply keeps_flowDone
      | fail_if_no_progress apply Keeps.update | refine Keeps.of_pair (by assumption) ?_ | refine Keeps.of_swapped (by assumption) ?_)
    | split | intro _ | dsimp only

theorem keeps_pumpAll {r s : State}  (h : Keeps r s)  : Keeps r (State.pumpAll s) := by
  unfold State.pumpAll
  repeat' first
    | (with_reducible first
      | assumption | apply keeps_pump | fail_if_no_progress apply Keeps.update | apply Keeps.foldl | apply Keeps.foldl_pair)
    | split | intro _

theorem keeps_sendHandshake {r s : State} {a2 : ℕ} {a3 : Bool} {a4 : List Byte} (h : Keeps r s)  : Keeps r (State.sendHandshake s a2 a3 a4) := by
  unfold State.sendHandshake
  repeat' first
    | (with_reducible first
      | assumption | apply keeps_sendWire | fail_if_no_progress apply Keeps.update | apply Keeps.foldl | apply Keeps.foldl_pair)
    | split | intro _

theorem keeps_drain {r s : State} {a2 : ℕ} (h : Keeps r s)  : Keeps r (State.drain s a2) := by
  unfold State.drain
  repeat' first
    | (with_reducible first
      | assumption | apply keeps_closeFlow | fail_if_no_progress apply Keeps.update)
    | split

theorem keeps_sendBeacon {r s : State} {a2 : ℕ} {a3 : List Byte} (h : Keeps r s)  : Keeps r (State.sendBeacon s a2 a3) := by
  unfold State.sendBeacon
  repeat' first
    | (with_reducible first
      | assumption | apply keeps_sendWire)

end Sys2Proof.Laws
end

