-- ==== Sys2Proof/Laws/KeepsSessions.lean ====
section
/-! SUPPORT. What the functions of Machine/Sessions.lean keep: the grade, the waiting commands and the canonical storage. -/

namespace Sys2Proof.Laws

open Sys2Proof.Machine

set_option Elab.async false

theorem keeps_showSessions {r s : State}  (h : Keeps r s)  : Keeps r (State.showSessions s) := by
  unfold State.showSessions
  repeat' first
    | (with_reducible first
      | assumption | apply keeps_fset)

theorem keeps_endSession {r s : State} {a2 : ℕ} {a3 : Bool} (h : Keeps r s)  : Keeps r (State.endSession s a2 a3) := by
  unfold State.endSession
  repeat' first
    | (with_reducible first
      | assumption | apply keeps_failFlow | apply keeps_showSessions | fail_if_no_progress apply Keeps.update | apply Keeps.foldl)

theorem keeps_dropExchange {r s : State} {a2 : ℕ} {a3 : Bool} (h : Keeps r s)  : Keeps r (State.dropExchange s a2 a3) := by
  unfold State.dropExchange
  repeat' first
    | (with_reducible first
      | assumption | fail_if_no_progress apply Keeps.update)

theorem keeps_setMeas {r s : State} {a2 : ℕ} {a3 : BitVec 256} (h : Keeps r s)  : Keeps r (State.setMeas s a2 a3) := by
  unfold State.setMeas
  repeat' first
    | (with_reducible first
      | assumption | apply keeps_fset | fail_if_no_progress apply Keeps.update | apply Keeps.foldl | apply Keeps.foldl_pair)
    | split | intro _

theorem keeps_mirrorLog {r s : State}  (h : Keeps r s)  : Keeps r (State.mirrorLog s) := by
  unfold State.mirrorLog
  repeat' first
    | (with_reducible first
      | assumption | apply keeps_store | fail_if_no_progress apply Keeps.update | apply Keeps.foldl | apply Keeps.foldl_pair)
    | split | intro _

theorem keeps_extendWith {r s : State} {a2 : ℕ} {a3 : List Byte} (h : Keeps r s)  : Keeps r (State.extendWith s a2 a3) := by
  unfold State.extendWith
  repeat' first
    | (with_reducible first
      | assumption | apply keeps_setMeas | apply keeps_mirrorLog | apply keeps_fadd | fail_if_no_progress apply Keeps.update
      | refine Keeps.of_pair (by assumption) ?_ | refine Keeps.of_swapped (by assumption) ?_)
    | split | intro _ | dsimp only

theorem keeps_extend {r s : State} {a2 : ℕ} {a3 : BitVec 256} (h : Keeps r s)  : Keeps r (State.extend s a2 a3) := by
  unfold State.extend
  repeat' first
    | (with_reducible first
      | assumption | apply keeps_extendWith)

theorem keeps_startExchange {r s : State} {a2 : ℕ} {a3 : Bool} (h : Keeps r s)  : Keeps r (State.startExchange s a2 a3) := by
  unfold State.startExchange
  repeat' first
    | (with_reducible first
      | assumption | apply keeps_draw | apply keeps_emit | fail_if_no_progress apply Keeps.update)
    | split

theorem keeps_openWaiting {r s : State} {a2 : ℕ} {a3 : Bool} (h : Keeps r s)  : Keeps r (State.openWaiting s a2 a3) := by
  unfold State.openWaiting
  repeat' first
    | (with_reducible first
      | assumption | apply keeps_setFlow | apply keeps_enterFlow | apply keeps_flowDone | fail_if_no_progress apply Keeps.update
      | apply Keeps.foldl | apply Keeps.foldl_pair | refine Keeps.of_pair (by assumption) ?_ | refine Keeps.of_swapped (by assumption) ?_)
    | split | intro _ | dsimp only

theorem keeps_formSession {r s : State} {a2 : ℕ} {a3 : Bool} {a4 : SessionKeys} (h : Keeps r s)  : Keeps r (State.formSession s a2 a3 a4) := by
  unfold State.formSession
  repeat' first
    | (with_reducible first
      | assumption | apply keeps_dropExchange | apply keeps_raise | apply keeps_fadd | apply keeps_showSessions | apply keeps_openWaiting
      | fail_if_no_progress apply Keeps.update | refine Keeps.of_pair (by assumption) ?_ | refine Keeps.of_swapped (by assumption) ?_)
    | split | intro _ | dsimp only

theorem keeps_refuseExchange {r s : State} {a2 : ℕ} {a3 : Bool} (h : Keeps r s)  : Keeps r (State.refuseExchange s a2 a3) := by
  unfold State.refuseExchange
  repeat' first
    | (with_reducible first
      | assumption | apply keeps_fadd | apply keeps_dropExchange | apply keeps_raise | fail_if_no_progress apply Keeps.update)

theorem keeps_execHelloReceive {r s : State} {a1 : Handshake} (h : Keeps r s)  : KeepsOut r (execHelloReceive a1 s) := by
  unfold execHelloReceive
  repeat' first
    | (with_reducible first
      | assumption | apply KeepsOut.next | exact KeepsOut.fault | exact KeepsOut.refused | apply keeps_refuseExchange
      | apply keeps_dropExchange | apply keeps_draw | apply keeps_emit | fail_if_no_progress apply Keeps.update
      | refine Keeps.of_pair (by assumption) ?_ | refine Keeps.of_swapped (by assumption) ?_)
    | split | intro _ | dsimp only

theorem keeps_execReplyReceive {r s : State} {a1 : Handshake} (h : Keeps r s)  : KeepsOut r (execReplyReceive a1 s) := by
  unfold execReplyReceive
  repeat' first
    | (with_reducible first
      | assumption | apply KeepsOut.next | exact KeepsOut.fault | exact KeepsOut.refused | apply keeps_refuseExchange | apply keeps_emit
      | apply keeps_formSession | fail_if_no_progress apply Keeps.update)
    | split

theorem keeps_execFinishReceive {r s : State} {a1 : Handshake} (h : Keeps r s)  : KeepsOut r (execFinishReceive a1 s) := by
  unfold execFinishReceive
  repeat' first
    | (with_reducible first
      | assumption | apply KeepsOut.next | exact KeepsOut.fault | exact KeepsOut.refused | apply keeps_formSession
      | apply keeps_refuseExchange | fail_if_no_progress apply Keeps.update)
    | split

theorem keeps_execHandshakeTimeout {r s : State} {a1 : ℕ} {a2 : Bool} (h : Keeps r s)  : KeepsOut r (execHandshakeTimeout a1 a2 s) := by
  unfold execHandshakeTimeout
  repeat' first
    | (with_reducible first
      | assumption | apply KeepsOut.next | exact KeepsOut.fault | exact KeepsOut.refused | apply keeps_refuseExchange
      | fail_if_no_progress apply Keeps.update)
    | split

theorem keeps_execRekey {r s : State} {a1 : ℕ} {a2 : Bool} {a3 : Bool} (h : Keeps r s)  : KeepsOut r (execRekey a1 a2 a3 s) := by
  unfold execRekey
  repeat' first
    | (with_reducible first
      | assumption | apply KeepsOut.next | exact KeepsOut.fault | exact KeepsOut.refused | apply keeps_startExchange
      | apply keeps_refuseExchange | fail_if_no_progress apply Keeps.update)
    | split

theorem keeps_execSessionTxcLimit {r s : State} {a1 : ℕ} {a2 : Bool} (h : Keeps r s)  : KeepsOut r (execSessionTxcLimit a1 a2 s) := by
  unfold execSessionTxcLimit
  repeat' first
    | (with_reducible first
      | assumption | apply KeepsOut.next | exact KeepsOut.fault | exact KeepsOut.refused | apply keeps_endSession
      | fail_if_no_progress apply Keeps.update)
    | split

end Sys2Proof.Laws
end

