-- ==== Sys2Proof/Laws/KeepsFabric.lean ====
section
/-! SUPPORT. What the functions of Machine/Fabric.lean keep: the grade, the waiting commands and the canonical storage. -/

namespace Sys2Proof.Laws

open Sys2Proof.Machine

set_option Elab.async false

theorem keeps_collOf {r s : State} {a2 : Exec} {a3 : Bool} (h : Keeps r s)  : Keeps r (State.collOf s a2 a3).1 := by
  unfold State.collOf
  repeat' first
    | (with_reducible first
      | assumption | apply keeps_readDesc)

theorem keeps_firstRow {r s : State} {a2 : Desc} {a3 : ℕ} (h : Keeps r s)  : Keeps r (State.firstRow s a2 a3).1 := by
  unfold State.firstRow
  repeat' first
    | (with_reducible first
      | assumption | apply keeps_readRow)

theorem keeps_staged {r s : State} {a2 : Exec} {a3 : ℕ} (h : Keeps r s)  : Keeps r (State.staged s a2 a3) := by
  unfold State.staged
  repeat' first
    | (with_reducible first
      | assumption | fail_if_no_progress apply Keeps.update)

theorem keeps_sendTo {r s : State} {a2 : ℕ} {a3 : ℕ} {a4 : List Span} (h : Keeps r s)  : Keeps r (State.sendTo s a2 a3 a4) := by
  unfold State.sendTo
  repeat' first
    | (with_reducible first
      | assumption | apply keeps_sendFrom | fail_if_no_progress apply Keeps.update)
    | split

theorem keeps_holdBack {r s : State} {a2 : ℕ} {a3 : TreeNode} (h : Keeps r s)  : Keeps r (State.holdBack s a2 a3) := by
  unfold State.holdBack
  repeat' first
    | (with_reducible first
      | assumption | apply keeps_sendBusy | apply keeps_setFlow | fail_if_no_progress apply Keeps.update | apply Keeps.foldl
      | apply Keeps.foldl_pair)
    | split

theorem keeps_hold {r s : State} {a2 : ℕ} {a3 : State → TreeNode → Bool} {a4 : List TreeNode} (h : Keeps r s)  : Keeps r (State.hold s a2 a3 a4) := by
  induction a4 generalizing s a2 a3 with
  | nil =>
    unfold State.hold
    repeat' first
      | (with_reducible first
        | assumption)
  | cons x l ih =>
    unfold State.hold
    repeat' first
      | (with_reducible first
        | assumption | apply hf | apply keeps_holdBack | apply ih | fail_if_no_progress apply Keeps.update
        | refine Keeps.of_pair (by assumption) ?_ | refine Keeps.of_swapped (by assumption) ?_)
      | split | intro _ | dsimp only

theorem keeps_writeChunks {r s : State} {a2 : Coll} {a3 : List (ℕ × List Byte)} (h : Keeps r s)  : Keeps r (State.writeChunks s a2 a3).1 := by
  induction a3 generalizing s a2 with
  | nil =>
    unfold State.writeChunks
    repeat' first
      | (with_reducible first
        | assumption)
  | cons x l ih =>
    unfold State.writeChunks
    repeat' first
      | (with_reducible first
        | assumption | apply keeps_storeAt | apply ih)

theorem keeps_allgatherEntry {r s : State} {a2 : Exec} {a3 : List TreeNode} (h : Keeps r s)  : Keeps r (State.allgatherEntry s a2 a3) := by
  unfold State.allgatherEntry
  repeat' first
    | (with_reducible first
      | assumption | apply keeps_collOf | apply keeps_finish | apply keeps_firstRow | apply keeps_staged | apply keeps_emit
      | apply keeps_sendTo | apply keeps_hold | apply keeps_writeChunks | apply keeps_nonfinite | apply keeps_watch
      | apply keeps_undefineView | fail_if_no_progress apply Keeps.update | apply Keeps.foldl | apply Keeps.foldl_pair
      | refine Keeps.of_pair (by assumption) ?_ | refine Keeps.of_swapped (by assumption) ?_)
    | split | intro _ | dsimp only

theorem keeps_notify {r s : State} {a2 : ℕ × ℕ × ℕ × ℕ} (h : Keeps r s)  : Keeps r (State.notify s a2).1 := by
  unfold State.notify
  repeat' first
    | (with_reducible first
      | assumption | apply keeps_flagAdd | fail_if_no_progress apply Keeps.update | refine Keeps.of_pair (by assumption) ?_
      | refine Keeps.of_swapped (by assumption) ?_)
    | split | intro _ | dsimp only

theorem keeps_serveRemote {r s : State} {a2 : RemoteReq} (h : Keeps r s)  : Keeps r (State.serveRemote s a2).1 := by
  unfold State.serveRemote
  repeat' first
    | (with_reducible first
      | assumption | apply keeps_fadd | apply keeps_load | apply keeps_store | apply keeps_notify | apply keeps_atomicOp
      | fail_if_no_progress apply Keeps.update | refine Keeps.of_pair (by assumption) ?_ | refine Keeps.of_swapped (by assumption) ?_)
    | split | intro _ | dsimp only

theorem keeps_answerRemote {r s : State} {a2 : RemoteReq} (h : Keeps r s)  : Keeps r (State.answerRemote s a2) := by
  unfold State.answerRemote
  repeat' first
    | (with_reducible first
      | assumption | apply keeps_serveRemote | apply keeps_emit)

theorem keeps_ask {r s : State} {a2 : ℕ} {a3 : RemoteReq} {a4 : (List Span)} (h : Keeps r s)  : Keeps r (State.ask s a2 a3 a4) := by
  unfold State.ask
  repeat' first
    | (with_reducible first
      | assumption | apply keeps_emit | apply keeps_sendFrom)

theorem keeps_sendNode {r s : State} {a2 : ℕ} {a3 : ℕ} {a4 : TreeNode} (h : Keeps r s)  : Keeps r (State.sendNode s a2 a3 a4) := by
  unfold State.sendNode
  repeat' first
    | (with_reducible first
      | assumption | apply keeps_emit | apply keeps_sendTo)

theorem keeps_delegate {r s : State} {a2 : ℕ} {a3 : Coll} {a4 : ℕ} (h : Keeps r s)  : Keeps r (State.delegate s a2 a3 a4) := by
  unfold State.delegate
  repeat' first
    | (with_reducible first
      | assumption | apply keeps_tallyWindow | apply keeps_fadd | apply keeps_hold | apply keeps_sendNode
      | fail_if_no_progress apply Keeps.update | apply Keeps.foldl | apply Keeps.foldl_pair | refine Keeps.of_pair (by assumption) ?_
      | refine Keeps.of_swapped (by assumption) ?_)
    | split | intro _ | dsimp only

theorem keeps_pullBad {r s : State} {a2 : Exec} (h : Keeps r s)  : Keeps r (State.pullBad s a2) := by
  unfold State.pullBad
  repeat' first
    | (with_reducible first
      | assumption | apply keeps_finish | apply keeps_undefineRun)

theorem keeps_pullLand {r s : State} {a2 : Exec} {a3 : ℕ} {a4 : List Byte} {a5 : Option (List Byte)} (h : Keeps r s)  : Keeps r (State.pullLand s a2 a3 a4 a5) := by
  unfold State.pullLand
  repeat' first
    | (with_reducible first
      | assumption | apply keeps_pullBad | apply keeps_storeAt | apply keeps_finish | fail_if_no_progress apply Keeps.update
      | refine Keeps.of_pair (by assumption) ?_)
    | split | intro _

theorem keeps_feederData {r s : State} {a2 : ℕ} {a3 : ℕ} {a4 : List Byte} {a5 : Option (List Byte)} (h : Keeps r s)  : Keeps r (State.feederData s a2 a3 a4 a5) := by
  unfold State.feederData
  repeat' first
    | (with_reducible first
      | assumption | apply keeps_pullLand | fail_if_no_progress apply Keeps.update)
    | split

theorem keeps_flowCloseEntry {r s : State} {a2 : ℕ} {a3 : Exec} (h : Keeps r s)  : Keeps r (State.flowCloseEntry s a2 a3) := by
  unfold State.flowCloseEntry
  repeat' first
    | (with_reducible first
      | assumption | apply keeps_finish | apply keeps_closeFlow | apply keeps_staged | apply keeps_drain | apply keeps_enterFlow
      | fail_if_no_progress apply Keeps.update | refine Keeps.of_pair (by assumption) ?_ | refine Keeps.of_swapped (by assumption) ?_)
    | split | intro _ | dsimp only

theorem keeps_flowOpenEntry {r s : State} {a2 : ℕ} {a3 : Exec} (h : Keeps r s)  : Keeps r (State.flowOpenEntry s a2 a3) := by
  unfold State.flowOpenEntry
  repeat' first
    | (with_reducible first
      | assumption | apply keeps_finish | apply keeps_openFlow | apply keeps_staged | apply keeps_startExchange
      | fail_if_no_progress apply Keeps.update | refine Keeps.of_pair (by assumption) ?_ | refine Keeps.of_swapped (by assumption) ?_)
    | split | intro _ | dsimp only

theorem keeps_flowResetEntry {r s : State} {a2 : ℕ} {a3 : Exec} (h : Keeps r s)  : Keeps r (State.flowResetEntry s a2 a3) := by
  unfold State.flowResetEntry
  repeat' first
    | (with_reducible first
      | assumption | apply keeps_finish | apply keeps_closeFlow | fail_if_no_progress apply Keeps.update
      | refine Keeps.of_pair (by assumption) ?_ | refine Keeps.of_swapped (by assumption) ?_)
    | split | intro _ | dsimp only

theorem keeps_remoteBad {r s : State} {a2 : ℕ} {a3 : Exec} (h : Keeps r s)  : Keeps r (State.remoteBad s a2 a3) := by
  unfold State.remoteBad
  repeat' first
    | (with_reducible first
      | assumption | apply keeps_finish | apply keeps_fadd)

theorem keeps_remoteHove {r s : State} {a2 : ℕ} {a3 : Exec} (h : Keeps r s)  : Keeps r (State.remoteHove s a2 a3) := by
  unfold State.remoteHove
  repeat' first
    | (with_reducible first
      | assumption | apply keeps_remoteBad | apply keeps_fadd)

theorem keeps_pullEntry {r s : State} {a2 : ℕ} {a3 : Exec} {a4 : Option RemoteReply} (h : Keeps r s) : Keeps r (State.pullEntry s a2 a3 a4) := by
  have k {c : Prop} [Decidable c] {f : Nat} {l : List Byte} {o : Out} : Keeps r (if c then ((s.sendMessage f l).emit o).staged a3 1 else s) := by
    split
    · exact keeps_staged (keeps_emit (keeps_sendMessage h))
    · exact h
  unfold State.pullEntry
  generalize 2 ^ 44 = top
  extract_lets e f dst d flowOk asks stream cursor s'
  by_cases h1 : asks ∧ (!zeroBits e [(145, 0)] || !flowOk || dst % 64 != 0) = true
  · rw [if_pos h1]; exact keeps_finish h
  · rw [if_neg h1]
    by_cases h2 : asks ∧ (top ≤ dst ∨ (s.localRun d.1 d.2).isNone = true)
    · rw [if_pos h2]; exact keeps_finish (keeps_addressFault h)
    · rw [if_neg h2]
      have k' : Keeps r s' := k
      cases a4 with
      | none => exact k'
      | some y => cases y <;> first | exact keeps_pullLand k' | exact keeps_pullBad k'

theorem keeps_remoteOk {r s : State} {a2 : ℕ} {a3 : Exec} (h : Keeps r s)  : Keeps r (State.remoteOk s a2 a3) := by
  unfold State.remoteOk
  repeat' first
    | (with_reducible first
      | assumption | apply keeps_finish | apply keeps_fadd)

theorem keeps_remoteEnd {r s : State} {a2 : ℕ} {a3 : Exec} {a4 : ℕ} {a5 : RemoteReply} (h : Keeps r s)  : Keeps r (State.remoteEnd s a2 a3 a4 a5) := by
  unfold State.remoteEnd
  repeat' first
    | (with_reducible first
      | assumption | apply keeps_remoteHove | apply keeps_remoteBad | apply keeps_addressFault | fail_if_no_progress apply Keeps.update)
    | split

theorem keeps_ratomicEntry {r s : State} {a2 : ℕ} {a3 : Exec} {a4 : RemoteReply} (h : Keeps r s)  : Keeps r (State.ratomicEntry s a2 a3 a4) := by
  unfold State.ratomicEntry
  repeat' first
    | (with_reducible first
      | assumption | apply keeps_remoteBad | apply keeps_refuse40 | apply keeps_ask | apply keeps_oldBytes | apply keeps_storeAt
      | apply keeps_remoteOk | apply keeps_remoteEnd | fail_if_no_progress apply Keeps.update | refine Keeps.of_pair (by assumption) ?_
      | refine Keeps.of_swapped (by assumption) ?_)
    | split | intro _ | dsimp only

theorem keeps_sendLeafOf {r s : State} {a2 : ℕ} {a3 : ℕ} {a4 : TreeNode} {a5 : List Span} (h : Keeps r s)  : Keeps r (State.sendLeafOf s a2 a3 a4 a5) := by
  unfold State.sendLeafOf
  repeat' first
    | (with_reducible first
      | assumption | apply keeps_emit | apply keeps_sendTo)

theorem keeps_sendLeavesOf {r s : State} {a2 : ℕ} {a3 : Coll} {a4 : List Half} (h : Keeps r s)  : Keeps r (State.sendLeavesOf s a2 a3 a4) := by
  unfold State.sendLeavesOf
  repeat' first
    | (with_reducible first
      | assumption | apply keeps_hold | apply keeps_sendLeafOf | fail_if_no_progress apply Keeps.update | apply Keeps.foldl
      | apply Keeps.foldl_pair | refine Keeps.of_pair (by assumption) ?_ | refine Keeps.of_swapped (by assumption) ?_)
    | split | intro _ | dsimp only

theorem keeps_takeNodes {r s : State} {a2 : ℕ} {a3 : State → TreeNode → Bool} {a4 : List TreeNode} (h : Keeps r s)  : Keeps r (State.takeNodes s a2 a3 a4) := by
  unfold State.takeNodes
  repeat' first
    | (with_reducible first
      | assumption | apply hf | apply keeps_hold | apply keeps_sendNode | fail_if_no_progress apply Keeps.update | apply Keeps.foldl
      | apply Keeps.foldl_pair)
    | split | intro _

theorem keeps_reduceChunk {r s : State} {a2 : ℕ} {a3 : Exec} {a4 : Coll} (h : Keeps r s)  : Keeps r (State.reduceChunk s a2 a3 a4) := by
  unfold State.reduceChunk
  repeat' first
    | (with_reducible first
      | assumption | apply keeps_fadd | apply keeps_tallyWindow | apply keeps_writeRow | apply keeps_nonfinite | apply keeps_watch
      | apply keeps_finish | apply keeps_undefineView | fail_if_no_progress apply Keeps.update | apply Keeps.foldl
      | apply Keeps.foldl_pair | refine Keeps.of_pair (by assumption) ?_ | refine Keeps.of_swapped (by assumption) ?_)
    | split | intro _ | dsimp only

theorem keeps_redscatEntry {r s : State} {a2 : ℕ} {a3 : Exec} {a4 : List TreeNode} (h : Keeps r s)  : Keeps r (State.redscatEntry s a2 a3 a4) := by
  unfold State.redscatEntry
  repeat' first
    | (with_reducible first
      | assumption | apply keeps_collOf | apply keeps_finish | apply keeps_firstRow | apply keeps_staged | apply keeps_sendLeavesOf
      | apply keeps_takeNodes | apply keeps_delegate | apply keeps_reduceChunk | fail_if_no_progress apply Keeps.update
      | apply Keeps.foldl | apply Keeps.foldl_pair | refine Keeps.of_pair (by assumption) ?_ | refine Keeps.of_swapped (by assumption) ?_)
    | split | intro _ | dsimp only

theorem keeps_rreadEntry {r s : State} {a2 : ℕ} {a3 : Exec} {a4 : RemoteReply} (h : Keeps r s)  : Keeps r (State.rreadEntry s a2 a3 a4) := by
  unfold State.rreadEntry
  repeat' first
    | (with_reducible first
      | assumption | apply keeps_remoteBad | apply keeps_refuse40 | apply keeps_ask | apply keeps_storeAt | apply keeps_remoteOk
      | apply keeps_undefineRun | apply keeps_remoteEnd | fail_if_no_progress apply Keeps.update
      | refine Keeps.of_pair (by assumption) ?_ | refine Keeps.of_swapped (by assumption) ?_)
    | split | intro _ | dsimp only

theorem keeps_rwriteEntry {r s : State} {a2 : ℕ} {a3 : Exec} {a4 : RemoteReply} (h : Keeps r s)  : Keeps r (State.rwriteEntry s a2 a3 a4) := by
  unfold State.rwriteEntry
  repeat' first
    | (with_reducible first
      | assumption | apply keeps_remoteBad | apply keeps_refuse40 | apply keeps_loadAt | apply keeps_ask | apply keeps_remoteOk
      | apply keeps_remoteEnd | fail_if_no_progress apply Keeps.update | refine Keeps.of_pair (by assumption) ?_
      | refine Keeps.of_swapped (by assumption) ?_)
    | split | intro _ | dsimp only

theorem keeps_execRread {r s : State} {a1 : ℕ} {a2 : RemoteReply} (h : Keeps r s)  : KeepsOut r (execRread a1 a2 s) := by
  unfold execRread
  repeat' first
    | (with_reducible first
      | assumption | apply KeepsOut.next | exact KeepsOut.fault | exact KeepsOut.refused | apply keeps_asSeen | apply keeps_rreadEntry
      | fail_if_no_progress apply Keeps.update)
    | split | intro _

theorem keeps_execRwrite {r s : State} {a1 : ℕ} {a2 : RemoteReply} (h : Keeps r s)  : KeepsOut r (execRwrite a1 a2 s) := by
  unfold execRwrite
  repeat' first
    | (with_reducible first
      | assumption | apply KeepsOut.next | exact KeepsOut.fault | exact KeepsOut.refused | apply keeps_asSeen | apply keeps_rwriteEntry
      | fail_if_no_progress apply Keeps.update)
    | split | intro _

theorem keeps_execRatomic {r s : State} {a1 : ℕ} {a2 : RemoteReply} (h : Keeps r s)  : KeepsOut r (execRatomic a1 a2 s) := by
  unfold execRatomic
  repeat' first
    | (with_reducible first
      | assumption | apply KeepsOut.next | exact KeepsOut.fault | exact KeepsOut.refused | apply keeps_asSeen | apply keeps_ratomicEntry
      | fail_if_no_progress apply Keeps.update)
    | split | intro _

theorem keeps_execRemoteRequest {r s : State} {a1 : RemoteReq} (h : Keeps r s)  : KeepsOut r (execRemoteRequest a1 s) := by
  unfold execRemoteRequest
  repeat' first
    | (with_reducible first
      | assumption | apply KeepsOut.next | exact KeepsOut.fault | exact KeepsOut.refused | apply keeps_emit | apply keeps_fadd
      | apply keeps_arrive | apply keeps_answerRemote | fail_if_no_progress apply Keeps.update)
    | split

theorem keeps_execRedscat {r s : State} {a1 : ℕ} {a2 : List TreeNode} (h : Keeps r s)  : KeepsOut r (execRedscat a1 a2 s) := by
  unfold execRedscat
  repeat' first
    | (with_reducible first
      | assumption | apply KeepsOut.next | exact KeepsOut.fault | exact KeepsOut.refused | apply keeps_asSeen | apply keeps_redscatEntry
      | apply keeps_takeNodes | fail_if_no_progress apply Keeps.update)
    | split | intro _

theorem keeps_execAllgather {r s : State} {a1 : ℕ} {a2 : List TreeNode} (h : Keeps r s)  : KeepsOut r (execAllgather a1 a2 s) := by
  unfold execAllgather
  repeat' first
    | (with_reducible first
      | assumption | apply KeepsOut.next | exact KeepsOut.fault | exact KeepsOut.refused | apply keeps_asSeen
      | apply keeps_allgatherEntry | apply keeps_hold | fail_if_no_progress apply Keeps.update)
    | split | intro _

theorem keeps_execCollectiveTimeout {r s : State} {a1 : ℕ} {a2 : ℕ} (h : Keeps r s)  : KeepsOut r (execCollectiveTimeout a1 a2 s) := by
  unfold execCollectiveTimeout
  repeat' first
    | (with_reducible first
      | assumption | apply KeepsOut.next | exact KeepsOut.fault | exact KeepsOut.refused | apply keeps_finish
      | fail_if_no_progress apply Keeps.update)
    | split

theorem keeps_execPull {r s : State} {a1 : ℕ} {a2 : Option RemoteReply} (h : Keeps r s)  : KeepsOut r (execPull a1 a2 s) := by
  unfold execPull
  repeat' first
    | (with_reducible first
      | assumption | apply KeepsOut.next | exact KeepsOut.fault | exact KeepsOut.refused | apply keeps_asSeen | apply keeps_pullEntry
      | fail_if_no_progress apply Keeps.update)
    | split | intro _

theorem keeps_execPullLimitExpiry {r s : State} {a1 : ℕ} {a2 : ℕ} (h : Keeps r s)  : KeepsOut r (execPullLimitExpiry a1 a2 s) := by
  unfold execPullLimitExpiry
  repeat' first
    | (with_reducible first
      | assumption | apply KeepsOut.next | exact KeepsOut.fault | exact KeepsOut.refused | apply keeps_finish | apply keeps_pullBad
      | fail_if_no_progress apply Keeps.update)
    | split

theorem keeps_execFlowctlOpen {r s : State} {a1 : ℕ} (h : Keeps r s)  : KeepsOut r (execFlowctlOpen a1 s) := by
  unfold execFlowctlOpen
  repeat' first
    | (with_reducible first
      | assumption | apply KeepsOut.next | exact KeepsOut.fault | exact KeepsOut.refused | apply keeps_flowOpenEntry
      | fail_if_no_progress apply Keeps.update)
    | split

theorem keeps_execFlowctlClose {r s : State} {a1 : ℕ} (h : Keeps r s)  : KeepsOut r (execFlowctlClose a1 s) := by
  unfold execFlowctlClose
  repeat' first
    | (with_reducible first
      | assumption | apply KeepsOut.next | exact KeepsOut.fault | exact KeepsOut.refused | apply keeps_flowCloseEntry
      | fail_if_no_progress apply Keeps.update)
    | split

theorem keeps_execFlowctlReset {r s : State} {a1 : ℕ} (h : Keeps r s)  : KeepsOut r (execFlowctlReset a1 s) := by
  unfold execFlowctlReset
  repeat' first
    | (with_reducible first
      | assumption | apply KeepsOut.next | exact KeepsOut.fault | exact KeepsOut.refused | apply keeps_flowResetEntry
      | fail_if_no_progress apply Keeps.update)
    | split

theorem keeps_execMchangeJoin {r s : State} {a1 : ℕ} (h : Keeps r s)  : KeepsOut r (execMchangeJoin a1 s) := by
  unfold execMchangeJoin
  repeat' first
    | (with_reducible first
      | assumption | apply KeepsOut.next | exact KeepsOut.fault | exact KeepsOut.refused | apply keeps_finish | apply keeps_asking
      | fail_if_no_progress apply Keeps.update | refine Keeps.of_pair (by assumption) ?_ | refine Keeps.of_swapped (by assumption) ?_)
    | split | intro _ | dsimp only

theorem keeps_execMchangeLeave {r s : State} {a1 : ℕ} (h : Keeps r s)  : KeepsOut r (execMchangeLeave a1 s) := by
  unfold execMchangeLeave
  repeat' first
    | (with_reducible first
      | assumption | apply KeepsOut.next | exact KeepsOut.fault | exact KeepsOut.refused | apply keeps_finish | apply keeps_asking
      | fail_if_no_progress apply Keeps.update)
    | split

theorem keeps_execMchangeRole {r s : State} {a1 : ℕ} (h : Keeps r s)  : KeepsOut r (execMchangeRole a1 s) := by
  unfold execMchangeRole
  repeat' first
    | (with_reducible first
      | assumption | apply KeepsOut.next | exact KeepsOut.fault | exact KeepsOut.refused | apply keeps_finish | apply keeps_asking
      | fail_if_no_progress apply Keeps.update | refine Keeps.of_pair (by assumption) ?_ | refine Keeps.of_swapped (by assumption) ?_)
    | split | intro _ | dsimp only

theorem keeps_execFlowOpenTimeout {r s : State} {a1 : ℕ} {a2 : ℕ} (h : Keeps r s)  : KeepsOut r (execFlowOpenTimeout a1 a2 s) := by
  unfold execFlowOpenTimeout
  repeat' first
    | (with_reducible first
      | assumption | apply KeepsOut.next | exact KeepsOut.fault | exact KeepsOut.refused | apply keeps_finish | apply keeps_closeFlow
      | fail_if_no_progress apply Keeps.update)
    | split

end Sys2Proof.Laws
end

