-- ==== Sys2Proof/Laws/KeepsMembers.lean ====
section
/-! SUPPORT. What the functions of Machine/Members.lean keep: the grade, the waiting commands and the canonical storage. -/

namespace Sys2Proof.Laws

open Sys2Proof.Machine

set_option Elab.async false

theorem keeps_showHall {r s : State}  (h : Keeps r s)  : Keeps r (State.showHall s) := by
  unfold State.showHall
  repeat' first
    | (with_reducible first
      | assumption | apply keeps_fset | fail_if_no_progress apply Keeps.update | refine Keeps.of_pair (by assumption) ?_
      | refine Keeps.of_swapped (by assumption) ?_)
    | split | intro _ | dsimp only

theorem keeps_newEpoch {r s : State}  (h : Keeps r s)  : Keeps r (State.newEpoch s) := by
  unfold State.newEpoch
  repeat' first
    | (with_reducible first
      | assumption | apply keeps_raise | apply keeps_showHall | apply keeps_setLed)

theorem keeps_setMember {r s : State} {a2 : ℕ} {a3 : ℕ} {a4 : ℕ} {a5 : ℕ} {a6 : ℕ} {a7 : ℕ} {a8 : ℕ} (h : Keeps r s)  : Keeps r (State.setMember s a2 a3 a4 a5 a6 a7 a8) := by
  unfold State.setMember
  repeat' first
    | (with_reducible first
      | assumption | apply keeps_setLed)

theorem keeps_loseMember {r s : State} {a2 : ℕ} (h : Keeps r s)  : Keeps r (State.loseMember s a2) := by
  unfold State.loseMember
  repeat' first
    | (with_reducible first
      | assumption | apply keeps_newEpoch | apply keeps_setMember | apply keeps_latch | apply keeps_releaseDone
      | fail_if_no_progress apply Keeps.update | apply Keeps.foldl)

theorem keeps_setMemberFlags {r s : State} {a2 : ℕ} {a3 : ℕ} (h : Keeps r s)  : Keeps r (State.setMemberFlags s a2 a3) := by
  unfold State.setMemberFlags
  repeat' first
    | (with_reducible first
      | assumption | apply keeps_setLed)

theorem keeps_declareLost {r s : State} {a1 : ℕ} {a3 : ℕ × Option ℕ} (h : Keeps r s)  : Keeps r (State.declareLost a1 s a3) := by
  unfold State.declareLost
  repeat' first
    | (with_reducible first
      | assumption | apply keeps_loseMember | apply keeps_setMemberFlags | apply keeps_setLed | apply keeps_latch | apply keeps_showHall
      | fail_if_no_progress apply Keeps.update | apply Keeps.foldl | apply Keeps.foldl_pair)
    | split | intro _

theorem keeps_seedBeats {r s : State}  (h : Keeps r s)  : Keeps r (State.seedBeats s) := by
  unfold State.seedBeats
  repeat' first
    | (with_reducible first
      | assumption | fail_if_no_progress apply Keeps.update)
    | split

theorem keeps_joinMember {r s : State} {a2 : ℕ} {a3 : ℕ} {a4 : ℕ} {a5 : ℕ} (h : Keeps r s)  : Keeps r (State.joinMember s a2 a3 a4 a5) := by
  unfold State.joinMember
  repeat' first
    | (with_reducible first
      | assumption | apply keeps_newEpoch | apply keeps_setMember)

theorem keeps_leaveMember {r s : State} {a2 : ℕ} (h : Keeps r s)  : Keeps r (State.leaveMember s a2) := by
  unfold State.leaveMember
  repeat' first
    | (with_reducible first
      | assumption | apply keeps_newEpoch | apply keeps_setMember | apply keeps_releaseDone | fail_if_no_progress apply Keeps.update
      | apply Keeps.foldl)

theorem keeps_changeRole {r s : State} {a2 : ℕ} {a3 : ℕ} (h : Keeps r s)  : Keeps r (State.changeRole s a2 a3) := by
  unfold State.changeRole
  repeat' first
    | (with_reducible first
      | assumption | apply keeps_newEpoch | apply keeps_setLed)

end Sys2Proof.Laws
end

