-- ==== Sys2Proof/Laws/KeepsSlots.lean ====
section
/-! SUPPORT. What the functions of Machine/Slots.lean keep: the grade, the waiting commands and the canonical storage. -/

namespace Sys2Proof.Laws

open Sys2Proof.Machine

set_option Elab.async false

theorem keeps_checkImage {r s : State} {a2 : ℕ} {a3 : List Byte} {a4 : ImageVerdict} {a5 : Bool} (h : Keeps r s)  : Keeps r (State.checkImage s a2 a3 a4 a5).1 := by
  unfold State.checkImage
  repeat' first
    | (with_reducible first
      | assumption | apply keeps_raise | fail_if_no_progress apply Keeps.update)
    | split

theorem keeps_showSlots {r s : State}  (h : Keeps r s)  : Keeps r (State.showSlots s) := by
  unfold State.showSlots
  repeat' first
    | (with_reducible first
      | assumption | apply keeps_fset | fail_if_no_progress apply Keeps.update | apply Keeps.foldl | apply Keeps.foldl_pair)
    | split | intro _

theorem keeps_setSlot {r s : State} {a2 : ℕ} {a3 : Slot} (h : Keeps r s)  : Keeps r (State.setSlot s a2 a3) := by
  unfold State.setSlot
  repeat' first
    | (with_reducible first
      | assumption | apply keeps_showSlots | fail_if_no_progress apply Keeps.update)

theorem keeps_setSlotState {r s : State} {a2 : ℕ} {a3 : ℕ} (h : Keeps r s)  : Keeps r (State.setSlotState s a2 a3) := by
  unfold State.setSlotState
  repeat' first
    | (with_reducible first
      | assumption | apply keeps_setSlot)

theorem keeps_burn {r s : State}  (h : Keeps r s)  : Keeps r (State.burn s).1 := by
  unfold State.burn
  repeat' first
    | (with_reducible first
      | assumption | apply keeps_open_ | apply keeps_raise | fail_if_no_progress apply Keeps.update
      | refine Keeps.of_pair (by assumption) ?_ | refine Keeps.of_swapped (by assumption) ?_)
    | split | intro _

theorem keeps_burnEpochs {r s : State} {a1 : ℕ} (h : Keeps r s)  : Keeps r (State.burnEpochs a1 s) := by
  induction a1 generalizing s with
  | zero =>
    unfold State.burnEpochs
    repeat' first
      | (with_reducible first
        | assumption)
  | succ n ih =>
    unfold State.burnEpochs
    repeat' first
      | (with_reducible first
        | assumption | apply keeps_fset | apply keeps_burn | apply ih | fail_if_no_progress apply Keeps.update
        | refine Keeps.of_pair (by assumption) ?_)
      | split | intro _

theorem keeps_burnAnchors {r s : State} {a2 : List Byte} (h : Keeps r s)  : Keeps r (State.burnAnchors s a2) := by
  unfold State.burnAnchors
  repeat' first
    | (with_reducible first
      | assumption | apply keeps_burnEpochs | apply keeps_burn | apply keeps_fset | fail_if_no_progress apply Keeps.update
      | refine Keeps.of_pair (by assumption) ?_ | refine Keeps.of_swapped (by assumption) ?_)
    | split | intro _ | dsimp only

theorem keeps_burnOwner {r s : State} {a2 : BitVec 256} (h : Keeps r s)  : Keeps r (State.burnOwner s a2) := by
  unfold State.burnOwner
  repeat' first
    | (with_reducible first
      | assumption | apply keeps_burn | apply keeps_fset | fail_if_no_progress apply Keeps.update
      | refine Keeps.of_pair (by assumption) ?_)
    | split | intro _

theorem keeps_becomeActive {r s : State} {a2 : ℕ} {a3 : (List ℕ)} (h : Keeps r s)  : Keeps r (State.becomeActive s a2 a3) := by
  unfold State.becomeActive
  repeat' first
    | (with_reducible first
      | assumption | apply keeps_setSlotState | apply keeps_burnAnchors | apply keeps_burnOwner | fail_if_no_progress apply Keeps.update
      | refine Keeps.of_pair (by assumption) ?_ | refine Keeps.of_swapped (by assumption) ?_)
    | split | intro _ | dsimp only

theorem keeps_roleFuses {r s : State}  (h : Keeps r s)  : Keeps r (State.roleFuses s) := by
  unfold State.roleFuses
  repeat' first
    | (with_reducible first
      | assumption | apply keeps_becomeActive | apply keeps_burnAnchors | apply keeps_burnOwner | fail_if_no_progress apply Keeps.update
      | refine Keeps.of_pair (by assumption) ?_ | refine Keeps.of_swapped (by assumption) ?_)
    | split | intro _ | dsimp only

end Sys2Proof.Laws
end

