-- ==== Sys2Proof/Laws/KeepsJob.lean ====
section
/-! SUPPORT. What the functions of Machine/Job.lean keep: the grade, the waiting commands and the canonical storage. -/

namespace Sys2Proof.Laws

open Sys2Proof.Machine

set_option Elab.async false

theorem keeps_startReloaded {r s : State}  (h : Keeps r s)  : Keeps r (State.startReloaded s) := by
  unfold State.startReloaded
  repeat' first
    | (with_reducible first
      | assumption | apply keeps_goQueue | fail_if_no_progress apply Keeps.update | apply Keeps.foldl)

theorem keeps_beginStep {r s : State} {a2 : ℕ} {a3 : ℕ} (h : Keeps r s)  : Keeps r (State.beginStep s a2 a3) := by
  unfold State.beginStep
  repeat' first
    | (with_reducible first
      | assumption | apply keeps_fset | apply keeps_setLed | apply keeps_startReloaded | apply keeps_sendVote | apply keeps_abortVote
      | fail_if_no_progress apply Keeps.update | refine Keeps.of_pair (by assumption) ?_ | refine Keeps.of_swapped (by assumption) ?_)
    | split | intro _ | dsimp only

theorem keeps_setEpoch {r s : State} {a2 : ℕ} (h : Keeps r s)  : Keeps r (State.setEpoch s a2) := by
  unfold State.setEpoch
  repeat' first
    | (with_reducible first
      | assumption | apply keeps_fset | apply keeps_setLed)

theorem keeps_setScale {r s : State} {a2 : ℤ} {a3 : ℕ} (h : Keeps r s)  : Keeps r (State.setScale s a2 a3) := by
  unfold State.setScale
  repeat' first
    | (with_reducible first
      | assumption | apply keeps_setLed | apply keeps_fset)

theorem keeps_endSessions {r s : State} {a2 : ℕ} (h : Keeps r s)  : Keeps r (State.endSessions s a2) := by
  unfold State.endSessions
  repeat' first
    | (with_reducible first
      | assumption | apply keeps_endSession | apply keeps_dropExchange)

theorem keeps_finishMember {r s : State} {a2 : ℕ} {a3 : ℕ} {a4 : Status} (h : Keeps r s)  : Keeps r (State.finishMember s a2 a3 a4) := by
  unfold State.finishMember
  repeat' first
    | (with_reducible first
      | assumption | fail_if_no_progress apply Keeps.update)

theorem keeps_setPart {r s : State} {a2 : ℕ} (h : Keeps r s)  : Keeps r (State.setPart s a2) := by
  unfold State.setPart
  repeat' first
    | (with_reducible first
      | assumption | apply keeps_fset | fail_if_no_progress apply Keeps.update)
    | split

theorem keeps_reachRole {r s : State}  (h : Keeps r s)  : Keeps r (State.reachRole s) := by
  unfold State.reachRole
  repeat' first
    | (with_reducible first
      | assumption | apply keeps_setPart | apply keeps_fset | apply keeps_roleFuses | apply keeps_raise
      | fail_if_no_progress apply Keeps.update)
    | split

theorem keeps_showPart {r s : State}  (h : Keeps r s)  : Keeps r (State.showPart s) := by
  unfold State.showPart
  repeat' first
    | (with_reducible first
      | assumption | apply keeps_setPart | fail_if_no_progress apply Keeps.update | refine Keeps.of_pair (by assumption) ?_
      | refine Keeps.of_swapped (by assumption) ?_)
    | split | intro _ | dsimp only

theorem keeps_stopAll {r s : State}  (h : Keeps r s)  : Keeps r (State.stopAll s) := by
  unfold State.stopAll
  repeat' first
    | (with_reducible first
      | assumption | apply keeps_stopQueue | fail_if_no_progress apply Keeps.update | apply Keeps.foldl | apply Keeps.foldl_pair)
    | split | intro _

theorem keeps_applySetting {r s : State} {a1 : List Acc} {a3 : ℕ × Word} (h : Keeps r s)  : Keeps r (State.applySetting a1 s a3) := by
  unfold State.applySetting
  repeat' first
    | (with_reducible first
      | assumption | apply keeps_wr | fail_if_no_progress apply Keeps.update | apply Keeps.foldl | apply Keeps.foldl_pair)
    | split

theorem keeps_resetSetting {r s : State} {a2 : Reg} (h : Keeps r s)  : Keeps r (State.resetSetting s a2) := by
  unfold State.resetSetting
  repeat' first
    | (with_reducible first
      | assumption | apply keeps_wr)

theorem keeps_clearSettings {r s : State}  (h : Keeps r s)  : Keeps r (State.clearSettings s) := by
  unfold State.clearSettings
  repeat' first
    | (with_reducible first
      | assumption | apply keeps_resetSetting | fail_if_no_progress apply Keeps.update | apply Keeps.foldl)

theorem keeps_restoreSettings {r s : State}  (h : Keeps r s)  : Keeps r (State.restoreSettings s) := by
  unfold State.restoreSettings
  repeat' first
    | (with_reducible first
      | assumption | apply keeps_applySetting | apply keeps_clearSettings | fail_if_no_progress apply Keeps.update | apply Keeps.foldl
      | apply Keeps.foldl_pair)
    | split | intro _

theorem keeps_leaveJob {r s : State}  (h : Keeps r s)  : Keeps r (State.leaveJob s) := by
  unfold State.leaveJob
  repeat' first
    | (with_reducible first
      | assumption | apply keeps_stopAll | apply keeps_closeFlow | apply keeps_restoreSettings | apply keeps_showPart | apply keeps_fset
      | fail_if_no_progress apply Keeps.update | apply Keeps.foldl | apply Keeps.foldl_pair)
    | split | intro _

theorem keeps_jobRoles {r s : State} {a2 : List ℕ} {a3 : List ℕ} (h : Keeps r s)  : Keeps r (State.jobRoles s a2 a3) := by
  unfold State.jobRoles
  repeat' first
    | (with_reducible first
      | assumption | apply keeps_setLed | apply keeps_showHall | fail_if_no_progress apply Keeps.update | apply Keeps.foldl
      | apply Keeps.foldl_pair)
    | split | intro _

theorem keeps_goCores {r s : State}  (h : Keeps r s)  : Keeps r (State.goCores s) := by
  unfold State.goCores
  repeat' first
    | (with_reducible first
      | assumption | apply keeps_goQueue | fail_if_no_progress apply Keeps.update | apply Keeps.foldl | apply Keeps.foldl_pair)
    | split | intro _

theorem keeps_startJob {r s : State} {a2 : List ℕ} {a3 : List ℕ} (h : Keeps r s)  : Keeps r (State.startJob s a2 a3) := by
  unfold State.startJob
  repeat' first
    | (with_reducible first
      | assumption | apply keeps_jobRoles | apply keeps_setLed | apply keeps_setScale | apply keeps_setEpoch | apply keeps_fset
      | apply keeps_showPart | apply keeps_raise | apply keeps_goCores | apply keeps_beginStep | fail_if_no_progress apply Keeps.update
      | apply Keeps.foldl | apply Keeps.foldl_pair | refine Keeps.of_pair (by assumption) ?_ | refine Keeps.of_swapped (by assumption) ?_)
    | split | intro _ | dsimp only

theorem keeps_stopJob {r s : State}  (h : Keeps r s)  : Keeps r (State.stopJob s) := by
  unfold State.stopJob
  repeat' first
    | (with_reducible first
      | assumption | apply keeps_setLed | apply keeps_showHall | apply keeps_leaveJob | apply keeps_raise | apply keeps_fset
      | fail_if_no_progress apply Keeps.update | apply Keeps.foldl | apply Keeps.foldl_pair | refine Keeps.of_pair (by assumption) ?_
      | refine Keeps.of_swapped (by assumption) ?_)
    | split | intro _ | dsimp only

theorem keeps_applyHall {r s : State} {a2 : HallCmd} (h : Keeps r s)  : Keeps r (State.applyHall s a2) := by
  unfold State.applyHall
  repeat' first
    | (with_reducible first
      | assumption | apply keeps_flipTable | apply keeps_finishTable | apply keeps_offlineTable | apply keeps_onlineTable
      | apply keeps_finishMember | apply keeps_joinMember | apply keeps_seedBeats | apply keeps_emits | apply keeps_reachRole
      | apply keeps_raise | apply keeps_showPart | apply keeps_endSessions | apply keeps_leaveMember | apply keeps_changeRole
      | apply keeps_loseMember | apply keeps_leaveJob | apply keeps_setMemberFlags | apply keeps_setLed | apply keeps_startJob
      | apply keeps_stopJob | apply keeps_fset | fail_if_no_progress apply Keeps.update | refine Keeps.of_pair (by assumption) ?_
      | refine Keeps.of_swapped (by assumption) ?_)
    | split | intro _ | dsimp only

theorem keeps_applyHalls {r s : State} {a2 : List HallCmd} (h : Keeps r s)  : Keeps r (State.applyHalls s a2) := by
  unfold State.applyHalls
  repeat' first
    | (with_reducible first
      | assumption | apply keeps_applyHall | fail_if_no_progress apply Keeps.update | apply Keeps.foldl | apply Keeps.foldl_pair)
    | split | intro _

theorem keeps_applyConfigSettings {r s : State}  (h : Keeps r s)  : Keeps r (State.applyConfigSettings s) := by
  unfold State.applyConfigSettings
  repeat' first
    | (with_reducible first
      | assumption | apply keeps_applySetting | fail_if_no_progress apply Keeps.update | apply Keeps.foldl | apply Keeps.foldl_pair)
    | split | intro _

theorem keeps_applyJobSettings {r s : State}  (h : Keeps r s)  : Keeps r (State.applyJobSettings s) := by
  unfold State.applyJobSettings
  repeat' first
    | (with_reducible first
      | assumption | apply keeps_clearSettings | apply keeps_applySetting | apply keeps_wr | fail_if_no_progress apply Keeps.update
      | apply Keeps.foldl | apply Keeps.foldl_pair)
    | split | intro _

theorem keeps_setRegions {r s : State} {a2 : ℕ} {a3 : List (ℕ × ℕ × ℕ)} (h : Keeps r s)  : Keeps r (State.setRegions s a2 a3) := by
  unfold State.setRegions
  repeat' first
    | (with_reducible first
      | assumption | apply keeps_fset | fail_if_no_progress apply Keeps.update | apply Keeps.foldl | apply Keeps.foldl_pair)
    | split | intro _

theorem keeps_loadSegment {r s : State} {a2 : Segment} (h : Keeps r s)  : Keeps r (State.loadSegment s a2).1 := by
  unfold State.loadSegment
  repeat' first
    | (with_reducible first
      | assumption | apply keeps_setRegions | apply keeps_writeBytes | apply keeps_fset | fail_if_no_progress apply Keeps.update
      | apply Keeps.foldl | apply Keeps.foldl_pair)
    | split | intro _

theorem keeps_loadSegments {r s : State} {a2 : List Segment} (h : Keeps r s)  : Keeps r (State.loadSegments s a2).1 := by
  induction a2 generalizing s with
  | nil =>
    unfold State.loadSegments
    repeat' first
      | (with_reducible first
        | assumption)
  | cons x l ih =>
    unfold State.loadSegments
    repeat' first
      | (with_reducible first
        | assumption | apply keeps_loadSegment | apply ih)

theorem keeps_finishPhase {r s : State} {a2 : Bool} {a3 : ℕ} {a4 : Status} (h : Keeps r s)  : Keeps r (State.finishPhase s a2 a3 a4) := by
  unfold State.finishPhase
  repeat' first
    | (with_reducible first
      | assumption | fail_if_no_progress apply Keeps.update)

theorem keeps_stopCores {r s : State}  (h : Keeps r s)  : Keeps r (State.stopCores s) := by
  unfold State.stopCores
  repeat' first
    | (with_reducible first
      | assumption | apply keeps_stopQueue | fail_if_no_progress apply Keeps.update | apply Keeps.foldl | apply Keeps.foldl_pair)
    | split | intro _

end Sys2Proof.Laws
end

