-- ==== Sys2Proof/Laws/KeepsNaelo.lean ====
section
/-! SUPPORT. What the functions of Machine/Naelo.lean keep: the grade, the waiting commands and the canonical storage. -/

namespace Sys2Proof.Laws

open Sys2Proof.Machine

set_option Elab.async false

theorem keeps_acceptTxc {r s : State} {a2 : Pkt} (h : Keeps r s)  : Keeps r (State.acceptTxc s a2) := by
  unfold State.acceptTxc
  repeat' first
    | (with_reducible first
      | assumption | fail_if_no_progress apply Keeps.update)

theorem keeps_resend {r s : State} {a2 : ℕ} {a3 : Unacked} (h : Keeps r s)  : Keeps r (State.resend s a2 a3) := by
  unfold State.resend
  repeat' first
    | (with_reducible first
      | assumption | apply keeps_failFlow | apply keeps_setFlow | apply keeps_putPacket | fail_if_no_progress apply Keeps.update
      | refine Keeps.of_pair (by assumption) ?_ | refine Keeps.of_swapped (by assumption) ?_)
    | split | intro _ | dsimp only

theorem keeps_reopenFlow {r s : State} {a2 : ℕ} (h : Keeps r s)  : Keeps r (State.reopenFlow s a2) := by
  unfold State.reopenFlow
  repeat' first
    | (with_reducible first
      | assumption | apply keeps_sendBusy | apply keeps_setFlow | fail_if_no_progress apply Keeps.update)
    | split

theorem keeps_reopenFlows {r s : State}  (h : Keeps r s)  : Keeps r (State.reopenFlows s) := by
  unfold State.reopenFlows
  repeat' first
    | (with_reducible first
      | assumption | apply keeps_reopenFlow | fail_if_no_progress apply Keeps.update | apply Keeps.foldl)

theorem keeps_countFec {r s : State} {a2 : Frame} (h : Keeps r s)  : Keeps r (State.countFec s a2) := by
  unfold State.countFec
  repeat' first
    | (with_reducible first
      | assumption | apply keeps_fadd | apply keeps_fset)

theorem keeps_countHs {r s : State} {a2 : ℕ} (h : Keeps r s)  : Keeps r (State.countHs s a2) := by
  unfold State.countHs
  repeat' first
    | (with_reducible first
      | assumption | fail_if_no_progress apply Keeps.update)

theorem keeps_holdPath {r s : State} {a2 : ℕ} {a3 : ℕ} (h : Keeps r s)  : Keeps r (State.holdPath s a2 a3) := by
  unfold State.holdPath
  repeat' first
    | (with_reducible first
      | assumption | apply keeps_raise | apply keeps_setFlow | fail_if_no_progress apply Keeps.update)
    | split

theorem keeps_hoveAnswer {r s : State} {a2 : ℕ} (h : Keeps r s)  : Keeps r (State.hoveAnswer s a2) := by
  unfold State.hoveAnswer
  repeat' first
    | (with_reducible first
      | assumption | apply keeps_remoteHove | fail_if_no_progress apply Keeps.update)
    | split

theorem keeps_loseByAck {r s : State} {a2 : ℕ} {a3 : Unacked} (h : Keeps r s)  : Keeps r (State.loseByAck s a2 a3) := by
  unfold State.loseByAck
  repeat' first
    | (with_reducible first
      | assumption | apply keeps_resend | apply keeps_setFlow | fail_if_no_progress apply Keeps.update)
    | split

theorem keeps_sendAck {r s : State} {a2 : ℕ} {a3 : ℕ} {a4 : ℕ} (h : Keeps r s)  : Keeps r (State.sendAck s a2 a3 a4) := by
  unfold State.sendAck
  repeat' first
    | (with_reducible first
      | assumption | apply keeps_sendPacket | apply keeps_setFlow | fail_if_no_progress apply Keeps.update)
    | split

theorem keeps_noteArrival {r s : State} {a2 : Pkt} {a3 : Bool} (h : Keeps r s)  : Keeps r (State.noteArrival s a2 a3) := by
  unfold State.noteArrival
  repeat' first
    | (with_reducible first
      | assumption | apply keeps_setFlow | apply keeps_sendAck | fail_if_no_progress apply Keeps.update
      | refine Keeps.of_pair (by assumption) ?_ | refine Keeps.of_swapped (by assumption) ?_)
    | split | intro _ | dsimp only

theorem keeps_repeated {r s : State} {a2 : Pkt} {a3 : Flow} (h : Keeps r s)  : Keeps r (State.repeated s a2 a3) := by
  unfold State.repeated
  repeat' first
    | (with_reducible first
      | assumption | apply keeps_sendAck | apply keeps_setFlow)

theorem keeps_resendLost {r s : State} {a2 : ℕ} (h : Keeps r s)  : Keeps r (State.resendLost s a2) := by
  unfold State.resendLost
  repeat' first
    | (with_reducible first
      | assumption | apply keeps_loseByAck | fail_if_no_progress apply Keeps.update | apply Keeps.foldl | apply Keeps.foldl_pair)
    | split | intro _

theorem keeps_showSrtt {r s : State} {a2 : ℕ} {a3 : Flow} (h : Keeps r s)  : Keeps r (State.showSrtt s a2 a3) := by
  unfold State.showSrtt
  repeat' first
    | (with_reducible first
      | assumption | apply keeps_fset | fail_if_no_progress apply Keeps.update)
    | split

theorem keeps_takeAck {r s : State} {a2 : Pkt} {a3 : Bool} (h : Keeps r s)  : Keeps r (State.takeAck s a2 a3) := by
  unfold State.takeAck
  repeat' first
    | (with_reducible first
      | assumption | apply keeps_resendLost | apply keeps_showSrtt | apply keeps_setFlow | apply keeps_drain | apply keeps_pump
      | fail_if_no_progress apply Keeps.update | refine Keeps.of_pair (by assumption) ?_ | refine Keeps.of_swapped (by assumption) ?_)
    | split | intro _ | dsimp only

theorem keeps_takeLedger {r s : State} {a2 : ℕ} {a3 : List Byte} (h : Keeps r s)  : Keeps r (State.takeLedger s a2 a3) := by
  unfold State.takeLedger
  repeat' first
    | (with_reducible first
      | assumption | apply keeps_writeBytes | apply keeps_setLed | apply keeps_showHall | apply keeps_setScale | apply keeps_setEpoch
      | apply keeps_leaveJob | apply keeps_showPart | apply keeps_seedBeats | fail_if_no_progress apply Keeps.update | apply Keeps.foldl
      | apply Keeps.foldl_pair)
    | split | intro _

theorem keeps_takeWard {r s : State} {a2 : ℕ} {a3 : List Byte} (h : Keeps r s)  : Keeps r (State.takeWard s a2 a3) := by
  unfold State.takeWard
  repeat' first
    | (with_reducible first
      | assumption | apply keeps_writeBytes | fail_if_no_progress apply Keeps.update | refine Keeps.of_pair (by assumption) ?_
      | refine Keeps.of_swapped (by assumption) ?_)
    | split | intro _ | dsimp only

theorem keeps_takeData {r s : State} {a2 : Pkt} {a3 : Flow} {a4 : ℕ} (h : Keeps r s)  : Keeps r (State.takeData s a2 a3 a4) := by
  unfold State.takeData
  repeat' first
    | (with_reducible first
      | assumption | apply keeps_noteArrival | apply keeps_sendPacket | apply keeps_setFlow | apply keeps_feederData
      | apply keeps_takeLedger | apply keeps_takeWard | fail_if_no_progress apply Keeps.update)
    | split

theorem keeps_placeData {r s : State} {a2 : Pkt} {a3 : Flow} {a4 : Option ℕ} (h : Keeps r s)  : Keeps r (State.placeData s a2 a3 a4) := by
  unfold State.placeData
  repeat' first
    | (with_reducible first
      | assumption | apply keeps_repeated | apply keeps_takeAck | apply keeps_takeData | fail_if_no_progress apply Keeps.update
      | refine Keeps.of_pair (by assumption) ?_ | refine Keeps.of_swapped (by assumption) ?_)
    | split | intro _ | dsimp only

theorem keeps_sendPfc {r s : State} {a2 : Frame} (h : Keeps r s)  : Keeps r (State.sendPfc s a2) := by
  unfold State.sendPfc
  repeat' first
    | (with_reducible first
      | assumption | apply keeps_enqueue | fail_if_no_progress apply Keeps.update | apply Keeps.foldl | apply Keeps.foldl_pair)
    | split | intro _

theorem keeps_execDataReceive {r s : State} {a1 : Pkt} (h : Keeps r s)  : KeepsOut r (execDataReceive a1 s) := by
  unfold execDataReceive
  repeat' first
    | (with_reducible first
      | assumption | apply KeepsOut.next | exact KeepsOut.fault | exact KeepsOut.refused | apply keeps_acceptTxc | apply keeps_placeData
      | fail_if_no_progress apply Keeps.update | refine Keeps.of_pair (by assumption) ?_ | refine Keeps.of_swapped (by assumption) ?_)
    | split | intro _ | dsimp only

theorem keeps_execAckReceive {r s : State} {a1 : Pkt} (h : Keeps r s)  : KeepsOut r (execAckReceive a1 s) := by
  unfold execAckReceive
  repeat' first
    | (with_reducible first
      | assumption | apply KeepsOut.next | exact KeepsOut.fault | exact KeepsOut.refused | apply keeps_takeAck | apply keeps_acceptTxc
      | fail_if_no_progress apply Keeps.update)
    | split

theorem keeps_execStatusReceive {r s : State} {a1 : Pkt} (h : Keeps r s)  : KeepsOut r (execStatusReceive a1 s) := by
  unfold execStatusReceive
  repeat' first
    | (with_reducible first
      | assumption | apply KeepsOut.next | exact KeepsOut.fault | exact KeepsOut.refused | apply keeps_acceptTxc | apply keeps_hoveAnswer
      | apply keeps_setFlow | fail_if_no_progress apply Keeps.update | refine Keeps.of_pair (by assumption) ?_
      | refine Keeps.of_swapped (by assumption) ?_)
    | split | intro _ | dsimp only

theorem keeps_execProbeReceive {r s : State} {a1 : Pkt} (h : Keeps r s)  : KeepsOut r (execProbeReceive a1 s) := by
  unfold execProbeReceive
  repeat' first
    | (with_reducible first
      | assumption | apply KeepsOut.next | exact KeepsOut.fault | exact KeepsOut.refused | apply keeps_acceptTxc | apply keeps_sendAck
      | apply keeps_setFlow | fail_if_no_progress apply Keeps.update | refine Keeps.of_pair (by assumption) ?_
      | refine Keeps.of_swapped (by assumption) ?_)
    | split | intro _ | dsimp only

theorem keeps_execFrameReceive {r s : State} {a1 : Frame} (h : Keeps r s)  : KeepsOut r (execFrameReceive a1 s) := by
  unfold execFrameReceive
  repeat' first
    | (with_reducible first
      | assumption | apply KeepsOut.next | exact KeepsOut.fault | exact KeepsOut.refused | apply keeps_countHs | apply keeps_sendPfc
      | apply keeps_countFec | apply keeps_fadd | fail_if_no_progress apply Keeps.update | refine Keeps.of_pair (by assumption) ?_
      | refine Keeps.of_swapped (by assumption) ?_)
    | split | intro _ | dsimp only

theorem keeps_execAckDelayExpiry {r s : State} {a1 : ℕ} (h : Keeps r s)  : KeepsOut r (execAckDelayExpiry a1 s) := by
  unfold execAckDelayExpiry
  repeat' first
    | (with_reducible first
      | assumption | apply KeepsOut.next | exact KeepsOut.fault | exact KeepsOut.refused | apply keeps_sendAck
      | fail_if_no_progress apply Keeps.update)
    | split

theorem keeps_execRtoExpiry {r s : State} {a1 : ℕ} {a2 : ℕ} (h : Keeps r s)  : KeepsOut r (execRtoExpiry a1 a2 s) := by
  unfold execRtoExpiry
  repeat' first
    | (with_reducible first
      | assumption | apply KeepsOut.next | exact KeepsOut.fault | exact KeepsOut.refused | apply keeps_resend | apply keeps_holdPath
      | fail_if_no_progress apply Keeps.update)
    | split

theorem keeps_execPathHoldExpiry {r s : State} {a1 : ℕ} {a2 : ℕ} (h : Keeps r s)  : KeepsOut r (execPathHoldExpiry a1 a2 s) := by
  unfold execPathHoldExpiry
  repeat' first
    | (with_reducible first
      | assumption | apply KeepsOut.next | exact KeepsOut.fault | exact KeepsOut.refused | apply keeps_putPacket | apply keeps_setFlow
      | fail_if_no_progress apply Keeps.update)
    | split

end Sys2Proof.Laws
end

