-- ==== Sys2Proof/Laws/KeepsPorts.lean ====
section
/-! SUPPORT. What the functions of Machine/Ports.lean keep: the grade, the waiting commands and the canonical storage. -/

namespace Sys2Proof.Laws

open Sys2Proof.Machine

set_option Elab.async false

theorem keeps_turnPaths {r s : State} {a2 : ℕ} {a3 : Bool} {a4 : ℕ} (h : Keeps r s)  : Keeps r (State.turnPaths s a2 a3 a4) := by
  unfold State.turnPaths
  repeat' first
    | (with_reducible first
      | assumption | apply keeps_setFlow | apply keeps_resend | fail_if_no_progress apply Keeps.update | apply Keeps.foldl
      | apply Keeps.foldl_pair)
    | split | intro _

theorem keeps_turnFlows {r s : State} {a2 : ℕ} {a3 : Bool} (h : Keeps r s)  : Keeps r (State.turnFlows s a2 a3) := by
  unfold State.turnFlows
  repeat' first
    | (with_reducible first
      | assumption | apply keeps_turnPaths | fail_if_no_progress apply Keeps.update | apply Keeps.foldl | apply Keeps.foldl_pair)
    | split | intro _

theorem keeps_portDown {r s : State} {a2 : ℕ} (h : Keeps r s)  : Keeps r (State.portDown s a2) := by
  unfold State.portDown
  repeat' first
    | (with_reducible first
      | assumption | apply keeps_fset | apply keeps_latch | apply keeps_fadd | apply keeps_turnFlows
      | fail_if_no_progress apply Keeps.update)
    | split

theorem keeps_groupFaults {r s : State} {a2 : ℕ} (h : Keeps r s)  : Keeps r (State.groupFaults s a2) := by
  unfold State.groupFaults
  repeat' first
    | (with_reducible first
      | assumption | apply keeps_fset | apply keeps_portDown | fail_if_no_progress apply Keeps.update | apply Keeps.foldl
      | apply Keeps.foldl_pair)
    | split | intro _

theorem keeps_groupOff {r s : State} {a2 : ℕ} {a3 : ℕ} (h : Keeps r s)  : Keeps r (State.groupOff s a2 a3) := by
  unfold State.groupOff
  repeat' first
    | (with_reducible first
      | assumption | apply keeps_fset | apply keeps_portDown | fail_if_no_progress apply Keeps.update | apply Keeps.foldl
      | apply Keeps.foldl_pair)
    | split | intro _

theorem keeps_groupRetry {r s : State} {a2 : ℕ} (h : Keeps r s)  : Keeps r (State.groupRetry s a2) := by
  unfold State.groupRetry
  repeat' first
    | (with_reducible first
      | assumption | apply keeps_fset | fail_if_no_progress apply Keeps.update | apply Keeps.foldl | apply Keeps.foldl_pair
      | refine Keeps.of_pair (by assumption) ?_ | refine Keeps.of_swapped (by assumption) ?_)
    | split | intro _ | dsimp only

theorem keeps_endGroupOp {r s : State} {a2 : ℕ} {a3 : Status} (h : Keeps r s)  : Keeps r (State.endGroupOp s a2 a3) := by
  unfold State.endGroupOp
  repeat' first
    | (with_reducible first
      | assumption | apply keeps_liveDone | fail_if_no_progress apply Keeps.update)
    | split

theorem keeps_pumpFlow {r s : State} {a2 : ℕ} (h : Keeps r s)  : Keeps r (State.pumpFlow s a2) := by
  unfold State.pumpFlow
  repeat' first
    | (with_reducible first
      | assumption | apply keeps_pump)

theorem keeps_pumpDie {r s : State} {a2 : ℕ} (h : Keeps r s)  : Keeps r (State.pumpDie s a2) := by
  unfold State.pumpDie
  repeat' first
    | (with_reducible first
      | assumption | apply keeps_pumpFlow | fail_if_no_progress apply Keeps.update | apply Keeps.foldl)

theorem keeps_sendFrame {r s : State} {a2 : ℕ} {a3 : Out} (h : Keeps r s)  : Keeps r (State.sendFrame s a2 a3) := by
  unfold State.sendFrame
  repeat' first
    | (with_reducible first
      | assumption | apply keeps_enqueue)

theorem keeps_execArpRequest {r s : State} {a1 : ℕ} {a2 : ℕ} (h : Keeps r s)  : KeepsOut r (execArpRequest a1 a2 s) := by
  unfold execArpRequest
  repeat' first
    | (with_reducible first
      | assumption | apply KeepsOut.next | exact KeepsOut.fault | exact KeepsOut.refused | apply keeps_sendFrame
      | fail_if_no_progress apply Keeps.update)
    | split

theorem keeps_execNeighbourSolicitation {r s : State} {a1 : ℕ} {a2 : ℕ} (h : Keeps r s)  : KeepsOut r (execNeighbourSolicitation a1 a2 s) := by
  unfold execNeighbourSolicitation
  repeat' first
    | (with_reducible first
      | assumption | apply KeepsOut.next | exact KeepsOut.fault | exact KeepsOut.refused | apply keeps_sendFrame
      | fail_if_no_progress apply Keeps.update)
    | split

theorem keeps_execGatewayResolve {r s : State} {a1 : ℕ} {a2 : Option ℕ} (h : Keeps r s)  : KeepsOut r (execGatewayResolve a1 a2 s) := by
  unfold execGatewayResolve
  repeat' first
    | (with_reducible first
      | assumption | apply KeepsOut.next | exact KeepsOut.fault | exact KeepsOut.refused | apply keeps_sendFrame
      | fail_if_no_progress apply Keeps.update)
    | split

theorem keeps_execPfcFrame {r s : State} {a1 : ℕ} {a2 : ℕ} (h : Keeps r s)  : KeepsOut r (execPfcFrame a1 a2 s) := by
  unfold execPfcFrame
  repeat' first
    | (with_reducible first
      | assumption | apply KeepsOut.next | exact KeepsOut.fault | exact KeepsOut.refused | apply keeps_pumpDie
      | fail_if_no_progress apply Keeps.update)
    | split

theorem keeps_execPortLinkDown {r s : State} {a1 : ℕ} (h : Keeps r s)  : KeepsOut r (execPortLinkDown a1 s) := by
  unfold execPortLinkDown
  repeat' first
    | (with_reducible first
      | assumption | apply KeepsOut.next | exact KeepsOut.fault | exact KeepsOut.refused | apply keeps_open_ | apply keeps_fset
      | apply keeps_portDown | fail_if_no_progress apply Keeps.update)
    | split

theorem keeps_execPortLinkUp {r s : State} {a1 : ℕ} {a2 : ℕ} (h : Keeps r s)  : KeepsOut r (execPortLinkUp a1 a2 s) := by
  unfold execPortLinkUp
  repeat' first
    | (with_reducible first
      | assumption | apply KeepsOut.next | exact KeepsOut.fault | exact KeepsOut.refused | apply keeps_fset | apply keeps_latch
      | apply keeps_pumpDie | apply keeps_turnFlows | fail_if_no_progress apply Keeps.update | refine Keeps.of_pair (by assumption) ?_
      | refine Keeps.of_swapped (by assumption) ?_)
    | split | intro _ | dsimp only

theorem keeps_execPortGroupFault {r s : State} {a1 : ℕ} (h : Keeps r s)  : KeepsOut r (execPortGroupFault a1 s) := by
  unfold execPortGroupFault
  repeat' first
    | (with_reducible first
      | assumption | apply KeepsOut.next | exact KeepsOut.fault | exact KeepsOut.refused | apply keeps_faultDomain
      | fail_if_no_progress apply Keeps.update)
    | split

theorem keeps_execPortGroupRecoveryEnd {r s : State} {a1 : ℕ} {a2 : Bool} (h : Keeps r s)  : KeepsOut r (execPortGroupRecoveryEnd a1 a2 s) := by
  unfold execPortGroupRecoveryEnd
  repeat' first
    | (with_reducible first
      | assumption | apply KeepsOut.next | exact KeepsOut.fault | exact KeepsOut.refused | apply keeps_groupRetry
      | apply keeps_endGroupOp | apply keeps_releaseSlot | apply keeps_domainBack | apply keeps_loseDomain
      | fail_if_no_progress apply Keeps.update | refine Keeps.of_pair (by assumption) ?_ | refine Keeps.of_swapped (by assumption) ?_)
    | split | intro _ | dsimp only

end Sys2Proof.Laws
end

