-- ==== Sys2Proof/Laws/KeepsInputs.lean ====
section
/-! SUPPORT. What the functions of Machine/Inputs.lean keep: the grade, the waiting commands and the canonical storage. -/

namespace Sys2Proof.Laws

open Sys2Proof.Machine

set_option Elab.async false

theorem keeps_showWindow {r s : State} {a2 : ℕ} (h : Keeps r s)  : Keeps r (State.showWindow s a2) := by
  unfold State.showWindow
  repeat' first
    | (with_reducible first
      | assumption | apply keeps_fset)

theorem keeps_ageInputs {r s : State}  (h : Keeps r s)  : Keeps r (State.ageInputs s) := by
  unfold State.ageInputs
  repeat' first
    | (with_reducible first
      | assumption | apply keeps_showWindow | fail_if_no_progress apply Keeps.update | apply Keeps.foldl)

theorem keeps_maskInput {r s : State} {a2 : ℕ} (h : Keeps r s)  : Keeps r (State.maskInput s a2) := by
  unfold State.maskInput
  repeat' first
    | (with_reducible first
      | assumption | apply keeps_fset | fail_if_no_progress apply Keeps.update)

theorem keeps_chatter {r s : State} {a2 : ℕ} (h : Keeps r s)  : Keeps r (State.chatter s a2) := by
  unfold State.chatter
  repeat' first
    | (with_reducible first
      | assumption | apply keeps_raise | apply keeps_fadd | apply keeps_maskInput | fail_if_no_progress apply Keeps.update)
    | split

theorem keeps_countEdges {r s : State} {a2 : ℕ} {a3 : ℕ} (h : Keeps r s)  : Keeps r (State.countEdges s a2 a3) := by
  unfold State.countEdges
  repeat' first
    | (with_reducible first
      | assumption | apply keeps_fadd | apply keeps_chatter | apply keeps_showWindow | fail_if_no_progress apply Keeps.update)

theorem keeps_setLevel {r s : State} {a2 : ℕ} {a3 : Bool} (h : Keeps r s)  : Keeps r (State.setLevel s a2 a3) := by
  unfold State.setLevel
  repeat' first
    | (with_reducible first
      | assumption | apply keeps_fset)

theorem keeps_unmask {r s : State} {a2 : ℕ} (h : Keeps r s)  : Keeps r (State.unmask s a2) := by
  unfold State.unmask
  repeat' first
    | (with_reducible first
      | assumption | apply keeps_raise | apply keeps_fset | fail_if_no_progress apply Keeps.update)
    | split

end Sys2Proof.Laws
end

