-- ==== Sys2Proof/Laws/KeepsSideband.lean ====
section
/-! SUPPORT. What the functions of Machine/Sideband.lean keep: the grade, the waiting commands and the canonical storage. -/

namespace Sys2Proof.Laws

open Sys2Proof.Machine

set_option Elab.async false

theorem keeps_setCorePwr {r s : State} {a2 : ℕ} {a3 : ℕ} (h : Keeps r s)  : Keeps r (State.setCorePwr s a2 a3) := by
  unfold State.setCorePwr
  repeat' first
    | (with_reducible first
      | assumption | apply keeps_fset | fail_if_no_progress apply Keeps.update | apply Keeps.foldl | apply Keeps.foldl_pair)
    | split | intro _

theorem keeps_wake {r s : State} {a2 : ℕ} (h : Keeps r s)  : Keeps r (State.wake s a2) := by
  unfold State.wake
  repeat' first
    | (with_reducible first
      | assumption | apply keeps_fadd | apply keeps_setCorePwr | fail_if_no_progress apply Keeps.update)
    | split

theorem keeps_finishDeep {r s : State}  (h : Keeps r s)  : Keeps r (State.finishDeep s) := by
  unfold State.finishDeep
  repeat' first
    | (with_reducible first
      | assumption | apply keeps_setCorePwr | apply keeps_wake | fail_if_no_progress apply Keeps.update | apply Keeps.foldl
      | apply Keeps.foldl_pair)
    | split | intro _

theorem keeps_countQuiet {r s : State}  (h : Keeps r s)  : Keeps r (State.countQuiet s) := by
  unfold State.countQuiet
  repeat' first
    | (with_reducible first
      | assumption | fail_if_no_progress apply Keeps.update)
    | split

theorem keeps_hostLinkTrain {r s : State}  (h : Keeps r s)  : Keeps r (State.hostLinkTrain s) := by
  unfold State.hostLinkTrain
  repeat' first
    | (with_reducible first
      | assumption | apply keeps_open_ | apply keeps_fset)

theorem keeps_endIde {r s : State}  (h : Keeps r s)  : Keeps r (State.endIde s) := by
  unfold State.endIde
  repeat' first
    | (with_reducible first
      | assumption | apply keeps_raise | apply keeps_fset | fail_if_no_progress apply Keeps.update)
    | split

theorem keeps_endHold {r s : State}  (h : Keeps r s)  : Keeps r (State.endHold s) := by
  unfold State.endHold
  repeat' first
    | (with_reducible first
      | assumption | apply keeps_fset | apply keeps_raise | fail_if_no_progress apply Keeps.update)
    | split

theorem keeps_hostLinkDown {r s : State}  (h : Keeps r s)  : Keeps r (State.hostLinkDown s) := by
  unfold State.hostLinkDown
  repeat' first
    | (with_reducible first
      | assumption | apply keeps_fset | fail_if_no_progress apply Keeps.update | apply Keeps.foldl | apply Keeps.foldl_pair)
    | split | intro _

theorem keeps_resetLink {r s : State}  (h : Keeps r s)  : Keeps r (State.resetLink s) := by
  unfold State.resetLink
  repeat' first
    | (with_reducible first
      | assumption | apply keeps_fset | apply keeps_setLevel | apply keeps_endIde | apply keeps_hostLinkDown
      | fail_if_no_progress apply Keeps.update | apply Keeps.foldl | apply Keeps.foldl_pair | refine Keeps.of_pair (by assumption) ?_
      | refine Keeps.of_swapped (by assumption) ?_ | apply Keeps.storage)
    | exact id | exact wf_filter _ | exact filter_wf _ | exact fun _ => rfl | split | intro _ | dsimp only

theorem keeps_execLullEntry {r s : State} {a1 : ℕ} (h : Keeps r s)  : KeepsOut r (execLullEntry a1 s) := by
  unfold execLullEntry
  repeat' first
    | (with_reducible first
      | assumption | apply KeepsOut.next | exact KeepsOut.fault | exact KeepsOut.refused | apply keeps_setCorePwr
      | fail_if_no_progress apply Keeps.update)
    | split

theorem keeps_execDeepLullEntry {r s : State} {a1 : ℕ} (h : Keeps r s)  : KeepsOut r (execDeepLullEntry a1 s) := by
  unfold execDeepLullEntry
  repeat' first
    | (with_reducible first
      | assumption | apply KeepsOut.next | exact KeepsOut.fault | exact KeepsOut.refused | fail_if_no_progress apply Keeps.update)
    | split

theorem keeps_execCoreWake {r s : State} {a1 : ℕ} (h : Keeps r s)  : KeepsOut r (execCoreWake a1 s) := by
  unfold execCoreWake
  repeat' first
    | (with_reducible first
      | assumption | apply KeepsOut.next | exact KeepsOut.fault | exact KeepsOut.refused | apply keeps_wake
      | fail_if_no_progress apply Keeps.update)
    | split

theorem keeps_execPerstNAssert {r s : State} {a1 : ℕ} (h : Keeps r s)  : KeepsOut r (execPerstNAssert a1 s) := by
  unfold execPerstNAssert
  repeat' first
    | (with_reducible first
      | assumption | apply KeepsOut.next | exact KeepsOut.fault | exact KeepsOut.refused | apply keeps_countEdges | apply keeps_resetLink
      | fail_if_no_progress apply Keeps.update)
    | split

theorem keeps_execPerstNDeassert {r s : State}  (h : Keeps r s)  : KeepsOut r (execPerstNDeassert s) := by
  unfold execPerstNDeassert
  repeat' first
    | (with_reducible first
      | assumption | apply KeepsOut.next | exact KeepsOut.fault | exact KeepsOut.refused | apply keeps_setLevel | apply keeps_countEdges
      | apply keeps_hostLinkTrain | fail_if_no_progress apply Keeps.update | refine Keeps.of_pair (by assumption) ?_
      | refine Keeps.of_swapped (by assumption) ?_)
    | split | intro _ | dsimp only

theorem keeps_execHoldNLow {r s : State} {a1 : ℕ} (h : Keeps r s)  : KeepsOut r (execHoldNLow a1 s) := by
  unfold execHoldNLow
  repeat' first
    | (with_reducible first
      | assumption | apply KeepsOut.next | exact KeepsOut.fault | exact KeepsOut.refused | apply keeps_countEdges | apply keeps_setLevel
      | apply keeps_fset | apply keeps_raise | fail_if_no_progress apply Keeps.update | refine Keeps.of_pair (by assumption) ?_
      | refine Keeps.of_swapped (by assumption) ?_)
    | split | intro _ | dsimp only

theorem keeps_execHoldTakeEffect {r s : State}  (h : Keeps r s)  : KeepsOut r (execHoldTakeEffect s) := by
  unfold execHoldTakeEffect
  repeat' first
    | (with_reducible first
      | assumption | apply KeepsOut.next | exact KeepsOut.fault | exact KeepsOut.refused | apply keeps_fset
      | fail_if_no_progress apply Keeps.update)
    | split

theorem keeps_execHoldNHigh {r s : State} {a1 : ℕ} (h : Keeps r s)  : KeepsOut r (execHoldNHigh a1 s) := by
  unfold execHoldNHigh
  repeat' first
    | (with_reducible first
      | assumption | apply KeepsOut.next | exact KeepsOut.fault | exact KeepsOut.refused | apply keeps_countEdges | apply keeps_setLevel
      | apply keeps_endHold | fail_if_no_progress apply Keeps.update | refine Keeps.of_pair (by assumption) ?_
      | refine Keeps.of_swapped (by assumption) ?_)
    | split | intro _ | dsimp only

theorem keeps_execHoldLimitExpiry {r s : State}  (h : Keeps r s)  : KeepsOut r (execHoldLimitExpiry s) := by
  unfold execHoldLimitExpiry
  repeat' first
    | (with_reducible first
      | assumption | apply KeepsOut.next | exact KeepsOut.fault | exact KeepsOut.refused | apply keeps_raise | apply keeps_fset
      | apply keeps_askHove | apply keeps_endHold | apply keeps_setLevel | apply keeps_maskInput | fail_if_no_progress apply Keeps.update
      | refine Keeps.of_pair (by assumption) ?_ | refine Keeps.of_swapped (by assumption) ?_)
    | split | intro _ | dsimp only

theorem keeps_execSidebandChatter {r s : State} {a1 : ℕ} {a2 : ℕ} (h : Keeps r s)  : KeepsOut r (execSidebandChatter a1 a2 s) := by
  unfold execSidebandChatter
  repeat' first
    | (with_reducible first
      | assumption | apply KeepsOut.next | exact KeepsOut.fault | exact KeepsOut.refused | apply keeps_countEdges
      | fail_if_no_progress apply Keeps.update)
    | split

theorem keeps_execSidebandAutoUnmask {r s : State} {a1 : ℕ} (h : Keeps r s)  : KeepsOut r (execSidebandAutoUnmask a1 s) := by
  unfold execSidebandAutoUnmask
  repeat' first
    | (with_reducible first
      | assumption | apply KeepsOut.next | exact KeepsOut.fault | exact KeepsOut.refused | apply keeps_unmask
      | fail_if_no_progress apply Keeps.update)
    | split

theorem keeps_execSbUnmask {r s : State} {a1 : ℕ} (h : Keeps r s)  : KeepsOut r (execSbUnmask a1 s) := by
  unfold execSbUnmask
  repeat' first
    | (with_reducible first
      | assumption | apply KeepsOut.next | exact KeepsOut.fault | exact KeepsOut.refused | apply keeps_unmask | apply keeps_fset
      | fail_if_no_progress apply Keeps.update | apply Keeps.foldl)

theorem keeps_execPcieRefclkMissing {r s : State}  (h : Keeps r s)  : KeepsOut r (execPcieRefclkMissing s) := by
  unfold execPcieRefclkMissing
  repeat' first
    | (with_reducible first
      | assumption | apply KeepsOut.next | exact KeepsOut.fault | exact KeepsOut.refused | apply keeps_hostLinkDown
      | fail_if_no_progress apply Keeps.update)

theorem keeps_execPcieRefclkReturn {r s : State}  (h : Keeps r s)  : KeepsOut r (execPcieRefclkReturn s) := by
  unfold execPcieRefclkReturn
  repeat' first
    | (with_reducible first
      | assumption | apply KeepsOut.next | exact KeepsOut.fault | exact KeepsOut.refused | apply keeps_hostLinkTrain | apply keeps_fadd
      | fail_if_no_progress apply Keeps.update | refine Keeps.of_pair (by assumption) ?_ | refine Keeps.of_swapped (by assumption) ?_)
    | split | intro _ | dsimp only

end Sys2Proof.Laws
end

