-- ==== Sys2Proof/Laws/KeepsDebug.lean ====
section
/-! SUPPORT. What the functions of Machine/Debug.lean keep: the grade, the waiting commands and the canonical storage. -/

namespace Sys2Proof.Laws

open Sys2Proof.Machine

set_option Elab.async false

theorem keeps_acceptFull {r s : State}  (h : Keeps r s)  : Keeps r (State.acceptFull s) := by
  unfold State.acceptFull
  repeat' first
    | (with_reducible first
      | assumption | apply keeps_abortVote | apply keeps_fset | fail_if_no_progress apply Keeps.update)

theorem keeps_eraseSecrets {r s : State}  (h : Keeps r s)  : Keeps r (State.eraseSecrets s) := by
  unfold State.eraseSecrets
  repeat' first
    | (with_reducible first
      | assumption | apply keeps_endSession | apply keeps_dropExchange | apply keeps_endIde | apply keeps_fset | apply keeps_portDown
      | apply keeps_extendWith | apply keeps_raise | fail_if_no_progress apply Keeps.update | apply Keeps.foldl | apply Keeps.foldl_pair)
    | split | intro _

theorem keeps_destroy {r s : State} {a2 : Nat} {a3 : Nat} (h : Keeps r s) : Keeps r (State.destroy s a2 a3) := by
  unfold State.destroy
  split
  iterate 2 exact Keeps.storage h (filter_wf _) (wf_filter _) (wf_filter _) id id
  · refine Keeps.foldl h fun s i hs => Keeps.foldl hs fun s m hm => ?_
    exact keeps_wr (keeps_open_ hm)
  iterate 2 exact Keeps.storage h (filter_wf _) (wf_filter _) (wf_filter _) id id
  exact h

theorem keeps_jtagActs {r s : State} {a2 : ℕ} (h : Keeps r s)  : Keeps r (State.jtagActs s a2) := by
  unfold State.jtagActs
  repeat' first
    | (with_reducible first
      | assumption | fail_if_no_progress apply Keeps.update)

theorem keeps_muxEdge {r s : State}  (h : Keeps r s)  : Keeps r (State.muxEdge s) := by
  unfold State.muxEdge
  repeat' first
    | (with_reducible first
      | assumption | apply keeps_fset | apply keeps_open_ | fail_if_no_progress apply Keeps.update
      | refine Keeps.of_pair (by assumption) ?_ | refine Keeps.of_swapped (by assumption) ?_)
    | split | intro _ | dsimp only

theorem keeps_newChallenge {r s : State}  (h : Keeps r s)  : Keeps r (State.newChallenge s) := by
  unfold State.newChallenge
  repeat' first
    | (with_reducible first
      | assumption | apply keeps_draw | apply keeps_fset | fail_if_no_progress apply Keeps.update | apply Keeps.foldl
      | apply Keeps.foldl_pair)
    | split | intro _

theorem keeps_openObserve {r s : State} {a2 : ℕ} (h : Keeps r s)  : Keeps r (State.openObserve s a2) := by
  unfold State.openObserve
  repeat' first
    | (with_reducible first
      | assumption | apply keeps_fset | apply keeps_raise | apply keeps_extendWith)

theorem keeps_refuseToken {r s : State} {a2 : Status} (h : Keeps r s)  : Keeps r (State.refuseToken s a2) := by
  unfold State.refuseToken
  repeat' first
    | (with_reducible first
      | assumption | apply keeps_fset | apply keeps_fadd | apply keeps_raise | fail_if_no_progress apply Keeps.update)
    | split

theorem keeps_select {r s : State} {a2 : ℕ} {a3 : Bool} (h : Keeps r s)  : Keeps r (State.select s a2 a3) := by
  unfold State.select
  repeat' first
    | (with_reducible first
      | assumption | fail_if_no_progress apply Keeps.update)

theorem keeps_selectAt {r s : State} {a2 : ℕ} {a3 : ℕ} {f : State → State} (h : Keeps r s) (hf : ∀ x, Keeps r x → Keeps r (f x)) : Keeps r (State.selectAt s a2 a3 f) := by
  unfold State.selectAt
  repeat' first
    | (with_reducible first
      | assumption | apply hf | apply keeps_select | fail_if_no_progress apply Keeps.update)
    | split

theorem keeps_selectGroup {r s : State} {a2 : Word} (h : Keeps r s)  : Keeps r (State.selectGroup s a2) := by
  unfold State.selectGroup
  repeat' first
    | (with_reducible first
      | assumption | apply keeps_wr | apply keeps_fadd | fail_if_no_progress apply Keeps.update)
    | split

theorem keeps_shiftOut {r s : State} {a2 : ℕ} {a3 : ℕ} (h : Keeps r s)  : Keeps r (State.shiftOut s a2 a3) := by
  unfold State.shiftOut
  repeat' first
    | (with_reducible first
      | assumption | apply keeps_emit | fail_if_no_progress apply Keeps.update)

theorem keeps_showBist {r s : State}  (h : Keeps r s)  : Keeps r (State.showBist s) := by
  unfold State.showBist
  repeat' first
    | (with_reducible first
      | assumption | apply keeps_fset)

theorem keeps_startBist {r s : State} {a2 : ℕ} {a3 : ℕ} (h : Keeps r s)  : Keeps r (State.startBist s a2 a3) := by
  unfold State.startBist
  repeat' first
    | (with_reducible first
      | assumption | apply keeps_fadd | apply keeps_showBist | apply keeps_destroy | fail_if_no_progress apply Keeps.update)
    | split

theorem keeps_submitToken {r s : State} {a2 : List Byte} {a3 : Bool} (h : Keeps r s)  : Keeps r (State.submitToken s a2 a3) := by
  unfold State.submitToken
  repeat' first
    | (with_reducible first
      | assumption | apply keeps_refuseToken | apply keeps_acceptFull | apply keeps_openObserve | fail_if_no_progress apply Keeps.update
      | refine Keeps.of_pair (by assumption) ?_ | refine Keeps.of_swapped (by assumption) ?_)
    | split | intro _ | dsimp only

theorem keeps_zeroFill {r s : State}  (h : Keeps r s)  : Keeps r (State.zeroFill s) := by
  unfold State.zeroFill
  repeat' first
    | (with_reducible first
      | assumption | apply keeps_mirrorLog | fail_if_no_progress apply Keeps.update | refine Keeps.of_pair (by assumption) ?_
      | refine Keeps.of_swapped (by assumption) ?_ | apply Keeps.storage)
    | exact id | exact wf_filter _ | exact filter_wf _ | exact fun _ => rfl | split | intro _ | dsimp only

theorem keeps_execNewChal {r s : State}  (h : Keeps r s)  : KeepsOut r (execNewChal s) := by
  unfold execNewChal
  repeat' first
    | (with_reducible first
      | assumption | apply KeepsOut.next | exact KeepsOut.fault | exact KeepsOut.refused | apply keeps_newChallenge | apply keeps_fset)

theorem keeps_execDbgSubmit {r s : State} {a1 : Bool} (h : Keeps r s)  : KeepsOut r (execDbgSubmit a1 s) := by
  unfold execDbgSubmit
  repeat' first
    | (with_reducible first
      | assumption | apply KeepsOut.next | exact KeepsOut.fault | exact KeepsOut.refused | apply keeps_fset | apply keeps_refuseToken
      | apply keeps_readBytes | apply keeps_submitToken | fail_if_no_progress apply Keeps.update
      | refine Keeps.of_pair (by assumption) ?_ | refine Keeps.of_swapped (by assumption) ?_)
    | split | intro _ | dsimp only

theorem keeps_execDbgClose {r s : State}  (h : Keeps r s)  : KeepsOut r (execDbgClose s) := by
  unfold execDbgClose
  repeat' first
    | (with_reducible first
      | assumption | apply KeepsOut.next | exact KeepsOut.fault | exact KeepsOut.refused | apply keeps_fset
      | fail_if_no_progress apply Keeps.update | refine Keeps.of_pair (by assumption) ?_ | refine Keeps.of_swapped (by assumption) ?_)
    | split | intro _ | dsimp only

theorem keeps_execFullDebugOpen {r s : State}  (h : Keeps r s)  : KeepsOut r (execFullDebugOpen s) := by
  unfold execFullDebugOpen
  repeat' first
    | (with_reducible first
      | assumption | apply KeepsOut.next | exact KeepsOut.fault | exact KeepsOut.refused | apply keeps_fset | apply keeps_zeroFill
      | fail_if_no_progress apply Keeps.update)
    | split

theorem keeps_execTrstNAssert {r s : State}  (h : Keeps r s)  : KeepsOut r (execTrstNAssert s) := by
  unfold execTrstNAssert
  repeat' first
    | (with_reducible first
      | assumption | apply KeepsOut.next | exact KeepsOut.fault | exact KeepsOut.refused | fail_if_no_progress apply Keeps.update)

theorem keeps_execIdcode {r s : State}  (h : Keeps r s)  : KeepsOut r (execIdcode s) := by
  unfold execIdcode
  repeat' first
    | (with_reducible first
      | assumption | apply KeepsOut.next | exact KeepsOut.fault | exact KeepsOut.refused | apply keeps_shiftOut | apply keeps_select)

theorem keeps_execSamplePreload {r s : State} {a1 : ℕ} (h : Keeps r s)  : KeepsOut r (execSamplePreload a1 s) := by
  unfold execSamplePreload
  repeat' first
    | (with_reducible first
      | assumption | apply KeepsOut.next | exact KeepsOut.fault | exact KeepsOut.refused | apply keeps_select | apply keeps_shiftOut
      | fail_if_no_progress apply Keeps.update)

theorem keeps_execExtest {r s : State} {a1 : ℕ} (h : Keeps r s)  : KeepsOut r (execExtest a1 s) := by
  unfold execExtest
  repeat' first
    | (with_reducible first
      | assumption | apply KeepsOut.next | exact KeepsOut.fault | exact KeepsOut.refused | apply keeps_selectAt
      | fail_if_no_progress apply Keeps.update)
    | split | intro _

theorem keeps_execClamp {r s : State}  (h : Keeps r s)  : KeepsOut r (execClamp s) := by
  unfold execClamp
  repeat' first
    | (with_reducible first
      | assumption | apply KeepsOut.next | exact KeepsOut.fault | exact KeepsOut.refused | apply keeps_selectAt | apply keeps_select
      | fail_if_no_progress apply Keeps.update)
    | split | intro _

theorem keeps_execHighz {r s : State}  (h : Keeps r s)  : KeepsOut r (execHighz s) := by
  unfold execHighz
  repeat' first
    | (with_reducible first
      | assumption | apply KeepsOut.next | exact KeepsOut.fault | exact KeepsOut.refused | apply keeps_selectAt | apply keeps_select
      | fail_if_no_progress apply Keeps.update)
    | split | intro _

theorem keeps_execBypass {r s : State}  (h : Keeps r s)  : KeepsOut r (execBypass s) := by
  unfold execBypass
  repeat' first
    | (with_reducible first
      | assumption | apply KeepsOut.next | exact KeepsOut.fault | exact KeepsOut.refused | apply keeps_select)

theorem keeps_execJtagChallenge {r s : State}  (h : Keeps r s)  : KeepsOut r (execJtagChallenge s) := by
  unfold execJtagChallenge
  repeat' first
    | (with_reducible first
      | assumption | apply KeepsOut.next | exact KeepsOut.fault | exact KeepsOut.refused | apply keeps_newChallenge | apply keeps_select
      | apply keeps_shiftOut)

theorem keeps_execToken {r s : State} {a1 : List Byte} {a2 : Bool} (h : Keeps r s)  : KeepsOut r (execToken a1 a2 s) := by
  unfold execToken
  repeat' first
    | (with_reducible first
      | assumption | apply KeepsOut.next | exact KeepsOut.fault | exact KeepsOut.refused | apply keeps_submitToken | apply keeps_jtagActs
      | apply keeps_select)

theorem keeps_execDbgstatus {r s : State}  (h : Keeps r s)  : KeepsOut r (execDbgstatus s) := by
  unfold execDbgstatus
  repeat' first
    | (with_reducible first
      | assumption | apply KeepsOut.next | exact KeepsOut.fault | exact KeepsOut.refused | apply keeps_shiftOut | apply keeps_select)

theorem keeps_execMuxsel {r s : State} {a1 : Word} (h : Keeps r s)  : KeepsOut r (execMuxsel a1 s) := by
  unfold execMuxsel
  repeat' first
    | (with_reducible first
      | assumption | apply KeepsOut.next | exact KeepsOut.fault | exact KeepsOut.refused | apply keeps_selectAt | apply keeps_selectGroup
      | apply keeps_jtagActs | fail_if_no_progress apply Keeps.update)
    | split | intro _

theorem keeps_execIjtag {r s : State} {a1 : List Bool} (h : Keeps r s)  : KeepsOut r (execIjtag a1 s) := by
  unfold execIjtag
  repeat' first
    | (with_reducible first
      | assumption | apply KeepsOut.next | exact KeepsOut.fault | exact KeepsOut.refused | apply keeps_selectAt
      | fail_if_no_progress apply Keeps.update)
    | split | intro _

theorem keeps_execBistctl {r s : State} {a1 : Word} (h : Keeps r s)  : KeepsOut r (execBistctl a1 s) := by
  unfold execBistctl
  repeat' first
    | (with_reducible first
      | assumption | apply KeepsOut.next | exact KeepsOut.fault | exact KeepsOut.refused | apply keeps_selectAt | apply keeps_startBist
      | apply keeps_jtagActs | fail_if_no_progress apply Keeps.update)
    | split | intro _

theorem keeps_execTmSelWrite {r s : State} {a1 : Word} (h : Keeps r s)  : KeepsOut r (execTmSelWrite a1 s) := by
  unfold execTmSelWrite
  repeat' first
    | (with_reducible first
      | assumption | apply KeepsOut.next | exact KeepsOut.fault | exact KeepsOut.refused | apply keeps_fadd | apply keeps_selectGroup
      | fail_if_no_progress apply Keeps.update)
    | split

theorem keeps_execBistStart {r s : State}  (h : Keeps r s)  : KeepsOut r (execBistStart s) := by
  unfold execBistStart
  repeat' first
    | (with_reducible first
      | assumption | apply KeepsOut.next | exact KeepsOut.fault | exact KeepsOut.refused | apply keeps_fset | apply keeps_fadd
      | apply keeps_startBist | fail_if_no_progress apply Keeps.update | refine Keeps.of_pair (by assumption) ?_
      | refine Keeps.of_swapped (by assumption) ?_)
    | split | intro _ | dsimp only

theorem keeps_execBistSessionEnd {r s : State} {a1 : ℕ} {a2 : ℕ} {a3 : Bool} (h : Keeps r s)  : KeepsOut r (execBistSessionEnd a1 a2 a3 s) := by
  unfold execBistSessionEnd
  repeat' first
    | (with_reducible first
      | assumption | apply KeepsOut.next | exact KeepsOut.fault | exact KeepsOut.refused | apply keeps_showBist | apply keeps_fset
      | apply keeps_error | apply keeps_fadd | fail_if_no_progress apply Keeps.update)
    | split

end Sys2Proof.Laws
end

