-- ==== Sys2Proof/Laws/KeepsCastling.lean ====
section
/-! SUPPORT. What the functions of Machine/Castling.lean keep: the grade, the waiting commands and the canonical storage. -/

namespace Sys2Proof.Laws

open Sys2Proof.Machine

set_option Elab.async false

theorem keeps_markDirty {r s : State} {a2 : CUnit} {a3 : List ℕ} (h : Keeps r s)  : Keeps r (State.markDirty s a2 a3) := by
  unfold State.markDirty
  repeat' first
    | (with_reducible first
      | assumption | fail_if_no_progress apply Keeps.update)

theorem keeps_exportSlots {r s : State} {a2 : ℕ} {a3 : List ℕ} (h : Keeps r s)  : Keeps r (State.exportSlots s a2 a3).1 := by
  induction a3 generalizing s a2 with
  | nil =>
    unfold State.exportSlots
    repeat' first
      | (with_reducible first
        | assumption)
  | cons x l ih =>
    unfold State.exportSlots
    repeat' first
      | (with_reducible first
        | assumption | apply keeps_loadAt | apply ih)

theorem keeps_exportRows {r s : State} {a2 : ℕ} {a3 : List (ℕ × List ℕ)} (h : Keeps r s)  : Keeps r (State.exportRows s a2 a3).1 := by
  induction a3 generalizing s a2 with
  | nil =>
    unfold State.exportRows
    repeat' first
      | (with_reducible first
        | assumption)
  | cons x l ih =>
    unfold State.exportRows
    repeat' first
      | (with_reducible first
        | assumption | apply keeps_exportSlots | apply ih)

theorem keeps_exportRecords {r s : State} {a2 : ℕ} {a3 : ℕ} {a4 : ℕ} {a5 : ℕ} {a6 : Bool} {a7 : Bool} {a8 : ExportPlan} {a9 : List (List (ℕ × List ℕ))} (h : Keeps r s)  : Keeps r (State.exportRecords s a2 a3 a4 a5 a6 a7 a8 a9).1 := by
  induction a9 generalizing s a2 a3 a4 a5 a6 a7 a8 with
  | nil =>
    unfold State.exportRecords
    repeat' first
      | (with_reducible first
        | assumption)
  | cons x l ih =>
    unfold State.exportRecords
    repeat' first
      | (with_reducible first
        | assumption | apply keeps_exportRows | apply ih)

theorem keeps_exportBytes {r s : State} {a2 : Bool} {a3 : Bool} {a4 : ℕ} {a5 : ℕ} {a6 : ℕ} {a7 : ℕ} (h : Keeps r s)  : Keeps r (State.exportBytes s a2 a3 a4 a5 a6 a7).1 := by
  unfold State.exportBytes
  repeat' first
    | (with_reducible first
      | assumption | apply keeps_exportRecords | fail_if_no_progress apply Keeps.update)
    | split

theorem keeps_settleLines {r s : State} {a2 : Bool} {a3 : ℕ} (h : Keeps r s)  : Keeps r (State.settleLines s a2 a3) := by
  unfold State.settleLines
  repeat' first
    | (with_reducible first
      | assumption | fail_if_no_progress apply Keeps.update)

theorem keeps_putWords {r s : State} {a2 : Bank} {a3 : List (ℕ × ℕ)} (h : Keeps r s)  : Keeps r (State.putWords s a2 a3) := by
  induction a3 generalizing s a2 with
  | nil =>
    unfold State.putWords
    repeat' first
      | (with_reducible first
        | assumption)
  | cons x l ih =>
    unfold State.putWords
    repeat' first
      | (with_reducible first
        | assumption | apply keeps_fetchWord | apply keeps_setWord | apply ih | fail_if_no_progress apply Keeps.update)
      | split

theorem keeps_putHalves {r s : State} {a2 : Bool} {a3 : CUnit} (h : Keeps r s)  : Keeps r (State.putHalves s a2 a3) := by
  unfold State.putHalves
  repeat' first
    | (with_reducible first
      | assumption | apply keeps_putWords | fail_if_no_progress apply Keeps.update | apply Keeps.foldl | apply Keeps.foldl_pair)
    | split | intro _

theorem keeps_askRows {r s : State} {a2 : CUnit} (h : Keeps r s)  : Keeps r (State.askRows s a2) := by
  unfold State.askRows
  repeat' first
    | (with_reducible first
      | assumption | apply keeps_emits | fail_if_no_progress apply Keeps.update)
    | split

theorem keeps_showUnits {r s : State}  (h : Keeps r s)  : Keeps r (State.showUnits s) := by
  unfold State.showUnits
  repeat' first
    | (with_reducible first
      | assumption | apply keeps_fset)

theorem keeps_retire {r s : State} {a2 : Bool} {a3 : CUnit} (h : Keeps r s)  : Keeps r (State.retire s a2 a3) := by
  unfold State.retire
  repeat' first
    | (with_reducible first
      | assumption | apply keeps_settleLines | apply keeps_putHalves | apply keeps_showUnits | apply keeps_dropRetired
      | fail_if_no_progress apply Keeps.update)

theorem keeps_clearGmap {r s : State} {a2 : ℕ} (h : Keeps r s)  : Keeps r (State.clearGmap s a2) := by
  unfold State.clearGmap
  repeat' first
    | (with_reducible first
      | assumption | apply keeps_writeBytes | fail_if_no_progress apply Keeps.update | apply Keeps.foldl | apply Keeps.foldl_pair)
    | split | intro _

theorem keeps_denseRanges {r s : State} {a2 : ℕ} {a3 : ℕ} (h : Keeps r s)  : Keeps r (State.denseRanges s a2 a3).1 := by
  unfold State.denseRanges
  repeat' first
    | (with_reducible first
      | assumption | apply keeps_loadAt | fail_if_no_progress apply Keeps.update | refine Keeps.of_pair (by assumption) ?_
      | refine Keeps.of_swapped (by assumption) ?_)
    | split | intro _ | dsimp only

theorem keeps_denseStream {r s : State} {a2 : ℕ} {a3 : List ℕ} (h : Keeps r s)  : Keeps r (State.denseStream s a2 a3).1 := by
  induction a3 generalizing s a2 with
  | nil =>
    unfold State.denseStream
    repeat' first
      | (with_reducible first
        | assumption)
  | cons x l ih =>
    unfold State.denseStream
    repeat' first
      | (with_reducible first
        | assumption | apply keeps_readBytes | apply ih | fail_if_no_progress apply Keeps.update)
      | split

theorem keeps_exportEntry {r s : State} {a2 : Exec} (h : Keeps r s)  : Keeps r (State.exportEntry s a2) := by
  unfold State.exportEntry
  repeat' first
    | (with_reducible first
      | assumption | apply keeps_finish | apply keeps_badState | apply keeps_exportBytes | apply keeps_emit | apply keeps_sendFrom
      | apply keeps_storeAt | fail_if_no_progress apply Keeps.update | refine Keeps.of_pair (by assumption) ?_
      | refine Keeps.of_swapped (by assumption) ?_)
    | split | intro _ | dsimp only

theorem keeps_fillNew {r s : State} {a2 : List JRec} (h : Keeps r s)  : Keeps r (State.fillNew s a2).1 := by
  induction a2 generalizing s with
  | nil =>
    unfold State.fillNew
    repeat' first
      | (with_reducible first
        | assumption)
  | cons x l ih =>
    unfold State.fillNew
    repeat' first
      | (with_reducible first
        | assumption | apply keeps_writeBytes | apply keeps_readBytes | apply keeps_copyWords | apply ih)

theorem keeps_putRows {r s : State} {a2 : ExportPlan} {a3 : List (ℕ × List (List Byte))} (h : Keeps r s)  : Keeps r (State.putRows s a2 a3) := by
  unfold State.putRows
  repeat' first
    | (with_reducible first
      | assumption | apply keeps_writeBytes | fail_if_no_progress apply Keeps.update | apply Keeps.foldl | apply Keeps.foldl_pair)
    | split | intro _

theorem keeps_putRecord {r s : State} {a2 : List Byte} (h : Keeps r s)  : Keeps r (State.putRecord s a2) := by
  unfold State.putRecord
  repeat' first
    | (with_reducible first
      | assumption | apply keeps_putRows | fail_if_no_progress apply Keeps.update)
    | split

theorem keeps_putRecords {r s : State} {a2 : List (List Byte)} (h : Keeps r s)  : Keeps r (State.putRecords s a2).1 := by
  unfold State.putRecords
  repeat' first
    | (with_reducible first
      | assumption | apply keeps_putRecord | fail_if_no_progress apply Keeps.update | apply Keeps.foldl | apply Keeps.foldl_pair)
    | split

theorem keeps_refetchStream {r s : State} {a2 : CUnit} {a3 : ExportPlan} {a4 : List (ℕ × List (List Byte))} (h : Keeps r s)  : Keeps r (State.refetchStream s a2 a3 a4).1 := by
  unfold State.refetchStream
  repeat' first
    | (with_reducible first
      | assumption | apply keeps_denseStream | fail_if_no_progress apply Keeps.update)
    | split

theorem keeps_rejoin {r s : State}  (h : Keeps r s)  : Keeps r (State.rejoin s) := by
  unfold State.rejoin
  repeat' first
    | (with_reducible first
      | assumption | apply keeps_stopCores | apply keeps_applyJobSettings | apply keeps_loadSegments | apply keeps_emit
      | fail_if_no_progress apply Keeps.update | refine Keeps.of_pair (by assumption) ?_ | refine Keeps.of_swapped (by assumption) ?_)
    | split | intro _ | dsimp only

theorem keeps_resolveUnit {r s : State} {a2 : CUnit} {a3 : Option ℕ} (h : Keeps r s)  : Keeps r (State.resolveUnit s a2 a3) := by
  unfold State.resolveUnit
  repeat' first
    | (with_reducible first
      | assumption | apply keeps_markDirty | apply keeps_freeJournal | apply keeps_fadd | apply keeps_retire
      | fail_if_no_progress apply Keeps.update)
    | split

theorem keeps_uclose {r s : State} {a2 : Exec} {a3 : Bool} (h : Keeps r s)  : Keeps r (State.uclose s a2 a3) := by
  unfold State.uclose
  repeat' first
    | (with_reducible first
      | assumption | apply keeps_finish | apply keeps_failUnit | apply keeps_fillNew | fail_if_no_progress apply Keeps.update
      | refine Keeps.of_pair (by assumption) ?_ | refine Keeps.of_swapped (by assumption) ?_)
    | split | intro _ | dsimp only

theorem keeps_uopen {r s : State} {a2 : Exec} (h : Keeps r s)  : Keeps r (State.uopen s a2) := by
  unfold State.uopen
  repeat' first
    | (with_reducible first
      | assumption | apply keeps_finish | apply keeps_badState | apply keeps_denseRanges | apply keeps_showUnits
      | fail_if_no_progress apply Keeps.update | refine Keeps.of_pair (by assumption) ?_ | refine Keeps.of_swapped (by assumption) ?_)
    | split | intro _ | dsimp only

theorem keeps_execUopen {r s : State} {a1 : ℕ} (h : Keeps r s)  : KeepsOut r (execUopen a1 s) := by
  unfold execUopen
  repeat' first
    | (with_reducible first
      | assumption | apply KeepsOut.next | exact KeepsOut.fault | exact KeepsOut.refused | apply keeps_uopen
      | fail_if_no_progress apply Keeps.update)
    | split

theorem keeps_execUclose {r s : State} {a1 : Closing} (h : Keeps r s)  : KeepsOut r (execUclose a1 s) := by
  unfold execUclose
  repeat' first
    | (with_reducible first
      | assumption | apply KeepsOut.next | exact KeepsOut.fault | exact KeepsOut.refused | apply keeps_uclose
      | fail_if_no_progress apply Keeps.update)
    | split

theorem keeps_execMinorityRefetch {r s : State} {a1 : ℕ} {a2 : ℕ} {a3 : List (ℕ × List (List Byte))} (h : Keeps r s)  : KeepsOut r (execMinorityRefetch a1 a2 a3 s) := by
  unfold execMinorityRefetch
  repeat' first
    | (with_reducible first
      | assumption | apply KeepsOut.next | exact KeepsOut.fault | exact KeepsOut.refused | apply keeps_putRows
      | apply keeps_refetchStream | apply keeps_showUnits | apply keeps_markDirty | apply keeps_faultDomain
      | fail_if_no_progress apply Keeps.update | refine Keeps.of_pair (by assumption) ?_ | refine Keeps.of_swapped (by assumption) ?_)
    | split | intro _ | dsimp only

theorem keeps_execUnitResolution {r s : State} {a1 : ℕ} {a2 : Option (Option Outcome)} (h : Keeps r s)  : KeepsOut r (execUnitResolution a1 a2 s) := by
  unfold execUnitResolution
  repeat' first
    | (with_reducible first
      | assumption | apply KeepsOut.next | exact KeepsOut.fault | exact KeepsOut.refused | apply keeps_rejoin | apply keeps_resolveUnit
      | apply keeps_emits | fail_if_no_progress apply Keeps.update)
    | split

theorem keeps_execExportShard {r s : State} {a1 : ℕ} (h : Keeps r s)  : KeepsOut r (execExportShard a1 s) := by
  unfold execExportShard
  repeat' first
    | (with_reducible first
      | assumption | apply KeepsOut.next | exact KeepsOut.fault | exact KeepsOut.refused | apply keeps_asSeen | apply keeps_exportEntry
      | fail_if_no_progress apply Keeps.update)
    | split | intro _

end Sys2Proof.Laws
end

