-- ==== Sys2Proof/Laws/KeepsDirect.lean ====
section
/-! SUPPORT. What the functions of Machine/Direct.lean keep: the grade, the waiting commands and the canonical storage. -/

namespace Sys2Proof.Laws

open Sys2Proof.Machine

set_option Elab.async false

theorem keeps_showVxeMode {r s : State} {a2 : ℕ} (h : Keeps r s)  : Keeps r (State.showVxeMode s a2) := by
  unfold State.showVxeMode
  repeat' first
    | (with_reducible first
      | assumption | apply keeps_fset)

theorem keeps_feed {r s : State} {a2 : ℕ} {a3 : List Byte} (h : Keeps r s)  : Keeps r (State.feed s a2 a3) := by
  unfold State.feed
  repeat' first
    | (with_reducible first
      | assumption | apply keeps_failUnit | fail_if_no_progress apply Keeps.update | refine Keeps.of_pair (by assumption) ?_
      | refine Keeps.of_swapped (by assumption) ?_)
    | split | intro _ | dsimp only

theorem keeps_loadLanes {r s : State} {a2 : Reach} {a3 : ℕ} {a4 : List ℕ} (h : Keeps r s)  : Keeps r (State.loadLanes s a2 a3 a4).1 := by
  induction a4 generalizing s a2 a3 with
  | nil =>
    unfold State.loadLanes
    repeat' first
      | (with_reducible first
        | assumption)
  | cons x l ih =>
    unfold State.loadLanes
    repeat' first
      | (with_reducible first
        | assumption | apply keeps_loadAt | apply ih)

theorem keeps_storeLanes {r s : State} {a2 : Reach} {a3 : ℕ} {a4 : List (ℕ × Word)} (h : Keeps r s)  : Keeps r (State.storeLanes s a2 a3 a4).1 := by
  induction a4 generalizing s a2 a3 with
  | nil =>
    unfold State.storeLanes
    repeat' first
      | (with_reducible first
        | assumption)
  | cons x l ih =>
    unfold State.storeLanes
    repeat' first
      | (with_reducible first
        | assumption | apply keeps_storeAt | apply ih | fail_if_no_progress apply Keeps.update | refine Keeps.of_pair (by assumption) ?_)
      | split | intro _

@[simp] theorem s_setReg (d : Drun) (i : Nat) (v : List Word) : (d.setReg i v).s = d.s := rfl

@[simp] theorem s_count (d : Drun) (n : Nat) (t : Tally) : (d.count n t).s = d.s := by
  unfold Drun.count
  split <;> rfl

@[simp] theorem s_note (d : Drun) (n : Nat) (l : List Word) : (d.note n l).s = d.s := by
  unfold Drun.note
  split <;> rfl

@[simp] theorem s_roundLanes (d : Drun) (a b c : Nat) (l : List Val) : (d.roundLanes a b c l).s = d.s := by simp [Drun.roundLanes]

theorem keeps_grouped {r : State} {d : Drun} {core tensor : Nat} {u : DirectInstr} (h : Keeps r d.s) :
    Keeps r (d.grouped core tensor u).1.s := by
  unfold Drun.grouped
  repeat' first
    | (with_reducible first
      | assumption | apply keeps_loadLanes | apply keeps_storeLanes | apply keeps_readBytes | apply keeps_writeBytes
      | apply Keeps.foldl_pair)
    | split | simp only [s_setReg, s_count, s_note, s_roundLanes] | intro _
    | (with_reducible refine Keeps.of_pair (by assumption) ?_) | dsimp only

theorem keeps_instr {r : State} {d : Drun} {core q tensor : Nat} {u : DirectInstr} (h : Keeps r d.s) :
    Keeps r (d.instr core q tensor u).1.s := by
  unfold Drun.instr
  repeat' first
    | (with_reducible first | assumption | apply keeps_grouped | apply keeps_feed)
    | split | simp only [s_setReg, s_count, s_note, s_roundLanes] | dsimp only

theorem keeps_flagged {r : State} {d : Drun} (h : Keeps r d.s) : Keeps r d.flagged := by
  unfold Drun.flagged
  split
  · exact keeps_nonfinite h
  · exact h

theorem keeps_run {r : State} {core q tensor : Nat} {prog : List DirectInstr} {n pc : Nat} {d : Drun} (h : Keeps r d.s) :
    Keeps r (Drun.run core q tensor prog n pc d).1.s := by
  induction n generalizing pc d with
  | zero => exact h
  | succ n ih =>
    unfold Drun.run
    split
    · exact h
    · have k (u : DirectInstr) := keeps_instr (core := core) (q := q) (tensor := tensor) (u := u) h
      split <;> (next e => have := e ▸ k _; repeat' first | assumption | exact ih this | split)

theorem keeps_drun {r s : State} {a2 : ℕ} {a3 : Exec} {a4 : Bool} (h : Keeps r s)  : Keeps r (State.drun s a2 a3 a4) := by
  unfold State.drun
  repeat' first
    | (with_reducible first
      | assumption | apply keeps_finish | apply keeps_fadd | apply keeps_error | apply keeps_faultDomain | apply keeps_loadAt
      | apply keeps_fset | apply keeps_vxeTally | apply keeps_watch | apply keeps_nonfinite | apply keeps_feed | apply keeps_loadLanes
      | apply keeps_storeLanes | apply keeps_readBytes | apply keeps_writeBytes | fail_if_no_progress apply Keeps.update
      | apply Keeps.foldl | apply Keeps.foldl_pair | apply keeps_run | apply keeps_flagged | refine Keeps.of_pair (by assumption) ?_
      | refine Keeps.of_swapped (by assumption) ?_)
    | split | intro _ | dsimp only

theorem keeps_execDrun {r s : State} {a1 : ℕ} {a2 : Bool} (h : Keeps r s)  : KeepsOut r (execDrun a1 a2 s) := by
  unfold execDrun
  repeat' first
    | (with_reducible first
      | assumption | apply KeepsOut.next | exact KeepsOut.fault | exact KeepsOut.refused | apply keeps_asSeen | apply keeps_drun
      | fail_if_no_progress apply Keeps.update)
    | split | intro _

theorem keeps_execVtest {r s : State} {a1 : ℕ} {a2 : TestPass} (h : Keeps r s)  : KeepsOut r (execVtest a1 a2 s) := by
  unfold execVtest
  repeat' first
    | (with_reducible first
      | assumption | apply KeepsOut.next | exact KeepsOut.fault | exact KeepsOut.refused | apply keeps_finish | apply keeps_error
      | fail_if_no_progress apply Keeps.update)
    | split

theorem keeps_execVxeModeChange {r s : State} {a1 : ℕ} (h : Keeps r s)  : KeepsOut r (execVxeModeChange a1 s) := by
  unfold execVxeModeChange
  repeat' first
    | (with_reducible first
      | assumption | apply KeepsOut.next | exact KeepsOut.fault | exact KeepsOut.refused | apply keeps_showVxeMode
      | fail_if_no_progress apply Keeps.update)
    | split

end Sys2Proof.Laws
end

