-- ==== Sys2Proof/Laws/KeepsStepOps.lean ====
section
/-! SUPPORT. What the functions of Machine/StepOps.lean keep: the grade, the waiting commands and the canonical storage. -/

namespace Sys2Proof.Laws

open Sys2Proof.Machine

set_option Elab.async false

theorem keeps_votesFrom {r s : State} {a2 : ℕ} {a3 : List Vote} (h : Keeps r s)  : Keeps r (State.votesFrom s a2 a3).1 := by
  induction a3 generalizing s a2 with
  | nil =>
    unfold State.votesFrom
    repeat' first
      | (with_reducible first
        | assumption)
  | cons x l ih =>
    unfold State.votesFrom
    repeat' first
      | (with_reducible first
        | assumption | apply keeps_readBytes | apply ih | fail_if_no_progress apply Keeps.update)
      | split

theorem keeps_readVotes {r s : State}  (h : Keeps r s)  : Keeps r (State.readVotes s) := by
  unfold State.readVotes
  repeat' first
    | (with_reducible first
      | assumption | apply keeps_votesFrom | fail_if_no_progress apply Keeps.update)

theorem keeps_writeCommit {r s : State} {a2 : Decision} (h : Keeps r s)  : Keeps r (State.writeCommit s a2) := by
  unfold State.writeCommit
  repeat' first
    | (with_reducible first
      | assumption | apply keeps_writeBytes)

theorem keeps_passDecision {r s : State} {a2 : Decision} (h : Keeps r s)  : Keeps r (State.passDecision s a2) := by
  unfold State.passDecision
  repeat' first
    | (with_reducible first
      | assumption | apply keeps_emits)

theorem keeps_sendDecision {r s : State} {a2 : Decision} (h : Keeps r s)  : Keeps r (State.sendDecision s a2) := by
  unfold State.sendDecision
  repeat' first
    | (with_reducible first
      | assumption | apply keeps_emits | apply keeps_passDecision | apply keeps_emit | fail_if_no_progress apply Keeps.update)

theorem keeps_writeHeld {r s : State}  (h : Keeps r s)  : Keeps r (State.writeHeld s) := by
  unfold State.writeHeld
  repeat' first
    | (with_reducible first
      | assumption | apply keeps_writeCommit | apply keeps_emit | apply keeps_sendDecision | apply keeps_emits
      | fail_if_no_progress apply Keeps.update | refine Keeps.of_pair (by assumption) ?_ | refine Keeps.of_swapped (by assumption) ?_)
    | split | intro _ | dsimp only

theorem keeps_propose {r s : State} {a2 : Decision} (h : Keeps r s)  : Keeps r (State.propose s a2) := by
  unfold State.propose
  repeat' first
    | (with_reducible first
      | assumption | apply keeps_writeHeld | apply keeps_fset | fail_if_no_progress apply Keeps.update)

theorem keeps_decideAbort {r s : State} {a2 : List ℕ} (h : Keeps r s)  : Keeps r (State.decideAbort s a2) := by
  unfold State.decideAbort
  repeat' first
    | (with_reducible first
      | assumption | apply keeps_readVotes | apply keeps_propose)

theorem keeps_settle {r s : State} {a2 : ℕ} {a3 : Bool} (h : Keeps r s)  : Keeps r (State.settle s a2 a3).1 := by
  unfold State.settle
  repeat' first
    | (with_reducible first
      | assumption | apply keeps_readVotes | apply keeps_decideAbort | apply keeps_propose | fail_if_no_progress apply Keeps.update
      | refine Keeps.of_pair (by assumption) ?_ | refine Keeps.of_swapped (by assumption) ?_)
    | split | intro _ | dsimp only

theorem keeps_settleFreeze {r s : State}  (h : Keeps r s)  : Keeps r (State.settleFreeze s) := by
  unfold State.settleFreeze
  repeat' first
    | (with_reducible first
      | assumption | apply keeps_settle | apply keeps_decideAbort | fail_if_no_progress apply Keeps.update
      | refine Keeps.of_pair (by assumption) ?_)
    | split | intro _

theorem keeps_decideAll {r s : State}  (h : Keeps r s)  : Keeps r (State.decideAll s) := by
  unfold State.decideAll
  repeat' first
    | (with_reducible first
      | assumption | apply keeps_readVotes | apply keeps_decideAbort | apply keeps_propose | fail_if_no_progress apply Keeps.update
      | refine Keeps.of_pair (by assumption) ?_ | refine Keeps.of_swapped (by assumption) ?_)
    | split | intro _ | dsimp only

theorem keeps_reconsider {r s : State}  (h : Keeps r s)  : Keeps r (State.reconsider s) := by
  unfold State.reconsider
  repeat' first
    | (with_reducible first
      | assumption | apply keeps_settleFreeze | apply keeps_decideAbort | apply keeps_decideAll | fail_if_no_progress apply Keeps.update)
    | split

theorem keeps_writeRecord {r s : State} {a2 : Decision} (h : Keeps r s)  : Keeps r (State.writeRecord s a2) := by
  unfold State.writeRecord
  repeat' first
    | (with_reducible first
      | assumption | apply keeps_writeCommit | apply keeps_writeBytes | apply keeps_setLed | apply keeps_fset | apply keeps_fadd
      | fail_if_no_progress apply Keeps.update)
    | split

theorem keeps_countCompared {r s : State} {a2 : Decision} (h : Keeps r s)  : Keeps r (State.countCompared s a2) := by
  unfold State.countCompared
  repeat' first
    | (with_reducible first
      | assumption | apply keeps_fadd | fail_if_no_progress apply Keeps.update)
    | split

theorem keeps_moveScale {r s : State} {a2 : Decision} (h : Keeps r s)  : Keeps r (State.moveScale s a2) := by
  unfold State.moveScale
  repeat' first
    | (with_reducible first
      | assumption | apply keeps_setScale | apply keeps_raise | apply keeps_fadd | fail_if_no_progress apply Keeps.update
      | refine Keeps.of_pair (by assumption) ?_ | refine Keeps.of_swapped (by assumption) ?_)
    | split | intro _ | dsimp only

theorem keeps_moveRuns {r s : State} {a2 : Decision} (h : Keeps r s)  : Keeps r (State.moveRuns s a2) := by
  unfold State.moveRuns
  repeat' first
    | (with_reducible first
      | assumption | apply keeps_setLed | apply keeps_fset | apply keeps_fadd | apply keeps_raise
      | fail_if_no_progress apply Keeps.update | apply Keeps.foldl | apply Keeps.foldl_pair | refine Keeps.of_pair (by assumption) ?_
      | refine Keeps.of_swapped (by assumption) ?_)
    | split | intro _ | dsimp only

theorem keeps_moveMisses {r s : State} {a2 : Decision} (h : Keeps r s)  : Keeps r (State.moveMisses s a2) := by
  unfold State.moveMisses
  repeat' first
    | (with_reducible first
      | assumption | apply keeps_setLed | apply keeps_raise | apply keeps_fset | fail_if_no_progress apply Keeps.update
      | apply Keeps.foldl | apply Keeps.foldl_pair)
    | split | intro _

theorem keeps_writeNumerics {r s : State} {a2 : Decision} {a3 : ℕ} (h : Keeps r s)  : Keeps r (State.writeNumerics s a2 a3) := by
  unfold State.writeNumerics
  repeat' first
    | (with_reducible first
      | assumption | apply keeps_store | fail_if_no_progress apply Keeps.update)
    | split

theorem keeps_turnUnits {r s : State} {a2 : Decision} {a3 : ℕ} (h : Keeps r s)  : Keeps r (State.turnUnits s a2 a3) := by
  unfold State.turnUnits
  repeat' first
    | (with_reducible first
      | assumption | apply keeps_markDirty | apply keeps_fadd | apply keeps_error | fail_if_no_progress apply Keeps.update
      | apply Keeps.foldl | apply Keeps.foldl_pair)
    | split | intro _

theorem keeps_settleStale {r s : State} {a2 : Decision} (h : Keeps r s)  : Keeps r (State.settleStale s a2) := by
  unfold State.settleStale
  repeat' first
    | (with_reducible first
      | assumption | fail_if_no_progress apply Keeps.update)
    | split

theorem keeps_pullCheckpoint {r s : State}  (h : Keeps r s)  : Keeps r (State.pullCheckpoint s) := by
  unfold State.pullCheckpoint
  repeat' first
    | (with_reducible first
      | assumption | apply keeps_emit | apply keeps_sendMessage | fail_if_no_progress apply Keeps.update)
    | split

theorem keeps_readFrom {r s : State} {a2 : ℕ} {a3 : ℕ} {a4 : ℕ} (h : Keeps r s)  : Keeps r (State.readFrom s a2 a3 a4) := by
  unfold State.readFrom
  repeat' first
    | (with_reducible first
      | assumption | apply keeps_sendMessage | apply keeps_emit | fail_if_no_progress apply Keeps.update)
    | split

theorem keeps_askShard {r s : State} {a2 : ℕ} {a3 : ℕ} (h : Keeps r s)  : Keeps r (State.askShard s a2 a3) := by
  unfold State.askShard
  repeat' first
    | (with_reducible first
      | assumption | apply keeps_emit | apply keeps_pullCheckpoint | apply keeps_readFrom | fail_if_no_progress apply Keeps.update
      | apply Keeps.foldl | apply Keeps.foldl_pair | refine Keeps.of_pair (by assumption) ?_ | refine Keeps.of_swapped (by assumption) ?_)
    | split | intro _ | dsimp only

theorem keeps_declareLosses {r s : State} {a2 : Decision} (h : Keeps r s)  : Keeps r (State.declareLosses s a2) := by
  unfold State.declareLosses
  repeat' first
    | (with_reducible first
      | assumption | apply keeps_declareLost | apply keeps_endSessions | apply keeps_seedBeats | apply keeps_askShard
      | fail_if_no_progress apply Keeps.update | apply Keeps.foldl | apply Keeps.foldl_pair | refine Keeps.of_pair (by assumption) ?_
      | refine Keeps.of_swapped (by assumption) ?_)
    | split | intro _ | dsimp only

theorem keeps_decideHalls {r s : State} {a2 : List HallCmd} (h : Keeps r s)  : Keeps r (State.decideHalls s a2) := by
  unfold State.decideHalls
  repeat' first
    | (with_reducible first
      | assumption | apply keeps_applyHalls | fail_if_no_progress apply Keeps.update)

theorem keeps_nextStep {r s : State} {a2 : Decision} (h : Keeps r s)  : Keeps r (State.nextStep s a2) := by
  unfold State.nextStep
  repeat' first
    | (with_reducible first
      | assumption | apply keeps_fset | apply keeps_setLed | apply keeps_beginStep | fail_if_no_progress apply Keeps.update
      | refine Keeps.of_pair (by assumption) ?_ | refine Keeps.of_swapped (by assumption) ?_)
    | split | intro _ | dsimp only

theorem keeps_loseSelf {r s : State} {a2 : Decision} (h : Keeps r s)  : Keeps r (State.loseSelf s a2) := by
  unfold State.loseSelf
  repeat' first
    | (with_reducible first
      | assumption | apply keeps_showPart | apply keeps_leaveJob | fail_if_no_progress apply Keeps.update)
    | split

theorem keeps_shipBytes {r s : State} {a2 : List (Bool × ℕ × ℕ)} (h : Keeps r s)  : Keeps r (State.shipBytes s a2).1 := by
  induction a2 generalizing s with
  | nil =>
    unfold State.shipBytes
    repeat' first
      | (with_reducible first
        | assumption)
  | cons x l ih =>
    unfold State.shipBytes
    repeat' first
      | (with_reducible first
        | assumption | apply keeps_exportBytes | apply ih)

theorem keeps_shipShard {r s : State} {a2 : Decision} {a3 : ℕ} (h : Keeps r s)  : Keeps r (State.shipShard s a2 a3).1 := by
  unfold State.shipShard
  repeat' first
    | (with_reducible first
      | assumption | apply keeps_shipBytes | apply keeps_fadd | apply keeps_emit | apply keeps_sendFrom | apply keeps_raise
      | fail_if_no_progress apply Keeps.update | refine Keeps.of_pair (by assumption) ?_ | refine Keeps.of_swapped (by assumption) ?_)
    | split | intro _ | dsimp only

theorem keeps_shipShards {r s : State} {a2 : Decision} {a3 : List ℕ} (h : Keeps r s)  : Keeps r (State.shipShards s a2 a3).1 := by
  induction a3 generalizing s a2 with
  | nil =>
    unfold State.shipShards
    repeat' first
      | (with_reducible first
        | assumption)
  | cons x l ih =>
    unfold State.shipShards
    repeat' first
      | (with_reducible first
        | assumption | apply keeps_shipShard | apply ih)

theorem keeps_ship {r s : State} {a2 : Decision} (h : Keeps r s)  : Keeps r (State.ship s a2) := by
  unfold State.ship
  repeat' first
    | (with_reducible first
      | assumption | apply keeps_shipShards | apply keeps_fset | fail_if_no_progress apply Keeps.update
      | refine Keeps.of_pair (by assumption) ?_ | refine Keeps.of_swapped (by assumption) ?_)
    | split | intro _ | dsimp only

theorem keeps_recordDecision {r s : State} {a2 : Decision} (h : Keeps r s)  : Keeps r (State.recordDecision s a2) := by
  unfold State.recordDecision
  repeat' first
    | (with_reducible first
      | assumption | apply keeps_writeRecord | apply keeps_countCompared | apply keeps_raise | apply keeps_moveScale | apply keeps_setLed
      | apply keeps_moveRuns | apply keeps_moveMisses | apply keeps_writeNumerics | apply keeps_turnUnits | apply keeps_fset
      | apply keeps_setEpoch | apply keeps_settleStale | apply keeps_declareLosses | apply keeps_decideHalls | apply keeps_nextStep
      | apply keeps_loseSelf | apply keeps_ship | fail_if_no_progress apply Keeps.update | apply Keeps.foldl | apply Keeps.foldl_pair)
    | split | intro _

theorem keeps_takeDecision {r s : State} {a2 : Decision} (h : Keeps r s)  : Keeps r (State.takeDecision s a2) := by
  unfold State.takeDecision
  repeat' first
    | (with_reducible first
      | assumption | apply keeps_setEpoch | apply keeps_recordDecision | apply keeps_settleFreeze
      | fail_if_no_progress apply Keeps.update)
    | split

theorem keeps_applyUnit {r s : State} {a2 : CUnit} (h : Keeps r s)  : Keeps r (State.applyUnit s a2) := by
  unfold State.applyUnit
  repeat' first
    | (with_reducible first
      | assumption | apply keeps_settleLines | apply keeps_putHalves | apply keeps_askRows | apply keeps_retire
      | fail_if_no_progress apply Keeps.update)
    | split

theorem keeps_gatherVotes {r s : State} {a2 : VoteMsg} (h : Keeps r s)  : Keeps r (State.gatherVotes s a2) := by
  unfold State.gatherVotes
  repeat' first
    | (with_reducible first
      | assumption | apply keeps_pumpVotes | fail_if_no_progress apply Keeps.update | refine Keeps.of_pair (by assumption) ?_
      | refine Keeps.of_swapped (by assumption) ?_)
    | split | intro _ | dsimp only

theorem keeps_hearDecision {r s : State} {a2 : Decision} (h : Keeps r s)  : Keeps r (State.hearDecision s a2) := by
  unfold State.hearDecision
  repeat' first
    | (with_reducible first
      | assumption | apply keeps_showPart | apply keeps_decideHalls | apply keeps_declareLosses | fail_if_no_progress apply Keeps.update)

theorem keeps_hearProposal {r s : State} {a2 : Decision} (h : Keeps r s)  : Keeps r (State.hearProposal s a2) := by
  unfold State.hearProposal
  repeat' first
    | (with_reducible first
      | assumption | apply keeps_writeHeld | fail_if_no_progress apply Keeps.update)
    | split

theorem keeps_resendVote {r s : State} {a2 : Vote × List Layer} (h : Keeps r s)  : Keeps r (State.resendVote s a2) := by
  unfold State.resendVote
  repeat' first
    | (with_reducible first
      | assumption | apply keeps_pumpVotes | fail_if_no_progress apply Keeps.update)

theorem keeps_resolveEntry {r s : State} {a2 : Exec} (h : Keeps r s)  : Keeps r (State.resolveEntry s a2) := by
  unfold State.resolveEntry
  repeat' first
    | (with_reducible first
      | assumption | apply keeps_finish | apply keeps_emit | apply keeps_settle | fail_if_no_progress apply Keeps.update
      | refine Keeps.of_pair (by assumption) ?_ | refine Keeps.of_swapped (by assumption) ?_)
    | split | intro _ | dsimp only

theorem keeps_resolveRemote {r s : State} {a2 : ℕ} {a3 : ℕ} {a4 : ℕ} {a5 : Bool} (h : Keeps r s)  : Keeps r (State.resolveRemote s a2 a3 a4 a5) := by
  unfold State.resolveRemote
  repeat' first
    | (with_reducible first
      | assumption | apply keeps_settle | fail_if_no_progress apply Keeps.update)
    | split

theorem keeps_storeVote {r s : State} {a2 : Vote} (h : Keeps r s)  : Keeps r (State.storeVote s a2) := by
  unfold State.storeVote
  repeat' first
    | (with_reducible first
      | assumption | apply keeps_writeBytes | fail_if_no_progress apply Keeps.update)
    | split

theorem keeps_takeVotes {r s : State} {a2 : VoteMsg} (h : Keeps r s)  : Keeps r (State.takeVotes s a2) := by
  unfold State.takeVotes
  repeat' first
    | (with_reducible first
      | assumption | apply keeps_storeVote | apply keeps_reconsider | fail_if_no_progress apply Keeps.update | apply Keeps.foldl
      | apply Keeps.foldl_pair | refine Keeps.of_pair (by assumption) ?_ | refine Keeps.of_swapped (by assumption) ?_)
    | split | intro _ | dsimp only

theorem keeps_voteEntry {r s : State} {a2 : Exec} (h : Keeps r s)  : Keeps r (State.voteEntry s a2) := by
  unfold State.voteEntry
  repeat' first
    | (with_reducible first
      | assumption | apply keeps_finish | apply keeps_sendVote | fail_if_no_progress apply Keeps.update
      | refine Keeps.of_pair (by assumption) ?_ | refine Keeps.of_swapped (by assumption) ?_)
    | split | intro _ | dsimp only

theorem keeps_writeMirror {r s : State} {a2 : Decision} (h : Keeps r s)  : Keeps r (State.writeMirror s a2) := by
  unfold State.writeMirror
  repeat' first
    | (with_reducible first
      | assumption | apply keeps_store | apply keeps_flagAdd | fail_if_no_progress apply Keeps.update | apply Keeps.foldl
      | apply Keeps.foldl_pair)
    | split | intro _

theorem keeps_execVote {r s : State} {a1 : ℕ} (h : Keeps r s)  : KeepsOut r (execVote a1 s) := by
  unfold execVote
  repeat' first
    | (with_reducible first
      | assumption | apply KeepsOut.next | exact KeepsOut.fault | exact KeepsOut.refused | apply keeps_voteEntry
      | fail_if_no_progress apply Keeps.update)
    | split

theorem keeps_execVoteReceive {r s : State} {a1 : VoteMsg} (h : Keeps r s)  : KeepsOut r (execVoteReceive a1 s) := by
  unfold execVoteReceive
  repeat' first
    | (with_reducible first
      | assumption | apply KeepsOut.next | exact KeepsOut.fault | exact KeepsOut.refused | apply keeps_takeVotes
      | apply keeps_gatherVotes | fail_if_no_progress apply Keeps.update)
    | split

theorem keeps_execVoteLimitExpiry {r s : State}  (h : Keeps r s)  : KeepsOut r (execVoteLimitExpiry s) := by
  unfold execVoteLimitExpiry
  repeat' first
    | (with_reducible first
      | assumption | apply KeepsOut.next | exact KeepsOut.fault | exact KeepsOut.refused | apply keeps_decideAbort
      | fail_if_no_progress apply Keeps.update | refine Keeps.of_pair (by assumption) ?_ | refine Keeps.of_swapped (by assumption) ?_)
    | split | intro _ | dsimp only

theorem keeps_execDecisionFinal {r s : State} {a1 : ℕ} (h : Keeps r s)  : KeepsOut r (execDecisionFinal a1 s) := by
  unfold execDecisionFinal
  repeat' first
    | (with_reducible first
      | assumption | apply KeepsOut.next | exact KeepsOut.fault | exact KeepsOut.refused | apply keeps_sendDecision
      | fail_if_no_progress apply Keeps.update)
    | split

theorem keeps_execDecisionReceive {r s : State} {a1 : DecisionMsg} (h : Keeps r s)  : KeepsOut r (execDecisionReceive a1 s) := by
  unfold execDecisionReceive
  repeat' first
    | (with_reducible first
      | assumption | apply KeepsOut.next | exact KeepsOut.fault | exact KeepsOut.refused | apply keeps_hearProposal
      | apply keeps_hearDecision | apply keeps_takeDecision | apply keeps_passDecision | fail_if_no_progress apply Keeps.update)
    | split

theorem keeps_execUnitApplyDone {r s : State}  (h : Keeps r s)  : KeepsOut r (execUnitApplyDone s) := by
  unfold execUnitApplyDone
  repeat' first
    | (with_reducible first
      | assumption | apply KeepsOut.next | exact KeepsOut.fault | exact KeepsOut.refused | apply keeps_freeJournal
      | apply keeps_applyUnit | apply keeps_clearGmap | apply keeps_fset | apply keeps_writeMirror
      | fail_if_no_progress apply Keeps.update | apply Keeps.foldl | apply Keeps.foldl_pair)
    | split

theorem keeps_execLeaderTakeover {r s : State} {a1 : Option Decision} (h : Keeps r s)  : KeepsOut r (execLeaderTakeover a1 s) := by
  unfold execLeaderTakeover
  repeat' first
    | (with_reducible first
      | assumption | apply KeepsOut.next | exact KeepsOut.fault | exact KeepsOut.refused | apply keeps_emits | apply keeps_fset
      | apply keeps_propose | fail_if_no_progress apply Keeps.update | refine Keeps.of_pair (by assumption) ?_
      | refine Keeps.of_swapped (by assumption) ?_)
    | split | intro _ | dsimp only

theorem keeps_execResolve {r s : State} {a1 : Resolver} (h : Keeps r s)  : KeepsOut r (execResolve a1 s) := by
  unfold execResolve
  repeat' first
    | (with_reducible first
      | assumption | apply KeepsOut.next | exact KeepsOut.fault | exact KeepsOut.refused | apply keeps_resolveEntry
      | apply keeps_resolveRemote | fail_if_no_progress apply Keeps.update)
    | split

theorem keeps_execFreezeLimitExpiry {r s : State}  (h : Keeps r s)  : KeepsOut r (execFreezeLimitExpiry s) := by
  unfold execFreezeLimitExpiry
  repeat' first
    | (with_reducible first
      | assumption | apply KeepsOut.next | exact KeepsOut.fault | exact KeepsOut.refused | apply keeps_decideAbort
      | fail_if_no_progress apply Keeps.update)
    | split

theorem keeps_execPhase {r s : State} {a1 : ℕ} (h : Keeps r s)  : KeepsOut r (execPhase a1 s) := by
  unfold execPhase
  repeat' first
    | (with_reducible first
      | assumption | apply KeepsOut.next | exact KeepsOut.fault | exact KeepsOut.refused | apply keeps_finish | apply keeps_asking
      | fail_if_no_progress apply Keeps.update | refine Keeps.of_pair (by assumption) ?_ | refine Keeps.of_swapped (by assumption) ?_)
    | split | intro _ | dsimp only

theorem keeps_execPhaseSwitch {r s : State}  (h : Keeps r s)  : KeepsOut r (execPhaseSwitch s) := by
  unfold execPhaseSwitch
  repeat' first
    | (with_reducible first
      | assumption | apply KeepsOut.next | exact KeepsOut.fault | exact KeepsOut.refused | apply keeps_stopCores
      | apply keeps_loadSegments | apply keeps_fset | apply keeps_goCores | apply keeps_beginStep | apply keeps_abortVote
      | apply keeps_finishPhase | fail_if_no_progress apply Keeps.update)
    | split

theorem keeps_execVoteRequestReceive {r s : State} {a1 : VoteRequest} (h : Keeps r s)  : KeepsOut r (execVoteRequestReceive a1 s) := by
  unfold execVoteRequestReceive
  repeat' first
    | (with_reducible first
      | assumption | apply KeepsOut.next | exact KeepsOut.fault | exact KeepsOut.refused | apply keeps_fset | apply keeps_emits
      | apply keeps_resendVote | fail_if_no_progress apply Keeps.update)
    | split

end Sys2Proof.Laws
end

