-- ==== Sys2Proof/Laws/KeepsHall.lean ====
section
/-! SUPPORT. What the functions of Machine/Hall.lean keep: the grade, the waiting commands and the canonical storage. -/

namespace Sys2Proof.Laws

open Sys2Proof.Machine

set_option Elab.async false

theorem keeps_acceptEntry {r s : State} {a2 : HallCmd} (h : Keeps r s)  : Keeps r (State.acceptEntry s a2) := by
  unfold State.acceptEntry
  repeat' first
    | (with_reducible first
      | assumption | apply keeps_acceptTable | fail_if_no_progress apply Keeps.update)
    | split

theorem keeps_startDeferred {r s : State} {a2 : ℕ} (h : Keeps r s)  : Keeps r (State.startDeferred s a2) := by
  unfold State.startDeferred
  repeat' first
    | (with_reducible first
      | assumption | apply keeps_beginStep | fail_if_no_progress apply Keeps.update)
    | split

theorem keeps_applyDue {r s : State}  (h : Keeps r s)  : Keeps r (State.applyDue s) := by
  unfold State.applyDue
  repeat' first
    | (with_reducible first
      | assumption | apply keeps_applyHalls | fail_if_no_progress apply Keeps.update)
    | split

theorem keeps_jobResult {r s : State} {a2 : Status} (h : Keeps r s)  : Keeps r (State.jobResult s a2) := by
  unfold State.jobResult
  repeat' first
    | (with_reducible first
      | assumption | apply keeps_fset)

theorem keeps_clearFlags {r s : State}  (h : Keeps r s)  : Keeps r (State.clearFlags s) := by
  unfold State.clearFlags
  repeat' first
    | (with_reducible first
      | assumption | fail_if_no_progress apply Keeps.update | refine Keeps.of_pair (by assumption) ?_
      | refine Keeps.of_swapped (by assumption) ?_ | apply Keeps.storage)
    | exact id | exact wf_filter _ | exact filter_wf _ | exact fun _ => rfl | split | intro _ | dsimp only

theorem keeps_dropLoaded {r s : State} {a2 : Bool} (h : Keeps r s)  : Keeps r (State.dropLoaded s a2) := by
  unfold State.dropLoaded
  repeat' first
    | (with_reducible first
      | assumption | apply keeps_jobResult | apply keeps_fset | apply keeps_restoreSettings | apply keeps_showPart
      | fail_if_no_progress apply Keeps.update)
    | split

theorem keeps_promotionRecord {r s : State} {a2 : ℕ} {a3 : ℕ} {a4 : ℕ} {a5 : ℕ} {a6 : ℕ × ℕ} (h : Keeps r s)  : Keeps r (State.promotionRecord s a2 a3 a4 a5 a6) := by
  unfold State.promotionRecord
  repeat' first
    | (with_reducible first
      | assumption | apply keeps_writeBytes | fail_if_no_progress apply Keeps.update)

theorem keeps_endPromotion {r s : State} {a2 : ℕ} {a3 : PromotedMark} (h : Keeps r s)  : Keeps r (State.endPromotion s a2 a3) := by
  unfold State.endPromotion
  repeat' first
    | (with_reducible first
      | assumption | apply keeps_promotionRecord | apply keeps_latch | apply keeps_setMemberFlags
      | fail_if_no_progress apply Keeps.update | apply Keeps.foldl | apply Keeps.foldl_pair)
    | split | intro _

theorem keeps_nextSpare {r s : State} {a2 : ℕ} (h : Keeps r s)  : Keeps r (State.nextSpare s a2) := by
  unfold State.nextSpare
  repeat' first
    | (with_reducible first
      | assumption | apply keeps_decideAbort | apply keeps_fset | fail_if_no_progress apply Keeps.update)

theorem keeps_promotionFailed {r s : State}  (h : Keeps r s)  : Keeps r (State.promotionFailed s) := by
  unfold State.promotionFailed
  repeat' first
    | (with_reducible first
      | assumption | apply keeps_emit | apply keeps_raise)

theorem keeps_refuseEntry {r s : State} {a2 : HallCmd} (h : Keeps r s)  : Keeps r (State.refuseEntry s a2) := by
  unfold State.refuseEntry
  repeat' first
    | (with_reducible first
      | assumption | apply keeps_finishTable | apply keeps_finishMember | apply keeps_finishPhase
      | fail_if_no_progress apply Keeps.update)
    | split

theorem keeps_refuseHall {r s : State} {a2 : HallCmd} {a3 : Bool} (h : Keeps r s)  : Keeps r (State.refuseHall s a2 a3) := by
  unfold State.refuseHall
  repeat' first
    | (with_reducible first
      | assumption | apply keeps_refuseEntry | apply keeps_dropLoaded | apply keeps_fset | apply keeps_jobResult
      | fail_if_no_progress apply Keeps.update | refine Keeps.of_pair (by assumption) ?_ | refine Keeps.of_swapped (by assumption) ?_)
    | split | intro _ | dsimp only

theorem keeps_restoreRows {r s : State} {a2 : List (ℕ × List Byte)} (h : Keeps r s)  : Keeps r (State.restoreRows s a2) := by
  unfold State.restoreRows
  repeat' first
    | (with_reducible first
      | assumption | apply keeps_writeBytes | fail_if_no_progress apply Keeps.update | apply Keeps.foldl | apply Keeps.foldl_pair)
    | split | intro _

theorem keeps_restoreShards {r s : State} {a2 : List RestoredShard} (h : Keeps r s)  : Keeps r (State.restoreShards s a2).1 := by
  induction a2 generalizing s with
  | nil =>
    unfold State.restoreShards
    repeat' first
      | (with_reducible first
        | assumption)
  | cons x l ih =>
    unfold State.restoreShards
    repeat' first
      | (with_reducible first
        | assumption | apply keeps_putRecords | apply ih | fail_if_no_progress apply Keeps.update)
      | split

theorem keeps_execHallVoteDecision {r s : State} {a1 : HallVote} {a2 : Bool} (h : Keeps r s)  : KeepsOut r (execHallVoteDecision a1 a2 s) := by
  unfold execHallVoteDecision
  repeat' first
    | (with_reducible first
      | assumption | apply KeepsOut.next | exact KeepsOut.fault | exact KeepsOut.refused | apply keeps_refuseHall
      | apply keeps_acceptEntry | fail_if_no_progress apply Keeps.update | refine Keeps.of_pair (by assumption) ?_
      | refine Keeps.of_swapped (by assumption) ?_)
    | split | intro _ | dsimp only

theorem keeps_execHallChangeEffect {r s : State}  (h : Keeps r s)  : KeepsOut r (execHallChangeEffect s) := by
  unfold execHallChangeEffect
  repeat' first
    | (with_reducible first
      | assumption | apply KeepsOut.next | exact KeepsOut.fault | exact KeepsOut.refused | apply keeps_applyDue)

theorem keeps_execMemberHeartbeat {r s : State}  (h : Keeps r s)  : KeepsOut r (execMemberHeartbeat s) := by
  unfold execMemberHeartbeat
  repeat' first
    | (with_reducible first
      | assumption | apply KeepsOut.next | exact KeepsOut.fault | exact KeepsOut.refused | apply keeps_emits
      | fail_if_no_progress apply Keeps.update)
    | split

theorem keeps_execMemberLostTimeout {r s : State} {a1 : ℕ} (h : Keeps r s)  : KeepsOut r (execMemberLostTimeout a1 s) := by
  unfold execMemberLostTimeout
  repeat' first
    | (with_reducible first
      | assumption | apply KeepsOut.next | exact KeepsOut.fault | exact KeepsOut.refused | apply keeps_emit
      | fail_if_no_progress apply Keeps.update | refine Keeps.of_pair (by assumption) ?_ | refine Keeps.of_swapped (by assumption) ?_)
    | split | intro _ | dsimp only

theorem keeps_execPartPromotionRestore {r s : State} {a1 : Bool} {a2 : List RestoredShard} {a3 : List (ℕ × List Byte)} (h : Keeps r s)  : KeepsOut r (execPartPromotionRestore a1 a2 a3 s) := by
  unfold execPartPromotionRestore
  repeat' first
    | (with_reducible first
      | assumption | apply KeepsOut.next | exact KeepsOut.fault | exact KeepsOut.refused | apply keeps_promotionFailed
      | apply keeps_stopCores | apply keeps_loadSegments | apply keeps_applyJobSettings | apply keeps_clearFlags
      | apply keeps_restoreShards | apply keeps_restoreRows | apply keeps_emit | fail_if_no_progress apply Keeps.update
      | refine Keeps.of_pair (by assumption) ?_ | refine Keeps.of_swapped (by assumption) ?_)
    | split | intro _ | dsimp only

theorem keeps_execPromotedReceive {r s : State} {a1 : ℕ} {a2 : PromotedMark} (h : Keeps r s)  : KeepsOut r (execPromotedReceive a1 a2 s) := by
  unfold execPromotedReceive
  repeat' first
    | (with_reducible first
      | assumption | apply KeepsOut.next | exact KeepsOut.fault | exact KeepsOut.refused | apply keeps_emits | apply keeps_startDeferred
      | apply keeps_endPromotion | apply keeps_goCores | fail_if_no_progress apply Keeps.update)
    | split

theorem keeps_execResignReceive {r s : State} {a1 : ℕ} (h : Keeps r s)  : KeepsOut r (execResignReceive a1 s) := by
  unfold execResignReceive
  repeat' first
    | (with_reducible first
      | assumption | apply KeepsOut.next | exact KeepsOut.fault | exact KeepsOut.refused | apply keeps_nextSpare
      | fail_if_no_progress apply Keeps.update)
    | split

theorem keeps_execHeartbeatReceive {r s : State} {a1 : ℕ} {a2 : Bool} (h : Keeps r s)  : KeepsOut r (execHeartbeatReceive a1 a2 s) := by
  unfold execHeartbeatReceive
  repeat' first
    | (with_reducible first
      | assumption | apply KeepsOut.next | exact KeepsOut.fault | exact KeepsOut.refused | apply keeps_emit
      | fail_if_no_progress apply Keeps.update | refine Keeps.of_pair (by assumption) ?_ | refine Keeps.of_swapped (by assumption) ?_)
    | split | intro _ | dsimp only

theorem keeps_execHallVoteRequestReceive {r s : State} {a1 : ℕ} {a2 : HallCmd} (h : Keeps r s)  : KeepsOut r (execHallVoteRequestReceive a1 a2 s) := by
  unfold execHallVoteRequestReceive
  repeat' first
    | (with_reducible first
      | assumption | apply KeepsOut.next | exact KeepsOut.fault | exact KeepsOut.refused | apply keeps_emit
      | fail_if_no_progress apply Keeps.update)
    | split

end Sys2Proof.Laws
end

