-- ==== Sys2Proof/Laws/KeepsMonitor.lean ====
section
/-! SUPPORT. What the functions of Machine/Monitor.lean keep: the grade, the waiting commands and the canonical storage. -/

namespace Sys2Proof.Laws

open Sys2Proof.Machine

set_option Elab.async false

/-- The storage of a bank copied into another's place keeps the canonical form. -/
theorem copyBank_wf {m : List Host.Cell} {a b : Bank} (h : Memory.wf m = true) : Memory.wf (copyBank m a b) = true := by
  unfold Memory.wf at *
  rw [wf_iff] at *
  obtain ⟨hp, hv⟩ := h
  unfold copyBank
  refine ⟨?_, ?_⟩
  · simp only [List.pairwise_append, List.pairwise_map, id]
    refine ⟨⟨hp.filter _, (hp.filter _).imp_of_mem ?_, ?_⟩, hp.filter _, ?_⟩
    · intro x y hx hy hxy
      have h1 := (List.mem_filter.mp hx).2
      have h2 := (List.mem_filter.mp hy).2
      simp only [beq_iff_eq, id] at h1 h2 hxy ⊢
      omega
    · intro x hx y hy
      have h1 := (List.mem_filter.mp hx).2
      obtain ⟨z, _, rfl⟩ := List.mem_map.mp hy
      simp only [decide_eq_true_eq] at h1 ⊢
      omega
    · intro x hx y hy
      have h2 := (List.mem_filter.mp hy).2
      simp only [decide_eq_true_eq] at h2
      rcases List.mem_append.mp hx with hx | hx
      · have h1 := (List.mem_filter.mp hx).2
        simp only [decide_eq_true_eq] at h1
        omega
      · obtain ⟨z, _, rfl⟩ := List.mem_map.mp hx
        simp only
        omega
  · intro c hc
    rcases List.mem_append.mp hc with hc | hc
    · rcases List.mem_append.mp hc with hc | hc
      · exact hv c (List.mem_filter.mp hc).1
      · obtain ⟨z, hz, rfl⟩ := List.mem_map.mp hc
        exact hv z (List.mem_filter.mp hz).1
    · exact hv c (List.mem_filter.mp hc).1

theorem keeps_abortIn {r s : State} {a2 : ℕ} (h : Keeps r s)  : Keeps r (State.abortIn s a2) := by
  unfold State.abortIn
  repeat' first
    | (with_reducible first
      | assumption | apply keeps_finish | fail_if_no_progress apply Keeps.update | apply Keeps.foldl | apply Keeps.foldl_pair)
    | split | intro _

theorem keeps_startEvacuation {r s : State} {a2 : ℕ} (h : Keeps r s)  : Keeps r (State.startEvacuation s a2) := by
  unfold State.startEvacuation
  repeat' first
    | (with_reducible first
      | assumption | apply keeps_fset | fail_if_no_progress apply Keeps.update)
    | split

theorem keeps_takeSlot {r s : State} {a2 : ℕ} (h : Keeps r s)  : Keeps r (State.takeSlot s a2) := by
  unfold State.takeSlot
  repeat' first
    | (with_reducible first
      | assumption | apply keeps_fset | fail_if_no_progress apply Keeps.update)
    | split

theorem keeps_showCoreMode {r s : State} {a2 : ℕ} (h : Keeps r s)  : Keeps r (State.showCoreMode s a2) := by
  unfold State.showCoreMode
  repeat' first
    | (with_reducible first
      | assumption | apply keeps_showVxeMode | fail_if_no_progress apply Keeps.update)
    | split

theorem keeps_coreRecovers {r s : State} {a2 : ℕ} {a3 : Bool} {a4 : Bool} (h : Keeps r s)  : Keeps r (State.coreRecovers s a2 a3 a4) := by
  unfold State.coreRecovers
  repeat' first
    | (with_reducible first
      | assumption | apply keeps_showCoreMode | fail_if_no_progress apply Keeps.update)

theorem keeps_stopCore {r s : State} {a2 : ℕ} (h : Keeps r s)  : Keeps r (State.stopCore s a2) := by
  unfold State.stopCore
  repeat' first
    | (with_reducible first
      | assumption | apply keeps_stopPosition | fail_if_no_progress apply Keeps.update)
    | split

theorem keeps_afterPromote {r s : State}  (h : Keeps r s)  : Keeps r (State.afterPromote s) := by
  unfold State.afterPromote
  repeat' first
    | (with_reducible first
      | assumption | apply keeps_startDeferred | fail_if_no_progress apply Keeps.update)
    | split

theorem keeps_takeWaiting {r s : State}  (h : Keeps r s)  : Keeps r (State.takeWaiting s) := by
  unfold State.takeWaiting
  repeat' first
    | (with_reducible first
      | assumption | apply keeps_takeDecision | fail_if_no_progress apply Keeps.update | apply Keeps.foldl)

theorem keeps_afterRebuild {r s : State}  (h : Keeps r s)  : Keeps r (State.afterRebuild s) := by
  unfold State.afterRebuild
  repeat' first
    | (with_reducible first
      | assumption | apply keeps_reconsider | apply keeps_writeHeld | apply keeps_takeWaiting | fail_if_no_progress apply Keeps.update)
    | split

theorem keeps_endLiveOn {r s : State} {a2 : ℕ} (h : Keeps r s)  : Keeps r (State.endLiveOn s a2) := by
  unfold State.endLiveOn
  repeat' first
    | (with_reducible first
      | assumption | apply keeps_liveDone | fail_if_no_progress apply Keeps.update)
    | split

theorem keeps_markLost {r s : State} {a2 : ℕ} (h : Keeps r s)  : Keeps r (State.markLost s a2) := by
  unfold State.markLost
  repeat' first
    | (with_reducible first
      | assumption | apply keeps_releaseSlot | fail_if_no_progress apply Keeps.update)

theorem keeps_retireCore {r s : State} {a2 : ℕ} (h : Keeps r s)  : Keeps r (State.retireCore s a2) := by
  unfold State.retireCore
  repeat' first
    | (with_reducible first
      | assumption | apply keeps_setCorePwr | fail_if_no_progress apply Keeps.update)

theorem keeps_resignNow {r s : State}  (h : Keeps r s)  : Keeps r (State.resignNow s) := by
  unfold State.resignNow
  repeat' first
    | (with_reducible first
      | assumption | apply keeps_emit | apply keeps_raise | fail_if_no_progress apply Keeps.update)
    | split

theorem keeps_coreGone {r s : State} {a2 : ℕ} (h : Keeps r s)  : Keeps r (State.coreGone s a2) := by
  unfold State.coreGone
  repeat' first
    | (with_reducible first
      | assumption | apply keeps_endLiveOn | apply keeps_markLost | apply keeps_retireCore | apply keeps_resignNow
      | fail_if_no_progress apply Keeps.update | refine Keeps.of_pair (by assumption) ?_ | refine Keeps.of_swapped (by assumption) ?_)
    | split | intro _ | dsimp only

theorem keeps_bringSpare {r s : State} {a2 : ℕ} (h : Keeps r s)  : Keeps r (State.bringSpare s a2) := by
  unfold State.bringSpare
  repeat' first
    | (with_reducible first
      | assumption | apply keeps_setCorePwr | fail_if_no_progress apply Keeps.update)

theorem keeps_loseCore {r s : State} {a2 : ℕ} (h : Keeps r s)  : Keeps r (State.loseCore s a2) := by
  unfold State.loseCore
  repeat' first
    | (with_reducible first
      | assumption | apply keeps_coreGone | apply keeps_bringSpare | fail_if_no_progress apply Keeps.update)
    | split

theorem keeps_raiseVector {r s : State} {a2 : ℕ} (h : Keeps r s)  : Keeps r (State.raiseVector s a2) := by
  unfold State.raiseVector
  repeat' first
    | (with_reducible first
      | assumption | apply keeps_fset | fail_if_no_progress apply Keeps.update)
    | split

theorem keeps_pend {r s : State} {a2 : ℕ} (h : Keeps r s)  : Keeps r (State.pend s a2) := by
  unfold State.pend
  repeat' first
    | (with_reducible first
      | assumption | apply keeps_fraise | apply keeps_raiseVector | fail_if_no_progress apply Keeps.update)
    | split

theorem keeps_signal {r s : State} {a2 : ℕ} {a3 : ℕ} (h : Keeps r s)  : Keeps r (State.signal s a2 a3) := by
  unfold State.signal
  repeat' first
    | (with_reducible first
      | assumption | apply keeps_pend | apply keeps_raiseVector | fail_if_no_progress apply Keeps.update
      | refine Keeps.of_pair (by assumption) ?_ | refine Keeps.of_swapped (by assumption) ?_)
    | split | intro _ | dsimp only

theorem keeps_hoveTaken {r s : State} {a2 : ℕ} (h : Keeps r s)  : Keeps r (State.hoveTaken s a2) := by
  unfold State.hoveTaken
  repeat' first
    | (with_reducible first
      | assumption | apply keeps_enterHove | apply keeps_signal | fail_if_no_progress apply Keeps.update)
    | split

theorem keeps_applyLoss {r s : State} {a2 : ℕ} (h : Keeps r s)  : Keeps r (State.applyLoss s a2) := by
  unfold State.applyLoss
  repeat' first
    | (with_reducible first
      | assumption | apply keeps_loseCore | apply keeps_hoveTaken | apply keeps_resignNow | apply keeps_abortIn | apply keeps_endLiveOn
      | apply keeps_markLost | apply keeps_groupOff | fail_if_no_progress apply Keeps.update | refine Keeps.of_pair (by assumption) ?_
      | refine Keeps.of_swapped (by assumption) ?_)
    | split | intro _ | dsimp only

theorem keeps_showAlert {r s : State}  (h : Keeps r s)  : Keeps r (State.showAlert s) := by
  unfold State.showAlert
  repeat' first
    | (with_reducible first
      | assumption | fail_if_no_progress apply Keeps.update)

theorem keeps_catchUp {r s : State}  (h : Keeps r s)  : Keeps r (State.catchUp s) := by
  unfold State.catchUp
  repeat' first
    | (with_reducible first
      | assumption | apply keeps_countRelease | apply keeps_askRows | apply keeps_takeWaiting | fail_if_no_progress apply Keeps.update
      | apply Keeps.foldl | apply Keeps.foldl_pair | refine Keeps.of_pair (by assumption) ?_ | refine Keeps.of_swapped (by assumption) ?_)
    | split | intro _ | dsimp only

theorem keeps_cleanBank {r s : State} {a2 : Bank} (h : Keeps r s)  : Keeps r (State.cleanBank s a2) := by
  unfold State.cleanBank
  repeat' first
    | (with_reducible first
      | assumption | fail_if_no_progress apply Keeps.update | refine Keeps.of_pair (by assumption) ?_
      | refine Keeps.of_swapped (by assumption) ?_ | apply Keeps.storage)
    | exact id | exact wf_filter _ | exact filter_wf _ | exact fun _ => rfl | split | intro _ | dsimp only

theorem keeps_endCorePromotion {r s : State} {a2 : CoreRec} (h : Keeps r s)  : Keeps r (State.endCorePromotion s a2) := by
  unfold State.endCorePromotion
  repeat' first
    | (with_reducible first
      | assumption | apply keeps_fset | apply keeps_latch | apply keeps_markLost | apply keeps_liveDone | apply keeps_showVxeMode
      | fail_if_no_progress apply Keeps.update)
    | split

theorem keeps_showTop {r s : State}  (h : Keeps r s)  : Keeps r (State.showTop s) := by
  unfold State.showTop
  repeat' first
    | (with_reducible first
      | assumption | apply keeps_fset)

theorem keeps_fileRecord {r s : State} {a2 : Event} {a3 : ℕ} {a4 : ℕ} (h : Keeps r s)  : Keeps r (State.fileRecord s a2 a3 a4) := by
  unfold State.fileRecord
  repeat' first
    | (with_reducible first
      | assumption | apply keeps_fadd | apply keeps_wr | apply keeps_showTop | apply keeps_fraise | apply keeps_raise | apply keeps_fwrap
      | fail_if_no_progress apply Keeps.update | apply Keeps.foldl | apply Keeps.foldl_pair | refine Keeps.of_pair (by assumption) ?_
      | refine Keeps.of_swapped (by assumption) ?_)
    | split | intro _ | dsimp only

theorem keeps_post {r s : State} {a2 : Event} {a3 : ℕ} {a4 : ℕ} (h : Keeps r s)  : Keeps r (State.post s a2 a3 a4) := by
  unfold State.post
  repeat' first
    | (with_reducible first
      | assumption | apply keeps_signal | apply keeps_fileRecord)

theorem keeps_takeLoss {r s : State} {a2 : Event} {a3 : ℕ} (h : Keeps r s)  : Keeps r (State.takeLoss s a2 a3) := by
  unfold State.takeLoss
  repeat' first
    | (with_reducible first
      | assumption | apply keeps_post | apply keeps_applyLoss | fail_if_no_progress apply Keeps.update
      | refine Keeps.of_pair (by assumption) ?_ | refine Keeps.of_swapped (by assumption) ?_)
    | split | intro _ | dsimp only

theorem keeps_safetyFault {r s : State} {a2 : Event} {a3 : ℕ} {a4 : ℕ} (h : Keeps r s)  : Keeps r (State.safetyFault s a2 a3 a4) := by
  unfold State.safetyFault
  repeat' first
    | (with_reducible first
      | assumption | apply keeps_hoveTaken | apply keeps_post)

theorem keeps_linkOut {r s : State} {a2 : ℕ} (h : Keeps r s)  : Keeps r (State.linkOut s a2) := by
  unfold State.linkOut
  repeat' first
    | (with_reducible first
      | assumption | apply keeps_hoveTaken | fail_if_no_progress apply Keeps.update | refine Keeps.of_pair (by assumption) ?_
      | refine Keeps.of_swapped (by assumption) ?_)
    | split | intro _ | dsimp only

theorem keeps_startRecovery {r s : State} {a2 : Event} (h : Keeps r s)  : Keeps r (State.startRecovery s a2) := by
  unfold State.startRecovery
  repeat' first
    | (with_reducible first
      | assumption | apply keeps_coreRecovers | apply keeps_startEvacuation | apply keeps_groupFaults | apply keeps_linkOut
      | fail_if_no_progress apply Keeps.update)
    | split

theorem keeps_takeFault {r s : State} {a2 : Event} {a3 : ℕ} (h : Keeps r s)  : Keeps r (State.takeFault s a2 a3) := by
  unfold State.takeFault
  repeat' first
    | (with_reducible first
      | assumption | apply keeps_post | apply keeps_takeLoss | apply keeps_stopCore | apply keeps_safetyFault | apply keeps_abortVote
      | apply keeps_startRecovery | apply keeps_takeSlot | fail_if_no_progress apply Keeps.update
      | refine Keeps.of_pair (by assumption) ?_ | refine Keeps.of_swapped (by assumption) ?_)
    | split | intro _ | dsimp only

theorem keeps_handle {r s : State} {a2 : Event} {a3 : ℕ} (h : Keeps r s)  : Keeps r (State.handle s a2 a3) := by
  unfold State.handle
  repeat' first
    | (with_reducible first
      | assumption | apply keeps_signal | apply keeps_post | apply keeps_takeFault | apply keeps_takeLoss | apply keeps_enterHove
      | fail_if_no_progress apply Keeps.update)
    | split

theorem keeps_mergeIdle {r s : State} {a2 : ℕ} {a3 : ℕ} (h : Keeps r s)  : Keeps r (State.mergeIdle s a2 a3) := by
  unfold State.mergeIdle
  repeat' first
    | (with_reducible first
      | assumption | fail_if_no_progress apply Keeps.update)

theorem keeps_mergeCounters {r s : State} {a2 : ℕ} {a3 : ℕ} (h : Keeps r s)  : Keeps r (State.mergeCounters s a2 a3) := by
  unfold State.mergeCounters
  repeat' first
    | (with_reducible first
      | assumption | apply keeps_wr | apply keeps_mergeIdle | fail_if_no_progress apply Keeps.update | apply Keeps.foldl
      | apply Keeps.foldl_pair)
    | split | intro _

theorem keeps_resumeHold {r s : State}  (h : Keeps r s)  : Keeps r (State.resumeHold s) := by
  unfold State.resumeHold
  repeat' first
    | (with_reducible first
      | assumption | apply keeps_endHold | apply keeps_fset | apply keeps_raise | fail_if_no_progress apply Keeps.update)
    | split

theorem keeps_release {r s : State}  (h : Keeps r s)  : Keeps r (State.release s) := by
  unfold State.release
  repeat' first
    | (with_reducible first
      | assumption | apply keeps_raise | apply keeps_fset | apply keeps_suspendUnits | apply keeps_showAlert | apply keeps_catchUp
      | apply keeps_rejoin | apply keeps_resumeHold | fail_if_no_progress apply Keeps.update)

theorem keeps_switchSpare {r s : State} {a2 : CoreRec} (h : Keeps r s)  : Keeps r (State.switchSpare s a2) := by
  unfold State.switchSpare
  repeat' first
    | (with_reducible first
      | assumption | apply keeps_mergeCounters | apply keeps_setCorePwr | apply keeps_endCorePromotion
      | fail_if_no_progress apply Keeps.update | refine Keeps.of_pair (by assumption) ?_ | refine Keeps.of_swapped (by assumption) ?_)
    | split | intro _ | dsimp only

theorem keeps_execRotatingSelfTest {r s : State} {a1 : ℕ} {a2 : TestPass} (h : Keeps r s)  : KeepsOut r (execRotatingSelfTest a1 a2 s) := by
  unfold execRotatingSelfTest
  repeat' first
    | (with_reducible first
      | assumption | apply KeepsOut.next | exact KeepsOut.fault | exact KeepsOut.refused | apply keeps_fadd | apply keeps_wake
      | apply keeps_fset | apply keeps_faultDomain | fail_if_no_progress apply Keeps.update)
    | split

theorem keeps_execCoreRecoveryTestEnd {r s : State} {a1 : ℕ} {a2 : TestPass} (h : Keeps r s)  : KeepsOut r (execCoreRecoveryTestEnd a1 a2 s) := by
  unfold execCoreRecoveryTestEnd
  repeat' first
    | (with_reducible first
      | assumption | apply KeepsOut.next | exact KeepsOut.fault | exact KeepsOut.refused | apply keeps_showCoreMode
      | apply keeps_domainBack | apply keeps_bringSpare | apply keeps_afterPromote | apply keeps_loseDomain
      | fail_if_no_progress apply Keeps.update)
    | split

theorem keeps_execSpareTestEnd {r s : State} {a1 : ℕ} {a2 : TestPass} (h : Keeps r s)  : KeepsOut r (execSpareTestEnd a1 a2 s) := by
  unfold execSpareTestEnd
  repeat' first
    | (with_reducible first
      | assumption | apply KeepsOut.next | exact KeepsOut.fault | exact KeepsOut.refused | apply keeps_afterPromote
      | apply keeps_switchSpare | apply keeps_loseDomain | apply keeps_retireCore | fail_if_no_progress apply Keeps.update)
    | split

theorem keeps_execPromotionComplete {r s : State} {a1 : ℕ} (h : Keeps r s)  : KeepsOut r (execPromotionComplete a1 s) := by
  unfold execPromotionComplete
  repeat' first
    | (with_reducible first
      | assumption | apply KeepsOut.next | exact KeepsOut.fault | exact KeepsOut.refused | apply keeps_loadSegments
      | apply keeps_afterPromote | apply keeps_endCorePromotion | fail_if_no_progress apply Keeps.update)
    | split

theorem keeps_execHoveToEntry {r s : State} {a1 : HoveCause} (h : Keeps r s)  : KeepsOut r (execHoveToEntry a1 s) := by
  unfold execHoveToEntry
  repeat' first
    | (with_reducible first
      | assumption | apply KeepsOut.next | exact KeepsOut.fault | exact KeepsOut.refused | apply keeps_safetyFault
      | apply keeps_hoveTaken | fail_if_no_progress apply Keeps.update)
    | split

theorem keeps_execHoveEnter {r s : State}  (h : Keeps r s)  : KeepsOut r (execHoveEnter s) := by
  unfold execHoveEnter
  repeat' first
    | (with_reducible first
      | assumption | apply KeepsOut.next | exact KeepsOut.fault | exact KeepsOut.refused | apply keeps_hoveNow | apply keeps_fset)

theorem keeps_execHoveRelease {r s : State} {a1 : Sender} {a2 : TestPass} (h : Keeps r s)  : KeepsOut r (execHoveRelease a1 a2 s) := by
  unfold execHoveRelease
  repeat' first
    | (with_reducible first
      | assumption | apply KeepsOut.next | exact KeepsOut.fault | exact KeepsOut.refused | apply keeps_release | apply keeps_fset
      | apply keeps_raise | apply keeps_fadd | fail_if_no_progress apply Keeps.update | refine Keeps.of_pair (by assumption) ?_
      | refine Keeps.of_swapped (by assumption) ?_)
    | split | intro _ | dsimp only

theorem keeps_execErrRecordUnlock {r s : State}  (h : Keeps r s)  : KeepsOut r (execErrRecordUnlock s) := by
  unfold execErrRecordUnlock
  repeat' first
    | (with_reducible first
      | assumption | apply KeepsOut.next | exact KeepsOut.fault | exact KeepsOut.refused | apply keeps_showTop | apply keeps_fclear)

theorem keeps_execErrRingReadAdvance {r s : State} {a1 : ℕ} (h : Keeps r s)  : KeepsOut r (execErrRingReadAdvance a1 s) := by
  unfold execErrRingReadAdvance
  repeat' first
    | (with_reducible first
      | assumption | apply KeepsOut.next | exact KeepsOut.fault | exact KeepsOut.refused | apply keeps_showTop | apply keeps_fset
      | fail_if_no_progress apply Keeps.update | refine Keeps.of_pair (by assumption) ?_ | refine Keeps.of_swapped (by assumption) ?_)
    | split | intro _ | dsimp only

theorem keeps_execStaleRecordUnlock {r s : State}  (h : Keeps r s)  : KeepsOut r (execStaleRecordUnlock s) := by
  unfold execStaleRecordUnlock
  repeat' first
    | (with_reducible first
      | assumption | apply KeepsOut.next | exact KeepsOut.fault | exact KeepsOut.refused | apply keeps_fclear)

theorem keeps_execLinkFlitCrcFail {r s : State} {a1 : ℕ} {a2 : Bool} (h : Keeps r s)  : KeepsOut r (execLinkFlitCrcFail a1 a2 s) := by
  unfold execLinkFlitCrcFail
  repeat' first
    | (with_reducible first
      | assumption | apply KeepsOut.next | exact KeepsOut.fault | exact KeepsOut.refused | apply keeps_error | apply keeps_faultDomain
      | fail_if_no_progress apply Keeps.update | refine Keeps.of_pair (by assumption) ?_ | refine Keeps.of_swapped (by assumption) ?_)
    | split | intro _ | dsimp only

theorem keeps_execLinkRetrainEnd {r s : State} {a1 : ℕ} {a2 : TestPass} (h : Keeps r s)  : KeepsOut r (execLinkRetrainEnd a1 a2 s) := by
  unfold execLinkRetrainEnd
  repeat' first
    | (with_reducible first
      | assumption | apply KeepsOut.next | exact KeepsOut.fault | exact KeepsOut.refused | apply keeps_domainBack
      | apply keeps_afterRebuild | apply keeps_flushBridge | apply keeps_loseDomain | fail_if_no_progress apply Keeps.update)
    | split

theorem keeps_execLedgerRebuild {r s : State} {a1 : ℕ} (h : Keeps r s)  : KeepsOut r (execLedgerRebuild a1 s) := by
  unfold execLedgerRebuild
  repeat' first
    | (with_reducible first
      | assumption | apply KeepsOut.next | exact KeepsOut.fault | exact KeepsOut.refused | apply keeps_fetchCopy | apply keeps_cleanBank
      | apply keeps_afterRebuild | apply keeps_domainBack | fail_if_no_progress apply Keeps.update | apply Keeps.foldl
      | apply Keeps.foldl_pair | refine Keeps.of_pair (by assumption) ?_ | refine Keeps.of_swapped (by assumption) ?_
      | apply Keeps.storage)
    | exact id | exact wf_filter _ | exact filter_wf _ | exact fun _ => rfl | exact copyBank_wf | split | intro _ | dsimp only

end Sys2Proof.Laws
end

