-- ==== Sys2Proof/Laws/KeepsJobs.lean ====
section
/-! SUPPORT. What the functions of Machine/Jobs.lean keep: the grade, the waiting commands and the canonical storage. -/

namespace Sys2Proof.Laws

open Sys2Proof.Machine

set_option Elab.async false

theorem keeps_loadKeeper {r s : State} {a2 : List Byte} (h : Keeps r s)  : Keeps r (State.loadKeeper s a2) := by
  unfold State.loadKeeper
  repeat' first
    | (with_reducible first
      | assumption | apply keeps_setLed | fail_if_no_progress apply Keeps.update | apply Keeps.foldl | apply Keeps.foldl_pair)
    | split | intro _

theorem keeps_loadTables {r s : State} {a2 : List Byte} (h : Keeps r s)  : Keeps r (State.loadTables s a2) := by
  unfold State.loadTables
  repeat' first
    | (with_reducible first
      | assumption | apply keeps_writeBytes | fail_if_no_progress apply Keeps.update | apply Keeps.foldl | apply Keeps.foldl_pair)
    | split | intro _

theorem keeps_askImage {r s : State}  (h : Keeps r s)  : Keeps r (State.askImage s) := by
  unfold State.askImage
  repeat' first
    | (with_reducible first
      | assumption | apply keeps_sendMessage | apply keeps_emit | fail_if_no_progress apply Keeps.update)
    | split

theorem keeps_askStop {r s : State}  (h : Keeps r s)  : Keeps r (State.askStop s) := by
  unfold State.askStop
  repeat' first
    | (with_reducible first
      | assumption | apply keeps_jobResult | apply keeps_fset | apply keeps_emit | fail_if_no_progress apply Keeps.update)
    | split

theorem keeps_loadFailed {r s : State} {a2 : Status} (h : Keeps r s)  : Keeps r (State.loadFailed s a2) := by
  unfold State.loadFailed
  repeat' first
    | (with_reducible first
      | assumption | apply keeps_jobResult | apply keeps_fset)

theorem keeps_hostImage {r s : State}  (h : Keeps r s)  : Keeps r (State.hostImage s).1 := by
  unfold State.hostImage
  repeat' first
    | (with_reducible first
      | assumption | apply keeps_readBytes)

theorem keeps_jobSource {r s : State} {a2 : ℕ} {a3 : RemoteReply} (h : Keeps r s)  : Keeps r (State.jobSource s a2 a3).1 := by
  unfold State.jobSource
  repeat' first
    | (with_reducible first
      | assumption | apply keeps_hostImage | apply keeps_askImage | fail_if_no_progress apply Keeps.update)
    | split

theorem keeps_loadShards {r s : State} {a2 : List Byte} (h : Keeps r s)  : Keeps r (State.loadShards s a2) := by
  unfold State.loadShards
  repeat' first
    | (with_reducible first
      | assumption | apply keeps_setLed | fail_if_no_progress apply Keeps.update | apply Keeps.foldl | apply Keeps.foldl_pair)
    | split | intro _

theorem keeps_keepImage {r s : State} {a2 : List Byte} (h : Keeps r s)  : Keeps r (State.keepImage s a2) := by
  unfold State.keepImage
  repeat' first
    | (with_reducible first
      | assumption | apply keeps_store)

theorem keeps_openJobFlows {r s : State}  (h : Keeps r s)  : Keeps r (State.openJobFlows s) := by
  unfold State.openJobFlows
  repeat' first
    | (with_reducible first
      | assumption | apply keeps_openFlow | apply keeps_startExchange | fail_if_no_progress apply Keeps.update | apply Keeps.foldl
      | apply Keeps.foldl_pair | refine Keeps.of_pair (by assumption) ?_ | refine Keeps.of_swapped (by assumption) ?_)
    | split | intro _ | dsimp only

theorem keeps_markLoaded {r s : State} {a2 : List Byte} {a3 : Bool} (h : Keeps r s)  : Keeps r (State.markLoaded s a2 a3) := by
  unfold State.markLoaded
  repeat' first
    | (with_reducible first
      | assumption | apply keeps_emit)

theorem keeps_installJob {r s : State} {a2 : List Byte} (h : Keeps r s)  : Keeps r (State.installJob s a2) := by
  unfold State.installJob
  repeat' first
    | (with_reducible first
      | assumption | apply keeps_extend | apply keeps_loadSegments | apply keeps_loadFailed | apply keeps_clearFlags
      | apply keeps_loadShards | apply keeps_loadTables | apply keeps_keepImage | apply keeps_openJobFlows | apply keeps_applyJobSettings
      | apply keeps_fset | apply keeps_markLoaded | apply keeps_showPart | apply keeps_jobResult | fail_if_no_progress apply Keeps.update
      | refine Keeps.of_pair (by assumption) ?_ | refine Keeps.of_swapped (by assumption) ?_)
    | split | intro _ | dsimp only

theorem keeps_loadJob {r s : State} {a2 : ℕ} {a3 : ImageVerdict} {a4 : RemoteReply} (h : Keeps r s)  : Keeps r (State.loadJob s a2 a3 a4) := by
  unfold State.loadJob
  repeat' first
    | (with_reducible first
      | assumption | apply keeps_jobResult | apply keeps_loadFailed | apply keeps_jobSource | apply keeps_checkImage
      | apply keeps_installJob | fail_if_no_progress apply Keeps.update | refine Keeps.of_pair (by assumption) ?_)
    | split | intro _

theorem keeps_autoLoad {r s : State}  (h : Keeps r s)  : Keeps r (State.autoLoad s) := by
  unfold State.autoLoad
  repeat' first
    | (with_reducible first
      | assumption | apply keeps_loadJob | fail_if_no_progress apply Keeps.update)
    | split

theorem keeps_refuseStart {r s : State}  (h : Keeps r s)  : Keeps r (State.refuseStart s) := by
  unfold State.refuseStart
  repeat' first
    | (with_reducible first
      | assumption | apply keeps_emits | apply keeps_refuseHall | fail_if_no_progress apply Keeps.update)

theorem keeps_reload {r s : State} {a2 : List ℕ} (h : Keeps r s)  : Keeps r (State.reload s a2).1 := by
  unfold State.reload
  repeat' first
    | (with_reducible first
      | assumption | apply keeps_setRegions | apply keeps_loadSegments | fail_if_no_progress apply Keeps.update | apply Keeps.foldl
      | apply Keeps.foldl_pair | refine Keeps.of_pair (by assumption) ?_ | refine Keeps.of_swapped (by assumption) ?_)
    | split | intro _ | dsimp only

theorem keeps_stageJob {r s : State} {a2 : ℕ} {a3 : ImageVerdict} {a4 : RemoteReply} (h : Keeps r s)  : Keeps r (State.stageJob s a2 a3 a4) := by
  unfold State.stageJob
  repeat' first
    | (with_reducible first
      | assumption | apply keeps_jobResult | apply keeps_jobSource | apply keeps_checkImage | apply keeps_markLoaded
      | fail_if_no_progress apply Keeps.update | refine Keeps.of_pair (by assumption) ?_)
    | split | intro _

theorem keeps_weighLoaded {r s : State}  (h : Keeps r s)  : Keeps r (State.weighLoaded s) := by
  unfold State.weighLoaded
  repeat' first
    | (with_reducible first
      | assumption | apply keeps_refuseStart | apply keeps_emit | fail_if_no_progress apply Keeps.update
      | refine Keeps.of_pair (by assumption) ?_ | refine Keeps.of_swapped (by assumption) ?_)
    | split | intro _ | dsimp only

theorem keeps_execJobLoad {r s : State} {a1 : ImageVerdict} {a2 : RemoteReply} (h : Keeps r s)  : KeepsOut r (execJobLoad a1 a2 s) := by
  unfold execJobLoad
  repeat' first
    | (with_reducible first
      | assumption | apply KeepsOut.next | exact KeepsOut.fault | exact KeepsOut.refused | apply keeps_loadJob | apply keeps_fset)

theorem keeps_execLoadedReceive {r s : State} {a1 : ℕ} {a2 : LoadedMark} (h : Keeps r s)  : KeepsOut r (execLoadedReceive a1 a2 s) := by
  unfold execLoadedReceive
  repeat' first
    | (with_reducible first
      | assumption | apply KeepsOut.next | exact KeepsOut.fault | exact KeepsOut.refused | apply keeps_weighLoaded
      | fail_if_no_progress apply Keeps.update)
    | split

theorem keeps_execJstart {r s : State}  (h : Keeps r s)  : KeepsOut r (execJstart s) := by
  unfold execJstart
  repeat' first
    | (with_reducible first
      | assumption | apply KeepsOut.next | exact KeepsOut.fault | exact KeepsOut.refused | apply keeps_applyHall
      | fail_if_no_progress apply Keeps.update)
    | split

theorem keeps_execJstartTimeout {r s : State}  (h : Keeps r s)  : KeepsOut r (execJstartTimeout s) := by
  unfold execJstartTimeout
  repeat' first
    | (with_reducible first
      | assumption | apply KeepsOut.next | exact KeepsOut.fault | exact KeepsOut.refused | apply keeps_refuseStart
      | fail_if_no_progress apply Keeps.update)
    | split

theorem keeps_execJobStop {r s : State}  (h : Keeps r s)  : KeepsOut r (execJobStop s) := by
  unfold execJobStop
  repeat' first
    | (with_reducible first
      | assumption | apply KeepsOut.next | exact KeepsOut.fault | exact KeepsOut.refused | apply keeps_askStop | apply keeps_fset)

theorem keeps_execJobUpdate {r s : State} {a1 : ImageVerdict} {a2 : RemoteReply} (h : Keeps r s)  : KeepsOut r (execJobUpdate a1 a2 s) := by
  unfold execJobUpdate
  repeat' first
    | (with_reducible first
      | assumption | apply KeepsOut.next | exact KeepsOut.fault | exact KeepsOut.refused | apply keeps_stageJob | apply keeps_fset)

theorem keeps_execJobUpdateApply {r s : State}  (h : Keeps r s)  : KeepsOut r (execJobUpdateApply s) := by
  unfold execJobUpdateApply
  repeat' first
    | (with_reducible first
      | assumption | apply KeepsOut.next | exact KeepsOut.fault | exact KeepsOut.refused | apply keeps_stopQueue | apply keeps_extend
      | apply keeps_reload | apply keeps_keepImage | apply keeps_applyJobSettings | apply keeps_goQueue | apply keeps_jobResult
      | apply keeps_fset | apply keeps_raise | apply keeps_abortVote | fail_if_no_progress apply Keeps.update | apply Keeps.foldl
      | apply Keeps.foldl_pair | refine Keeps.of_pair (by assumption) ?_ | refine Keeps.of_swapped (by assumption) ?_)
    | split | intro _ | dsimp only

end Sys2Proof.Laws
end

