-- ==== Sys2Proof/Laws/KeepsPower.lean ====
section
/-! SUPPORT. What the functions of Machine/Power.lean keep: the grade, the waiting commands and the canonical storage. -/

namespace Sys2Proof.Laws

open Sys2Proof.Machine

set_option Elab.async false

theorem keeps_coldReset {r s : State}  (h : Keeps r s)  : Keeps r (State.coldReset s) := by
  unfold State.coldReset
  repeat' first
    | (with_reducible first
      | assumption | fail_if_no_progress apply Keeps.update | refine Keeps.of_pair (by assumption) ?_
      | refine Keeps.of_swapped (by assumption) ?_ | apply Keeps.storage)
    | exact id | exact wf_filter _ | exact filter_wf _ | exact fun _ => rfl | split | intro _ | dsimp only

theorem keeps_powerOff {r s : State}  (h : Keeps r s)  : Keeps r (State.powerOff s) := by
  unfold State.powerOff
  repeat' first
    | (with_reducible first
      | assumption | apply keeps_fset | fail_if_no_progress apply Keeps.update | refine Keeps.of_pair (by assumption) ?_
      | refine Keeps.of_swapped (by assumption) ?_ | apply Keeps.storage)
    | exact id | exact wf_filter _ | exact filter_wf _ | exact fun _ => rfl | split | intro _ | dsimp only

theorem keeps_setDuty {r s : State} {a2 : Reading} {a3 : ℕ} (h : Keeps r s)  : Keeps r (State.setDuty s a2 a3) := by
  unfold State.setDuty
  repeat' first
    | (with_reducible first
      | assumption | apply keeps_fset | apply keeps_fadd | apply keeps_raise | fail_if_no_progress apply Keeps.update
      | refine Keeps.of_pair (by assumption) ?_ | refine Keeps.of_swapped (by assumption) ?_)
    | split | intro _ | dsimp only

theorem keeps_showReading {r s : State} {a2 : Reading} (h : Keeps r s)  : Keeps r (State.showReading s a2) := by
  unfold State.showReading
  repeat' first
    | (with_reducible first
      | assumption | apply keeps_fset | fail_if_no_progress apply Keeps.update | apply Keeps.foldl | apply Keeps.foldl_pair)
    | split | intro _

theorem keeps_execThrottleReading {r s : State} {a1 : Reading} (h : Keeps r s)  : KeepsOut r (execThrottleReading a1 s) := by
  unfold execThrottleReading
  repeat' first
    | (with_reducible first
      | assumption | apply KeepsOut.next | exact KeepsOut.fault | exact KeepsOut.refused | apply keeps_setDuty | apply keeps_showReading
      | apply keeps_askHove | fail_if_no_progress apply Keeps.update | refine Keeps.of_pair (by assumption) ?_
      | refine Keeps.of_swapped (by assumption) ?_)
    | split | intro _ | dsimp only

theorem keeps_execThermalTrip {r s : State}  (h : Keeps r s)  : KeepsOut r (execThermalTrip s) := by
  unfold execThermalTrip
  repeat' first
    | (with_reducible first
      | assumption | apply KeepsOut.next | exact KeepsOut.fault | exact KeepsOut.refused | apply keeps_error | apply keeps_fadd
      | apply keeps_powerOff | fail_if_no_progress apply Keeps.update)

theorem keeps_execP12vLoss {r s : State}  (h : Keeps r s)  : KeepsOut r (execP12vLoss s) := by
  unfold execP12vLoss
  repeat' first
    | (with_reducible first
      | assumption | apply KeepsOut.next | exact KeepsOut.fault | exact KeepsOut.refused | apply keeps_powerOff | apply keeps_error
      | fail_if_no_progress apply Keeps.update)
    | split

theorem keeps_execRailFault {r s : State} {a1 : ℕ} (h : Keeps r s)  : KeepsOut r (execRailFault a1 s) := by
  unfold execRailFault
  repeat' first
    | (with_reducible first
      | assumption | apply KeepsOut.next | exact KeepsOut.fault | exact KeepsOut.refused | apply keeps_error | apply keeps_fadd
      | apply keeps_powerOff | fail_if_no_progress apply Keeps.update)
    | split

theorem keeps_execP12vAbsentAtBoot {r s : State}  (h : Keeps r s)  : KeepsOut r (execP12vAbsentAtBoot s) := by
  unfold execP12vAbsentAtBoot
  repeat' first
    | (with_reducible first
      | assumption | apply KeepsOut.next | exact KeepsOut.fault | exact KeepsOut.refused | apply keeps_raise
      | fail_if_no_progress apply Keeps.update)
    | split

theorem keeps_execP3v3AonLoss {r s : State}  (h : Keeps r s)  : KeepsOut r (execP3v3AonLoss s) := by
  unfold execP3v3AonLoss
  repeat' first
    | (with_reducible first
      | assumption | apply KeepsOut.next | exact KeepsOut.fault | exact KeepsOut.refused | apply keeps_coldReset)

theorem keeps_execEthRefclkMissing {r s : State} {a1 : ℕ} (h : Keeps r s)  : KeepsOut r (execEthRefclkMissing a1 s) := by
  unfold execEthRefclkMissing
  repeat' first
    | (with_reducible first
      | assumption | apply KeepsOut.next | exact KeepsOut.fault | exact KeepsOut.refused | apply keeps_faultDomain | apply keeps_portDown
      | fail_if_no_progress apply Keeps.update | apply Keeps.foldl | apply Keeps.foldl_pair)
    | split | intro _

end Sys2Proof.Laws
end

