-- ==== Sys2Proof/Laws/KeepsStart.lean ====
section
/-! SUPPORT. What the functions of Machine/Start.lean keep: the grade, the waiting commands and the canonical storage. -/

namespace Sys2Proof.Laws

open Sys2Proof.Machine

set_option Elab.async false

theorem keeps_measureImage {r s : State} {a2 : List Byte} (h : Keeps r s)  : Keeps r (State.measureImage s a2) := by
  unfold State.measureImage
  repeat' first
    | (with_reducible first
      | assumption | apply keeps_extend | apply keeps_fset | fail_if_no_progress apply Keeps.update)
    | split

theorem keeps_applyPorts {r s : State} {a2 : List Byte} (h : Keeps r s)  : Keeps r (State.applyPorts s a2) := by
  unfold State.applyPorts
  repeat' first
    | (with_reducible first
      | assumption | apply keeps_wr | fail_if_no_progress apply Keeps.update | apply Keeps.foldl | apply Keeps.foldl_pair)
    | split | intro _

theorem keeps_applyImage {r s : State} {a2 : ℕ} (h : Keeps r s)  : Keeps r (State.applyImage s a2) := by
  unfold State.applyImage
  repeat' first
    | (with_reducible first
      | assumption | apply keeps_fset | apply keeps_measureImage | apply keeps_applyConfigSettings | apply keeps_applyPorts
      | fail_if_no_progress apply Keeps.update)

theorem keeps_readImage {r s : State} {a2 : List Byte} (h : Keeps r s)  : Keeps r (State.readImage s a2) := by
  unfold State.readImage
  repeat' first
    | (with_reducible first
      | assumption | fail_if_no_progress apply Keeps.update)

theorem keeps_failTrying {r s : State}  (h : Keeps r s)  : Keeps r (State.failTrying s) := by
  unfold State.failTrying
  repeat' first
    | (with_reducible first
      | assumption | apply keeps_setSlotState | fail_if_no_progress apply Keeps.update | apply Keeps.foldl | apply Keeps.foldl_pair)
    | split | intro _

theorem keeps_trySlots {r s : State} {a1 : ℕ → ImageVerdict} {a2 : ℕ} (h : Keeps r s)  : Keeps r (State.trySlots a1 a2 s).1 := by
  induction a2 generalizing s a1 with
  | zero =>
    unfold State.trySlots
    repeat' first
      | (with_reducible first
        | assumption)
  | succ n ih =>
    unfold State.trySlots
    repeat' first
      | (with_reducible first
        | assumption | apply hf | apply keeps_checkImage | apply keeps_setSlotState | apply keeps_readImage | apply keeps_fset | apply ih
        | fail_if_no_progress apply Keeps.update | refine Keeps.of_pair (by assumption) ?_ | refine Keeps.of_swapped (by assumption) ?_)
      | split | intro _ | dsimp only

theorem keeps_startupTests {r s : State} {a2 : List ℕ} (h : Keeps r s)  : Keeps r (State.startupTests s a2) := by
  unfold State.startupTests
  repeat' first
    | (with_reducible first
      | assumption | apply keeps_showVxeMode | apply keeps_faultDomain | fail_if_no_progress apply Keeps.update | apply Keeps.foldl
      | apply Keeps.foldl_pair)
    | split | intro _

theorem keeps_wakeCores {r s : State}  (h : Keeps r s)  : Keeps r (State.wakeCores s) := by
  unfold State.wakeCores
  repeat' first
    | (with_reducible first
      | assumption | apply keeps_setCorePwr | fail_if_no_progress apply Keeps.update | apply Keeps.foldl | apply Keeps.foldl_pair)
    | split | intro _

theorem keeps_startLink {r s : State}  (h : Keeps r s)  : Keeps r (State.startLink s) := by
  unfold State.startLink
  repeat' first
    | (with_reducible first
      | assumption | apply keeps_hostLinkTrain | fail_if_no_progress apply Keeps.update)
    | split

theorem keeps_powerUp {r s : State}  (h : Keeps r s)  : Keeps r (State.powerUp s) := by
  unfold State.powerUp
  repeat' first
    | (with_reducible first
      | assumption | apply keeps_fset | apply keeps_groupRetry | apply keeps_wakeCores | apply keeps_mirrorLog | apply keeps_showAlert
      | apply keeps_startLink | fail_if_no_progress apply Keeps.update | apply Keeps.foldl | apply Keeps.foldl_pair
      | refine Keeps.of_pair (by assumption) ?_ | refine Keeps.of_swapped (by assumption) ?_ | apply Keeps.storage)
    | exact id | exact wf_filter _ | exact filter_wf _ | exact fun _ => rfl | split | intro _ | dsimp only

theorem keeps_factoryPorts {r s : State}  (h : Keeps r s)  : Keeps r (State.factoryPorts s) := by
  unfold State.factoryPorts
  repeat' first
    | (with_reducible first
      | assumption | apply keeps_fset | apply keeps_wr | fail_if_no_progress apply Keeps.update | apply Keeps.foldl
      | apply Keeps.foldl_pair)
    | split | intro _

theorem keeps_enterQualify {r s : State}  (h : Keeps r s)  : Keeps r (State.enterQualify s) := by
  unfold State.enterQualify
  repeat' first
    | (with_reducible first
      | assumption | apply keeps_fset | apply keeps_raise | apply keeps_powerUp | apply keeps_factoryPorts
      | fail_if_no_progress apply Keeps.update)
    | split

theorem keeps_bootSlots {r s : State} {a2 : ℕ → ImageVerdict} {a3 : List ℕ} (h : Keeps r s)  : Keeps r (State.bootSlots s a2 a3) := by
  unfold State.bootSlots
  repeat' first
    | (with_reducible first
      | assumption | apply hf | apply keeps_showSlots | apply keeps_failTrying | apply keeps_fset | apply keeps_trySlots
      | apply keeps_raise | apply keeps_startupTests | apply keeps_loadKeeper | apply keeps_loadTables | apply keeps_powerUp
      | apply keeps_applyImage | apply keeps_enterQualify | fail_if_no_progress apply Keeps.update
      | refine Keeps.of_pair (by assumption) ?_ | refine Keeps.of_swapped (by assumption) ?_)
    | split | intro _ | dsimp only

theorem keeps_cfgResult {r s : State} {a2 : Status} (h : Keeps r s)  : Keeps r (State.cfgResult s a2) := by
  unfold State.cfgResult
  repeat' first
    | (with_reducible first
      | assumption | apply keeps_fset)

theorem keeps_enrol {r s : State} {a2 : ℕ} {a3 : List Byte} (h : Keeps r s)  : Keeps r (State.enrol s a2 a3) := by
  unfold State.enrol
  repeat' first
    | (with_reducible first
      | assumption | apply keeps_extend | apply keeps_becomeActive | apply keeps_fset | apply keeps_wr | apply keeps_portDown
      | apply keeps_bootSlots | fail_if_no_progress apply Keeps.update | apply Keeps.foldl | apply Keeps.foldl_pair)
    | split | intro _

theorem keeps_findingWords {r s : State} {a2 : Findings} (h : Keeps r s)  : Keeps r (State.findingWords s a2).1 := by
  unfold State.findingWords
  repeat' first
    | (with_reducible first
      | assumption | apply keeps_open_ | fail_if_no_progress apply Keeps.update | apply Keeps.foldl | apply Keeps.foldl_pair
      | refine Keeps.of_pair (by assumption) ?_ | refine Keeps.of_swapped (by assumption) ?_)
    | split | intro _

theorem keeps_repairChannel {r s : State} {a2 : ℕ × ℕ} (h : Keeps r s)  : Keeps r (State.repairChannel s a2) := by
  unfold State.repairChannel
  repeat' first
    | (with_reducible first
      | assumption | apply keeps_fset)

theorem keeps_repairCore {r s : State} {a2 : ℕ} (h : Keeps r s)  : Keeps r (State.repairCore s a2) := by
  unfold State.repairCore
  repeat' first
    | (with_reducible first
      | assumption | apply keeps_retireCore | apply keeps_fset | apply keeps_setCorePwr | fail_if_no_progress apply Keeps.update)
    | split

theorem keeps_writeReport {r s : State} {a2 : Findings} (h : Keeps r s)  : Keeps r (State.writeReport s a2) := by
  unfold State.writeReport
  repeat' first
    | (with_reducible first
      | assumption | apply keeps_findingWords | apply keeps_store | fail_if_no_progress apply Keeps.update)

theorem keeps_execBeaconSend {r s : State} {a1 : ℕ} (h : Keeps r s)  : KeepsOut r (execBeaconSend a1 s) := by
  unfold execBeaconSend
  repeat' first
    | (with_reducible first
      | assumption | apply KeepsOut.next | exact KeepsOut.fault | exact KeepsOut.refused | apply keeps_sendBeacon
      | fail_if_no_progress apply Keeps.update | refine Keeps.of_pair (by assumption) ?_ | refine Keeps.of_swapped (by assumption) ?_)
    | split | intro _ | dsimp only

theorem keeps_execP12vRestore {r s : State} {a1 : Option ImageVerdict} {a2 : Option ImageVerdict} {a3 : List ℕ} (h : Keeps r s)  : KeepsOut r (execP12vRestore a1 a2 a3 s) := by
  unfold execP12vRestore
  repeat' first
    | (with_reducible first
      | assumption | apply KeepsOut.next | exact KeepsOut.fault | exact KeepsOut.refused | apply keeps_powerUp | apply keeps_bootSlots
      | fail_if_no_progress apply Keeps.update)
    | split

theorem keeps_execPowerOnReset {r s : State} {a1 : Option ImageVerdict} {a2 : Option ImageVerdict} {a3 : List ℕ} (h : Keeps r s)  : KeepsOut r (execPowerOnReset a1 a2 a3 s) := by
  unfold execPowerOnReset
  repeat' first
    | (with_reducible first
      | assumption | apply KeepsOut.next | exact KeepsOut.fault | exact KeepsOut.refused | apply keeps_bootSlots | apply keeps_extend
      | apply keeps_coldReset)

theorem keeps_execHallContact {r s : State} {a1 : Option ℕ} (h : Keeps r s)  : KeepsOut r (execHallContact a1 s) := by
  unfold execHallContact
  repeat' first
    | (with_reducible first
      | assumption | apply KeepsOut.next | exact KeepsOut.fault | exact KeepsOut.refused | apply keeps_emits | apply keeps_startExchange
      | apply keeps_emit | fail_if_no_progress apply Keeps.update | refine Keeps.of_pair (by assumption) ?_
      | refine Keeps.of_swapped (by assumption) ?_)
    | split | intro _ | dsimp only

theorem keeps_execHallFound {r s : State}  (h : Keeps r s)  : KeepsOut r (execHallFound s) := by
  unfold execHallFound
  repeat' first
    | (with_reducible first
      | assumption | apply KeepsOut.next | exact KeepsOut.fault | exact KeepsOut.refused | apply keeps_setLed | apply keeps_setMember
      | apply keeps_seedBeats | apply keeps_reachRole | apply keeps_raise | apply keeps_showHall | fail_if_no_progress apply Keeps.update
      | refine Keeps.of_pair (by assumption) ?_ | refine Keeps.of_swapped (by assumption) ?_)
    | split | intro _ | dsimp only

theorem keeps_execQualify {r s : State} {a1 : Findings} (h : Keeps r s)  : KeepsOut r (execQualify a1 s) := by
  unfold execQualify
  repeat' first
    | (with_reducible first
      | assumption | apply KeepsOut.next | exact KeepsOut.fault | exact KeepsOut.refused | apply keeps_fset | apply keeps_repairChannel
      | apply keeps_repairCore | apply keeps_showVxeMode | apply keeps_writeReport | fail_if_no_progress apply Keeps.update
      | apply Keeps.foldl | apply Keeps.foldl_pair)
    | split

theorem keeps_execCfgWrite {r s : State} {a1 : ℕ} {a2 : ImageVerdict} (h : Keeps r s)  : KeepsOut r (execCfgWrite a1 a2 s) := by
  unfold execCfgWrite
  repeat' first
    | (with_reducible first
      | assumption | apply KeepsOut.next | exact KeepsOut.fault | exact KeepsOut.refused | apply keeps_fset | apply keeps_fadd
      | apply keeps_cfgResult | apply keeps_hostImage | apply keeps_checkImage | fail_if_no_progress apply Keeps.update
      | refine Keeps.of_pair (by assumption) ?_ | refine Keeps.of_swapped (by assumption) ?_)
    | split | intro _ | dsimp only

theorem keeps_execCfgErase {r s : State} {a1 : ℕ} (h : Keeps r s)  : KeepsOut r (execCfgErase a1 s) := by
  unfold execCfgErase
  repeat' first
    | (with_reducible first
      | assumption | apply KeepsOut.next | exact KeepsOut.fault | exact KeepsOut.refused | apply keeps_fset | apply keeps_fadd
      | apply keeps_cfgResult | fail_if_no_progress apply Keeps.update | refine Keeps.of_pair (by assumption) ?_
      | refine Keeps.of_swapped (by assumption) ?_)
    | split | intro _ | dsimp only

theorem keeps_execSlotProgrammingEnd {r s : State}  (h : Keeps r s)  : KeepsOut r (execSlotProgrammingEnd s) := by
  unfold execSlotProgrammingEnd
  repeat' first
    | (with_reducible first
      | assumption | apply KeepsOut.next | exact KeepsOut.fault | exact KeepsOut.refused | apply keeps_cfgResult | apply keeps_fset
      | apply keeps_setSlot | apply keeps_raise | apply keeps_enrol | fail_if_no_progress apply Keeps.update)
    | split

end Sys2Proof.Laws
end

