-- ==== Sys2Proof/Laws/KeepsLive.lean ====
section
/-! SUPPORT. What the functions of Machine/Live.lean keep: the grade, the waiting commands and the canonical storage. -/

namespace Sys2Proof.Laws

open Sys2Proof.Machine

set_option Elab.async false

theorem keeps_liveRefuse {r s : State} {a2 : ℕ} (h : Keeps r s)  : Keeps r (State.liveRefuse s a2) := by
  unfold State.liveRefuse
  repeat' first
    | (with_reducible first
      | assumption | apply keeps_raise | apply keeps_fset | apply keeps_fadd)

theorem keeps_showLive {r s : State} {a2 : LiveOp} (h : Keeps r s)  : Keeps r (State.showLive s a2) := by
  unfold State.showLive
  repeat' first
    | (with_reducible first
      | assumption | apply keeps_fset | fail_if_no_progress apply Keeps.update)

theorem keeps_startRetrainOp {r s : State} {a2 : LiveOp} (h : Keeps r s)  : Keeps r (State.startRetrainOp s a2) := by
  unfold State.startRetrainOp
  repeat' first
    | (with_reducible first
      | assumption | apply keeps_loseDomain | apply keeps_startEvacuation | apply keeps_takeSlot | fail_if_no_progress apply Keeps.update
      | refine Keeps.of_pair (by assumption) ?_ | refine Keeps.of_swapped (by assumption) ?_)
    | split | intro _ | dsimp only

theorem keeps_startGroupOn {r s : State} {a2 : ℕ} (h : Keeps r s)  : Keeps r (State.startGroupOn s a2) := by
  unfold State.startGroupOn
  repeat' first
    | (with_reducible first
      | assumption | apply keeps_wr | apply keeps_groupFaults | apply keeps_takeSlot | fail_if_no_progress apply Keeps.update
      | apply Keeps.foldl | apply Keeps.foldl_pair)
    | split | intro _

theorem keeps_runRetest {r s : State} {a2 : ℕ} {a3 : Bool} (h : Keeps r s)  : Keeps r (State.runRetest s a2 a3) := by
  unfold State.runRetest
  repeat' first
    | (with_reducible first
      | assumption | apply keeps_takeSlot | apply keeps_fset | apply keeps_fadd | apply keeps_liveDone | apply keeps_releaseSlot
      | apply keeps_faultDomain | fail_if_no_progress apply Keeps.update)
    | split

theorem keeps_startLive {r s : State} {a2 : LiveOp} (h : Keeps r s)  : Keeps r (State.startLive s a2) := by
  unfold State.startLive
  repeat' first
    | (with_reducible first
      | assumption | apply keeps_showLive | apply keeps_startRetrainOp | apply keeps_groupFaults | apply keeps_takeSlot
      | apply keeps_startGroupOn | apply keeps_coreRecovers | apply keeps_stopCore | apply keeps_runRetest
      | fail_if_no_progress apply Keeps.update)
    | split

theorem keeps_askLive {r s : State} {a2 : ℕ} {a3 : ℕ} {a4 : Bool} (h : Keeps r s)  : Keeps r (State.askLive s a2 a3 a4) := by
  unfold State.askLive
  repeat' first
    | (with_reducible first
      | assumption | apply keeps_fset | apply keeps_liveRefuse | apply keeps_startLive | apply keeps_showLive
      | fail_if_no_progress apply Keeps.update | refine Keeps.of_pair (by assumption) ?_ | refine Keeps.of_swapped (by assumption) ?_)
    | split | intro _ | dsimp only

theorem keeps_verifySlot {r s : State} {a2 : ℕ} {a3 : ImageVerdict} (h : Keeps r s)  : Keeps r (State.verifySlot s a2 a3).1 := by
  unfold State.verifySlot
  repeat' first
    | (with_reducible first
      | assumption | apply keeps_checkImage)

theorem keeps_activate {r s : State} {a2 : ℕ} {a3 : ImageVerdict} (h : Keeps r s)  : Keeps r (State.activate s a2 a3) := by
  unfold State.activate
  repeat' first
    | (with_reducible first
      | assumption | apply keeps_askLive | apply keeps_verifySlot | apply keeps_fset | apply keeps_liveDone | apply keeps_setSlotState
      | fail_if_no_progress apply Keeps.update | refine Keeps.of_pair (by assumption) ?_)
    | split | intro _

theorem keeps_unsetting {r s : State} {a1 : List Acc} {a3 : ℕ × Word} (h : Keeps r s)  : Keeps r (State.unsetting a1 s a3) := by
  unfold State.unsetting
  repeat' first
    | (with_reducible first
      | assumption | apply keeps_wr | fail_if_no_progress apply Keeps.update | apply Keeps.foldl | apply Keeps.foldl_pair)
    | split

theorem keeps_applyLive {r s : State} {a2 : ℕ} (h : Keeps r s)  : Keeps r (State.applyLive s a2) := by
  unfold State.applyLive
  repeat' first
    | (with_reducible first
      | assumption | apply keeps_readImage | apply keeps_unsetting | apply keeps_applySetting | apply keeps_loadKeeper
      | apply keeps_loadTables | apply keeps_extend | apply keeps_becomeActive | fail_if_no_progress apply Keeps.update
      | apply Keeps.foldl | apply Keeps.foldl_pair)
    | split | intro _

theorem keeps_endGroupOff {r s : State}  (h : Keeps r s)  : Keeps r (State.endGroupOff s) := by
  unfold State.endGroupOff
  repeat' first
    | (with_reducible first
      | assumption | apply keeps_liveDone | apply keeps_releaseSlot | apply keeps_groupOff | fail_if_no_progress apply Keeps.update)
    | split

theorem keeps_execActivate {r s : State} {a1 : ℕ} {a2 : ImageVerdict} (h : Keeps r s)  : KeepsOut r (execActivate a1 a2 s) := by
  unfold execActivate
  repeat' first
    | (with_reducible first
      | assumption | apply KeepsOut.next | exact KeepsOut.fault | exact KeepsOut.refused | apply keeps_activate)

theorem keeps_execConfigLiveApply {r s : State}  (h : Keeps r s)  : KeepsOut r (execConfigLiveApply s) := by
  unfold execConfigLiveApply
  repeat' first
    | (with_reducible first
      | assumption | apply KeepsOut.next | exact KeepsOut.fault | exact KeepsOut.refused | apply keeps_liveDone | apply keeps_applyLive
      | fail_if_no_progress apply Keeps.update)
    | split

theorem keeps_execRetrain {r s : State} {a1 : ℕ} (h : Keeps r s)  : KeepsOut r (execRetrain a1 s) := by
  unfold execRetrain
  repeat' first
    | (with_reducible first
      | assumption | apply KeepsOut.next | exact KeepsOut.fault | exact KeepsOut.refused | apply keeps_askLive)

theorem keeps_execRetireChan {r s : State} {a1 : ℕ} (h : Keeps r s)  : KeepsOut r (execRetireChan a1 s) := by
  unfold execRetireChan
  repeat' first
    | (with_reducible first
      | assumption | apply KeepsOut.next | exact KeepsOut.fault | exact KeepsOut.refused | apply keeps_askLive)

theorem keeps_execReadapt {r s : State} {a1 : ℕ} (h : Keeps r s)  : KeepsOut r (execReadapt a1 s) := by
  unfold execReadapt
  repeat' first
    | (with_reducible first
      | assumption | apply KeepsOut.next | exact KeepsOut.fault | exact KeepsOut.refused | apply keeps_askLive)

theorem keeps_execGroupOff {r s : State} {a1 : ℕ} (h : Keeps r s)  : KeepsOut r (execGroupOff a1 s) := by
  unfold execGroupOff
  repeat' first
    | (with_reducible first
      | assumption | apply KeepsOut.next | exact KeepsOut.fault | exact KeepsOut.refused | apply keeps_askLive)

theorem keeps_execGroupOn {r s : State} {a1 : ℕ} (h : Keeps r s)  : KeepsOut r (execGroupOn a1 s) := by
  unfold execGroupOn
  repeat' first
    | (with_reducible first
      | assumption | apply KeepsOut.next | exact KeepsOut.fault | exact KeepsOut.refused | apply keeps_askLive)

theorem keeps_execPromote {r s : State} {a1 : ℕ} (h : Keeps r s)  : KeepsOut r (execPromote a1 s) := by
  unfold execPromote
  repeat' first
    | (with_reducible first
      | assumption | apply KeepsOut.next | exact KeepsOut.fault | exact KeepsOut.refused | apply keeps_askLive)

theorem keeps_execRetest {r s : State} {a1 : ℕ} {a2 : TestPass} (h : Keeps r s)  : KeepsOut r (execRetest a1 a2 s) := by
  unfold execRetest
  repeat' first
    | (with_reducible first
      | assumption | apply KeepsOut.next | exact KeepsOut.fault | exact KeepsOut.refused | apply keeps_askLive)

theorem keeps_execLiveOpStart {r s : State}  (h : Keeps r s)  : KeepsOut r (execLiveOpStart s) := by
  unfold execLiveOpStart
  repeat' first
    | (with_reducible first
      | assumption | apply KeepsOut.next | exact KeepsOut.fault | exact KeepsOut.refused | apply keeps_startDeferred
      | apply keeps_afterPromote | apply keeps_liveRefuse | apply keeps_fset | apply keeps_startLive
      | fail_if_no_progress apply Keeps.update)
    | split

end Sys2Proof.Laws
end

