-- ==== Sys2Proof/Laws/KeepsRings.lean ====
section
/-! SUPPORT. What the functions of Machine/Rings.lean keep: the grade, the waiting commands and the canonical storage. -/

namespace Sys2Proof.Laws

open Sys2Proof.Machine

set_option Elab.async false

theorem keeps_ringJob {r : State} (v : ImageVerdict) (u : State) (l : List Byte) (h : Keeps r u) : Keeps r (State.ringJob v u l).1 := by
  unfold State.ringJob
  dsimp only
  generalize hu : (if u.fb F.cfgCtrlBusy = true ∨ leAt l 8 1 = 2 then u
    else ((u.fset F.cfgSrcBase (leAt l 16 8)).fset F.cfgSrcLen (leAt l 24 4)).fset F.jobCtrlSrc 2) = w
  have hw : Keeps r w := by
    subst hu
    split
    · exact h
    · exact keeps_fset (keeps_fset (keeps_fset h))
  match leAt l 8 1 with
  | 0 => exact keeps_loadJob hw
  | 1 => exact keeps_stageJob hw
  | 2 => exact keeps_askStop hw
  | _ + 3 => exact hw

theorem keeps_ringLive {r : State} (v : ImageVerdict) (pass : Bool) (u : State) (l : List Byte) (h : Keeps r u) :
    Keeps r (State.ringLive v pass u l).1 := by
  unfold State.ringLive
  dsimp only
  split
  · exact keeps_activate h
  · exact keeps_askLive h

theorem keeps_setRingHead {r s : State} {a2 : ℕ} {a3 : ℕ} (h : Keeps r s)  : Keeps r (State.setRingHead s a2 a3) := by
  unfold State.setRingHead
  repeat' first
    | (with_reducible first
      | assumption | apply keeps_fset | apply keeps_store)

theorem keeps_setRing {r s : State} {a2 : ℕ} {a3 : RingRt} (h : Keeps r s)  : Keeps r (State.setRing s a2 a3) := by
  unfold State.setRing
  repeat' first
    | (with_reducible first
      | assumption | fail_if_no_progress apply Keeps.update)

theorem keeps_ringRecord {r s : State} {a2 : ℕ} {a3 : List Byte} {a4 : Status} (h : Keeps r s)  : Keeps r (State.ringRecord s a2 a3 a4) := by
  unfold State.ringRecord
  repeat' first
    | (with_reducible first
      | assumption | apply keeps_store | apply keeps_setRing)

theorem keeps_ringComplete {r s : State} {a2 : ℕ} {a3 : List Byte} {a4 : Status} {a5 : List (ℕ × List Byte)} (h : Keeps r s)  : Keeps r (State.ringComplete s a2 a3 a4 a5) := by
  unfold State.ringComplete
  repeat' first
    | (with_reducible first
      | assumption | apply keeps_fset | apply keeps_ringRecord | apply keeps_setRing | apply keeps_raise
      | fail_if_no_progress apply Keeps.update)
    | split

theorem keeps_actRing {r s : State} {a2 : Nat} {a3 : Nat} {a4 : RingAct} (h : Keeps r s) (ha : ∀ u l, Keeps r u → Keeps r (a4 u l).1) :
    Keeps r (State.actRing s a2 a3 a4) := by
  unfold State.actRing
  split
  · exact h
  · rename_i pos l rest _
    extract_lets s1
    have k : Keeps r s1 := keeps_setRingHead h
    clear_value s1
    split
    · exact keeps_ringComplete k
    · split
      · exact h
      · have j := ha s1 l k
        generalize a4 s1 l = p at j ⊢
        obtain ⟨u, o⟩ := p
        cases o with
        | some st => exact keeps_ringComplete j
        | none => exact keeps_fset (keeps_setRing j)

theorem keeps_endBusy {r s : State} {a2 : ℕ} {a3 : ℕ} {a4 : List Byte → Bool} {a5 : ℕ} (h : Keeps r s)  : Keeps r (State.endBusy s a2 a3 a4 a5) := by
  unfold State.endBusy
  repeat' first
    | (with_reducible first
      | assumption | apply hf | apply keeps_ringComplete | fail_if_no_progress apply Keeps.update)
    | split

theorem keeps_hringEntry {r s : State} {a2 : ℕ} {a3 : ℕ} (h : Keeps r s)  : Keeps r (State.hringEntry s a2 a3).1 := by
  unfold State.hringEntry
  repeat' first
    | (with_reducible first
      | assumption | apply keeps_load)

theorem keeps_hringEntries {r s : State} {a2 : ℕ} {a3 : ℕ} {a4 : ℕ} (h : Keeps r s)  : Keeps r (State.hringEntries s a2 a3 a4).1 := by
  induction a4 generalizing s a2 a3 with
  | zero =>
    unfold State.hringEntries
    repeat' first
      | (with_reducible first
        | assumption)
  | succ n ih =>
    unfold State.hringEntries
    repeat' first
      | (with_reducible first
        | assumption | apply keeps_hringEntry | apply ih)

theorem keeps_ringBadCmd {r s : State} {a2 : ℕ} (h : Keeps r s)  : Keeps r (State.ringBadCmd s a2) := by
  unfold State.ringBadCmd
  repeat' first
    | (with_reducible first
      | assumption | apply keeps_fadd)

theorem keeps_ringResume {r s : State} {a2 : ℕ} (h : Keeps r s)  : Keeps r (State.ringResume s a2) := by
  unfold State.ringResume
  repeat' first
    | (with_reducible first
      | assumption | apply keeps_fset | apply keeps_ringBadCmd | fail_if_no_progress apply Keeps.update
      | refine Keeps.of_pair (by assumption) ?_ | refine Keeps.of_swapped (by assumption) ?_)
    | split | intro _ | dsimp only

/-- A ring runs again from one of its positions. -/
theorem keeps_ringAgain {r s : State} {ring : Nat} (pos : Nat) (h : Keeps r s) :
    Keeps r (let (s, l) := s.hringEntry ring pos
      ((s.setRing ring { s.ring ring with taken := [(pos, l)] }).fset F.hringNStatusState ringRunning ring)) :=
  keeps_fset (keeps_setRing (keeps_hringEntry h))

theorem keeps_ringRetry {r s : State} {a2 : Nat} (h : Keeps r s) : Keeps r (State.ringRetry s a2) := by
  unfold State.ringRetry
  extract_lets t
  have k : Keeps r t := keeps_fset h
  clear_value t
  split
  · exact keeps_ringBadCmd k
  · exact keeps_ringAgain _ k

theorem keeps_ringStop {r s : State} {a2 : ℕ} (h : Keeps r s)  : Keeps r (State.ringStop s a2) := by
  unfold State.ringStop
  repeat' first
    | (with_reducible first
      | assumption | apply keeps_fset | apply keeps_setRing | fail_if_no_progress apply Keeps.update
      | refine Keeps.of_pair (by assumption) ?_ | refine Keeps.of_swapped (by assumption) ?_)
    | split | intro _ | dsimp only

/-- A ring whose tail is some entries ahead takes them, or ends where they are more than it holds. -/
theorem keeps_ringTake {r s : State} {n head : Nat} (diff : Nat) (h : Keeps r s) :
    Keeps r (if s.hringSize n < diff then
        let (s, l) := s.hringEntry n head
        s.ringComplete n l .aborted []
      else
        let (s, l) := s.hringEntries n head (min 16 diff)
        s.setRing n { s.ring n with taken := l }) := by
  split
  · exact keeps_ringComplete (keeps_hringEntry h)
  · exact keeps_setRing (keeps_hringEntries h)

theorem keeps_sampleRing {r s : State} {a2 : Nat} (h : Keeps r s) : Keeps r (State.sampleRing s a2) := by
  unfold State.sampleRing
  split
  · exact h
  · extract_lets head
    clear_value head
    have k : Keeps r (s.load false .sram (s.hringBase a2) 4).1 := keeps_load h
    generalize s.load false .sram (s.hringBase a2) 4 = p at k ⊢
    obtain ⟨s, t⟩ := p
    cases t with
    | none => exact k
    | some t => exact keeps_ringTake _ k

theorem keeps_execHringTailSample {r s : State}  (h : Keeps r s)  : KeepsOut r (execHringTailSample s) := by
  unfold execHringTailSample
  repeat' first
    | (with_reducible first
      | assumption | apply KeepsOut.next | exact KeepsOut.fault | exact KeepsOut.refused | apply keeps_sampleRing
      | fail_if_no_progress apply Keeps.update | apply Keeps.foldl | apply Keeps.foldl_pair)
    | split

theorem keeps_execHringNop {r s : State} {a1 : Nat} (h : Keeps r s) : KeepsOut r (execHringNop a1 s) := by
  unfold execHringNop
  exact KeepsOut.next (keeps_actRing h fun _ _ k => k)

theorem keeps_execHringQcmd {r s : State} {a1 : Nat} (h : Keeps r s) : KeepsOut r (execHringQcmd a1 s) := by
  unfold execHringQcmd
  exact KeepsOut.next (keeps_actRing h fun _ _ k => keeps_commandQueue k)

theorem keeps_execHringFlagadd {r s : State} {a1 : Nat} (h : Keeps r s) : KeepsOut r (execHringFlagadd a1 s) := by
  unfold execHringFlagadd
  refine KeepsOut.next (keeps_actRing h fun _ _ k => ?_)
  split
  · exact k
  · exact keeps_flagAdd k

theorem keeps_execHringParam {r s : State} {a1 : Nat} (h : Keeps r s) : KeepsOut r (execHringParam a1 s) := by
  unfold execHringParam
  refine KeepsOut.next (keeps_actRing h fun _ _ k => ?_)
  dsimp only
  split
  · exact k
  · exact keeps_paramWrite k

theorem keeps_execHringJob {r s : State} {a1 : Nat} {a2 : ImageVerdict} (h : Keeps r s) : KeepsOut r (execHringJob a1 a2 s) := by
  unfold execHringJob
  split
  · exact KeepsOut.next (keeps_endBusy h)
  · exact KeepsOut.next (keeps_actRing h (keeps_ringJob a2))

theorem keeps_execHringLive {r s : State} {a1 : Nat} {a2 : ImageVerdict} {a3 : TestPass} (h : Keeps r s) : KeepsOut r (execHringLive a1 a2 a3 s) := by
  unfold execHringLive
  split
  · exact KeepsOut.next (keeps_endBusy h)
  · exact KeepsOut.next (keeps_actRing h (keeps_ringLive a2 a3))

theorem keeps_execHringResume {r s : State} {a1 : ℕ} (h : Keeps r s)  : KeepsOut r (execHringResume a1 s) := by
  unfold execHringResume
  repeat' first
    | (with_reducible first
      | assumption | apply KeepsOut.next | exact KeepsOut.fault | exact KeepsOut.refused | apply keeps_ringResume
      | fail_if_no_progress apply Keeps.update)
    | split

theorem keeps_execHringRetry {r s : State} {a1 : ℕ} (h : Keeps r s)  : KeepsOut r (execHringRetry a1 s) := by
  unfold execHringRetry
  repeat' first
    | (with_reducible first
      | assumption | apply KeepsOut.next | exact KeepsOut.fault | exact KeepsOut.refused | apply keeps_ringRetry
      | fail_if_no_progress apply Keeps.update)
    | split

theorem keeps_execHringStop {r s : State} {a1 : ℕ} (h : Keeps r s)  : KeepsOut r (execHringStop a1 s) := by
  unfold execHringStop
  repeat' first
    | (with_reducible first
      | assumption | apply KeepsOut.next | exact KeepsOut.fault | exact KeepsOut.refused | apply keeps_ringStop
      | fail_if_no_progress apply Keeps.update)
    | split

end Sys2Proof.Laws
end

