-- ==== Sys2Proof/Laws/KeepsBars.lean ====
section
/-! SUPPORT. What the functions of Machine/Bars.lean keep: the grade, the waiting commands and the canonical storage. -/

namespace Sys2Proof.Laws

open Sys2Proof.Machine

set_option Elab.async false

theorem keeps_setHandlers {r s : State} {a2 : ℕ} {a3 : List ℕ} (h : Keeps r s)  : Keeps r (State.setHandlers s a2 a3) := by
  unfold State.setHandlers
  repeat' first
    | (with_reducible first
      | assumption | apply keeps_fset | fail_if_no_progress apply Keeps.update)

theorem keeps_claim {r s : State} {a2 : ℕ} (h : Keeps r s)  : Keeps r (State.claim s a2) := by
  unfold State.claim
  repeat' first
    | (with_reducible first
      | assumption | apply keeps_emit | apply keeps_setHandlers | apply keeps_fset | fail_if_no_progress apply Keeps.update)
    | split

theorem keeps_winFault {r s : State}  (h : Keeps r s)  : Keeps r (State.winFault s) := by
  unfold State.winFault
  repeat' first
    | (with_reducible first
      | assumption | apply keeps_fadd)

theorem keeps_probeParts {r s : State} {a2 : Bank} {a3 : ℕ} {a4 : List Byte} (h : Keeps r s)  : Keeps r (State.probeParts s a2 a3 a4).1 := by
  unfold State.probeParts
  repeat' first
    | (with_reducible first
      | assumption | apply keeps_fetchWord | fail_if_no_progress apply Keeps.update | apply Keeps.foldl | apply Keeps.foldl_pair)
    | split | intro _

theorem keeps_hostStore {r s : State} {a2 : Bank} {a3 : ℕ} {a4 : List Byte} (h : Keeps r s)  : Keeps r (State.hostStore s a2 a3 a4) := by
  unfold State.hostStore
  repeat' first
    | (with_reducible first
      | assumption | apply keeps_winFault | apply keeps_fadd | apply keeps_probeParts | apply keeps_store
      | fail_if_no_progress apply Keeps.update | refine Keeps.of_pair (by assumption) ?_)
    | split | intro _

theorem keeps_plainWrite {r s : State} {a2 : Reg} {a3 : Word} (h : Keeps r s)  : Keeps r (State.plainWrite s a2 a3) := by
  unfold State.plainWrite
  repeat' first
    | (with_reducible first
      | assumption | apply keeps_fadd | apply keeps_wr | fail_if_no_progress apply Keeps.update)
    | split

theorem keeps_ur {r s : State}  (h : Keeps r s)  : Keeps r (State.ur s) := by
  unfold State.ur
  repeat' first
    | (with_reducible first
      | assumption | apply keeps_emit)

theorem keeps_readLedgerWin {r s : State} {a2 : ℕ} (h : Keeps r s)  : Keeps r (State.readLedgerWin s a2) := by
  unfold State.readLedgerWin
  repeat' first
    | (with_reducible first
      | assumption | apply keeps_fetchLedger | apply keeps_emit | apply keeps_ur | fail_if_no_progress apply Keeps.update
      | refine Keeps.of_pair (by assumption) ?_)
    | split | intro _

theorem keeps_regUr {r s : State}  (h : Keeps r s)  : Keeps r (State.regUr s) := by
  unfold State.regUr
  repeat' first
    | (with_reducible first
      | assumption | apply keeps_ur | apply keeps_fadd)

theorem keeps_refresh {r s : State} {a2 : Reg} (h : Keeps r s)  : Keeps r (State.refresh s a2) := by
  unfold State.refresh
  repeat' first
    | (with_reducible first
      | assumption | apply keeps_fset | fail_if_no_progress apply Keeps.update)
    | split

theorem keeps_readOffset {r s : State} {a2 : ℕ} (h : Keeps r s)  : Keeps r (State.readOffset s a2) := by
  unfold State.readOffset
  repeat' first
    | (with_reducible first
      | assumption | apply keeps_regUr | apply keeps_readLedgerWin | apply keeps_emit | apply keeps_claim | apply keeps_swRead
      | apply keeps_refresh | fail_if_no_progress apply Keeps.update)
    | split

theorem keeps_releasePba {r s : State} {a2 : ℕ} (h : Keeps r s)  : Keeps r (State.releasePba s a2) := by
  unfold State.releasePba
  repeat' first
    | (with_reducible first
      | assumption | apply keeps_raiseVector | apply keeps_fset | fail_if_no_progress apply Keeps.update
      | refine Keeps.of_pair (by assumption) ?_ | refine Keeps.of_swapped (by assumption) ?_)
    | split | intro _ | dsimp only

theorem keeps_writeHostWin {r s : State} {a2 : Word} (h : Keeps r s)  : Keeps r (State.writeHostWin s a2) := by
  unfold State.writeHostWin
  repeat' first
    | (with_reducible first
      | assumption | apply keeps_winFault | apply keeps_wr | fail_if_no_progress apply Keeps.update)
    | split

theorem keeps_writeHring {r s : State} {a2 : Reg} {a3 : Word} (h : Keeps r s)  : Keeps r (State.writeHring s a2 a3) := by
  unfold State.writeHring
  repeat' first
    | (with_reducible first
      | assumption | apply keeps_ringBadCmd | apply keeps_fset | apply keeps_wr | apply keeps_setRing
      | fail_if_no_progress apply Keeps.update | refine Keeps.of_pair (by assumption) ?_ | refine Keeps.of_swapped (by assumption) ?_)
    | split | intro _ | dsimp only

theorem keeps_writeSource {r s : State} {a2 : Reg} {a3 : Word} (h : Keeps r s)  : Keeps r (State.writeSource s a2 a3) := by
  unfold State.writeSource
  repeat' first
    | (with_reducible first
      | assumption | apply keeps_fadd | apply keeps_plainWrite | fail_if_no_progress apply Keeps.update)
    | split

theorem keeps_softWrite {r s : State} {a2 : Reg} {a3 : Word} (h : Keeps r s)  : Keeps r (State.softWrite s a2 a3) := by
  unfold State.softWrite
  repeat' first
    | (with_reducible first
      | assumption | apply keeps_paramWrite | apply keeps_ringWrite | apply keeps_writeHostWin | apply keeps_selectGroup
      | apply keeps_plainWrite | apply keeps_fadd | apply keeps_writeHring | apply keeps_writeSource | apply keeps_showTop
      | apply keeps_fset | apply keeps_releasePba | fail_if_no_progress apply Keeps.update | refine Keeps.of_pair (by assumption) ?_
      | refine Keeps.of_swapped (by assumption) ?_)
    | split | intro _ | dsimp only

theorem keeps_writeOffset {r s : State} {a2 : ℕ} {a3 : Word} (h : Keeps r s)  : Keeps r (State.writeOffset s a2 a3) := by
  unfold State.writeOffset
  repeat' first
    | (with_reducible first
      | assumption | apply keeps_regUr | apply keeps_fadd | apply keeps_softWrite | fail_if_no_progress apply Keeps.update)
    | split

theorem keeps_execMemBarRead {r s : State} {a1 : ℕ} {a2 : ℕ} (h : Keeps r s)  : KeepsOut r (execMemBarRead a1 a2 s) := by
  unfold execMemBarRead
  repeat' first
    | (with_reducible first
      | assumption | apply KeepsOut.next | exact KeepsOut.fault | exact KeepsOut.refused | apply keeps_ur | apply keeps_winFault
      | apply keeps_load | apply keeps_emit | fail_if_no_progress apply Keeps.update | refine Keeps.of_pair (by assumption) ?_)
    | split | intro _

theorem keeps_execMemBarWrite {r s : State} {a1 : ℕ} {a2 : List Byte} (h : Keeps r s)  : KeepsOut r (execMemBarWrite a1 a2 s) := by
  unfold execMemBarWrite
  repeat' first
    | (with_reducible first
      | assumption | apply KeepsOut.next | exact KeepsOut.fault | exact KeepsOut.refused | apply keeps_ur | apply keeps_winFault
      | apply keeps_hostStore | fail_if_no_progress apply Keeps.update)
    | split

theorem keeps_execHostWinWrite {r s : State} {a1 : Word} (h : Keeps r s)  : KeepsOut r (execHostWinWrite a1 s) := by
  unfold execHostWinWrite
  repeat' first
    | (with_reducible first
      | assumption | apply KeepsOut.next | exact KeepsOut.fault | exact KeepsOut.refused | apply keeps_ur | apply keeps_writeHostWin
      | fail_if_no_progress apply Keeps.update)
    | split

theorem keeps_execLedgerWinWrite {r s : State} {a1 : Word} (h : Keeps r s)  : KeepsOut r (execLedgerWinWrite a1 s) := by
  unfold execLedgerWinWrite
  repeat' first
    | (with_reducible first
      | assumption | apply KeepsOut.next | exact KeepsOut.fault | exact KeepsOut.refused | apply keeps_ur | apply keeps_fset
      | fail_if_no_progress apply Keeps.update)
    | split

theorem keeps_execLedgerWindowRead {r s : State} {a1 : ℕ} (h : Keeps r s)  : KeepsOut r (execLedgerWindowRead a1 s) := by
  unfold execLedgerWindowRead
  repeat' first
    | (with_reducible first
      | assumption | apply KeepsOut.next | exact KeepsOut.fault | exact KeepsOut.refused | apply keeps_regUr | apply keeps_readLedgerWin
      | fail_if_no_progress apply Keeps.update)
    | split

theorem keeps_execLedgerWindowWrite {r s : State} {a1 : ℕ} {a2 : Word} (h : Keeps r s)  : KeepsOut r (execLedgerWindowWrite a1 a2 s) := by
  unfold execLedgerWindowWrite
  repeat' first
    | (with_reducible first
      | assumption | apply KeepsOut.next | exact KeepsOut.fault | exact KeepsOut.refused | apply keeps_regUr)

theorem keeps_execRegBarBadAccess {r s : State} {a1 : ℕ} (h : Keeps r s)  : KeepsOut r (execRegBarBadAccess a1 s) := by
  unfold execRegBarBadAccess
  repeat' first
    | (with_reducible first
      | assumption | apply KeepsOut.next | exact KeepsOut.fault | exact KeepsOut.refused | apply keeps_regUr)

theorem keeps_execRegisterWrite {r s : State} {a1 : ℕ} {a2 : Word} (h : Keeps r s)  : KeepsOut r (execRegisterWrite a1 a2 s) := by
  unfold execRegisterWrite
  repeat' first
    | (with_reducible first
      | assumption | apply KeepsOut.next | exact KeepsOut.fault | exact KeepsOut.refused | apply keeps_ur | apply keeps_writeOffset
      | fail_if_no_progress apply Keeps.update)
    | split

theorem keeps_execRcCounterRead {r s : State} {a1 : ℕ} (h : Keeps r s)  : KeepsOut r (execRcCounterRead a1 s) := by
  unfold execRcCounterRead
  repeat' first
    | (with_reducible first
      | assumption | apply KeepsOut.next | exact KeepsOut.fault | exact KeepsOut.refused | apply keeps_readOffset)

theorem keeps_execInterruptClaim {r s : State} {a1 : ℕ} (h : Keeps r s)  : KeepsOut r (execInterruptClaim a1 s) := by
  unfold execInterruptClaim
  repeat' first
    | (with_reducible first
      | assumption | apply KeepsOut.next | exact KeepsOut.fault | exact KeepsOut.refused | apply keeps_claim
      | fail_if_no_progress apply Keeps.update)
    | split

theorem keeps_execInterruptEoi {r s : State} {a1 : ℕ} (h : Keeps r s)  : KeepsOut r (execInterruptEoi a1 s) := by
  unfold execInterruptEoi
  repeat' first
    | (with_reducible first
      | assumption | apply KeepsOut.next | exact KeepsOut.fault | exact KeepsOut.refused | apply keeps_setHandlers | apply keeps_fset
      | fail_if_no_progress apply Keeps.update)
    | split

theorem keeps_execPendingClear {r s : State} {a1 : ℕ} (h : Keeps r s)  : KeepsOut r (execPendingClear a1 s) := by
  unfold execPendingClear
  repeat' first
    | (with_reducible first
      | assumption | apply KeepsOut.next | exact KeepsOut.fault | exact KeepsOut.refused | apply keeps_fclear
      | fail_if_no_progress apply Keeps.update)
    | split

theorem keeps_execMsixMessage {r s : State} {a1 : ℕ} (h : Keeps r s)  : KeepsOut r (execMsixMessage a1 s) := by
  unfold execMsixMessage
  repeat' first
    | (with_reducible first
      | assumption | apply KeepsOut.next | exact KeepsOut.fault | exact KeepsOut.refused | apply keeps_raiseVector | apply keeps_emit
      | fail_if_no_progress apply Keeps.update | refine Keeps.of_pair (by assumption) ?_ | refine Keeps.of_swapped (by assumption) ?_)
    | split | intro _ | dsimp only

theorem keeps_execMsixUnmask {r s : State} {a1 : ℕ} (h : Keeps r s)  : KeepsOut r (execMsixUnmask a1 s) := by
  unfold execMsixUnmask
  repeat' first
    | (with_reducible first
      | assumption | apply KeepsOut.next | exact KeepsOut.fault | exact KeepsOut.refused | apply keeps_releasePba | apply keeps_fset
      | fail_if_no_progress apply Keeps.update | apply Keeps.foldl | apply Keeps.foldl_pair)
    | split

end Sys2Proof.Laws
end

