-- ==== Sys2Proof/Laws/KeepsCare.lean ====
section
/-! SUPPORT. What the functions of Machine/Care.lean keep: the grade, the waiting commands and the canonical storage. -/

namespace Sys2Proof.Laws

open Sys2Proof.Machine

set_option Elab.async false

theorem keeps_evacuate {r s : State} {a2 : ℕ} {a3 : ℕ} {a4 : ℕ} {a5 : ℕ} (h : Keeps r s)  : Keeps r (State.evacuate s a2 a3 a4 a5) := by
  unfold State.evacuate
  repeat' first
    | (with_reducible first
      | assumption | apply keeps_copyCell | fail_if_no_progress apply Keeps.update | apply Keeps.foldl | apply Keeps.foldl_pair)
    | split | intro _

theorem keeps_copyOn {r s : State}  (h : Keeps r s)  : Keeps r (State.copyOn s) := by
  unfold State.copyOn
  repeat' first
    | (with_reducible first
      | assumption | apply keeps_evacuate | fail_if_no_progress apply Keeps.update | apply Keeps.foldl | apply Keeps.foldl_pair)
    | split | intro _

theorem keeps_copyBack {r s : State} {a2 : ℕ} {a3 : ℕ} (h : Keeps r s)  : Keeps r (State.copyBack s a2 a3) := by
  unfold State.copyBack
  repeat' first
    | (with_reducible first
      | assumption | apply keeps_copyCell | fail_if_no_progress apply Keeps.update | apply Keeps.foldl | apply Keeps.foldl_pair)
    | split | intro _

theorem keeps_endPass {r s : State} {a2 : ℕ} {a3 : ℕ} {a4 : ℕ} (h : Keeps r s)  : Keeps r (State.endPass s a2 a3 a4) := by
  unfold State.endPass
  repeat' first
    | (with_reducible first
      | assumption | apply keeps_fset | apply keeps_fadd | fail_if_no_progress apply Keeps.update)
    | split

theorem keeps_endRetrain {r s : State} {a2 : Retrain} (h : Keeps r s)  : Keeps r (State.endRetrain s a2) := by
  unfold State.endRetrain
  repeat' first
    | (with_reducible first
      | assumption | apply keeps_suspendUnits | apply keeps_releaseSlot | apply keeps_domainBack | apply keeps_liveDone
      | fail_if_no_progress apply Keeps.update | refine Keeps.of_pair (by assumption) ?_ | refine Keeps.of_swapped (by assumption) ?_)
    | split | intro _ | dsimp only

theorem keeps_patrolCell {r s : State} {a2 : ℕ} {a3 : ℕ} {a4 : Bank × ℕ} (h : Keeps r s)  : Keeps r (State.patrolCell s a2 a3 a4) := by
  unfold State.patrolCell
  repeat' first
    | (with_reducible first
      | assumption | apply keeps_fetchCell | apply keeps_fetchCopy | fail_if_no_progress apply Keeps.update)
    | split

theorem keeps_patterned {r s : State} {a2 : ℕ} {a3 : ℕ} (h : Keeps r s)  : Keeps r (State.patterned s a2 a3) := by
  unfold State.patterned
  repeat' first
    | (with_reducible first
      | assumption | fail_if_no_progress apply Keeps.update | refine Keeps.of_pair (by assumption) ?_
      | refine Keeps.of_swapped (by assumption) ?_ | apply Keeps.storage)
    | exact id | exact wf_filter _ | exact filter_wf _ | exact fun _ => rfl | split | intro _ | dsimp only

theorem keeps_sweepCells {r s : State} {a2 : Bank} {a3 : List ℕ} (h : Keeps r s)  : Keeps r (State.sweepCells s a2 a3) := by
  unfold State.sweepCells
  repeat' first
    | (with_reducible first
      | assumption | apply keeps_fetchCell | fail_if_no_progress apply Keeps.update | apply Keeps.foldl | apply Keeps.foldl_pair)
    | split | intro _

theorem keeps_triggerRetrain {r s : State} {a2 : ℕ} {a3 : ℕ} (h : Keeps r s)  : Keeps r (State.triggerRetrain s a2 a3) := by
  unfold State.triggerRetrain
  repeat' first
    | (with_reducible first
      | assumption | apply keeps_loseDomain | apply keeps_faultDomain | fail_if_no_progress apply Keeps.update)
    | split

theorem keeps_execPatrolRead {r s : State} {a1 : ℕ} {a2 : ℕ} (h : Keeps r s)  : KeepsOut r (execPatrolRead a1 a2 s) := by
  unfold execPatrolRead
  repeat' first
    | (with_reducible first
      | assumption | apply KeepsOut.next | exact KeepsOut.fault | exact KeepsOut.refused | apply keeps_patrolCell | apply keeps_endPass
      | fail_if_no_progress apply Keeps.update | refine Keeps.of_pair (by assumption) ?_ | refine Keeps.of_swapped (by assumption) ?_)
    | split | intro _ | dsimp only

theorem keeps_execSelfRefreshPatrolExit {r s : State} {a1 : ℕ} (h : Keeps r s)  : KeepsOut r (execSelfRefreshPatrolExit a1 s) := by
  unfold execSelfRefreshPatrolExit
  repeat' first
    | (with_reducible first
      | assumption | apply KeepsOut.next | exact KeepsOut.fault | exact KeepsOut.refused | apply keeps_endPass | apply keeps_sweepCells
      | fail_if_no_progress apply Keeps.update)
    | split

theorem keeps_execRetune {r s : State} {a1 : ℕ} {a2 : ℕ} (h : Keeps r s)  : KeepsOut r (execRetune a1 a2 s) := by
  unfold execRetune
  repeat' first
    | (with_reducible first
      | assumption | apply KeepsOut.next | exact KeepsOut.fault | exact KeepsOut.refused | apply keeps_fset
      | fail_if_no_progress apply Keeps.update)
    | split

theorem keeps_execRetuneEnd {r s : State} {a1 : ℕ} {a2 : ℕ} {a3 : ℕ} (h : Keeps r s)  : KeepsOut r (execRetuneEnd a1 a2 a3 s) := by
  unfold execRetuneEnd
  repeat' first
    | (with_reducible first
      | assumption | apply KeepsOut.next | exact KeepsOut.fault | exact KeepsOut.refused | apply keeps_fadd | apply keeps_fset
      | apply keeps_triggerRetrain | fail_if_no_progress apply Keeps.update)
    | split

theorem keeps_execCeLimitExceeded {r s : State} {a1 : ℕ} {a2 : ℕ} (h : Keeps r s)  : KeepsOut r (execCeLimitExceeded a1 a2 s) := by
  unfold execCeLimitExceeded
  repeat' first
    | (with_reducible first
      | assumption | apply KeepsOut.next | exact KeepsOut.fault | exact KeepsOut.refused | apply keeps_triggerRetrain
      | fail_if_no_progress apply Keeps.update)
    | split

theorem keeps_execChannelDead {r s : State} {a1 : ℕ} {a2 : ℕ} (h : Keeps r s)  : KeepsOut r (execChannelDead a1 a2 s) := by
  unfold execChannelDead
  repeat' first
    | (with_reducible first
      | assumption | apply KeepsOut.next | exact KeepsOut.fault | exact KeepsOut.refused | apply keeps_loseDomain
      | fail_if_no_progress apply Keeps.update)
    | split

theorem keeps_execEvacuationDone {r s : State} {a1 : ℕ} (h : Keeps r s)  : KeepsOut r (execEvacuationDone a1 s) := by
  unfold execEvacuationDone
  repeat' first
    | (with_reducible first
      | assumption | apply KeepsOut.next | exact KeepsOut.fault | exact KeepsOut.refused | apply keeps_evacuate | apply keeps_fset
      | fail_if_no_progress apply Keeps.update)
    | split

theorem keeps_execRetrainVerifyEnd {r s : State} {a1 : ℕ} {a2 : TestPass} (h : Keeps r s)  : KeepsOut r (execRetrainVerifyEnd a1 a2 s) := by
  unfold execRetrainVerifyEnd
  repeat' first
    | (with_reducible first
      | assumption | apply KeepsOut.next | exact KeepsOut.fault | exact KeepsOut.refused | apply keeps_patterned | apply keeps_endRetrain
      | apply keeps_fset | fail_if_no_progress apply Keeps.update)
    | split

theorem keeps_execCopyBackDone {r s : State} {a1 : ℕ} (h : Keeps r s)  : KeepsOut r (execCopyBackDone a1 s) := by
  unfold execCopyBackDone
  repeat' first
    | (with_reducible first
      | assumption | apply KeepsOut.next | exact KeepsOut.fault | exact KeepsOut.refused | apply keeps_endRetrain | apply keeps_fset
      | apply keeps_copyBack | fail_if_no_progress apply Keeps.update)
    | split

end Sys2Proof.Laws
end

