-- ==== Sys2Proof/Laws/KeepsCarry.lean ====
section
/-! SUPPORT. What the functions of Machine/Carry.lean keep: the grade, the waiting commands and the canonical storage. -/

namespace Sys2Proof.Laws

open Sys2Proof.Machine

set_option Elab.async false

theorem keeps_carryReserved {r s : State} {a2 : Out} (h : Keeps r s)  : Keeps r (State.carryReserved s a2) := by
  unfold State.carryReserved
  repeat' first
    | (with_reducible first
      | assumption | apply keeps_sendMessage | fail_if_no_progress apply Keeps.update | apply Keeps.foldl | apply Keeps.foldl_pair)
    | split | intro _

theorem keeps_carryOne {r s : State} {a2 : Out} (h : Keeps r s)  : Keeps r (State.carryOne s a2) := by
  unfold State.carryOne
  repeat' first
    | (with_reducible first
      | assumption | apply keeps_sendHandshake | apply keeps_carryReserved | fail_if_no_progress apply Keeps.update)
    | split

theorem keeps_carry {r s : State}  (h : Keeps r s)  : Keeps r (State.carry s) := by
  unfold State.carry
  repeat' first
    | (with_reducible first
      | assumption | apply keeps_carryOne | fail_if_no_progress apply Keeps.update | apply Keeps.foldl)

end Sys2Proof.Laws
end

