-- ==== Sys2Proof/Laws/KeepsMatrix.lean ====
section
/-! SUPPORT. What the functions of Machine/Matrix.lean keep: the grade, the waiting commands and the canonical storage. -/

namespace Sys2Proof.Laws

open Sys2Proof.Machine

set_option Elab.async false

theorem keeps_writePasses {r s : State} {a2 : Reach} {a3 : Desc} {a4 : Fmt} {a5 : MxeRows} {a6 : List (ℕ × ℕ)} (h : Keeps r s)  : Keeps r (State.writePasses s a2 a3 a4 a5 a6).1 := by
  unfold State.writePasses
  repeat' first
    | (with_reducible first
      | assumption | apply keeps_writeSegment | fail_if_no_progress apply Keeps.update | apply Keeps.foldl | apply Keeps.foldl_pair)
    | split | intro _

theorem keeps_climb {r s : State} {a2 : Reach} {a3 : ℕ} {a4 : ℕ} {a5 : ℕ} {a6 : ℕ} {a7 : ℕ} {a8 : Desc} {a9 : ℕ} {a10 : List (Fmt × MxeRows)} (h : Keeps r s)  : Keeps r (State.climb s a2 a3 a4 a5 a6 a7 a8 a9 a10).1 := by
  induction a10 generalizing s a2 a3 a4 a5 a6 a7 a8 a9 with
  | nil =>
    unfold State.climb
    repeat' first
      | (with_reducible first
        | assumption)
  | cons x l ih =>
    unfold State.climb
    repeat' first
      | (with_reducible first
        | assumption | apply keeps_widenLog | apply keeps_showRun | apply keeps_writePasses | apply ih
        | fail_if_no_progress apply Keeps.update | refine Keeps.of_pair (by assumption) ?_)
      | split | intro _

theorem keeps_mmulAbort {r s : State} {a2 : ℕ} {a3 : Exec} {a4 : Mmul} {a5 : Desc} (h : Keeps r s)  : Keeps r (State.mmulAbort s a2 a3 a4 a5) := by
  unfold State.mmulAbort
  repeat' first
    | (with_reducible first
      | assumption | apply keeps_undefineView | apply keeps_finish | fail_if_no_progress apply Keeps.update)
    | split

theorem keeps_mmulCounts {r s : State} {a2 : ℕ} {a3 : Bool} {a4 : Fmt} {a5 : RunStats} (h : Keeps r s)  : Keeps r (State.mmulCounts s a2 a3 a4 a5) := by
  unfold State.mmulCounts
  repeat' first
    | (with_reducible first
      | assumption | apply keeps_fadd | apply keeps_tallyWindow | fail_if_no_progress apply Keeps.update)
    | split

theorem keeps_mmulRun {r s : State} {a2 : ℕ} {a3 : Exec} {a4 : Mmul} {a5 : Desc} {a6 : List (List (ℕ × ℕ))} {a7 : List (List (ℕ × ℕ))} (h : Keeps r s)  : Keeps r (State.mmulRun s a2 a3 a4 a5 a6 a7) := by
  unfold State.mmulRun
  repeat' first
    | (with_reducible first
      | assumption | apply keeps_climb | apply keeps_mmulAbort | apply keeps_writePasses | apply keeps_setDescFmt | apply keeps_storeAt
      | apply keeps_watch | apply keeps_mmulCounts | apply keeps_nonfinite | apply keeps_finish | fail_if_no_progress apply Keeps.update
      | apply Keeps.foldl | apply Keeps.foldl_pair | refine Keeps.of_pair (by assumption) ?_ | refine Keeps.of_swapped (by assumption) ?_)
    | split | intro _ | dsimp only

theorem keeps_mmul {r s : State} {a2 : ℕ} {a3 : Exec} (h : Keeps r s)  : Keeps r (State.mmul s a2 a3) := by
  unfold State.mmul
  repeat' first
    | (with_reducible first
      | assumption | apply keeps_showRun | apply keeps_finish | apply keeps_readDesc | apply keeps_readView | apply keeps_mmulRun
      | apply keeps_mmulAbort | fail_if_no_progress apply Keeps.update | refine Keeps.of_pair (by assumption) ?_
      | refine Keeps.of_swapped (by assumption) ?_)
    | split | intro _ | dsimp only

theorem keeps_mmulFail {r s : State} {a2 : ℕ} {a3 : Exec} (h : Keeps r s)  : Keeps r (State.mmulFail s a2 a3) := by
  unfold State.mmulFail
  repeat' first
    | (with_reducible first
      | assumption | apply keeps_readDesc | apply keeps_mmulAbort | apply keeps_finish | fail_if_no_progress apply Keeps.update
      | refine Keeps.of_pair (by assumption) ?_)
    | split | intro _

theorem keeps_execMmul {r s : State} {a1 : ℕ} (h : Keeps r s)  : KeepsOut r (execMmul a1 s) := by
  unfold execMmul
  repeat' first
    | (with_reducible first
      | assumption | apply KeepsOut.next | exact KeepsOut.fault | exact KeepsOut.refused | apply keeps_asSeen | apply keeps_mmul
      | fail_if_no_progress apply Keeps.update)
    | split | intro _

theorem keeps_execMtest {r s : State} {a1 : ℕ} {a2 : TestPass} (h : Keeps r s)  : KeepsOut r (execMtest a1 a2 s) := by
  unfold execMtest
  repeat' first
    | (with_reducible first
      | assumption | apply KeepsOut.next | exact KeepsOut.fault | exact KeepsOut.refused | apply keeps_finish | apply keeps_error
      | fail_if_no_progress apply Keeps.update)
    | split

theorem keeps_execResidueMismatch {r s : State} {a1 : ℕ} {a2 : ℕ} (h : Keeps r s)  : KeepsOut r (execResidueMismatch a1 a2 s) := by
  unfold execResidueMismatch
  repeat' first
    | (with_reducible first
      | assumption | apply KeepsOut.next | exact KeepsOut.fault | exact KeepsOut.refused | apply keeps_fset
      | fail_if_no_progress apply Keeps.update)
    | split

theorem keeps_execResidueRetryEnd {r s : State} {a1 : ℕ} {a2 : Bool} (h : Keeps r s)  : KeepsOut r (execResidueRetryEnd a1 a2 s) := by
  unfold execResidueRetryEnd
  repeat' first
    | (with_reducible first
      | assumption | apply KeepsOut.next | exact KeepsOut.fault | exact KeepsOut.refused | apply keeps_fset | apply keeps_error
      | apply keeps_fadd | apply keeps_mmulFail | apply keeps_faultDomain | fail_if_no_progress apply Keeps.update)
    | split

end Sys2Proof.Laws
end

