-- ==== Sys2Proof/Laws/KeepsSpdm.lean ====
section
/-! SUPPORT. What the functions of Machine/Spdm.lean keep: the grade, the waiting commands and the canonical storage. -/

namespace Sys2Proof.Laws

open Sys2Proof.Machine

set_option Elab.async false

theorem keeps_setSpdm {r s : State} {a2 : Transport} {a3 : SpdmConn} (h : Keeps r s)  : Keeps r (State.setSpdm s a2 a3) := by
  unfold State.setSpdm
  repeat' first
    | (with_reducible first
      | assumption | fail_if_no_progress apply Keeps.update)
    | split

theorem keeps_spdmRefuse {r s : State} {a2 : Transport} (h : Keeps r s)  : Keeps r (State.spdmRefuse s a2) := by
  unfold State.spdmRefuse
  repeat' first
    | (with_reducible first
      | assumption | apply keeps_emit)

theorem keeps_spdmReply {r s : State} {a2 : Transport} {a3 : List Byte} (h : Keeps r s)  : Keeps r (State.spdmReply s a2 a3) := by
  unfold State.spdmReply
  repeat' first
    | (with_reducible first
      | assumption | apply keeps_emit)

theorem keeps_spdmSigned {r s : State} {a2 : Transport} {a3 : List Byte} (h : Keeps r s)  : Keeps r (State.spdmSigned s a2 a3) := by
  unfold State.spdmSigned
  repeat' first
    | (with_reducible first
      | assumption | apply keeps_spdmReply)

theorem keeps_execGetVersion {r s : State} {a1 : Transport} (h : Keeps r s)  : KeepsOut r (execGetVersion a1 s) := by
  unfold execGetVersion
  repeat' first
    | (with_reducible first
      | assumption | apply KeepsOut.next | exact KeepsOut.fault | exact KeepsOut.refused | apply keeps_spdmReply | apply keeps_setSpdm
      | apply keeps_spdmRefuse | fail_if_no_progress apply Keeps.update)
    | split

theorem keeps_execGetCapabilities {r s : State} {a1 : Transport} (h : Keeps r s)  : KeepsOut r (execGetCapabilities a1 s) := by
  unfold execGetCapabilities
  repeat' first
    | (with_reducible first
      | assumption | apply KeepsOut.next | exact KeepsOut.fault | exact KeepsOut.refused | apply keeps_spdmReply | apply keeps_setSpdm
      | apply keeps_spdmRefuse | fail_if_no_progress apply Keeps.update | refine Keeps.of_pair (by assumption) ?_
      | refine Keeps.of_swapped (by assumption) ?_)
    | split | intro _ | dsimp only

theorem keeps_execNegotiateAlgorithms {r s : State} {a1 : Transport} {a2 : Bool} (h : Keeps r s)  : KeepsOut r (execNegotiateAlgorithms a1 a2 s) := by
  unfold execNegotiateAlgorithms
  repeat' first
    | (with_reducible first
      | assumption | apply KeepsOut.next | exact KeepsOut.fault | exact KeepsOut.refused | apply keeps_spdmReply | apply keeps_setSpdm
      | apply keeps_spdmRefuse | fail_if_no_progress apply Keeps.update | refine Keeps.of_pair (by assumption) ?_
      | refine Keeps.of_swapped (by assumption) ?_)
    | split | intro _ | dsimp only

theorem keeps_execGetDigests {r s : State} {a1 : Transport} (h : Keeps r s)  : KeepsOut r (execGetDigests a1 s) := by
  unfold execGetDigests
  repeat' first
    | (with_reducible first
      | assumption | apply KeepsOut.next | exact KeepsOut.fault | exact KeepsOut.refused | apply keeps_spdmReply | apply keeps_spdmRefuse
      | fail_if_no_progress apply Keeps.update)
    | split

theorem keeps_execGetCertificate {r s : State} {a1 : Transport} {a2 : ℕ} {a3 : ℕ} (h : Keeps r s)  : KeepsOut r (execGetCertificate a1 a2 a3 s) := by
  unfold execGetCertificate
  repeat' first
    | (with_reducible first
      | assumption | apply KeepsOut.next | exact KeepsOut.fault | exact KeepsOut.refused | apply keeps_spdmReply | apply keeps_spdmRefuse
      | fail_if_no_progress apply Keeps.update | refine Keeps.of_pair (by assumption) ?_ | refine Keeps.of_swapped (by assumption) ?_)
    | split | intro _ | dsimp only

theorem keeps_execChallenge {r s : State} {a1 : Transport} {a2 : BitVec 256} (h : Keeps r s)  : KeepsOut r (execChallenge a1 a2 s) := by
  unfold execChallenge
  repeat' first
    | (with_reducible first
      | assumption | apply KeepsOut.next | exact KeepsOut.fault | exact KeepsOut.refused | apply keeps_spdmSigned
      | apply keeps_spdmRefuse | fail_if_no_progress apply Keeps.update)
    | split

theorem keeps_execGetMeasurements {r s : State} {a1 : Transport} {a2 : ℕ} {a3 : BitVec 256} (h : Keeps r s)  : KeepsOut r (execGetMeasurements a1 a2 a3 s) := by
  unfold execGetMeasurements
  repeat' first
    | (with_reducible first
      | assumption | apply KeepsOut.next | exact KeepsOut.fault | exact KeepsOut.refused | apply keeps_spdmReply | apply keeps_spdmRefuse
      | fail_if_no_progress apply Keeps.update)
    | split

theorem keeps_execKemx {r s : State} {a1 : Transport} {a2 : List Byte} (h : Keeps r s)  : KeepsOut r (execKemx a1 a2 s) := by
  unfold execKemx
  repeat' first
    | (with_reducible first
      | assumption | apply KeepsOut.next | exact KeepsOut.fault | exact KeepsOut.refused | apply keeps_draw | apply keeps_spdmSigned
      | apply keeps_setSpdm | apply keeps_spdmRefuse | fail_if_no_progress apply Keeps.update)
    | split

theorem keeps_execPskExchange {r s : State} {a1 : Transport} {a2 : List Byte} (h : Keeps r s)  : KeepsOut r (execPskExchange a1 a2 s) := by
  unfold execPskExchange
  repeat' first
    | (with_reducible first
      | assumption | apply KeepsOut.next | exact KeepsOut.fault | exact KeepsOut.refused | apply keeps_draw | apply keeps_spdmReply
      | apply keeps_setSpdm | apply keeps_spdmRefuse | fail_if_no_progress apply Keeps.update)
    | split

theorem keeps_execPskFinish {r s : State} {a1 : Transport} {a2 : Bool} (h : Keeps r s)  : KeepsOut r (execPskFinish a1 a2 s) := by
  unfold execPskFinish
  repeat' first
    | (with_reducible first
      | assumption | apply KeepsOut.next | exact KeepsOut.fault | exact KeepsOut.refused | apply keeps_spdmReply | apply keeps_setSpdm
      | apply keeps_spdmRefuse | fail_if_no_progress apply Keeps.update | refine Keeps.of_pair (by assumption) ?_
      | refine Keeps.of_swapped (by assumption) ?_)
    | split | intro _ | dsimp only

theorem keeps_execKeyUpdate {r s : State} {a1 : Transport} (h : Keeps r s)  : KeepsOut r (execKeyUpdate a1 s) := by
  unfold execKeyUpdate
  repeat' first
    | (with_reducible first
      | assumption | apply KeepsOut.next | exact KeepsOut.fault | exact KeepsOut.refused | apply keeps_spdmReply | apply keeps_setSpdm
      | apply keeps_spdmRefuse | fail_if_no_progress apply Keeps.update)
    | split

theorem keeps_execHeartbeat {r s : State} {a1 : Transport} (h : Keeps r s)  : KeepsOut r (execHeartbeat a1 s) := by
  unfold execHeartbeat
  repeat' first
    | (with_reducible first
      | assumption | apply KeepsOut.next | exact KeepsOut.fault | exact KeepsOut.refused | apply keeps_spdmReply | apply keeps_spdmRefuse
      | fail_if_no_progress apply Keeps.update)
    | split

theorem keeps_execEndSession {r s : State} {a1 : Transport} (h : Keeps r s)  : KeepsOut r (execEndSession a1 s) := by
  unfold execEndSession
  repeat' first
    | (with_reducible first
      | assumption | apply KeepsOut.next | exact KeepsOut.fault | exact KeepsOut.refused | apply keeps_spdmReply | apply keeps_setSpdm
      | apply keeps_spdmRefuse | fail_if_no_progress apply Keeps.update)
    | split

theorem keeps_execIdeKm {r s : State} {a1 : Transport} {a2 : Bool} (h : Keeps r s)  : KeepsOut r (execIdeKm a1 a2 s) := by
  unfold execIdeKm
  repeat' first
    | (with_reducible first
      | assumption | apply KeepsOut.next | exact KeepsOut.fault | exact KeepsOut.refused | apply keeps_spdmReply | apply keeps_fset
      | apply keeps_endIde | apply keeps_spdmRefuse | fail_if_no_progress apply Keeps.update)
    | split

theorem keeps_execIdeIntegrityFail {r s : State}  (h : Keeps r s)  : KeepsOut r (execIdeIntegrityFail s) := by
  unfold execIdeIntegrityFail
  repeat' first
    | (with_reducible first
      | assumption | apply KeepsOut.next | exact KeepsOut.fault | exact KeepsOut.refused | apply keeps_endIde)

end Sys2Proof.Laws
end

