-- ==== Sys2Proof/Laws/KeepsTempo.lean ====
section
/-! SUPPORT. What the functions of Machine/Tempo.lean keep: the grade, the waiting commands and the canonical storage. -/

namespace Sys2Proof.Laws

open Sys2Proof.Machine

set_option Elab.async false

theorem keeps_dropLate {r s : State} {a2 : Group} (h : Keeps r s)  : Keeps r (State.dropLate s a2) := by
  unfold State.dropLate
  repeat' first
    | (with_reducible first
      | assumption | apply keeps_setGroup | fail_if_no_progress apply Keeps.update | refine Keeps.of_pair (by assumption) ?_
      | refine Keeps.of_swapped (by assumption) ?_)
    | split | intro _ | dsimp only

theorem keeps_fixLate {r s : State} {a2 : List ℕ} (h : Keeps r s)  : Keeps r (State.fixLate s a2) := by
  unfold State.fixLate
  repeat' first
    | (with_reducible first
      | assumption | apply keeps_emit | fail_if_no_progress apply Keeps.update)

theorem keeps_settleGroup {r s : State} {a2 : Exec} {a3 : Group} (h : Keeps r s)  : Keeps r (State.settleGroup s a2 a3).1 := by
  unfold State.settleGroup
  repeat' first
    | (with_reducible first
      | assumption | apply keeps_dropLate | fail_if_no_progress apply Keeps.update | refine Keeps.of_pair (by assumption) ?_
      | refine Keeps.of_swapped (by assumption) ?_)
    | split | intro _ | dsimp only

theorem keeps_gclose {r s : State} {a2 : Exec} {a3 : Option ℕ} (h : Keeps r s)  : Keeps r (State.gclose s a2 a3) := by
  unfold State.gclose
  repeat' first
    | (with_reducible first
      | assumption | apply keeps_finish | apply keeps_settleGroup | apply keeps_closeGroupRows | fail_if_no_progress apply Keeps.update
      | refine Keeps.of_pair (by assumption) ?_ | refine Keeps.of_swapped (by assumption) ?_)
    | split | intro _ | dsimp only

theorem keeps_markSent {r s : State} {a2 : ℕ} (h : Keeps r s)  : Keeps r (State.markSent s a2) := by
  unfold State.markSent
  repeat' first
    | (with_reducible first
      | assumption | apply keeps_fixLate | apply keeps_emit | fail_if_no_progress apply Keeps.update
      | refine Keeps.of_pair (by assumption) ?_ | refine Keeps.of_swapped (by assumption) ?_)
    | split | intro _ | dsimp only

theorem keeps_takeLateSet {r s : State} {a2 : List ℕ} {a3 : List ℕ} (h : Keeps r s)  : Keeps r (State.takeLateSet s a2 a3) := by
  unfold State.takeLateSet
  repeat' first
    | (with_reducible first
      | assumption | apply keeps_fset | apply keeps_fadd | apply keeps_raise | fail_if_no_progress apply Keeps.update
      | refine Keeps.of_pair (by assumption) ?_ | refine Keeps.of_swapped (by assumption) ?_)
    | split | intro _ | dsimp only

theorem keeps_execGclose {r s : State} {a1 : ℕ} {a2 : Option ℕ} (h : Keeps r s)  : KeepsOut r (execGclose a1 a2 s) := by
  unfold execGclose
  repeat' first
    | (with_reducible first
      | assumption | apply KeepsOut.next | exact KeepsOut.fault | exact KeepsOut.refused | apply keeps_gclose
      | fail_if_no_progress apply Keeps.update)
    | split

theorem keeps_execSentMarkerSend {r s : State}  (h : Keeps r s)  : KeepsOut r (execSentMarkerSend s) := by
  unfold execSentMarkerSend
  repeat' first
    | (with_reducible first
      | assumption | apply KeepsOut.next | exact KeepsOut.fault | exact KeepsOut.refused | apply keeps_emit
      | fail_if_no_progress apply Keeps.update)
    | split

theorem keeps_execSentReceive {r s : State} {a1 : ℕ} {a2 : ℕ} (h : Keeps r s)  : KeepsOut r (execSentReceive a1 a2 s) := by
  unfold execSentReceive
  repeat' first
    | (with_reducible first
      | assumption | apply KeepsOut.next | exact KeepsOut.fault | exact KeepsOut.refused | apply keeps_markSent
      | fail_if_no_progress apply Keeps.update)
    | split

theorem keeps_execTempoDeadline {r s : State}  (h : Keeps r s)  : KeepsOut r (execTempoDeadline s) := by
  unfold execTempoDeadline
  repeat' first
    | (with_reducible first
      | assumption | apply KeepsOut.next | exact KeepsOut.fault | exact KeepsOut.refused | apply keeps_pumpVotes | apply keeps_fixLate
      | apply keeps_fadd | apply keeps_decideAbort | fail_if_no_progress apply Keeps.update | refine Keeps.of_pair (by assumption) ?_
      | refine Keeps.of_swapped (by assumption) ?_)
    | split | intro _ | dsimp only

theorem keeps_execLateSetReceive {r s : State} {a1 : ℕ} {a2 : List ℕ} {a3 : List ℕ} (h : Keeps r s)  : KeepsOut r (execLateSetReceive a1 a2 a3 s) := by
  unfold execLateSetReceive
  repeat' first
    | (with_reducible first
      | assumption | apply KeepsOut.next | exact KeepsOut.fault | exact KeepsOut.refused | apply keeps_takeLateSet
      | fail_if_no_progress apply Keeps.update)
    | split

end Sys2Proof.Laws
end

