-- ==== Sys2Proof/Laws/KeepsIdle.lean ====
section
/-! SUPPORT. What the functions of Machine/Idle.lean keep: the grade, the waiting commands and the canonical storage. -/

namespace Sys2Proof.Laws

open Sys2Proof.Machine

set_option Elab.async false

theorem keeps_addIdle {r s : State} {a2 : ℕ} {a3 : ℕ} (h : Keeps r s)  : Keeps r (State.addIdle s a2 a3) := by
  unfold State.addIdle
  repeat' first
    | (with_reducible first
      | assumption | fail_if_no_progress apply Keeps.update)

theorem keeps_countIdle {r s : State} {a2 : ℕ} (h : Keeps r s)  : Keeps r (State.countIdle s a2) := by
  unfold State.countIdle
  repeat' first
    | (with_reducible first
      | assumption | apply keeps_addIdle | apply keeps_fset | fail_if_no_progress apply Keeps.update
      | refine Keeps.of_pair (by assumption) ?_ | refine Keeps.of_swapped (by assumption) ?_)
    | split | intro _ | dsimp only

theorem keeps_countIdles {r s : State}  (h : Keeps r s)  : Keeps r (State.countIdles s) := by
  unfold State.countIdles
  repeat' first
    | (with_reducible first
      | assumption | apply keeps_countIdle | fail_if_no_progress apply Keeps.update | apply Keeps.foldl | apply Keeps.foldl_pair)
    | split

end Sys2Proof.Laws
end

