-- ==== Sys2Proof/Laws/KeepsTime.lean ====
section
/-! SUPPORT. What the functions of Machine/Time.lean keep: the grade, the waiting commands and the canonical storage. -/

namespace Sys2Proof.Laws

open Sys2Proof.Machine

set_option Elab.async false

theorem keeps_elect {r s : State}  (h : Keeps r s)  : Keeps r (State.elect s) := by
  unfold State.elect
  repeat' first
    | (with_reducible first
      | assumption | apply keeps_fset | fail_if_no_progress apply Keeps.update | refine Keeps.of_pair (by assumption) ?_
      | refine Keeps.of_swapped (by assumption) ?_)
    | split | intro _ | dsimp only

theorem keeps_slewTick {r s : State}  (h : Keeps r s)  : Keeps r (State.slewTick s) := by
  unfold State.slewTick
  repeat' first
    | (with_reducible first
      | assumption | apply keeps_fset | fail_if_no_progress apply Keeps.update)

theorem keeps_enterPtp {r s : State} {a2 : ℕ} (h : Keeps r s)  : Keeps r (State.enterPtp s a2) := by
  unfold State.enterPtp
  repeat' first
    | (with_reducible first
      | assumption | apply keeps_fset | apply keeps_raise | fail_if_no_progress apply Keeps.update
      | refine Keeps.of_pair (by assumption) ?_ | refine Keeps.of_swapped (by assumption) ?_)
    | split | intro _ | dsimp only

theorem keeps_countGood {r s : State} {a2 : ℤ} (h : Keeps r s)  : Keeps r (State.countGood s a2) := by
  unfold State.countGood
  repeat' first
    | (with_reducible first
      | assumption | apply keeps_enterPtp | fail_if_no_progress apply Keeps.update | refine Keeps.of_pair (by assumption) ?_
      | refine Keeps.of_swapped (by assumption) ?_)
    | split | intro _ | dsimp only

theorem keeps_slew {r s : State} {a2 : ℤ} (h : Keeps r s)  : Keeps r (State.slew s a2) := by
  unfold State.slew
  repeat' first
    | (with_reducible first
      | assumption | fail_if_no_progress apply Keeps.update)

theorem keeps_stepTick {r s : State} {a2 : ℤ} (h : Keeps r s)  : Keeps r (State.stepTick s a2) := by
  unfold State.stepTick
  repeat' first
    | (with_reducible first
      | assumption | apply keeps_fraise | apply keeps_fset | fail_if_no_progress apply Keeps.update)

theorem keeps_faultOffset {r s : State} {a2 : ℤ} (h : Keeps r s)  : Keeps r (State.faultOffset s a2) := by
  unfold State.faultOffset
  repeat' first
    | (with_reducible first
      | assumption | apply keeps_countGood | apply keeps_slew | apply keeps_enterPtp | apply keeps_stepTick
      | fail_if_no_progress apply Keeps.update)
    | split

theorem keeps_takeOffset {r s : State} {a2 : ℤ} (h : Keeps r s)  : Keeps r (State.takeOffset s a2) := by
  unfold State.takeOffset
  repeat' first
    | (with_reducible first
      | assumption | apply keeps_fset | apply keeps_faultOffset | apply keeps_enterPtp | apply keeps_countGood | apply keeps_slew
      | fail_if_no_progress apply Keeps.update)
    | split

theorem keeps_execPtpSync {r s : State} {a1 : ℕ} {a2 : ℤ} {a3 : Bool} (h : Keeps r s)  : KeepsOut r (execPtpSync a1 a2 a3 s) := by
  unfold execPtpSync
  repeat' first
    | (with_reducible first
      | assumption | apply KeepsOut.next | exact KeepsOut.fault | exact KeepsOut.refused | apply keeps_takeOffset
      | fail_if_no_progress apply Keeps.update)
    | split

theorem keeps_execPtpFollowUp {r s : State} {a1 : ℕ} {a2 : ℤ} (h : Keeps r s)  : KeepsOut r (execPtpFollowUp a1 a2 s) := by
  unfold execPtpFollowUp
  repeat' first
    | (with_reducible first
      | assumption | apply KeepsOut.next | exact KeepsOut.fault | exact KeepsOut.refused | apply keeps_takeOffset
      | fail_if_no_progress apply Keeps.update)
    | split

theorem keeps_execPtpDelayResp {r s : State} {a1 : ℕ} {a2 : ℤ} (h : Keeps r s)  : KeepsOut r (execPtpDelayResp a1 a2 s) := by
  unfold execPtpDelayResp
  repeat' first
    | (with_reducible first
      | assumption | apply KeepsOut.next | exact KeepsOut.fault | exact KeepsOut.refused | fail_if_no_progress apply Keeps.update)
    | split

theorem keeps_execPtpAnnounce {r s : State} {a1 : ℕ} {a2 : Announce} (h : Keeps r s)  : KeepsOut r (execPtpAnnounce a1 a2 s) := by
  unfold execPtpAnnounce
  repeat' first
    | (with_reducible first
      | assumption | apply KeepsOut.next | exact KeepsOut.fault | exact KeepsOut.refused | apply keeps_elect
      | fail_if_no_progress apply Keeps.update)
    | split

theorem keeps_execPtpDelayReqSend {r s : State} {a1 : ℕ} (h : Keeps r s)  : KeepsOut r (execPtpDelayReqSend a1 s) := by
  unfold execPtpDelayReqSend
  repeat' first
    | (with_reducible first
      | assumption | apply KeepsOut.next | exact KeepsOut.fault | exact KeepsOut.refused | apply keeps_emit
      | fail_if_no_progress apply Keeps.update)
    | split

theorem keeps_execPtpHoldoverEntry {r s : State}  (h : Keeps r s)  : KeepsOut r (execPtpHoldoverEntry s) := by
  unfold execPtpHoldoverEntry
  repeat' first
    | (with_reducible first
      | assumption | apply KeepsOut.next | exact KeepsOut.fault | exact KeepsOut.refused | apply keeps_enterPtp
      | fail_if_no_progress apply Keeps.update | refine Keeps.of_pair (by assumption) ?_ | refine Keeps.of_swapped (by assumption) ?_)
    | split | intro _ | dsimp only

theorem keeps_execPpsEdge {r s : State} {a1 : ℤ} (h : Keeps r s)  : KeepsOut r (execPpsEdge a1 s) := by
  unfold execPpsEdge
  repeat' first
    | (with_reducible first
      | assumption | apply KeepsOut.next | exact KeepsOut.fault | exact KeepsOut.refused | apply keeps_countEdges | apply keeps_fadd
      | apply keeps_slew | fail_if_no_progress apply Keeps.update | refine Keeps.of_pair (by assumption) ?_
      | refine Keeps.of_swapped (by assumption) ?_)
    | split | intro _ | dsimp only

theorem keeps_execAonRefclkLoss {r s : State}  (h : Keeps r s)  : KeepsOut r (execAonRefclkLoss s) := by
  unfold execAonRefclkLoss
  repeat' first
    | (with_reducible first
      | assumption | apply KeepsOut.next | exact KeepsOut.fault | exact KeepsOut.refused | apply keeps_askHove | apply keeps_raise
      | apply keeps_fset | fail_if_no_progress apply Keeps.update)
    | split

end Sys2Proof.Laws
end

