-- ==== Sys2Proof/Laws/KeepsTick.lean ====
section
/-! SUPPORT. What the functions of Machine/Tick.lean keep: the grade, the waiting commands and the canonical storage. -/

namespace Sys2Proof.Laws

open Sys2Proof.Machine

set_option Elab.async false

theorem keeps_background {r s : State}  (h : Keeps r s)  : Keeps r (State.background s) := by
  unfold State.background
  repeat' first
    | (with_reducible first
      | assumption | apply keeps_serveLines | apply keeps_pumpAll | apply keeps_reopenFlows | apply keeps_carry | apply keeps_ageInputs
      | apply keeps_elect | apply keeps_slewTick | apply keeps_finishDeep | apply keeps_countQuiet | apply keeps_countIdles
      | apply keeps_copyOn)

theorem keeps_clearMinute {r s : State}  (h : Keeps r s)  : Keeps r (State.clearMinute s) := by
  unfold State.clearMinute
  repeat' first
    | (with_reducible first
      | assumption | apply keeps_fset | fail_if_no_progress apply Keeps.update | apply Keeps.foldl | apply Keeps.foldl_pair)
    | split | intro _

theorem keeps_debugEdge {r s : State}  (h : Keeps r s)  : Keeps r (State.debugEdge s) := by
  unfold State.debugEdge
  repeat' first
    | (with_reducible first
      | assumption | apply keeps_eraseSecrets | fail_if_no_progress apply Keeps.update)
    | split

theorem keeps_performArrival {r s : State} {a2 : Arrival} (h : Keeps r s)  : Keeps r (State.performArrival s a2) := by
  unfold State.performArrival
  repeat' first
    | (with_reducible first
      | assumption | apply keeps_asSeen | apply keeps_atomicEntry | apply keeps_outsideAtomic | apply keeps_answerRemote
      | apply keeps_leafHove | apply keeps_leafIn | apply keeps_staleIn | fail_if_no_progress apply Keeps.update)
    | split | intro _

theorem keeps_performArrivals {r s : State}  (h : Keeps r s)  : Keeps r (State.performArrivals s) := by
  unfold State.performArrivals
  repeat' first
    | (with_reducible first
      | assumption | apply keeps_performArrival | fail_if_no_progress apply Keeps.update | apply Keeps.foldl)

theorem keeps_takeEvents {r s : State}  (h : Keeps r s)  : Keeps r (State.takeEvents s) := by
  unfold State.takeEvents
  repeat' first
    | (with_reducible first
      | assumption | apply keeps_handle | fail_if_no_progress apply Keeps.update | apply Keeps.foldl | apply Keeps.foldl_pair)
    | split | intro _

theorem keeps_tick {r s : State}  (h : Keeps r s)  : Keeps r (State.tick s) := by
  unfold State.tick
  repeat' first
    | (with_reducible first
      | assumption | apply keeps_applyDue | apply keeps_fwrap | apply keeps_consult | apply keeps_performArrivals
      | apply keeps_background | apply keeps_endGroupOff | apply keeps_autoLoad | apply keeps_takeEvents | apply keeps_takeCommands
      | apply keeps_clearMinute | apply keeps_markUnits | apply keeps_markTick | apply keeps_showAlert | apply keeps_muxEdge
      | apply keeps_debugEdge | fail_if_no_progress apply Keeps.update)
    | split

theorem keeps_execTick {r s : State}  (h : Keeps r s)  : KeepsOut r (execTick s) := by
  unfold execTick
  repeat' first
    | (with_reducible first
      | assumption | apply KeepsOut.next | exact KeepsOut.fault | exact KeepsOut.refused | apply keeps_tick)

end Sys2Proof.Laws
end

