-- ==== Sys2Proof/Laws/KeepsDispatch.lean ====
section
/-! SUPPORT. What the functions of Machine/Dispatch.lean keep: the grade, the waiting commands and the canonical storage. -/

namespace Sys2Proof.Laws

open Sys2Proof.Machine

set_option Elab.async false

theorem keeps_exec {r s : State} {a1 : Instr} (h : Keeps r s)  : KeepsOut r (exec a1 s) := by
  unfold exec
  repeat' first
    | (with_reducible first
      | assumption | apply KeepsOut.next | exact KeepsOut.fault | exact KeepsOut.refused | apply keeps_execMmul | apply keeps_execMtest
      | apply keeps_execResidueMismatch | apply keeps_execResidueRetryEnd | apply keeps_execEprog | apply keeps_execCvt
      | apply keeps_execDrun | apply keeps_execVtest | apply keeps_execVxeModeChange | apply keeps_execNop | apply keeps_execReplay
      | apply keeps_execPset | apply keeps_execJump | apply keeps_execEndEntry | apply keeps_execFlagadd | apply keeps_execPcopy
      | apply keeps_execCopy | apply keeps_execFill | apply keeps_execEntryStart | apply keeps_execEntryCompletion
      | apply keeps_execRingEntryTake | apply keeps_execGo | apply keeps_execResume | apply keeps_execRetry | apply keeps_execAbortEntry
      | apply keeps_execStop | apply keeps_execStalemateScan | apply keeps_execStalemateHold | apply keeps_execParamWrite
      | apply keeps_execRingRegisterWrite | apply keeps_execLookup | apply keeps_execScatter | apply keeps_execHrefresh
      | apply keeps_execMigrationFlip | apply keeps_execAtomic | apply keeps_execGopen | apply keeps_execGclose | apply keeps_execGadd
      | apply keeps_execSucAtomic | apply keeps_execSucMismatch | apply keeps_execSucTest | apply keeps_execRemoteRunRequest
      | apply keeps_execLeafArrival | apply keeps_execLeafGroupWaitExpiry | apply keeps_execKeeperApply | apply keeps_execTstage
      | apply keeps_execTflip | apply keeps_execToffline | apply keeps_execTonline | apply keeps_execOldVersionRelease
      | apply keeps_execUopen | apply keeps_execUclose | apply keeps_execVote | apply keeps_execVoteReceive
      | apply keeps_execVoteLimitExpiry | apply keeps_execDecisionFinal | apply keeps_execDecisionReceive | apply keeps_execUnitApplyDone
      | apply keeps_execLeaderTakeover | apply keeps_execMinorityRefetch | apply keeps_execResolve | apply keeps_execFreezeLimitExpiry
      | apply keeps_execUnitResolution | apply keeps_execExportShard | apply keeps_execPhase | apply keeps_execPhaseSwitch
      | apply keeps_execSentMarkerSend | apply keeps_execSentReceive | apply keeps_execTempoDeadline | apply keeps_execLateSetReceive
      | apply keeps_execRread | apply keeps_execRwrite | apply keeps_execRatomic | apply keeps_execRemoteRequest
      | apply keeps_execRedscat | apply keeps_execAllgather | apply keeps_execCollectiveTimeout | apply keeps_execPull
      | apply keeps_execPullLimitExpiry | apply keeps_execFlowctlOpen | apply keeps_execFlowctlClose | apply keeps_execFlowctlReset
      | apply keeps_execMchangeJoin | apply keeps_execMchangeLeave | apply keeps_execMchangeRole | apply keeps_execHallVoteDecision
      | apply keeps_execHallChangeEffect | apply keeps_execMemberHeartbeat | apply keeps_execMemberLostTimeout
      | apply keeps_execPartPromotionRestore | apply keeps_execPromotedReceive | apply keeps_execResignReceive
      | apply keeps_execDataReceive | apply keeps_execAckReceive | apply keeps_execStatusReceive | apply keeps_execProbeReceive
      | apply keeps_execFrameReceive | apply keeps_execAckDelayExpiry | apply keeps_execRtoExpiry | apply keeps_execPathHoldExpiry
      | apply keeps_execArpRequest | apply keeps_execNeighbourSolicitation | apply keeps_execGatewayResolve | apply keeps_execPfcFrame
      | apply keeps_execPortLinkDown | apply keeps_execPortLinkUp | apply keeps_execPortGroupFault | apply keeps_execHelloReceive
      | apply keeps_execReplyReceive | apply keeps_execFinishReceive | apply keeps_execHandshakeTimeout | apply keeps_execRekey
      | apply keeps_execSessionTxcLimit | apply keeps_execBeaconSend | apply keeps_execPtpSync | apply keeps_execPtpFollowUp
      | apply keeps_execPtpDelayResp | apply keeps_execPtpAnnounce | apply keeps_execPtpDelayReqSend | apply keeps_execPtpHoldoverEntry
      | apply keeps_execPpsEdge | apply keeps_execTick | apply keeps_execAonRefclkLoss | apply keeps_execLullEntry
      | apply keeps_execDeepLullEntry | apply keeps_execCoreWake | apply keeps_execPerstNAssert | apply keeps_execPerstNDeassert
      | apply keeps_execHoldNLow | apply keeps_execHoldTakeEffect | apply keeps_execHoldNHigh | apply keeps_execHoldLimitExpiry
      | apply keeps_execSidebandChatter | apply keeps_execSidebandAutoUnmask | apply keeps_execSbUnmask
      | apply keeps_execRotatingSelfTest | apply keeps_execCoreRecoveryTestEnd | apply keeps_execSpareTestEnd
      | apply keeps_execPromotionComplete | apply keeps_execHoveToEntry | apply keeps_execHoveEnter | apply keeps_execHoveRelease
      | apply keeps_execErrRecordUnlock | apply keeps_execErrRingReadAdvance | apply keeps_execStaleRecordUnlock
      | apply keeps_execLinkFlitCrcFail | apply keeps_execLinkRetrainEnd | apply keeps_execLedgerRebuild | apply keeps_execPatrolRead
      | apply keeps_execSelfRefreshPatrolExit | apply keeps_execRetune | apply keeps_execRetuneEnd | apply keeps_execCeLimitExceeded
      | apply keeps_execChannelDead | apply keeps_execEvacuationDone | apply keeps_execRetrainVerifyEnd | apply keeps_execCopyBackDone
      | apply keeps_execThrottleReading | apply keeps_execThermalTrip | apply keeps_execP12vLoss | apply keeps_execRailFault
      | apply keeps_execP12vRestore | apply keeps_execP12vAbsentAtBoot | apply keeps_execP3v3AonLoss | apply keeps_execEthRefclkMissing
      | apply keeps_execPcieRefclkMissing | apply keeps_execPowerOnReset | apply keeps_execHallContact | apply keeps_execHallFound
      | apply keeps_execQualify | apply keeps_execCfgWrite | apply keeps_execCfgErase | apply keeps_execJobLoad
      | apply keeps_execLoadedReceive | apply keeps_execJstart | apply keeps_execJstartTimeout | apply keeps_execJobStop
      | apply keeps_execJobUpdate | apply keeps_execJobUpdateApply | apply keeps_execActivate | apply keeps_execConfigLiveApply
      | apply keeps_execRetrain | apply keeps_execRetireChan | apply keeps_execReadapt | apply keeps_execGroupOff
      | apply keeps_execGroupOn | apply keeps_execPromote | apply keeps_execRetest | apply keeps_execLiveOpStart
      | apply keeps_execHringTailSample | apply keeps_execHringNop | apply keeps_execHringQcmd | apply keeps_execHringFlagadd
      | apply keeps_execHringParam | apply keeps_execHringJob | apply keeps_execHringLive | apply keeps_execHringResume
      | apply keeps_execHringRetry | apply keeps_execHringStop | apply keeps_execMemBarRead | apply keeps_execMemBarWrite
      | apply keeps_execHostWinWrite | apply keeps_execLedgerWinWrite | apply keeps_execLedgerWindowRead
      | apply keeps_execLedgerWindowWrite | apply keeps_execRegBarBadAccess | apply keeps_execRegisterWrite
      | apply keeps_execRcCounterRead | apply keeps_execInterruptClaim | apply keeps_execInterruptEoi | apply keeps_execPendingClear
      | apply keeps_execMsixMessage | apply keeps_execMsixUnmask | apply keeps_execGetVersion | apply keeps_execGetCapabilities
      | apply keeps_execNegotiateAlgorithms | apply keeps_execGetDigests | apply keeps_execGetCertificate | apply keeps_execChallenge
      | apply keeps_execGetMeasurements | apply keeps_execKemx | apply keeps_execPskExchange | apply keeps_execPskFinish
      | apply keeps_execKeyUpdate | apply keeps_execHeartbeat | apply keeps_execEndSession | apply keeps_execIdeKm
      | apply keeps_execIdeIntegrityFail | apply keeps_execNewChal | apply keeps_execDbgSubmit | apply keeps_execDbgClose
      | apply keeps_execFullDebugOpen | apply keeps_execTrstNAssert | apply keeps_execIdcode | apply keeps_execSamplePreload
      | apply keeps_execExtest | apply keeps_execClamp | apply keeps_execHighz | apply keeps_execBypass | apply keeps_execJtagChallenge
      | apply keeps_execToken | apply keeps_execDbgstatus | apply keeps_execMuxsel | apply keeps_execIjtag | apply keeps_execBistctl
      | apply keeps_execTmSelWrite | apply keeps_execBistStart | apply keeps_execBistSessionEnd | apply keeps_execFlowOpenTimeout
      | apply keeps_execHeartbeatReceive | apply keeps_execVoteRequestReceive | apply keeps_execHallVoteRequestReceive
      | apply keeps_execPortGroupRecoveryEnd | apply keeps_execSlotProgrammingEnd | apply keeps_execPcieRefclkReturn
      | fail_if_no_progress apply Keeps.update)
    | split

end Sys2Proof.Laws
end

