-- ==== Sys2Proof/WellFormed.lean ====
section
/-! DEFINITION. Well-formed commands: each operand lies in the range that the spec gives what it names. A meaning is total all the same, and takes an operand out of range as naming nothing. -/

namespace Sys2Proof

/-- A queue of a core: setter codes below 0x400 with positions 0 to 16 (Table 5.3). -/
def coreQueue (q : Nat) : Bool := decide (q < 0x400) && decide (q % 128 < 0x44)

/-- The MXE queue of a position (Table 5.3). -/
def mxeQueue (q : Nat) : Bool := coreQueue q && q % 4 == 0

/-- The VXE queue of a position (Table 5.3). -/
def vxeQueue (q : Nat) : Bool := coreQueue q && q % 4 == 1

/-- The DMA queue of a position (Table 5.3). -/
def dmaQueue (q : Nat) : Bool := coreQueue q && q % 4 == 2

/-- The control queue of a position (Table 5.3). -/
def controlQueue (q : Nat) : Bool := coreQueue q && q % 4 == 3

/-- An LKE queue of a die (Table 5.3). -/
def lkeQueue (q : Nat) : Bool := decide (q < 0x400) && decide (0x44 ≤ q % 128) && decide (q % 128 < 0x4C)

/-- An FXE queue (Table 5.3). -/
def fxeQueue (q : Nat) : Bool := decide (0x400 ≤ q) && decide (q < 0x440)

/-- A CME queue (Table 5.3). -/
def cmeQueue (q : Nat) : Bool := decide (0x440 ≤ q) && decide (q < 0x444)

/-- A queue that a ring feeds (R224). -/
def ringFedQueue (q : Nat) : Bool := lkeQueue q || fxeQueue q || cmeQueue q

/-- Any queue of the part (Table 5.3). -/
def anyQueue (q : Nat) : Bool := coreQueue q || ringFedQueue q

/-- The queue of a RESOLVE entry; another member's names none here. -/
def Resolver.queue? : Resolver → Option Nat
  | .entry q => some q
  | .member _ _ _ _ => none

/-- A resolver's operands are in range: a CME queue, or a member's part number, step and KEEP. -/
def Resolver.wf : Resolver → Bool
  | .entry q => cmeQueue q
  | .member part step keep _ => decide (part < 0xFFFF) && decide (step < 2 ^ 32) && decide (keep < 4)

/-- The queue that a command is about. -/
def Instr.queue? (i : Instr) : Option Nat :=
  match i with
  | .mmul q => some q
  | .mtest q _ => some q
  | .residueMismatch _ _ => none
  | .residueRetryEnd _ _ => none
  | .eprog q _ => some q
  | .cvt q _ => some q
  | .drun q _ => some q
  | .vtest q _ => some q
  | .vxeModeChange _ => none
  | .nop q => some q
  | .replay q => some q
  | .pset q => some q
  | .jump q => some q
  | .endEntry q => some q
  | .flagadd q => some q
  | .pcopy q => some q
  | .copy q => some q
  | .fill q => some q
  | .entryStart q => some q
  | .entryCompletion q _ => some q
  | .ringEntryTake q => some q
  | .go q _ => some q
  | .resume q _ => some q
  | .retry q _ => some q
  | .abortEntry q _ => some q
  | .stop q _ => some q
  | .stalemateScan => none
  | .stalemateHold => none
  | .paramWrite q _ _ => some q
  | .ringRegisterWrite _ _ => none
  | .lookup q _ => some q
  | .scatter q _ _ => some q
  | .hrefresh q => some q
  | .migrationFlip _ _ => none
  | .atomic q => some q
  | .gopen q => some q
  | .gclose q _ => some q
  | .gadd _ _ => none
  | .sucAtomic _ => none
  | .sucMismatch _ _ _ => none
  | .sucTest _ _ => none
  | .remoteRunRequest _ => none
  | .leafArrival _ => none
  | .leafGroupWaitExpiry => none
  | .keeperApply => none
  | .tstage q => some q
  | .tflip q => some q
  | .toffline q => some q
  | .tonline q => some q
  | .oldVersionRelease _ _ _ => none
  | .uopen q => some q
  | .uclose c => some c.queue
  | .vote q => some q
  | .voteReceive _ => none
  | .voteLimitExpiry => none
  | .decisionFinal _ => none
  | .decisionReceive _ => none
  | .unitApplyDone => none
  | .leaderTakeover _ => none
  | .minorityRefetch _ _ _ => none
  | .resolve by_ => by_.queue?
  | .freezeLimitExpiry => none
  | .unitResolution _ _ => none
  | .exportShard q => some q
  | .phase q => some q
  | .phaseSwitch => none
  | .sentMarkerSend => none
  | .sentReceive _ _ => none
  | .tempoDeadline => none
  | .lateSetReceive _ _ _ => none
  | .rread q _ => some q
  | .rwrite q _ => some q
  | .ratomic q _ => some q
  | .remoteRequest _ => none
  | .redscat q _ => some q
  | .allgather q _ => some q
  | .collectiveTimeout q _ => some q
  | .pull q _ => some q
  | .pullLimitExpiry q _ => some q
  | .flowctlOpen q => some q
  | .flowctlClose q => some q
  | .flowctlReset q => some q
  | .mchangeJoin q => some q
  | .mchangeLeave q => some q
  | .mchangeRole q => some q
  | .hallVoteDecision _ _ => none
  | .hallChangeEffect => none
  | .memberHeartbeat => none
  | .memberLostTimeout _ => none
  | .partPromotionRestore _ _ _ => none
  | .promotedReceive _ _ => none
  | .resignReceive _ => none
  | .dataReceive _ => none
  | .ackReceive _ => none
  | .statusReceive _ => none
  | .probeReceive _ => none
  | .frameReceive _ => none
  | .ackDelayExpiry _ => none
  | .rtoExpiry _ _ => none
  | .pathHoldExpiry _ _ => none
  | .arpRequest _ _ => none
  | .neighbourSolicitation _ _ => none
  | .gatewayResolve _ _ => none
  | .pfcFrame _ _ => none
  | .portLinkDown _ => none
  | .portLinkUp _ _ => none
  | .portGroupFault _ => none
  | .helloReceive _ => none
  | .replyReceive _ => none
  | .finishReceive _ => none
  | .handshakeTimeout _ _ => none
  | .rekey _ _ _ => none
  | .sessionTxcLimit _ _ => none
  | .beaconSend _ => none
  | .ptpSync _ _ _ => none
  | .ptpFollowUp _ _ => none
  | .ptpDelayResp _ _ => none
  | .ptpAnnounce _ _ => none
  | .ptpDelayReqSend _ => none
  | .ptpHoldoverEntry => none
  | .ppsEdge _ => none
  | .tick => none
  | .aonRefclkLoss => none
  | .lullEntry _ => none
  | .deepLullEntry _ => none
  | .coreWake _ => none
  | .perstNAssert _ => none
  | .perstNDeassert => none
  | .holdNLow _ => none
  | .holdTakeEffect => none
  | .holdNHigh _ => none
  | .holdLimitExpiry => none
  | .sidebandChatter _ _ => none
  | .sidebandAutoUnmask _ => none
  | .sbUnmask _ => none
  | .rotatingSelfTest _ _ => none
  | .coreRecoveryTestEnd _ _ => none
  | .spareTestEnd _ _ => none
  | .promotionComplete _ => none
  | .hoveToEntry _ => none
  | .hoveEnter => none
  | .hoveRelease _ _ => none
  | .errRecordUnlock => none
  | .errRingReadAdvance _ => none
  | .staleRecordUnlock => none
  | .linkFlitCrcFail _ _ => none
  | .linkRetrainEnd _ _ => none
  | .ledgerRebuild _ => none
  | .patrolRead _ _ => none
  | .selfRefreshPatrolExit _ => none
  | .retune _ _ => none
  | .retuneEnd _ _ _ => none
  | .ceLimitExceeded _ _ => none
  | .channelDead _ _ => none
  | .evacuationDone _ => none
  | .retrainVerifyEnd _ _ => none
  | .copyBackDone _ => none
  | .throttleReading _ => none
  | .thermalTrip => none
  | .p12vLoss => none
  | .railFault _ => none
  | .p12vRestore _ _ _ => none
  | .p12vAbsentAtBoot => none
  | .p3v3AonLoss => none
  | .ethRefclkMissing _ => none
  | .pcieRefclkMissing => none
  | .powerOnReset _ _ _ => none
  | .hallContact _ => none
  | .hallFound => none
  | .qualify _ => none
  | .cfgWrite _ _ => none
  | .cfgErase _ => none
  | .jobLoad _ _ => none
  | .loadedReceive _ _ => none
  | .jstart => none
  | .jstartTimeout => none
  | .jobStop => none
  | .jobUpdate _ _ => none
  | .jobUpdateApply => none
  | .activate _ _ => none
  | .configLiveApply => none
  | .retrain _ => none
  | .retireChan _ => none
  | .readapt _ => none
  | .groupOff _ => none
  | .groupOn _ => none
  | .promote _ => none
  | .retest _ _ => none
  | .liveOpStart => none
  | .hringTailSample => none
  | .hringNop _ => none
  | .hringQcmd _ => none
  | .hringFlagadd _ => none
  | .hringParam _ => none
  | .hringJob _ _ => none
  | .hringLive _ _ _ => none
  | .hringResume _ => none
  | .hringRetry _ => none
  | .hringStop _ => none
  | .memBarRead _ _ => none
  | .memBarWrite _ _ => none
  | .hostWinWrite _ => none
  | .ledgerWinWrite _ => none
  | .ledgerWindowRead _ => none
  | .ledgerWindowWrite _ _ => none
  | .regBarBadAccess _ => none
  | .registerWrite _ _ => none
  | .rcCounterRead _ => none
  | .interruptClaim _ => none
  | .interruptEoi _ => none
  | .pendingClear _ => none
  | .msixMessage _ => none
  | .msixUnmask _ => none
  | .getVersion _ => none
  | .getCapabilities _ => none
  | .negotiateAlgorithms _ _ => none
  | .getDigests _ => none
  | .getCertificate _ _ _ => none
  | .challenge _ _ => none
  | .getMeasurements _ _ _ => none
  | .kemx _ _ => none
  | .pskExchange _ _ => none
  | .pskFinish _ _ => none
  | .keyUpdate _ => none
  | .heartbeat _ => none
  | .endSession _ => none
  | .ideKm _ _ => none
  | .ideIntegrityFail => none
  | .newChal => none
  | .dbgSubmit _ => none
  | .dbgClose => none
  | .fullDebugOpen => none
  | .trstNAssert => none
  | .idcode => none
  | .samplePreload _ => none
  | .extest _ => none
  | .clamp => none
  | .highz => none
  | .bypass => none
  | .jtagChallenge => none
  | .token _ _ => none
  | .dbgstatus => none
  | .muxsel _ => none
  | .ijtag _ => none
  | .bistctl _ => none
  | .tmSelWrite _ => none
  | .bistStart => none
  | .bistSessionEnd _ _ _ => none
  | .flowOpenTimeout q _ => some q
  | .heartbeatReceive _ _ => none
  | .voteRequestReceive _ => none
  | .hallVoteRequestReceive _ _ => none
  | .portGroupRecoveryEnd _ _ => none
  | .slotProgrammingEnd => none
  | .pcieRefclkReturn => none

/-- The command's operands are in range. -/
def Instr.wf (i : Instr) : Bool :=
  match i with
  | .mmul q => mxeQueue q
  | .mtest q _ => mxeQueue q
  | .residueMismatch core _ => decide (core < 136)
  | .residueRetryEnd core _ => decide (core < 136)
  | .eprog q _ => vxeQueue q
  | .cvt q _ => vxeQueue q
  | .drun q _ => vxeQueue q
  | .vtest q _ => vxeQueue q
  | .vxeModeChange core => decide (core < 136)
  | .nop q => anyQueue q
  | .replay q => anyQueue q
  | .pset q => anyQueue q
  | .jump q => anyQueue q
  | .endEntry q => anyQueue q
  | .flagadd q => controlQueue q
  | .pcopy q => controlQueue q
  | .copy q => dmaQueue q
  | .fill q => dmaQueue q
  | .entryStart q => anyQueue q
  | .entryCompletion q _ => anyQueue q
  | .ringEntryTake q => ringFedQueue q
  | .go q _ => anyQueue q
  | .resume q _ => anyQueue q
  | .retry q _ => anyQueue q
  | .abortEntry q _ => anyQueue q
  | .stop q _ => anyQueue q
  | .stalemateScan => true
  | .stalemateHold => true
  | .paramWrite q m _ => anyQueue q && decide (m < 64)
  | .ringRegisterWrite off _ => decide (off < 0x4000000)
  | .lookup q _ => lkeQueue q
  | .scatter q _ _ => lkeQueue q
  | .hrefresh q => lkeQueue q
  | .migrationFlip _ _ => true
  | .atomic q => lkeQueue q
  | .gopen q => lkeQueue q
  | .gclose q die => lkeQueue q && die.all fun d => decide (d < 8)
  | .gadd die _ => decide (die < 8)
  | .sucAtomic _ => true
  | .sucMismatch die _ _ => decide (die < 8)
  | .sucTest die _ => decide (die < 8)
  | .remoteRunRequest _ => true
  | .leafArrival _ => true
  | .leafGroupWaitExpiry => true
  | .keeperApply => true
  | .tstage q => cmeQueue q
  | .tflip q => cmeQueue q
  | .toffline q => cmeQueue q
  | .tonline q => cmeQueue q
  | .oldVersionRelease part table version => decide (part < 0xFFFF) && decide (table < 0x10000) && decide (version < 2 ^ 32)
  | .uopen q => cmeQueue q
  | .uclose c => cmeQueue c.queue
  | .vote q => cmeQueue q
  | .voteReceive _ => true
  | .voteLimitExpiry => true
  | .decisionFinal part => decide (part < 0xFFFF)
  | .decisionReceive _ => true
  | .unitApplyDone => true
  | .leaderTakeover _ => true
  | .minorityRefetch slot step _ => decide (slot < 4096) && decide (step < 2 ^ 32)
  | .resolve by_ => by_.wf
  | .freezeLimitExpiry => true
  | .unitResolution slot _ => decide (slot < 4096)
  | .exportShard q => cmeQueue q
  | .phase q => cmeQueue q
  | .phaseSwitch => true
  | .sentMarkerSend => true
  | .sentReceive part step => decide (part < 0xFFFF) && decide (step < 2 ^ 32)
  | .tempoDeadline => true
  | .lateSetReceive step _ _ => decide (step < 2 ^ 32)
  | .rread q _ => fxeQueue q
  | .rwrite q _ => fxeQueue q
  | .ratomic q _ => fxeQueue q
  | .remoteRequest _ => true
  | .redscat q _ => fxeQueue q
  | .allgather q _ => fxeQueue q
  | .collectiveTimeout q _ => fxeQueue q
  | .pull q _ => fxeQueue q
  | .pullLimitExpiry q _ => fxeQueue q
  | .flowctlOpen q => fxeQueue q
  | .flowctlClose q => fxeQueue q
  | .flowctlReset q => fxeQueue q
  | .mchangeJoin q => fxeQueue q
  | .mchangeLeave q => fxeQueue q
  | .mchangeRole q => fxeQueue q
  | .hallVoteDecision v _ => decide (v.part < 0xFFFF)
  | .hallChangeEffect => true
  | .memberHeartbeat => true
  | .memberLostTimeout part => decide (part < 0xFFFF)
  | .partPromotionRestore _ _ _ => true
  | .promotedReceive part _ => decide (part < 0xFFFF)
  | .resignReceive part => decide (part < 0xFFFF)
  | .dataReceive _ => true
  | .ackReceive _ => true
  | .statusReceive _ => true
  | .probeReceive _ => true
  | .frameReceive _ => true
  | .ackDelayExpiry flow => decide (flow < 4096)
  | .rtoExpiry flow _ => decide (flow < 4096)
  | .pathHoldExpiry flow path => decide (flow < 4096) && decide (path < 16)
  | .arpRequest port _ => decide (port < 32)
  | .neighbourSolicitation port _ => decide (port < 32)
  | .gatewayResolve port _ => decide (port < 32)
  | .pfcFrame port classes => decide (port < 32) && decide (classes < 256)
  | .portLinkDown port => decide (port < 32)
  | .portLinkUp port lanes => decide (port < 32) && decide (lanes < 256)
  | .portGroupFault group => decide (group < 8)
  | .helloReceive _ => true
  | .replyReceive _ => true
  | .finishReceive _ => true
  | .handshakeTimeout peer _ => decide (peer < 0xFFFF)
  | .rekey peer _ _ => decide (peer < 0xFFFF)
  | .sessionTxcLimit peer _ => decide (peer < 0xFFFF)
  | .beaconSend port => decide (port < 32)
  | .ptpSync _ _ _ => true
  | .ptpFollowUp _ _ => true
  | .ptpDelayResp _ _ => true
  | .ptpAnnounce _ _ => true
  | .ptpDelayReqSend _ => true
  | .ptpHoldoverEntry => true
  | .ppsEdge _ => true
  | .tick => true
  | .aonRefclkLoss => true
  | .lullEntry core => decide (core < 136)
  | .deepLullEntry core => decide (core < 136)
  | .coreWake core => decide (core < 136)
  | .perstNAssert _ => true
  | .perstNDeassert => true
  | .holdNLow _ => true
  | .holdTakeEffect => true
  | .holdNHigh _ => true
  | .holdLimitExpiry => true
  | .sidebandChatter input _ => decide (input < 3)
  | .sidebandAutoUnmask input => decide (input < 3)
  | .sbUnmask mask => decide (mask < 8)
  | .rotatingSelfTest core _ => decide (core < 136)
  | .coreRecoveryTestEnd core _ => decide (core < 136)
  | .spareTestEnd die _ => decide (die < 8)
  | .promotionComplete die => decide (die < 8)
  | .hoveToEntry c => decide (c.cause < 32)
  | .hoveEnter => true
  | .hoveRelease _ _ => true
  | .errRecordUnlock => true
  | .errRingReadAdvance _ => true
  | .staleRecordUnlock => true
  | .linkFlitCrcFail link _ => decide (link < 19)
  | .linkRetrainEnd link _ => decide (link < 19)
  | .ledgerRebuild c => decide (c < 2)
  | .patrolRead die _ => decide (die < 8)
  | .selfRefreshPatrolExit die => decide (die < 8)
  | .retune die channel => decide (die < 8) && decide (channel < 32)
  | .retuneEnd die channel _ => decide (die < 8) && decide (channel < 32)
  | .ceLimitExceeded die channel => decide (die < 8) && decide (channel < 32)
  | .channelDead die channel => decide (die < 8) && decide (channel < 32)
  | .evacuationDone die => decide (die < 8)
  | .retrainVerifyEnd die _ => decide (die < 8)
  | .copyBackDone die => decide (die < 8)
  | .throttleReading _ => true
  | .thermalTrip => true
  | .p12vLoss => true
  | .railFault _ => true
  | .p12vRestore _ _ _ => true
  | .p12vAbsentAtBoot => true
  | .p3v3AonLoss => true
  | .ethRefclkMissing iod => decide (iod < 2)
  | .pcieRefclkMissing => true
  | .powerOnReset _ _ _ => true
  | .hallContact _ => true
  | .hallFound => true
  | .qualify _ => true
  | .cfgWrite slot _ => decide (slot < 2)
  | .cfgErase slot => decide (slot < 2)
  | .jobLoad _ _ => true
  | .loadedReceive part _ => decide (part < 0xFFFF)
  | .jstart => true
  | .jstartTimeout => true
  | .jobStop => true
  | .jobUpdate _ _ => true
  | .jobUpdateApply => true
  | .activate slot _ => decide (slot < 2)
  | .configLiveApply => true
  | .retrain _ => true
  | .retireChan _ => true
  | .readapt _ => true
  | .groupOff _ => true
  | .groupOn _ => true
  | .promote _ => true
  | .retest _ _ => true
  | .liveOpStart => true
  | .hringTailSample => true
  | .hringNop ring => decide (ring < 64)
  | .hringQcmd ring => decide (ring < 64)
  | .hringFlagadd ring => decide (ring < 64)
  | .hringParam ring => decide (ring < 64)
  | .hringJob ring _ => decide (ring < 64)
  | .hringLive ring _ _ => decide (ring < 64)
  | .hringResume ring => decide (ring < 64)
  | .hringRetry ring => decide (ring < 64)
  | .hringStop ring => decide (ring < 64)
  | .memBarRead x _ => decide (x < 0x1000000000)
  | .memBarWrite x _ => decide (x < 0x1000000000)
  | .hostWinWrite _ => true
  | .ledgerWinWrite _ => true
  | .ledgerWindowRead x => decide (x < 0x100000)
  | .ledgerWindowWrite x _ => decide (x < 0x100000)
  | .regBarBadAccess off => decide (off < 0x4000000)
  | .registerWrite off _ => decide (off < 0x4000000)
  | .rcCounterRead off => decide (off < 0x4000000)
  | .interruptClaim target => decide (target < 139)
  | .interruptEoi target => decide (target < 139)
  | .pendingClear source => decide (source < 1024)
  | .msixMessage vector => decide (vector < 257)
  | .msixUnmask vector => decide (vector < 257)
  | .getVersion _ => true
  | .getCapabilities _ => true
  | .negotiateAlgorithms _ _ => true
  | .getDigests _ => true
  | .getCertificate _ _ _ => true
  | .challenge _ _ => true
  | .getMeasurements _ _ _ => true
  | .kemx _ _ => true
  | .pskExchange _ _ => true
  | .pskFinish _ _ => true
  | .keyUpdate _ => true
  | .heartbeat _ => true
  | .endSession _ => true
  | .ideKm _ _ => true
  | .ideIntegrityFail => true
  | .newChal => true
  | .dbgSubmit _ => true
  | .dbgClose => true
  | .fullDebugOpen => true
  | .trstNAssert => true
  | .idcode => true
  | .samplePreload _ => true
  | .extest _ => true
  | .clamp => true
  | .highz => true
  | .bypass => true
  | .jtagChallenge => true
  | .token _ _ => true
  | .dbgstatus => true
  | .muxsel _ => true
  | .ijtag _ => true
  | .bistctl _ => true
  | .tmSelWrite _ => true
  | .bistStart => true
  | .bistSessionEnd kind _ _ => decide (kind < 16)
  | .flowOpenTimeout q _ => fxeQueue q
  | .heartbeatReceive part _ => decide (part < 0xFFFF)
  | .voteRequestReceive r => decide (r.part < 0xFFFF) && decide (r.step < 2 ^ 32)
  | .hallVoteRequestReceive part _ => decide (part < 0xFFFF)
  | .portGroupRecoveryEnd group _ => decide (group < 8)
  | .slotProgrammingEnd => true
  | .pcieRefclkReturn => true

end Sys2Proof
end

