-- ==== Sys2Proof/Laws/PerInstr.lean ====
section
/-! SUPPORT. Facts about every command, one lemma for each constructor. -/

namespace Sys2Proof.Laws.Wf

/-- A well-formed command that is about a queue names a queue of the part (Table 5.3). -/
def Statement (i : Instr) : Prop := i.wf = true → ∀ q, i.queue? = some q → anyQueue q = true

theorem any_of_core {q : Nat} (h : coreQueue q = true) : anyQueue q = true := by simp [anyQueue, h]
theorem any_of_ringFed {q : Nat} (h : ringFedQueue q = true) : anyQueue q = true := by simp [anyQueue, h]
theorem any_of_any {q : Nat} (h : anyQueue q = true) : anyQueue q = true := h
theorem any_of_mxe {q : Nat} (h : mxeQueue q = true) : anyQueue q = true := any_of_core (Bool.and_eq_true_iff.mp h).1
theorem any_of_vxe {q : Nat} (h : vxeQueue q = true) : anyQueue q = true := any_of_core (Bool.and_eq_true_iff.mp h).1
theorem any_of_dma {q : Nat} (h : dmaQueue q = true) : anyQueue q = true := any_of_core (Bool.and_eq_true_iff.mp h).1
theorem any_of_control {q : Nat} (h : controlQueue q = true) : anyQueue q = true := any_of_core (Bool.and_eq_true_iff.mp h).1
theorem any_of_lke {q : Nat} (h : lkeQueue q = true) : anyQueue q = true := any_of_ringFed (by simp [ringFedQueue, h])
theorem any_of_fxe {q : Nat} (h : fxeQueue q = true) : anyQueue q = true := any_of_ringFed (by simp [ringFedQueue, h])
theorem any_of_cme {q : Nat} (h : cmeQueue q = true) : anyQueue q = true := any_of_ringFed (by simp [ringFedQueue, h])

/-- A command about a queue: its well-formedness gives the queue's. -/
theorem of_queue {i : Instr} {q : Nat} (hq : i.queue? = some q) (h : i.wf = true → anyQueue q = true) : Statement i := by
  intro hw r hr
  rw [hq, Option.some.injEq] at hr
  exact hr ▸ h hw

/-- A RESOLVE is about its entry's queue. -/
theorem resolver : (r : Resolver) → Statement (.resolve r)
  | .entry q => of_queue rfl any_of_cme
  | .member _ _ _ _ => by intro _ q hq; simp [Instr.queue?, Resolver.queue?] at hq

/-- A command about no queue. -/
theorem of_none {i : Instr} (hq : i.queue? = none) : Statement i := by
  intro _ r hr
  simp [hq] at hr

theorem mmul (q : Nat) : Statement (.mmul q) := of_queue rfl any_of_mxe
theorem mtest (q : Nat) (pass : TestPass) : Statement (.mtest q pass) := of_queue rfl any_of_mxe
theorem residueMismatch (core : Nat) (pass : Nat) : Statement (.residueMismatch core pass) := of_none rfl
theorem residueRetryEnd (core : Nat) (ok : Bool) : Statement (.residueRetryEnd core ok) := of_none rfl
theorem eprog (q : Nat) (bad : List (Nat × Bool)) : Statement (.eprog q bad) := of_queue rfl any_of_vxe
theorem cvt (q : Nat) (bad : List (Nat × Bool)) : Statement (.cvt q bad) := of_queue rfl any_of_vxe
theorem drun (q : Nat) (mismatch : Bool) : Statement (.drun q mismatch) := of_queue rfl any_of_vxe
theorem vtest (q : Nat) (pass : TestPass) : Statement (.vtest q pass) := of_queue rfl any_of_vxe
theorem vxeModeChange (core : Nat) : Statement (.vxeModeChange core) := of_none rfl
theorem nop (q : Nat) : Statement (.nop q) := of_queue rfl any_of_any
theorem replay (q : Nat) : Statement (.replay q) := of_queue rfl any_of_any
theorem pset (q : Nat) : Statement (.pset q) := of_queue rfl any_of_any
theorem jump (q : Nat) : Statement (.jump q) := of_queue rfl any_of_any
theorem endEntry (q : Nat) : Statement (.endEntry q) := of_queue rfl any_of_any
theorem flagadd (q : Nat) : Statement (.flagadd q) := of_queue rfl any_of_control
theorem pcopy (q : Nat) : Statement (.pcopy q) := of_queue rfl any_of_control
theorem copy (q : Nat) : Statement (.copy q) := of_queue rfl any_of_dma
theorem fill (q : Nat) : Statement (.fill q) := of_queue rfl any_of_dma
theorem entryStart (q : Nat) : Statement (.entryStart q) := of_queue rfl any_of_any
theorem entryCompletion (q : Nat) (id : Nat) : Statement (.entryCompletion q id) := of_queue rfl any_of_any
theorem ringEntryTake (q : Nat) : Statement (.ringEntryTake q) := of_queue rfl any_of_ringFed
theorem go (q : Nat) (who : Sender) : Statement (.go q who) := of_queue rfl any_of_any
theorem resume (q : Nat) (who : Sender) : Statement (.resume q who) := of_queue rfl any_of_any
theorem retry (q : Nat) (who : Sender) : Statement (.retry q who) := of_queue rfl any_of_any
theorem abortEntry (q : Nat) (who : Sender) : Statement (.abortEntry q who) := of_queue rfl any_of_any
theorem stop (q : Nat) (who : Sender) : Statement (.stop q who) := of_queue rfl any_of_any
theorem stalemateScan : Statement (.stalemateScan) := of_none rfl
theorem stalemateHold : Statement (.stalemateHold) := of_none rfl
theorem paramWrite (q : Nat) (m : Nat) (value : Word) : Statement (.paramWrite q m value) := of_queue rfl fun h => any_of_any (Bool.and_eq_true_iff.mp h).1
theorem ringRegisterWrite (off : Nat) (value : Word) : Statement (.ringRegisterWrite off value) := of_none rfl
theorem lookup (q : Nat) (replies : List RunReply) : Statement (.lookup q replies) := of_queue rfl any_of_lke
theorem scatter (q : Nat) (acked : LeafAcks) (stale : Bool) : Statement (.scatter q acked stale) := of_queue rfl any_of_lke
theorem hrefresh (q : Nat) : Statement (.hrefresh q) := of_queue rfl any_of_lke
theorem migrationFlip (done : List Nat) (faulted : List Nat) : Statement (.migrationFlip done faulted) := of_none rfl
theorem atomic (q : Nat) : Statement (.atomic q) := of_queue rfl any_of_lke
theorem gopen (q : Nat) : Statement (.gopen q) := of_queue rfl any_of_lke
theorem gclose (q : Nat) (mismatch : Option Nat) : Statement (.gclose q mismatch) := of_queue rfl fun h => any_of_lke (Bool.and_eq_true_iff.mp h).1
theorem gadd (die : Nat) (node : Node) : Statement (.gadd die node) := of_none rfl
theorem sucAtomic (req : AtomicReq) : Statement (.sucAtomic req) := of_none rfl
theorem sucMismatch (die : Nat) (again : Bool) (victim : SucVictim) : Statement (.sucMismatch die again victim) := of_none rfl
theorem sucTest (die : Nat) (pass : TestPass) : Statement (.sucTest die pass) := of_none rfl
theorem remoteRunRequest (run : RunRequest) : Statement (.remoteRunRequest run) := of_none rfl
theorem leafArrival (leaf : Leaf) : Statement (.leafArrival leaf) := of_none rfl
theorem leafGroupWaitExpiry : Statement (.leafGroupWaitExpiry) := of_none rfl
theorem keeperApply : Statement (.keeperApply) := of_none rfl
theorem tstage (q : Nat) : Statement (.tstage q) := of_queue rfl any_of_cme
theorem tflip (q : Nat) : Statement (.tflip q) := of_queue rfl any_of_cme
theorem toffline (q : Nat) : Statement (.toffline q) := of_queue rfl any_of_cme
theorem tonline (q : Nat) : Statement (.tonline q) := of_queue rfl any_of_cme
theorem oldVersionRelease (part : Nat) (table : Nat) (version : Nat) : Statement (.oldVersionRelease part table version) := of_none rfl
theorem uopen (q : Nat) : Statement (.uopen q) := of_queue rfl any_of_cme
theorem uclose (c : Closing) : Statement (.uclose c) := of_queue rfl any_of_cme
theorem vote (q : Nat) : Statement (.vote q) := of_queue rfl any_of_cme
theorem voteReceive (m : VoteMsg) : Statement (.voteReceive m) := of_none rfl
theorem voteLimitExpiry : Statement (.voteLimitExpiry) := of_none rfl
theorem decisionFinal (part : Nat) : Statement (.decisionFinal part) := of_none rfl
theorem decisionReceive (d : DecisionMsg) : Statement (.decisionReceive d) := of_none rfl
theorem unitApplyDone : Statement (.unitApplyDone) := of_none rfl
theorem leaderTakeover (held : Option Decision) : Statement (.leaderTakeover held) := of_none rfl
theorem minorityRefetch (slot : Nat) (step : Nat) (rows : List (Nat × List (List Byte))) : Statement (.minorityRefetch slot step rows) := of_none rfl
theorem resolve (by_ : Resolver) : Statement (.resolve by_) := resolver by_
theorem freezeLimitExpiry : Statement (.freezeLimitExpiry) := of_none rfl
theorem unitResolution (slot : Nat) (committee : Option (Option Outcome)) : Statement (.unitResolution slot committee) := of_none rfl
theorem exportShard (q : Nat) : Statement (.exportShard q) := of_queue rfl any_of_cme
theorem phase (q : Nat) : Statement (.phase q) := of_queue rfl any_of_cme
theorem phaseSwitch : Statement (.phaseSwitch) := of_none rfl
theorem sentMarkerSend : Statement (.sentMarkerSend) := of_none rfl
theorem sentReceive (part : Nat) (step : Nat) : Statement (.sentReceive part step) := of_none rfl
theorem tempoDeadline : Statement (.tempoDeadline) := of_none rfl
theorem lateSetReceive (step : Nat) (late : List Nat) (stale : List Nat) : Statement (.lateSetReceive step late stale) := of_none rfl
theorem rread (q : Nat) (reply : RemoteReply) : Statement (.rread q reply) := of_queue rfl any_of_fxe
theorem rwrite (q : Nat) (reply : RemoteReply) : Statement (.rwrite q reply) := of_queue rfl any_of_fxe
theorem ratomic (q : Nat) (reply : RemoteReply) : Statement (.ratomic q reply) := of_queue rfl any_of_fxe
theorem remoteRequest (req : RemoteReq) : Statement (.remoteRequest req) := of_none rfl
theorem redscat (q : Nat) (arrivals : List TreeNode) : Statement (.redscat q arrivals) := of_queue rfl any_of_fxe
theorem allgather (q : Nat) (chunks : List TreeNode) : Statement (.allgather q chunks) := of_queue rfl any_of_fxe
theorem collectiveTimeout (q : Nat) (id : Nat) : Statement (.collectiveTimeout q id) := of_queue rfl any_of_fxe
theorem pull (q : Nat) (reply : Option RemoteReply) : Statement (.pull q reply) := of_queue rfl any_of_fxe
theorem pullLimitExpiry (q : Nat) (id : Nat) : Statement (.pullLimitExpiry q id) := of_queue rfl any_of_fxe
theorem flowctlOpen (q : Nat) : Statement (.flowctlOpen q) := of_queue rfl any_of_fxe
theorem flowctlClose (q : Nat) : Statement (.flowctlClose q) := of_queue rfl any_of_fxe
theorem flowctlReset (q : Nat) : Statement (.flowctlReset q) := of_queue rfl any_of_fxe
theorem mchangeJoin (q : Nat) : Statement (.mchangeJoin q) := of_queue rfl any_of_fxe
theorem mchangeLeave (q : Nat) : Statement (.mchangeLeave q) := of_queue rfl any_of_fxe
theorem mchangeRole (q : Nat) : Statement (.mchangeRole q) := of_queue rfl any_of_fxe
theorem hallVoteDecision (v : HallVote) (accepted : Bool) : Statement (.hallVoteDecision v accepted) := of_none rfl
theorem hallChangeEffect : Statement (.hallChangeEffect) := of_none rfl
theorem memberHeartbeat : Statement (.memberHeartbeat) := of_none rfl
theorem memberLostTimeout (part : Nat) : Statement (.memberLostTimeout part) := of_none rfl
theorem partPromotionRestore (ok : Bool) (shards : List RestoredShard) (rows : List (Nat × List Byte)) : Statement (.partPromotionRestore ok shards rows) := of_none rfl
theorem promotedReceive (part : Nat) (mark : PromotedMark) : Statement (.promotedReceive part mark) := of_none rfl
theorem resignReceive (part : Nat) : Statement (.resignReceive part) := of_none rfl
theorem dataReceive (p : Pkt) : Statement (.dataReceive p) := of_none rfl
theorem ackReceive (p : Pkt) : Statement (.ackReceive p) := of_none rfl
theorem statusReceive (p : Pkt) : Statement (.statusReceive p) := of_none rfl
theorem probeReceive (p : Pkt) : Statement (.probeReceive p) := of_none rfl
theorem frameReceive (f : Frame) : Statement (.frameReceive f) := of_none rfl
theorem ackDelayExpiry (flow : Nat) : Statement (.ackDelayExpiry flow) := of_none rfl
theorem rtoExpiry (flow : Nat) (psn : Nat) : Statement (.rtoExpiry flow psn) := of_none rfl
theorem pathHoldExpiry (flow : Nat) (path : Nat) : Statement (.pathHoldExpiry flow path) := of_none rfl
theorem arpRequest (port : Nat) (target : Nat) : Statement (.arpRequest port target) := of_none rfl
theorem neighbourSolicitation (port : Nat) (target : Nat) : Statement (.neighbourSolicitation port target) := of_none rfl
theorem gatewayResolve (port : Nat) (mac : Option Nat) : Statement (.gatewayResolve port mac) := of_none rfl
theorem pfcFrame (port : Nat) (classes : Nat) : Statement (.pfcFrame port classes) := of_none rfl
theorem portLinkDown (port : Nat) : Statement (.portLinkDown port) := of_none rfl
theorem portLinkUp (port : Nat) (lanes : Nat) : Statement (.portLinkUp port lanes) := of_none rfl
theorem portGroupFault (group : Nat) : Statement (.portGroupFault group) := of_none rfl
theorem helloReceive (h : Handshake) : Statement (.helloReceive h) := of_none rfl
theorem replyReceive (h : Handshake) : Statement (.replyReceive h) := of_none rfl
theorem finishReceive (h : Handshake) : Statement (.finishReceive h) := of_none rfl
theorem handshakeTimeout (peer : Nat) (feeder : Bool) : Statement (.handshakeTimeout peer feeder) := of_none rfl
theorem rekey (peer : Nat) (feeder : Bool) (ok : Bool) : Statement (.rekey peer feeder ok) := of_none rfl
theorem sessionTxcLimit (peer : Nat) (feeder : Bool) : Statement (.sessionTxcLimit peer feeder) := of_none rfl
theorem beaconSend (port : Nat) : Statement (.beaconSend port) := of_none rfl
theorem ptpSync (source : Nat) (offset : Int) (twoStep : Bool) : Statement (.ptpSync source offset twoStep) := of_none rfl
theorem ptpFollowUp (source : Nat) (offset : Int) : Statement (.ptpFollowUp source offset) := of_none rfl
theorem ptpDelayResp (source : Nat) (delay : Int) : Statement (.ptpDelayResp source delay) := of_none rfl
theorem ptpAnnounce (source : Nat) (message : Announce) : Statement (.ptpAnnounce source message) := of_none rfl
theorem ptpDelayReqSend (source : Nat) : Statement (.ptpDelayReqSend source) := of_none rfl
theorem ptpHoldoverEntry : Statement (.ptpHoldoverEntry) := of_none rfl
theorem ppsEdge (error : Int) : Statement (.ppsEdge error) := of_none rfl
theorem tick : Statement (.tick) := of_none rfl
theorem aonRefclkLoss : Statement (.aonRefclkLoss) := of_none rfl
theorem lullEntry (core : Nat) : Statement (.lullEntry core) := of_none rfl
theorem deepLullEntry (core : Nat) : Statement (.deepLullEntry core) := of_none rfl
theorem coreWake (core : Nat) : Statement (.coreWake core) := of_none rfl
theorem perstNAssert (ticks : Nat) : Statement (.perstNAssert ticks) := of_none rfl
theorem perstNDeassert : Statement (.perstNDeassert) := of_none rfl
theorem holdNLow (ticks : Nat) : Statement (.holdNLow ticks) := of_none rfl
theorem holdTakeEffect : Statement (.holdTakeEffect) := of_none rfl
theorem holdNHigh (ticks : Nat) : Statement (.holdNHigh ticks) := of_none rfl
theorem holdLimitExpiry : Statement (.holdLimitExpiry) := of_none rfl
theorem sidebandChatter (input : Nat) (transitions : Nat) : Statement (.sidebandChatter input transitions) := of_none rfl
theorem sidebandAutoUnmask (input : Nat) : Statement (.sidebandAutoUnmask input) := of_none rfl
theorem sbUnmask (mask : Nat) : Statement (.sbUnmask mask) := of_none rfl
theorem rotatingSelfTest (core : Nat) (pass : TestPass) : Statement (.rotatingSelfTest core pass) := of_none rfl
theorem coreRecoveryTestEnd (core : Nat) (pass : TestPass) : Statement (.coreRecoveryTestEnd core pass) := of_none rfl
theorem spareTestEnd (die : Nat) (pass : TestPass) : Statement (.spareTestEnd die pass) := of_none rfl
theorem promotionComplete (die : Nat) : Statement (.promotionComplete die) := of_none rfl
theorem hoveToEntry (cause : HoveCause) : Statement (.hoveToEntry cause) := of_none rfl
theorem hoveEnter : Statement (.hoveEnter) := of_none rfl
theorem hoveRelease (who : Sender) (cmeTest : TestPass) : Statement (.hoveRelease who cmeTest) := of_none rfl
theorem errRecordUnlock : Statement (.errRecordUnlock) := of_none rfl
theorem errRingReadAdvance (read : Nat) : Statement (.errRingReadAdvance read) := of_none rfl
theorem staleRecordUnlock : Statement (.staleRecordUnlock) := of_none rfl
theorem linkFlitCrcFail (link : Nat) (replayOk : Bool) : Statement (.linkFlitCrcFail link replayOk) := of_none rfl
theorem linkRetrainEnd (link : Nat) (pass : TestPass) : Statement (.linkRetrainEnd link pass) := of_none rfl
theorem ledgerRebuild (copy : Nat) : Statement (.ledgerRebuild copy) := of_none rfl
theorem patrolRead (die : Nat) (memory : Nat) : Statement (.patrolRead die memory) := of_none rfl
theorem selfRefreshPatrolExit (die : Nat) : Statement (.selfRefreshPatrolExit die) := of_none rfl
theorem retune (die : Nat) (channel : Nat) : Statement (.retune die channel) := of_none rfl
theorem retuneEnd (die : Nat) (channel : Nat) (margin : Nat) : Statement (.retuneEnd die channel margin) := of_none rfl
theorem ceLimitExceeded (die : Nat) (channel : Nat) : Statement (.ceLimitExceeded die channel) := of_none rfl
theorem channelDead (die : Nat) (channel : Nat) : Statement (.channelDead die channel) := of_none rfl
theorem evacuationDone (die : Nat) : Statement (.evacuationDone die) := of_none rfl
theorem retrainVerifyEnd (die : Nat) (pass : TestPass) : Statement (.retrainVerifyEnd die pass) := of_none rfl
theorem copyBackDone (die : Nat) : Statement (.copyBackDone die) := of_none rfl
theorem throttleReading (r : Reading) : Statement (.throttleReading r) := of_none rfl
theorem thermalTrip : Statement (.thermalTrip) := of_none rfl
theorem p12vLoss : Statement (.p12vLoss) := of_none rfl
theorem railFault (rail : Nat) : Statement (.railFault rail) := of_none rfl
theorem p12vRestore (a : Option ImageVerdict) (b : Option ImageVerdict) (failed : List Nat) : Statement (.p12vRestore a b failed) := of_none rfl
theorem p12vAbsentAtBoot : Statement (.p12vAbsentAtBoot) := of_none rfl
theorem p3v3AonLoss : Statement (.p3v3AonLoss) := of_none rfl
theorem ethRefclkMissing (iod : Nat) : Statement (.ethRefclkMissing iod) := of_none rfl
theorem pcieRefclkMissing : Statement (.pcieRefclkMissing) := of_none rfl
theorem powerOnReset (a : Option ImageVerdict) (b : Option ImageVerdict) (failed : List Nat) : Statement (.powerOnReset a b failed) := of_none rfl
theorem hallContact (answer : Option Nat) : Statement (.hallContact answer) := of_none rfl
theorem hallFound : Statement (.hallFound) := of_none rfl
theorem qualify (found : Findings) : Statement (.qualify found) := of_none rfl
theorem cfgWrite (slot : Nat) (v : ImageVerdict) : Statement (.cfgWrite slot v) := of_none rfl
theorem cfgErase (slot : Nat) : Statement (.cfgErase slot) := of_none rfl
theorem jobLoad (v : ImageVerdict) (reply : RemoteReply) : Statement (.jobLoad v reply) := of_none rfl
theorem loadedReceive (part : Nat) (mark : LoadedMark) : Statement (.loadedReceive part mark) := of_none rfl
theorem jstart : Statement (.jstart) := of_none rfl
theorem jstartTimeout : Statement (.jstartTimeout) := of_none rfl
theorem jobStop : Statement (.jobStop) := of_none rfl
theorem jobUpdate (v : ImageVerdict) (reply : RemoteReply) : Statement (.jobUpdate v reply) := of_none rfl
theorem jobUpdateApply : Statement (.jobUpdateApply) := of_none rfl
theorem activate (slot : Nat) (v : ImageVerdict) : Statement (.activate slot v) := of_none rfl
theorem configLiveApply : Statement (.configLiveApply) := of_none rfl
theorem retrain (arg : Nat) : Statement (.retrain arg) := of_none rfl
theorem retireChan (arg : Nat) : Statement (.retireChan arg) := of_none rfl
theorem readapt (arg : Nat) : Statement (.readapt arg) := of_none rfl
theorem groupOff (arg : Nat) : Statement (.groupOff arg) := of_none rfl
theorem groupOn (arg : Nat) : Statement (.groupOn arg) := of_none rfl
theorem promote (arg : Nat) : Statement (.promote arg) := of_none rfl
theorem retest (arg : Nat) (pass : TestPass) : Statement (.retest arg pass) := of_none rfl
theorem liveOpStart : Statement (.liveOpStart) := of_none rfl
theorem hringTailSample : Statement (.hringTailSample) := of_none rfl
theorem hringNop (ring : Nat) : Statement (.hringNop ring) := of_none rfl
theorem hringQcmd (ring : Nat) : Statement (.hringQcmd ring) := of_none rfl
theorem hringFlagadd (ring : Nat) : Statement (.hringFlagadd ring) := of_none rfl
theorem hringParam (ring : Nat) : Statement (.hringParam ring) := of_none rfl
theorem hringJob (ring : Nat) (v : ImageVerdict) : Statement (.hringJob ring v) := of_none rfl
theorem hringLive (ring : Nat) (v : ImageVerdict) (pass : TestPass) : Statement (.hringLive ring v pass) := of_none rfl
theorem hringResume (ring : Nat) : Statement (.hringResume ring) := of_none rfl
theorem hringRetry (ring : Nat) : Statement (.hringRetry ring) := of_none rfl
theorem hringStop (ring : Nat) : Statement (.hringStop ring) := of_none rfl
theorem memBarRead (x : Nat) (len : Nat) : Statement (.memBarRead x len) := of_none rfl
theorem memBarWrite (x : Nat) (data : List Byte) : Statement (.memBarWrite x data) := of_none rfl
theorem hostWinWrite (value : Word) : Statement (.hostWinWrite value) := of_none rfl
theorem ledgerWinWrite (value : Word) : Statement (.ledgerWinWrite value) := of_none rfl
theorem ledgerWindowRead (x : Nat) : Statement (.ledgerWindowRead x) := of_none rfl
theorem ledgerWindowWrite (x : Nat) (value : Word) : Statement (.ledgerWindowWrite x value) := of_none rfl
theorem regBarBadAccess (off : Nat) : Statement (.regBarBadAccess off) := of_none rfl
theorem registerWrite (off : Nat) (value : Word) : Statement (.registerWrite off value) := of_none rfl
theorem rcCounterRead (off : Nat) : Statement (.rcCounterRead off) := of_none rfl
theorem interruptClaim (target : Nat) : Statement (.interruptClaim target) := of_none rfl
theorem interruptEoi (target : Nat) : Statement (.interruptEoi target) := of_none rfl
theorem pendingClear (source : Nat) : Statement (.pendingClear source) := of_none rfl
theorem msixMessage (vector : Nat) : Statement (.msixMessage vector) := of_none rfl
theorem msixUnmask (vector : Nat) : Statement (.msixUnmask vector) := of_none rfl
theorem getVersion (t : Transport) : Statement (.getVersion t) := of_none rfl
theorem getCapabilities (t : Transport) : Statement (.getCapabilities t) := of_none rfl
theorem negotiateAlgorithms (t : Transport) (acceptable : Bool) : Statement (.negotiateAlgorithms t acceptable) := of_none rfl
theorem getDigests (t : Transport) : Statement (.getDigests t) := of_none rfl
theorem getCertificate (t : Transport) (offset : Nat) (len : Nat) : Statement (.getCertificate t offset len) := of_none rfl
theorem challenge (t : Transport) (nonce : BitVec 256) : Statement (.challenge t nonce) := of_none rfl
theorem getMeasurements (t : Transport) (block : Nat) (nonce : BitVec 256) : Statement (.getMeasurements t block nonce) := of_none rfl
theorem kemx (t : Transport) (encapKey : List Byte) : Statement (.kemx t encapKey) := of_none rfl
theorem pskExchange (t : Transport) (context : List Byte) : Statement (.pskExchange t context) := of_none rfl
theorem pskFinish (t : Transport) (macOk : Bool) : Statement (.pskFinish t macOk) := of_none rfl
theorem keyUpdate (t : Transport) : Statement (.keyUpdate t) := of_none rfl
theorem heartbeat (t : Transport) : Statement (.heartbeat t) := of_none rfl
theorem endSession (t : Transport) : Statement (.endSession t) := of_none rfl
theorem ideKm (t : Transport) (go : Bool) : Statement (.ideKm t go) := of_none rfl
theorem ideIntegrityFail : Statement (.ideIntegrityFail) := of_none rfl
theorem newChal : Statement (.newChal) := of_none rfl
theorem dbgSubmit (sigOk : Bool) : Statement (.dbgSubmit sigOk) := of_none rfl
theorem dbgClose : Statement (.dbgClose) := of_none rfl
theorem fullDebugOpen : Statement (.fullDebugOpen) := of_none rfl
theorem trstNAssert : Statement (.trstNAssert) := of_none rfl
theorem idcode : Statement (.idcode) := of_none rfl
theorem samplePreload (pins : Nat) : Statement (.samplePreload pins) := of_none rfl
theorem extest (boundary : Nat) : Statement (.extest boundary) := of_none rfl
theorem clamp : Statement (.clamp) := of_none rfl
theorem highz : Statement (.highz) := of_none rfl
theorem bypass : Statement (.bypass) := of_none rfl
theorem jtagChallenge : Statement (.jtagChallenge) := of_none rfl
theorem token (bytes : List Byte) (sigOk : Bool) : Statement (.token bytes sigOk) := of_none rfl
theorem dbgstatus : Statement (.dbgstatus) := of_none rfl
theorem muxsel (value : Word) : Statement (.muxsel value) := of_none rfl
theorem ijtag (bits : List Bool) : Statement (.ijtag bits) := of_none rfl
theorem bistctl (value : Word) : Statement (.bistctl value) := of_none rfl
theorem tmSelWrite (value : Word) : Statement (.tmSelWrite value) := of_none rfl
theorem bistStart : Statement (.bistStart) := of_none rfl
theorem bistSessionEnd (kind : Nat) (target : Nat) (ok : Bool) : Statement (.bistSessionEnd kind target ok) := of_none rfl
theorem flowOpenTimeout (q : Nat) (id : Nat) : Statement (.flowOpenTimeout q id) := of_queue rfl any_of_fxe
theorem heartbeatReceive (part : Nat) (hove : Bool) : Statement (.heartbeatReceive part hove) := of_none rfl
theorem voteRequestReceive (r : VoteRequest) : Statement (.voteRequestReceive r) := of_none rfl
theorem hallVoteRequestReceive (part : Nat) (cmd : HallCmd) : Statement (.hallVoteRequestReceive part cmd) := of_none rfl
theorem portGroupRecoveryEnd (group : Nat) (ok : Bool) : Statement (.portGroupRecoveryEnd group ok) := of_none rfl
theorem slotProgrammingEnd : Statement (.slotProgrammingEnd) := of_none rfl
theorem pcieRefclkReturn : Statement (.pcieRefclkReturn) := of_none rfl

end Sys2Proof.Laws.Wf
end

