-- ==== Sys2Proof/Tests/Slice0.lean ====
section
/-! SUPPORT. Tests: ill-formed commands that each check of WellFormed refuses, witnesses that the hypotheses of the statements can be met, and single steps on small states whose results are worked out from the rules named. -/

namespace Sys2Proof.Tests

open Sys2Proof Sys2Proof.Machine

set_option Elab.async false

/-! ### Ill-formed commands -/

theorem test_wf_refuses_1 : ([.mmul 1, .mtest 1 false, .residueMismatch 136 0, .residueRetryEnd 136 false, .eprog 0 [], .cvt 0 [], .drun 0 false, .vtest 0 false, .vxeModeChange 136, .nop 0x444, .replay 0x444, .pset 0x444, .jump 0x444, .endEntry 0x444, .flagadd 0, .pcopy 0, .copy 0, .fill 0, .entryStart 0x444, .entryCompletion 0x444 0, .ringEntryTake 0, .go 0x444 default, .resume 0x444 default, .retry 0x444 default] : List Instr).all (fun i => !i.wf) = true := by decide

theorem test_wf_refuses_2 : ([.abortEntry 0x444 default, .stop 0x444 default, .paramWrite 0 64 0, .paramWrite 0x444 0 0, .ringRegisterWrite 0x4000000 0, .lookup 0 [], .scatter 0 default false, .hrefresh 0, .atomic 0, .gopen 0, .gclose 0 none, .gadd 8 default, .sucMismatch 8 false default, .sucTest 8 false, .tstage 0, .tflip 0, .toffline 0, .tonline 0, .oldVersionRelease 0xFFFF 0 0, .oldVersionRelease 0 0x10000 0, .oldVersionRelease 0 0 (2 ^ 32), .uopen 0, .vote 0, .decisionFinal 0xFFFF] : List Instr).all (fun i => !i.wf) = true := by decide

theorem test_wf_refuses_3 : ([.minorityRefetch 4096 0 [], .minorityRefetch 0 (2 ^ 32) [], .unitResolution 4096 none, .exportShard 0, .phase 0, .sentReceive 0xFFFF 0, .sentReceive 0 (2 ^ 32), .lateSetReceive (2 ^ 32) [] [], .rread 0 default, .rwrite 0 default, .ratomic 0 default, .redscat 0 [], .allgather 0 [], .collectiveTimeout 0 0, .pull 0 none, .pullLimitExpiry 0 0, .flowctlOpen 0, .flowctlClose 0, .flowctlReset 0, .mchangeJoin 0, .mchangeLeave 0, .mchangeRole 0, .memberLostTimeout 0xFFFF, .promotedReceive 0xFFFF default] : List Instr).all (fun i => !i.wf) = true := by decide

theorem test_wf_refuses_4 : ([.resignReceive 0xFFFF, .ackDelayExpiry 4096, .rtoExpiry 4096 0, .pathHoldExpiry 4096 0, .pathHoldExpiry 0 16, .arpRequest 32 0, .neighbourSolicitation 32 0, .gatewayResolve 32 none, .pfcFrame 32 0, .pfcFrame 0 256, .portLinkDown 32, .portLinkUp 32 0, .portLinkUp 0 256, .portGroupFault 8, .handshakeTimeout 0xFFFF false, .rekey 0xFFFF false false, .sessionTxcLimit 0xFFFF false, .beaconSend 32, .lullEntry 136, .deepLullEntry 136, .coreWake 136, .sidebandChatter 3 0, .sidebandAutoUnmask 3, .sbUnmask 8] : List Instr).all (fun i => !i.wf) = true := by decide

theorem test_wf_refuses_5 : ([.rotatingSelfTest 136 false, .coreRecoveryTestEnd 136 false, .spareTestEnd 8 false, .promotionComplete 8, .linkFlitCrcFail 19 false, .linkRetrainEnd 19 false, .ledgerRebuild 2, .patrolRead 8 0, .selfRefreshPatrolExit 8, .retune 8 0, .retune 0 32, .retuneEnd 8 0 0, .retuneEnd 0 32 0, .ceLimitExceeded 8 0, .ceLimitExceeded 0 32, .channelDead 8 0, .channelDead 0 32, .evacuationDone 8, .retrainVerifyEnd 8 false, .copyBackDone 8, .ethRefclkMissing 2, .cfgWrite 2 default, .cfgErase 2, .loadedReceive 0xFFFF default] : List Instr).all (fun i => !i.wf) = true := by decide

theorem test_wf_refuses_6 : ([.activate 2 default, .hringNop 64, .hringQcmd 64, .hringFlagadd 64, .hringParam 64, .hringJob 64 default, .hringLive 64 default false, .hringResume 64, .hringRetry 64, .hringStop 64, .memBarRead 0x1000000000 0, .memBarWrite 0x1000000000 [], .ledgerWindowRead 0x100000, .ledgerWindowWrite 0x100000 0, .regBarBadAccess 0x4000000, .registerWrite 0x4000000 0, .rcCounterRead 0x4000000, .interruptClaim 139, .interruptEoi 139, .pendingClear 1024, .msixMessage 257, .msixUnmask 257, .bistSessionEnd 16 0 false, .flowOpenTimeout 0 0] : List Instr).all (fun i => !i.wf) = true := by decide

theorem test_wf_refuses_7 : ([.heartbeatReceive 0xFFFF false, .hallVoteRequestReceive 0xFFFF default, .portGroupRecoveryEnd 8 false, .hoveToEntry ⟨32, true⟩] : List Instr).all (fun i => !i.wf) = true := by decide

theorem test_wf_refuses_operands :
    ([.uclose ⟨0, false⟩, .hallVoteDecision ⟨0xFFFF, default, 0⟩ false, .voteRequestReceive ⟨0xFFFF, 0⟩, .voteRequestReceive ⟨0, 2 ^ 32⟩,
      .gclose 0x44 (some 8), .resolve (.entry 0x444), .resolve (.member 0xFFFF 0 0 false), .resolve (.member 0 (2 ^ 32) 0 false), .resolve (.member 0 0 4 false)] :
      List Instr).all (fun i => !i.wf) = true := by decide

/-! ### The hypotheses of the statements can be met -/

/-- An entry in execution on a queue: its opcode in bits [255:248] and the rest of its bits. -/
def entryOn (q op body : Nat) (stage : Nat := 0) : Exec :=
  { id := 0, q := q, entry := BitVec.ofNat 256 (op * 2 ^ 248 + body), pos := 0, iter := 0, params := List.replicate 64 0, start := 0,
    pin := none, units := [], retried := false, result := none, stage := stage }

/-- The reset state with one entry in execution. -/
def withEntry (q op body : Nat) (stage : Nat := 0) : State := { State.reset with execs := [entryOn q op body stage] }

/-- The same with every parameter register at one address. -/
def entryAt (q op body addr : Nat) (stage : Nat := 0) : Exec :=
  { entryOn q op body stage with params := List.replicate 64 (BitVec.ofNat 64 addr) }

/-- SRAM byte 0 of the part as a hall address (R38, R39). -/
def sram0 : Nat := mkAddr 1 0

/-- The reset state with a descriptor of a U16w tile view in the first 32 bytes of SRAM, and one entry in execution whose parameters name it. -/
def withTile (q op body : Nat) : State :=
  { State.reset.setBytes .sram 0 (leBytes 32 (2 ^ 51)) with execs := [entryAt q op body sram0] }

theorem wit_CommandsLeaveQueueAndGradeAlone : ∃ t, exec .clamp State.reset = .next t := ⟨_, rfl⟩

theorem wit_StepKeepsStorageCanonical : Sys2Proof.Safety.Canonical State.reset ∧ step State.reset = .next State.reset := ⟨⟨rfl, rfl, rfl, rfl, rfl⟩, rfl⟩

theorem wit_StepRunsFront : ({ State.reset with pending := [.tick] } : State).pending = [.tick] := rfl

theorem wit_StepIdlesOnAnEmptyQueue : State.reset.pending = [] := rfl

theorem wit_SelfTestEntriesFileTheirVerdict :
    ((withEntry 0 0x2F 0).running 0 [0x2F] = some (entryOn 0 0x2F 0) ∧ zeroBits (entryOn 0 0x2F 0).entry [(191, 0)] = true) ∧
    ((withEntry 1 0x3F 0).running 1 [0x3F] = some (entryOn 1 0x3F 0) ∧ zeroBits (entryOn 1 0x3F 0).entry [(191, 0)] = true) := by decide

theorem wit_ResidueMismatchHoldsAPassAndItsRetryEndsIt :
    (withEntry (Sys2Proof.Machine.mxeQueue 0) 0x20 0).running (Sys2Proof.Machine.mxeQueue 0) [0x20] = some (entryOn (Sys2Proof.Machine.mxeQueue 0) 0x20 0) := by decide

theorem wit_BarrierAndFlagEntriesRun :
    (withEntry 3 0x00 0).running 3 [0x00] = some (entryOn 3 0x00 0) ∧ (withEntry 3 0x04 0).running 3 [0x04] = some (entryOn 3 0x04 0) ∧
    (withEntry 3 0x10 0).running 3 [0x10] = some (entryOn 3 0x10 0) ∧ (withEntry 3 0x10 0).earlier (entryOn 3 0x10 0) = [] ∧
    zeroBits (entryOn 3 0x00 0).entry [(191, 0)] = true ∧ zeroBits (entryOn 3 0x10 0).entry [(176, 176), (159, 0)] = true := by decide

theorem wit_ParameterAndJumpEntriesAct :
    ((withEntry 3 0x02 0).running 3 [0x02] = some (entryOn 3 0x02 0) ∧ zeroBits (entryOn 3 0x02 0).entry [(185, 64)] = true) ∧
    ((withEntry 0x400 0x03 0).running 0x400 [0x03] = some (entryOn 0x400 0x03 0) ∧ zeroBits (entryOn 0x400 0x03 0).entry [(180, 176), (159, 0)] = true ∧
      isCoreQueue 0x400 = false ∧ bitsOf (entryOn 0x400 0x03 0).entry 191 181 = 0) := by decide

theorem wit_CopyFillAndParameterCopyRun :
    (let s := withEntry 3 0x12 0xFFFF100000000000;
      let x := entryOn 3 0x12 0xFFFF100000000000;
      s.running 3 [0x12] = some x ∧ zeroBits x.entry [(177, 64)] = true ∧ bitsOf x.entry 189 184 + (bitsOf x.entry 183 178 + 1) ≤ 64 ∧
        (State.loadAt { s with seen := s.taken x } ⟨s.coreFor 3, [.sram], false⟩ (bitsOf x.entry 63 0) 8).2.isSome = true) ∧
    (let s := withTile 2 0x41 0;
      let x := entryAt 2 0x41 0 sram0;
      let p := State.readDesc { s with seen := s.taken x } (s.coreFor 2) sram0;
      let d := p.2.getD default;
      s.running 2 [0x41] = some x ∧ zeroBits x.entry [(191, 186), (179, 176), (159, 128), (63, 0)] = true ∧ p.2 = some d ∧
        (d.ok [0, 1, 2, 3] (some 1) && (!d.tile || decide (1 ≤ 64 ∧ 1 ≤ 64))) = true) ∧
    (let s := withTile 2 0x40 0;
      let x := entryAt 2 0x40 0 sram0;
      let r : Reach := ⟨s.coreFor 2, [.sram, .hbm], false⟩;
      let p1 := State.readDesc { s with seen := s.taken x } (s.coreFor 2) sram0;
      let d := p1.2.getD default;
      let p2 := p1.1.readDesc (s.coreFor 2) sram0;
      let v := p2.1.readView r d 1 (d.copyColumns 1);
      s.running 2 [0x40] = some x ∧ zeroBits x.entry [(172, 168), (159, 128), (63, 0)] = true ∧ bitOf x.entry 173 = false ∧ p1.2 = some d ∧ p2.2 = some d ∧
        (d.ok [0, 1, 2, 3] (some 1) && d.ok [0, 1, 2, 3] (some 1) && (!d.tile || decide (1 ≤ 64 ∧ 1 ≤ 64)) && (!d.tile || decide (1 ≤ 64 ∧ 1 ≤ 64))) = true ∧
        v.2.isSome = true ∧ (v.1.writeRows r d d.format 0 ((v.2.getD []).map (rawEncoded d.format))).2 = true) := by
  decide +kernel


theorem wit_MatrixProductReadsItsViewsAndRuns :
    let s := withTile 0 0x20 0
    let x := entryAt 0 0x20 0 sram0
    let b := mmulOf x.entry
    let r : Reach := ⟨s.coreFor 0, [.sram], false⟩
    let p1 := (State.showRun { s with seen := s.taken x } (coreOf 0) ((Fmt.ofCode b.fo).getD .u16w) 0).readDesc (s.coreFor 0) sram0
    let d := p1.2.getD default
    let p2 := p1.1.readDesc (s.coreFor 0) sram0
    let p3 := p2.1.readDesc (s.coreFor 0) sram0
    let v1 := p3.1.readView r d b.m b.k
    s.running 0 [0x20] = some x ∧ s.fb F.mxeStatusRetry (coreOf 0) = false ∧ zeroBits x.entry [(153, 152), (135, 128), (43, 0)] = true ∧
    p1.2 = some d ∧ p2.2 = some d ∧ p3.2 = some d ∧ mmulOk b (formatsOf (p3.1.f F.featFormatsMxeOut)) d d d = true ∧ p3.1.mmulLocal b sram0 d d d = true ∧
    v1.2.isSome = true ∧ (v1.1.readView r d b.n b.k).2.isSome = true := by decide +kernel

theorem wit_VectorConversionAndModeChangeRun :
    let s := withTile 1 0x33 0
    let x := entryAt 1 0x33 0 sram0
    let r : Reach := ⟨s.coreFor 1, [.sram], true⟩
    let p1 := State.readDesc { s with seen := s.taken x } (s.coreFor 1) sram0
    let d := p1.2.getD default
    let p2 := p1.1.readDesc (s.coreFor 1) sram0
    let v := p2.1.readView r d 1 1
    (s.running 1 [0x33] = some x ∧ zeroBits x.entry [(172, 168), (159, 128), (63, 0)] = true ∧ p1.2 = some d ∧ p2.2 = some d ∧
      (d.ok [0, 1, 2, 3] none && d.ok [0, 1, 2, 3] (some 1) && (!d.tile || decide (1 ≤ 64 ∧ (1 ≤ 64 ∨ d.epitch = 0))) && (!d.tile || decide (1 ≤ 64 ∧ 1 ≤ 64))) = true ∧
      v.2.isSome = true ∧ (v.1.groupChecks 1 [(0, true)]).2 = true) ∧
    (withEntry 1 0x01 0).execsOf (0 / 17 * 128 + 0 % 17 * 4 + 1) = [entryOn 1 0x01 0] ∧ opcodeOf (entryOn 1 0x01 0).entry < 0x10 ∧
    x ∈ s.execsOf (0 / 17 * 128 + 0 % 17 * 4 + 1) ∧ 0x10 ≤ opcodeOf x.entry := by decide +kernel

theorem wit_ElementProgramAndDirectBlockRun :
    let s := withTile 1 0x30 (2 ^ 139)
    let x := entryAt 1 0x30 (2 ^ 139) sram0
    let b := eprogOf x.entry
    let p1 := State.readDescs { s with seen := s.taken x } (s.coreFor 1) ((eprogDescRegs x.entry b).1.map x.param)
    let p2 := p1.1.readDescs (s.coreFor 1) ((eprogDescRegs x.entry b).2.map x.param)
    let p3 := p2.1.loadAt ⟨s.coreFor 1, [.sram], false⟩ sram0 (4 * b.plen)
    let prog := (chunksOf 4 b.plen (p3.2.getD [])).map fun w => microOf (leNat w)
    let p4 := p3.1.readInputs ⟨s.coreFor 1, [.sram], true⟩ b.m b.n (p1.2.getD [])
    (s.running 1 [0x30] = some x ∧ eprogFieldsOk x.entry b = true ∧ p1.2.isSome = true ∧ p2.2.isSome = true ∧ p3.2.isSome = true ∧
      eprogDescsOk b (p1.2.getD []) (p2.2.getD []) = true ∧ eprogLoadOk b (p1.2.getD []) (p2.2.getD []) prog = true ∧ p4.2.isSome = true ∧
      (p4.1.groupChecks 1 [(0, true)]).2 = true) ∧
    let u := { State.reset.setBytes .sram 7 [0x5F] with execs := [entryAt 1 0x31 0 sram0] }
    let y := entryAt 1 0x31 0 sram0
    let p := State.loadAt { u with seen := u.taken y } ⟨u.coreFor 1, [.sram, .hbm], false⟩ sram0 8
    let code := (chunksOf 8 1 (p.2.getD [])).map fun w => directOfWord (leNat w)
    let d : Drun := { s := p.1, regs := List.replicate 32 (List.replicate 16 0), pwr := [], w16 := {}, n16 := {}, faults := 0, wrote := [], nonfin := false }
    u.running 1 [0x31] = some y ∧ zeroBits y.entry [(149, 128), (95, 0)] = true ∧ bitsOf y.entry 175 174 ≠ 3 ∧ p.2.isSome = true ∧ blockOk code = true ∧
      (match (Drun.run (u.coreFor 1) 1 0 code 64 0 d).2 with | .done => true | _ => false) = true := by decide +kernel

/-- A REPLAY of one entry, once, with no patch. -/
def replay1 : Exec := entryOn 3 0x01 0

/-- Its queue, with a region of two entries. -/
def withReplay (base : Nat) : State := { State.reset.fset F.queueQRegionBase base 3 |>.fset F.queueQRegionSize 2 3 with execs := [replay1] }

theorem wit_ReplayBeginsAndEnds :
    (let s := withReplay 0;
      (s.queue 3).replay = none ∧ (s.queue 3).drains = [] ∧ (s.execsOf 3).find? (fun x => opcodeOf x.entry == 1 && x.result.isNone) = some replay1 ∧
      zeroBits replay1.entry [(146, 64)] = true ∧ bitsOf replay1.entry 167 163 = 0 ∧ isCoreQueue 3 = true ∧ (s.rangeOk 3 [1]).2 = true) ∧
    (let s := (withReplay 0).setQueue 3 { drains := [(0, 1, .ok)] };
      (s.queue 3).replay = none ∧ (s.queue 3).drains = [(0, 1, .ok)] ∧ s.execsOf 3 = [replay1] ∧ s.qState 3 ≠ qHalted ∧ (s.queue 3).retries 1 = false) := by decide +kernel

theorem wit_CopyAndFill :
    (let s := withTile 2 0x41 0;
      let d := (s.readDesc (s.coreFor 2) sram0).2.getD default;
      s.running 2 [0x41] = some (entryAt 2 0x41 0 sram0) ∧ (s.readDesc (s.coreFor 2) sram0).2.isSome = true ∧
        (d.ok [0, 1, 2, 3] (some 1)) = true) ∧
    (let s := withTile 2 0x40 0;
      s.running 2 [0x40] = some (entryAt 2 0x40 0 sram0) ∧ bitOf (entryAt 2 0x40 0 sram0).entry 173 = false) := by decide

/-- A core queue that is RUNNING, its region one entry long. -/
def runningQueue (q : Nat) : State := (State.reset.fset F.queueQStatusState qRunning q).fset F.queueQRegionSize 1 q

theorem wit_HeadEntryIsCheckedWaitsOrStarts :
    let s := runningQueue 3
    (qClass 3).isSome = true ∧ s.absent 3 = false ∧ s.inHove = false ∧ s.fullDebug = none ∧ (isCoreQueue 3 && s.sideband.holdActive) = false ∧
    s.awake 3 = true ∧ s.headBlocked 3 = false ∧ s.qState 3 = qRunning ∧ (((s.turnReplay 3).showHead 3).headOf 3).2 = some { pos := 0, entry := some 0 } ∧
    s.headFault 3 0 = none ∧ waitEn 0 = false ∧ (s.engineFree 3 0 (List.replicate 64 0) && s.replayCovered 3 0) = true ∧ (s.headFault 3 (-1)).isSome = true := by
  decide +kernel

/-- A ring-fed queue that is RUNNING with EN = 1 and entries waiting by its tail flag. -/
def ringQueue (waiting : Nat) : State :=
  ((State.reset.fset F.queueQStatusState qRunning 0x400).fset F.lkeRingNEn 1 0x400).flagAdd 0 0 waiting

theorem wit_EntryCompletesAndRingEntryIsTaken :
    (let x := { entryOn 3 0x00 0 with result := some (.ok, 0) };
      ({ State.reset with execs := [x] } : State).execs.find? (fun y => y.q == 3 && y.id == 0) = some x) ∧
    (let s := ringQueue 3;
      (qClass 0x400).isSome = true ∧ isCoreQueue 0x400 = false ∧ s.qState 0x400 = qRunning ∧ s.fb F.lkeRingNEn 0x400 = true ∧
      (s.queue 0x400).taken = none ∧ (s.queue 0x400).replay = none ∧ (s.queue 0x400).drains = [] ∧ (s.queue 0x400).redo = false ∧ s.headBlocked 0x400 = false ∧
      0 < s.ringAvail 0x400 ∧ s.ringAvail 0x400 ≤ s.ringSize 0x400 ∧ (s.readEntry 0x400 (s.ringHead 0x400)).2 = some 0) ∧
    (let s := ringQueue 40000;
      s.ringSize 0x400 < s.ringAvail 0x400 ∧ s.headBlocked 0x400 = false ∧ s.qState 0x400 = qRunning ∧ s.fb F.lkeRingNEn 0x400 = true) := by decide +kernel

theorem wit_QueueCommandsWaitForTheTickEdge :
    (qClass 3).isSome = true ∧ State.reset.absent 3 = false ∧
    (let s := { State.reset with edgeCmds := [(3, 0, Sender.host)] };
      (State.fset { s with edgeCmds := [], edgeSup := [] } (ctrlBit 0) 0 3).commandValid 3 0 = false ∧
      (State.fset { runningQueue 3 with edgeCmds := [], edgeSup := [] } (ctrlBit 4) 0 3).commandValid 3 4 = true) ∧
    (let u := (State.commandQueue (State.fset { runningQueue 3 with edgeCmds := [], edgeSup := [3] } (ctrlBit 4) 0 3) 3 4 .supervisor).1;
      u.edgeSup = [3] ∧ u.qState 3 = qStopped) := by decide +kernel

theorem wit_StalemateScanCountsAndHoldActs :
    (∀ t ∈ State.reset.stale, t.held = true ∨ t.count < State.reset.f F.staleCtrlTicks) ∧ State.reset.f F.staleCtrlTicks ≤ 1000 ∧
    (let t : StaleTrack := ⟨[], [], false, 1000, false⟩; let s := { State.reset with stale := [t] };
      s.stale = [t] ∧ t.held = false ∧ s.f F.staleCtrlTicks ≤ t.count) := by decide +kernel

theorem wit_ParameterAndRingRegisterWritesOfTheHost :
    (qClass 3).isSome = true ∧ State.reset.absent 3 = false ∧ State.reset.qState 3 = qStopped ∧
    (runningQueue 3).qState 3 ≠ qStopped ∧ (runningQueue 3).qState 3 ≠ qHalted ∧ (runningQueue 3).rd ⟨.queueQParamM, 3, 63⟩ ≠ 1 ∧ (runningQueue 3).rd ⟨.queueQParamM, 3, 63⟩ = 0 ∧
    Reg.absent State.reset.grade ⟨.queueQCring, 3, 0⟩ = false ∧ Reg.absent State.reset.grade ⟨.lkeRingN, 0x400, 0⟩ = false ∧
    RegName.at .queueQCring (⟨.queueQCring, 3, 0⟩ : Reg).offset = some ⟨.queueQCring, 3, 0⟩ ∧
    RegName.at .queueQCring (⟨.lkeRingN, 0x400, 0⟩ : Reg).offset = none ∧
    RegName.at .lkeRingN (⟨.lkeRingN, 0x400, 0⟩ : Reg).offset = some ⟨.lkeRingN, 0x400, 0⟩ := by decide +kernel


/-- A state with one register field set. -/
def put (f : Fld) (v : Nat) (s : State := State.reset) (i : Nat := 0) : State := s.fset f v i

/-- Parts 0 (this one) and 5 are members in the role JOB; a job runs, and this part leads its step. -/
def leading : State :=
  put F.stepStatusState 1 (put F.jobStatusState 3 ((State.reset.setMember 0 memberLive roleJob 0 0 1 0).setMember 5 memberLive roleJob 0 0 1 0))

theorem test_leading : leading.leads = true ∧ leading.stepMembers = [0, 5] ∧ leading.hallCommittee = [0, 5] ∧ leading.jobRuns = true := by decide +kernel

/-- A vote of part 5 for the step in progress. -/
def vote5 : Vote := { step := 0, part := 5, abort := false, flags := 0, units := [] }

/-- A decision. -/
def decision0 : Decision := { (default : Decision) with step := 0, outcome := .commit }

/-- An open Castling unit of slot 0. -/
def unit0 (st : UnitState) : CUnit := { (default : CUnit) with slot := 0, state := st }

/-- Table 0 is valid in version 1, and an old version 0 awaits its releases. -/
def tableReplaced : State := leading.setDir 0 { state := 1, repl := 0, pitch := 0, fmt := 0, rowlen := 1, blk := 0, nextValid := false, shards := 1, shard0 := 0, rows := 1, version := 1, base := 0, nextVersion := 0, nextBase := 0, oldVersion := 0, oldBase := 0, oldReleases := 0, gmapBase := 0, gsl := 0, oldValid := true }

theorem wit_LookupPoolsOrIsRefused :
    (let x := { entryAt 0x44 0x50 0 sram0 with pin := some (0, 0, 0) };
      let s := { State.reset with execs := [x] };
      s.running 0x44 [0x50] = some x ∧ x.pin = some (0, 0, 0) ∧ ((State.readDesc { s with seen := s.taken x } 0xFF sram0).2.getD default).tile = false) ∧
    (let x := { entryAt 0x44 0x50 0 sram0 with pin := some (0, 0, 3) };
      let s := { State.reset with execs := [x] };
      s.running 0x44 [0x50] = some x ∧ x.pin = some (0, 0, 3) ∧ 3 ≤ 3 % 16 ∧ 16 % 16 < 3) ∧
    (let x := { entryAt 0x44 0x50 (2 ^ 145) sram0 with pin := some (0, 1, 1) };
      let s := { tableReplaced with execs := [x] };
      let p := State.readDesc { s with seen := s.taken x } 0xFF sram0;
      s.running 0x44 [0x50] = some x ∧ bitsOf x.entry 145 144 ≠ 3 ∧ zeroBits x.entry [(131, 128), (79, 0)] = true ∧ p.2.isSome = true ∧
        (p.1.readBags sram0 sram0 sram0 1 (bitsOf x.entry 145 144 == 0) (bitsOf x.entry 145 144 == 1)).2.isSome = true ∧
        regionOf (State.dir { s with seen := s.taken x } 0) 1 = some 0 ∧ (p.2.getD default).tile = false ∧ (p.2.getD default).ok [0, 1] none = true) := by decide +kernel

theorem wit_ScatterAndRefreshRun :
    (let s := withEntry 0x44 0x51 0 1;
      s.running 0x44 [0x51] = some (entryOn 0x44 0x51 0 1) ∧
      s.execs.find? (fun y => y.id == 0 && y.stage == 1 && y.result.isNone) = some (entryOn 0x44 0x51 0 1) ∧ s.leafReached (entryOn 0x44 0x51 0 1) [] = true ∧
      s.leafWaits 0 = false ∧ ({ s with waitingLeaves := [({ (default : Leaf) with queue := some (0x44, 0, 0) }, 9)] } : State).leafWaits 0 = true ∧
      (put F.hallStatusPart 1 s).leafReached { entryOn 0x44 0x51 0 1 with pin := some (0, 0, 1), tried := [(0, 0)] } [0] = false) ∧
    (let s := { withTile 0x44 0x52 0 with execs := [entryAt 0x44 0x52 0 sram0] };
      let x := entryAt 0x44 0x52 0 sram0;
      s.running 0x44 [0x52] = some x ∧ zeroBits x.entry [(175, 0)] = true ∧ (State.loadAt { s with seen := s.taken x } ⟨0xFF, [.sram], false⟩ sram0 16).2.isSome = true) := by
  decide +kernel

/-- A run in motion listed by the entry 0. -/
def move0 : Move := { table := 0, out := false, first := 0, run := 1, frame := 0, id := 0, lines := [] }

theorem wit_RunsFlipAtAFlipTick :
    let s := { withEntry 0x44 0x52 0 with moves := [move0] }
    s.moveFree move0 = true ∧ ((s.flipMove move0).showMoving.execs.find? fun y => y.id == 0).isSome = true := by decide +kernel

/-- An ADD of an I64 in HBM. -/
def add0 : AtomicReq := { addr := 0xFFFF000000000000, op := 0, type := 9, value := 1, compare := 0, source := .cme }

theorem wit_AtomicsWriteOnceAndAnswerTheOldValue :
    (State.reset.run? add0.addr.toNat (atomicBytes 9) = some (.hbm, 0) ∧ add0.addr.toNat % atomicBytes 9 = 0 ∧ add0.op ≤ 9 ∧ (atomicTypes 0).contains 9 = true ∧
      (State.reset.load false .hbm 0 8).2 = some (List.replicate 8 0) ∧
      ((State.reset.load false .hbm 0 8).1.store false .hbm 0 (leBytes 8 1)).2 = true) ∧
    (let x := { entryAt 0x44 0x53 (2 ^ 178 + 8 * 2 ^ 178 + 2 ^ 160) 0 with params := 0xFFFF000000000000 :: List.replicate 63 (BitVec.ofNat 64 sram0) };
      let s := { State.reset with execs := [x] };
      let e := x.entry;
      let p := State.atomicOp { s with seen := s.taken x } false (x.param (bitsOf e 191 186)) (bitsOf e 185 182) (bitsOf e 181 178)
        (BitVec.ofNat 64 (x.param (bitsOf e 177 172))) (BitVec.ofNat 64 (x.param (bitsOf e 171 166)));
      let r := p.1.oldBytes (bitsOf e 181 178) (p.2.getD 0);
      s.execs.find? (fun y => y.q == 0x44 && y.id == 0 && y.result.isNone) = some x ∧ zeroBits e [(159, 0)] = true ∧
        (State.run? { s with seen := s.taken x } (x.param (bitsOf e 165 160)) 8).any (fun p => p.1 == .sram) = true ∧ p.2.isSome = true ∧
        (r.1.storeAt ⟨r.1.coreFor 0x44, [.sram], false⟩ (x.param (bitsOf e 165 160)) r.2).2 = true) := by decide +kernel

/-- A reduction group 3 of one row. -/
def group3 : Group := { (default : Group) with id := 3, rowlen := 1, extent := 64 }

/-- A node of its row. -/
def node3 : Node := { (default : Node) with group := 3, addr := 0, vals := [0] }

theorem wit_ReductionGroupsOpenTakeAndClose :
    (let s := withEntry 0x44 0x54 (3 * 2 ^ 186);
      let x := entryOn 0x44 0x54 (3 * 2 ^ 186);
      s.running 0x44 [0x54] = some x ∧ zeroBits x.entry [(135, 128), (95, 0)] = true ∧ x.param (bitsOf x.entry 141 136) / 2 ^ 44 % 16 = 0 ∧
      s.groups.any (fun g => g.id == 3) = false ∧ ({ s with groups := [group3] } : State).groups.any (fun g => g.id == 3) = true) ∧
    (let s := { State.reset with groups := [group3] };
      s.groups.find? (fun g => g.id == node3.group) = some group3 ∧ group3.takes node3 = true ∧ group3.faults = [] ∧
      ((s.sucTally 0 .u16w (s.widenNode group3 node3).2).pendingNodes 0 < (12 - (s.sucTally 0 .u16w (s.widenNode group3 node3).2).f F.sucCfgScratch 0) * 24576)) ∧
    (let s := { withEntry 0x44 0x55 (3 * 2 ^ 186) with groups := [group3] };
      s.running 0x44 [0x55] = some (entryOn 0x44 0x55 (3 * 2 ^ 186)) ∧ zeroBits (entryOn 0x44 0x55 (3 * 2 ^ 186)).entry [(185, 0)] = true ∧
      s.groups.find? (fun g => g.id == 3) = some group3 ∧ ((s.ofStep group3 && !s.mayClose) || s.staleWaits 3) = false ∧
      (s.settleGroup (entryOn 0x44 0x55 (3 * 2 ^ 186)) group3).2 = false) ∧
    (let s := put F.stepEpochEpoch 1 { leading with groups := [group3], staleLeaves := [(0, { (default : Leaf) with part := 5, gid := 3 })],
                                                    step := { leading.step with late := some [], stale := [5] } };
      ((s.ofStep group3 && !s.mayClose) || s.staleWaits 3) = false ∧ (s.settleGroup (entryOn 0x44 0x55 (3 * 2 ^ 186)) group3).2 = true) := by decide +kernel

/-- The domain of stack 0 is in recovery. -/
def stackInRecovery : State := put F.recovJDomain (stackDomain 0) (put F.recovJBusy 1)

theorem wit_SucMismatchAndTestEnd :
    (let s := { withEntry 0x44 0x55 (3 * 2 ^ 186) with arrivals := [.outside add0, .remote default, .leaf default], groups := [group3] };
      let t := ((s.error 0x3001 sevUncorrectable (stackDomain 0) 0xFF 0 0 Status.aborted.code).faultDomain (stackDomain 0));
      t.arrivals.contains (.outside add0) = true ∧ t.arrivals.contains (.remote default) = true ∧
      t.arrivals.find? (fun a => match a with | .leaf m | .again m _ => m == default | _ => false) = some (.leaf default) ∧ t.execs.find? (fun x => x.id == 0 && x.result.isNone) = some (entryOn 0x44 0x55 (3 * 2 ^ 186))) ∧
    stackInRecovery.inRecovery (stackDomain 0) = true ∧ stackInRecovery.retrains.any (fun r => r.die == 0) = false ∧
    State.reset.inRecovery (stackDomain 0) = false := by decide +kernel

/-- A leaf of part 5. -/
def leaf5 : Leaf := { (default : Leaf) with part := 5 }

theorem wit_RemoteRunsAndLeavesReachTheirHome :
    leading.inHove = false ∧ leading.isMember 5 = true ∧ leading.isMember 7 = false ∧ (∀ w ∈ leading.waitingLeaves, leading.now < w.2) ∧
    (put F.hoveStatusActive 1).inHove = true ∧ leaf5.queue = none ∧ (leading.takeLeaf leaf5).2 = .stale ∧ (tableReplaced.takeLeaf { leaf5 with epoch := 1, row := 1 }).2 = .refused ∧
    (let s := { State.reset with waitingLeaves := [(leaf5, 0)] }; s.waitingLeaves = [(leaf5, 0)] ∧ (0 : Nat) ≤ s.now) := by decide +kernel

theorem wit_KeeperAppliesEachPeriod :
    let s := put F.hallStatusRole 2
    s.keeper = true ∧ s.inHove = false ∧ s.now / s.f F.lkeCfgApply * s.f F.lkeCfgApply = s.now := by decide +kernel

theorem wit_TableCommandsStageAskAndRelease :
    (let s := { tableReplaced.setDir 0 { tableReplaced.dir 0 with oldValid := false } with execs := [entryOn 0x440 0x84 (2 * 2 ^ 144)] };
      let x := entryOn 0x440 0x84 (2 * 2 ^ 144);
      let d := (s.readDir 0).dir 0;
      s.running 0x440 [0x84] = some x ∧ zeroBits x.entry [(137, 0)] = true ∧ d.oldValid = false ∧ bitsOf x.entry 175 144 ≠ d.version ∧
        bitsOf x.entry 175 144 ≠ d.oldVersion ∧ d.state = 1) ∧
    ((withEntry 0x440 0x85 0).running 0x440 [0x85] = some (entryOn 0x440 0x85 0) ∧ (withEntry 0x440 0x86 0).running 0x440 [0x86] = some (entryOn 0x440 0x86 0) ∧
      (withEntry 0x440 0x87 0).running 0x440 [0x87] = some (entryOn 0x440 0x87 0)) ∧
    ((tableReplaced.dir 0).oldValid = true ∧ (tableReplaced.dir 0).oldVersion = 0 ∧ tableReplaced.isMember 5 = true ∧ (0, 0, 5) ∉ tableReplaced.releases ∧ tableReplaced.inHove = false ∧
      (tableReplaced.dir 0).oldVersion ≠ 9) := by decide +kernel

/-- The ranges of the unit of a table with no companion. -/
theorem ranges_alone (s : State) (t : Nat) (h : Config.companions s.boot.job t = []) :
    s.tableRanges t = (Bank.hbm, (s.dir t).base, (s.dir t).slots * (s.dir t).slot) ::
      (((List.range s.hotFrames).filter fun f => [1, 2, 3].contains (s.hot f).state && (s.hot f).table == t).map fun f => (Bank.sram, s.frameAt f, (s.hot f).run * (s.dir t).slot)) := by
  simp only [State.tableRanges, State.unitTables, h, List.flatMap_cons, List.flatMap_nil, List.append_nil]

/-- The unit of table 0 lies in the memories, where the job image names no companion table of it. -/
theorem wit_CastlingUnitsOpenCloseAndSettle_ranges (h : Config.companions State.reset.boot.job 0 = []) :
    ((State.tableRanges { tableReplaced.setLed 0x03100000 2 0 with execs := [entryOn 0x440 0x80 0] } 0).all fun r =>
      decide (r.2.1 + r.2.2 ≤ if r.1 = .hbm then 0x5D00000000 else 0x800000000)) = true := by
  have hj : (State.boot { tableReplaced.setLed 0x03100000 2 0 with execs := [entryOn 0x440 0x80 0] }).job = State.reset.boot.job := by decide +kernel
  rw [ranges_alone _ 0 (by rw [hj]; exact h)]
  decide +kernel

theorem wit_CastlingUnitsOpenCloseAndSettle :
    (let s := { tableReplaced.setLed 0x03100000 2 0 with execs := [entryOn 0x440 0x80 0] };
      s.running 0x440 [0x80] = some (entryOn 0x440 0x80 0) ∧ zeroBits (entryOn 0x440 0x80 0).entry [(138, 0)] = true ∧ s.exporting false 0 0 0 = false ∧
      (s.dir 0).state = 1 ∧ s.generation = false ∧ s.units = [] ∧ s.holdsUnit false 0 0 0 = true) ∧
    (let u := { unit0 .opened with segs := [(0, 0, 0)] };
      let s := { withEntry 0x440 0x81 (2 ^ 152) with units := [u] };
      s.running 0x440 [0x81] = some (entryOn 0x440 0x81 (2 ^ 152)) ∧ zeroBits (entryOn 0x440 0x81 (2 ^ 152)).entry [(151, 0)] = true ∧
      s.units.find? (fun u => u.slot == 0 && u.state == .opened) = some u ∧ u.failed = false ∧ bitsOf (entryOn 0x440 0x81 (2 ^ 152)).entry 183 152 = 1 ∧
      ((List.range 1).all fun i => u.segs.any fun g => g.1 == i) = true ∧ (s.fillNew []).2 = true) ∧
    (let s := { State.reset with step := { State.reset.step with applying := [(0, decision0), (1, decision0)] } };
      s.step.applying = (0, decision0) :: [(1, decision0)] ∧ s.inHove = false) ∧
    (let u := { unit0 .closed with minority := true, asked := true };
      let s := { tableReplaced with units := [u] };
      s.units.find? (fun u => u.slot == 0 && u.step == 0 && u.minority && u.asked && u.state != .retired) = some u ∧ (s.exportPlan u.dense u.table u.shard).isSome = true ∧
        u.committed = none ∧ s.inHove = false) ∧
    (let u := { unit0 .closed with outOfService := true, minority := false };
      let s := { State.reset with units := [u] };
      s.inHove = false ∧ s.unresolved 0 = some u ∧ s.recordedOutcome u.step = none) ∧
    (let x := entryAt 0x440 0x88 (2 ^ 158) sram0;
      let s := { tableReplaced with execs := [x] };
      let p := State.exportBytes { s with seen := s.taken x } false (bitOf x.entry 158) 0 0 (x.param (bitsOf x.entry 150 145)) x.epoch;
      s.running 0x440 [0x88] = some x ∧ zeroBits x.entry [(144, 0)] = true ∧ bitOf x.entry 159 = false ∧ (s.dir 0).state = 1 ∧ bitOf x.entry 157 = false ∧
        p.2.isSome = true ∧ (p.1.storeAt ⟨0xFF, [.sram], false⟩ (mkAddr 1 (x.param (bitsOf x.entry 156 151) % 2 ^ 44)) (p.2.getD ([], [])).1).2 = true) := by
  decide +kernel

/-- The same job with part 5 leading the step. -/
def led : State := put F.stepStatusLeader 5 leading

/-- The leader of the step comes before this part in the committee: parts 3 and 5 are members too, and this is part 5. -/
def lost5 : State := put F.hallStatusPart 5 (put F.stepStatusLeader 0 leading)

theorem wit_VotesLeadToDecisions :
    (let s := { leading with execs := [entryOn 0x440 0x82 0] };
      s.running 0x440 [0x82] = some (entryOn 0x440 0x82 0) ∧ zeroBits (entryOn 0x440 0x82 0).entry [(190, 0)] = true ∧ s.generation = false ∧ s.stepRuns = true ∧
      s.step.voted = none ∧ s.units = []) ∧
    (leading.leads = true ∧ (leading.newVotes { votes := [vote5], layers := [] } (leading.step.votes.map (·.part))).isEmpty = false ∧
      led.leads = false ∧ led.jobRuns = true ∧ led.inHove = false ∧ (led.newVotes { votes := [vote5], layers := [] } (led.step.gather.flatMap fun (g : VoteMsg) => g.votes.map (·.part))).isEmpty = false) ∧
    (let s := put F.tickCountTicks 100000000000 leading;
      s.mayDecide = true ∧ (s.stepMembers.filter fun p => !(s.step.votes.any fun w => w.part == p)) ≠ [] ∧ s.stepDue + s.f F.commitCtrlVoteLimit ≤ s.now) ∧
    (let v : Vote × List Layer := ({ vote5 with part := 0 }, []);
      let s := { leading with step := { leading.step with voted := some v } };
      s.inHove = false ∧ s.stepRuns = true ∧ v.1.step = s.f F.stepEpochEpoch ∧ s.committee.contains 5 = true ∧ (s.fset F.stepStatusLeader 5).decisionOf 0 = none ∧ s.step.held = none ∧ s.step.voted = some v) ∧
    (let s := { leading with step := { leading.step with held := some decision0 } };
      s.step.held = some decision0 ∧ decision0.tick = 0 ∧ s.leads = true ∧ (5 : Nat) ≠ s.me ∧ s.committee.contains 5 = true) ∧
    (leading.inHove = false ∧ leading.jobRuns = true ∧ leading.generation = false ∧ leading.awaits decision0 = true) ∧
    ((led.stepRuns || led.promoting) = true ∧ led.committee.contains led.me = true ∧ led.step.held.all (fun h => h.step == decision0.step) = true ∧
      ({ led with step := { led.step with held := some decision0 } } : State).step.held.all (fun h => h.step == decision0.step) = true ∧ decision0.step = led.f F.stepEpochEpoch ∧ led.leads = false ∧ led.ledgerBusy = false ∧
      (State.writeCommit { led with step := { led.step with held := some decision0 } } decision0).leads = false) ∧
    (lost5.stepRuns = true ∧ lost5.inHove = false ∧ lost5.committee.find? (fun p => decide (lost5.f F.stepStatusLeader < p)) = some lost5.me ∧ lost5.step.held = none) ∧
    (let s := { led with step := { led.step with frozen := some (decision0, 0) }, execs := [entryOn 0x440 0x83 (2 ^ 189)] };
      s.running 0x440 [0x83] = some (entryOn 0x440 0x83 (2 ^ 189)) ∧ zeroBits (entryOn 0x440 0x83 (2 ^ 189)).entry [(188, 0)] = true ∧ s.step.frozen.isSome = true ∧ s.leads = false) ∧
    (let s := { leading with step := { leading.step with frozen := some (decision0, 0), votes := [{ vote5 with part := 0 }, vote5] }, execs := [entryOn 0x440 0x83 (2 ^ 189)] };
      s.running 0x440 [0x83] = some (entryOn 0x440 0x83 (2 ^ 189)) ∧ s.step.frozen.isSome = true ∧ s.leads = true ∧ s.step.held = none ∧ s.votesIn = true ∧
      bitOf (entryOn 0x440 0x83 (2 ^ 189)).entry 189 = true ∧ s.stepMembers.contains 5 = true ∧ s.f F.commitCtrlPairPolicy = 0 ∧
      0 + s.f F.commitCtrlFreezeLimit * 1000000 ≤ (put F.tickCountTicks (2 ^ 50) s).now) := by decide +kernel

theorem wit_PhasesSwitchAndTheLateSetIsFixed :
    State.reset.step.phaseTo = none ∧
    (let s := { leading with step := { leading.step with phaseTo := some (true, 0) } };
      s.step.phaseTo = some (true, 0) ∧ s.inHove = false ∧ (put F.hoveStatusActive 1 s).inHove = true ∧ s.jobRuns = true ∧ s.generation = false) ∧
    (leading.jobRuns = true ∧ leading.generation = false ∧ leading.stepRuns = true ∧ leading.inHove = false ∧ leading.step.sentDone = false ∧ leading.step.sentOwed = none ∧ leading.contributes false = false ∧
      ({ leading with step := { leading.step with sentOwed := some 7 } } : State).contributes true = false) ∧
    (leading.leads = true ∧ leading.stepMembers.contains 5 = true ∧ leading.step.sent.contains 5 = false ∧
      ({ leading with step := { leading.step with sent := [5] } } : State).step.sent.contains 5 = true) ∧
    (leading.step.fixed = none ∧ leading.step.frozen = none ∧ leading.step.late = none ∧ leading.step.extended = false) ∧
    (let s := put F.tickCountTicks 100000000000 leading; s.stepDue ≤ s.now ∧
      (s.stepMembers.filter fun p => !s.step.sent.contains p).length ≤ s.f F.tempoCtrlLateMax) ∧
    (let s := put F.tempoCtrlLateMax 0 (put F.tickCountTicks 100000000000 leading); s.stepDue ≤ s.now ∧
      s.f F.tempoCtrlLateMax < (s.stepMembers.filter fun p => !s.step.sent.contains p).length) ∧
    (let s := put F.tickCountTicks 100000000000 led;
      s.generation = false ∧ s.step.frozen = none ∧ s.stepDue ≤ s.now ∧ s.leads = false ∧ s.jobRuns = true ∧ s.inHove = false) := by decide +kernel

/-- Flow 0 is open to part 5, which is a member. -/
def flowTo5 : State := put F.flowFStatusPeer 5 (put F.flowFStatusState flowOpen leading)

/-- A hall address in the HBM of part 5. -/
def addr5 : Nat := 5 * 2 ^ 48

/-- Parameters: an address of part 5, one of SRAM, a length. -/
def moves5 : List Word := [BitVec.ofNat 64 addr5, BitVec.ofNat 64 sram0, 64]

theorem wit_RemoteOperationsMoveData :
    (let x := { entryOn 0x400 0x60 (2 ^ 168 + 2 * 2 ^ 162) with params := moves5 };
      let s0 : State := { flowTo5 with execs := [x], seen := flowTo5.taken x };
      flowTo5.flowOk 0x400 0 = true ∧ ({ flowTo5 with execs := [x] } : State).running 0x400 [0x60] = some x ∧ zeroBits x.entry [(161, 0)] = true ∧
        s0.flowOk 0x400 0 = true ∧ moveOk addr5 sram0 64 = true ∧ s0.peerOk 0 addr5 64 false = true ∧ (s0.localRun sram0 64).isSome = true ∧
        ((s0.ask 0 ⟨s0.me, 0, BitVec.ofNat 64 addr5, .read 64⟩).storeAt ⟨0xFF, [.sram, .hbm], false⟩ sram0 (List.replicate 64 0)).2 = true) ∧
    (let x := { entryOn 0x400 0x61 (2 ^ 174 + 2 * 2 ^ 162) with params := moves5 };
      let s0 : State := { flowTo5 with execs := [x], seen := flowTo5.taken x };
      ({ flowTo5 with execs := [x] } : State).running 0x400 [0x61] = some x ∧ zeroBits x.entry [(137, 0)] = true ∧ s0.flowOk 0x400 0 = true ∧ moveOk sram0 addr5 64 = true ∧
        s0.peerOk 0 addr5 64 true = true ∧ (s0.localRun sram0 64).isSome = true ∧ (s0.loadAt ⟨0xFF, [.sram, .hbm], false⟩ sram0 64).2.isSome = true) ∧
    (let x := { entryOn 0x400 0x62 (9 * 2 ^ 166 + 2 ^ 148) with params := moves5 };
      let s0 : State := { flowTo5 with execs := [x], seen := flowTo5.taken x };
      let p := (s0.ask 0 ⟨s0.me, 0, BitVec.ofNat 64 addr5, .atomic 0 9 (BitVec.ofNat 64 addr5) (BitVec.ofNat 64 addr5)⟩).oldBytes 9 0;
      ({ flowTo5 with execs := [x] } : State).running 0x400 [0x62] = some x ∧ zeroBits x.entry [(147, 0)] = true ∧ s0.peerOk 0 addr5 (atomicBytes 9) true = true ∧
        (s0.run? sram0 8).any (fun p => p.1 == .sram) = true ∧ (p.1.storeAt ⟨0xFF, [.sram], false⟩ sram0 p.2).2 = true) ∧
    (let x := { entryOn 0x400 0x78 (2 ^ 158 + 3 * 2 ^ 152 + 2 * 2 ^ 146) with params := [BitVec.ofNat 64 sram0, 7, 64, 0] };
      let s0 : State := put F.flowFStatusFeeder 1 { flowTo5 with execs := [x], seen := flowTo5.taken x };
      let data : List Byte := List.replicate 8 0 ++ [7] ++ List.replicate 55 0;
      (put F.flowFStatusFeeder 1 { flowTo5 with execs := [x] }).running 0x400 [0x78] = some x ∧ zeroBits x.entry [(145, 0)] = true ∧ flowDie 0 = fxeDie 0x400 ∧
        s0.flowState 0 = flowOpen ∧ s0.fb F.flowFStatusFeeder 0 = true ∧ x.stage = 0 ∧ pullDest x = (sram0, 64) ∧ (s0.localRun (pullDest x).1 (pullDest x).2).isSome = true ∧
        data.length = 64 ∧ pullMatches x data = true ∧ (State.storeAt s0 ⟨0xFF, [.sram], false⟩ (sram0 + 0) data).2 = true) ∧
    (flowTo5.inHove = false ∧ flowTo5.isMember 7 = false ∧ flowTo5.isMember 5 = true ∧ (put F.hoveStatusActive 1 flowTo5).inHove = true) := by decide +kernel

/-- A collective of one tensor in execution, its descriptors in SRAM. -/
def withColl (op st : Nat) : State := { leading with execs := [entryAt 0x400 op 0 sram0 st] }

theorem collOf_isSome (s s1 s2 : State) (x : Exec) (r : Bool) (di dc : Desc) (own : Nat) (l : List Nat)
    (h1 : s.readDesc 0xFF (x.param (bitsOf x.entry 191 186)) = (s1, some di)) (h2 : s1.readDesc 0xFF (x.param (bitsOf x.entry 185 180)) = (s2, some dc))
    (h3 : s2.shards = own :: l)
    (h4 : ((if r then zeroBits x.entry [(163, 128), (95, 0)] else zeroBits x.entry [(179, 128), (95, 0)]) && s2.jobRuns && !di.tile && !dc.tile &&
      di.ok [0, 1] none && dc.ok [0, 1] none) = true) : (s.collOf x r).2.isSome = true := by
  simp only [State.collOf, h1, h2, h3, h4, if_true, Option.isSome_some]

/-- The operands of a collective are read, where the job of the image has one shard. -/
theorem wit_CollectivesAndFlowEntriesRun_operands (h : (Config.jobLayout State.reset.boot.job).1 = 1) :
    ((withColl 0x68 0).collOf (entryAt 0x400 0x68 0 sram0) true).2.isSome = true ∧
    ((withColl 0x69 1).collOf (entryAt 0x400 0x69 0 sram0 1) false).2.isSome = true := by
  have one (s : State) (hj : s.boot.job = State.reset.boot.job) (hh : decide (s.led 0x03100000 2 = s.me) = true) : s.shards = 0 :: [] := by
    simp only [State.shards, hj, h]
    simp only [show List.range 1 = [0] from rfl, List.filter, Nat.mul_zero, Nat.add_zero, hh]
  let d : Desc := ((withColl 0x68 0).readDesc 0xFF sram0).2.getD default
  refine ⟨collOf_isSome _ _ _ _ _ d d 0 [] (Prod.ext rfl ?_) (Prod.ext rfl ?_) (one _ ?_ ?_) ?_, collOf_isSome _ _ _ _ _ d d 0 [] (Prod.ext rfl ?_) (Prod.ext rfl ?_) (one _ ?_ ?_) ?_⟩ <;>
    decide +kernel

theorem wit_CollectivesAndFlowEntriesRun :
    State.reset.running 0x400 [0x68] = none ∧
    ((withColl 0x68 0).running 0x400 [0x68] = some (entryAt 0x400 0x68 0 sram0) ∧ (withColl 0x68 0).collMayClose = false ∧
      (withColl 0x68 2).running 0x400 [0x68] = some (entryAt 0x400 0x68 0 sram0 2) ∧ ({ withColl 0x68 2 with step := { leading.step with late := some [5] } } : State).collMayClose = true ∧
      (withColl 0x69 1).running 0x400 [0x69] = some (entryAt 0x400 0x69 0 sram0 1) ∧
      covered [{ (default : TreeNode) with pos := 0, level := 0 }] [] 0 1 = true ∧ covered [] [0] 0 1 = true) ∧
    (let x := { entryOn 0x400 0x68 0 with start := 0 };
      let s := put F.naeloTimersPullLimit 0 { State.reset with execs := [x] };
      s.overdue 0x400 0 [0x68, 0x69] = some x ∧ s.generation = false ∧ (put F.stepStatusGen 1 s).generation = true ∧ (put F.stepStatusGen 1 s).overdue 0x400 0 [0x68, 0x69] = some x) ∧
    (let x := entryOn 0x400 0x78 0; (put F.naeloTimersPullLimit 0 { State.reset with execs := [x] }).overdue 0x400 0 [0x78] = some x) ∧
    (let s := put F.portPStatusUp 1 { leading with execs := [entryOn 0x400 0x79 (5 * 2 ^ 160 + 2 ^ 152)] };
      let e := (entryOn 0x400 0x79 (5 * 2 ^ 160 + 2 ^ 152)).entry;
      (s.runningOp 0x400 0x79 [0]).isSome = true ∧ bitOf e 177 = false ∧ flowDie 0 = fxeDie 0x400 ∧ s.flowState 0 = flowClosed ∧ s.isMember 5 = true ∧
      bitsOf e 156 152 = 1 ∧ 1 ≤ (s.portsUp 0).length * 16) ∧
    (let s := { State.reset with execs := [entryOn 0x400 0x79 (2 ^ 190)] };
      (s.runningOp 0x400 0x79 [1]).isSome = true ∧ s.flowState 0 = flowClosed ∧ (put F.flowFStatusState flowOpen s).flowState 0 = flowOpen) ∧
    (let s := put F.flowFStatusState flowFailed { State.reset with execs := [entryOn 0x400 0x79 (2 * 2 ^ 190)] };
      (s.runningOp 0x400 0x79 [2, 3]).isSome = true ∧ bitsOf (entryOn 0x400 0x79 (2 * 2 ^ 190)).entry 191 190 = 2 ∧ s.flowState 0 = flowFailed) ∧
    (let s := put F.tickCountTicks 100000 { State.reset with execs := [entryOn 0x400 0x79 0 1] };
      opcodeOf (entryOn 0x400 0x79 0 1).entry = 0x79 ∧ 0 + 100000 ≤ s.now) := by decide +kernel

theorem wit_MembershipEntriesAskAndHallCommandsAct :
    (let s := { leading with execs := [entryOn 0x440 0x7A (5 * 2 ^ 174 + roleIdle * 2 ^ 172)] };
      (s.runningOp 0x440 0x7A [0]).isSome = true ∧ zeroBits (entryOn 0x440 0x7A (5 * 2 ^ 174 + roleIdle * 2 ^ 172)).entry [(171, 0)] = true ∧
      s.roleOk roleIdle = true ∧ s.isMember s.me = true) ∧
    (let x := entryOn 0x440 0x7A (2 ^ 190); (({ leading with execs := [x] } : State).runningOp 0x440 0x7A [1]).isSome = true) ∧
    (let x := entryOn 0x440 0x7A (2 * 2 ^ 190 + roleIdle * 2 ^ 172);
      (({ leading with execs := [x] } : State).runningOp 0x440 0x7A [2, 3]).isSome = true ∧ bitsOf x.entry 191 190 = 2 ∧ zeroBits x.entry [(171, 0)] = true) ∧
    (leading.hallCommittee.head? = some leading.me ∧ leading.hallAsked = [] ∧ leading.leads = true ∧ leading.stepMembers.contains 5 = true ∧
      leading.step.resigned.contains 5 = false ∧ leading.inHove = false ∧ (put F.hoveStatusActive 1 leading).inHove = true) ∧
    (let s := put F.tickCountTicks 20000 leading; s.isMember s.me = true ∧ s.lastBeat + s.f F.hallCtrlBeat * 1000 ≤ s.now ∧ leading.hallCommittee.contains leading.me = true) ∧
    (let s := put F.tickCountTicks 100000000 { (State.reset.setMember 0 memberLive roleIdle 0 0 1 0).setMember 5 memberLive roleIdle 0 0 1 0 with beats := [(5, 0)] };
      s.hallJob = false ∧ s.hallCommittee.head? = some s.me ∧ s.isMember 5 = true ∧ s.beats.find? (fun b => b.1 == 5) = some (5, 0) ∧
      0 + s.f F.hallCtrlBeatsLost * (s.f F.hallCtrlBeat * 1000) ≤ s.now ∧ HallCmd.lost 5 ∉ s.hallAsked) ∧
    (leading.hallJob = true ∧ State.reset.hallJob = false ∧ leading.hallGen = false) ∧
    ((leading.setMemberFlags 0 2).beingPromoted = true ∧ (leading.setMemberFlags 0 2).jobRuns = true) := by decide +kernel

/-- Part 5 hears of its own promotion. -/
theorem wit_MembershipEntriesAskAndHallCommandsAct_promoted :
    let s := (put F.hallStatusPart 5 leading).setMemberFlags 5 2
    s.inHove = false ∧ s.isMember 5 = true ∧ s.memberFlags 5 / 2 % 2 = 1 ∧ (s.committee.head? == some s.me) = false := by
  refine ⟨?_, ?_, ?_, ?_⟩ <;> decide +kernel




/-- A ready session with part 5, of key slot 0. -/
def session5 : Session := { (default : Session) with peer := 5, feeder := false, txc := 2 ^ 40, keySlot := 0, rx := [(0, []), (0, [])], ready := true }

/-- The runtime of an open flow. -/
def flowRt : Flow :=
  { paths := [{ (default : Path) with held := some 0 }], unacked := [{ (default : Unacked) with psn := 3 }], nextPsn := 4, sinceAck := [(0, 0, 0)] }

/-- Flow 0 is open to part 5 over a session. -/
def linked : State := { flowTo5 with sessions := [session5], flows := [(0, flowRt)] }

/-- A packet of part 5 to flow 0 of this part. -/
def pkt5 (t : PktType) : Pkt :=
  { (default : Pkt) with ver := 1, type := some t, dstFlow := 0, dstPart := 0, srcPart := 5, psn := 0, txc := 1, sealOk := true, payload := List.replicate 32 3 }

/-- A broadcast frame of 64 bytes of an EtherType, its body zero. -/
def frame0 (t : Nat) : Frame :=
  { port := 0, bad := false, corrected := 0, uncorrectable := 0, symbols := 0, full := [], signed := false, bytes := List.replicate 6 0xFF ++ List.replicate 6 0 ++ beBytes 2 t ++ List.replicate 46 0 }

theorem wit_PacketsAreTakenOnceAndTimersActOnAFlow :
    (linked.takesPkt (pkt5 .ack) .ack = true ∧ linked.takesPkt (pkt5 .data) .data = true ∧ linked.takesPkt (pkt5 .probe) .probe = true ∧
      linked.takesPkt (pkt5 .status) .status = true ∧ psnAt 0 0 = some 0 ∧ psnAt 1 0 = none ∧ leAt (pkt5 .status).payload 0 1 = 3 ∧
      ((linked.acceptTxc (pkt5 .probe)).flow 0).isSome = true ∧ (((linked.acceptTxc (pkt5 .data)).takeAck (pkt5 .data) false).flow 0).isSome = true) ∧
    (linked.flow 0 = some flowRt ∧ flowRt.sinceAck.head? = some (0, 0, 0) ∧ linked.flowLive 0 = true) ∧
    (let s := put F.tickCountTicks 1000000 linked;
      (flowRt.unacked.find? (fun u => u.psn % 2 ^ 32 == 3 % 2 ^ 32)).isSome = true ∧ s.flow 0 = some flowRt ∧ s.flowLive 0 = true ∧ s.rto 0 flowRt 0 ≤ ((s.now - 0) * 1000 : Nat)) ∧
    (flowRt.paths[0]?.any fun p => !p.down && p.held.any (fun t => decide (t ≤ linked.now))) = true ∧
    flowRt.unacked.any (fun u => u.probe && u.path == 0) = false ∧
    (flowRt.nextPsn ≤ flowRt.winOut ∧ flowRt.unacked.length < 65536 ∧ (linked.acceptTxc (pkt5 .data)).flow 0 = some flowRt ∧ flowRt.received.contains 0 = false ∧
      ({ flowRt with received := [0] } : Flow).received.contains 0 = true) ∧
    (let s := put F.portPCfgMtu 9216;
      s.dropReason (frame0 0x0806) = none ∧ s.takesHs (frame0 0x0806) = false ∧ s.dropReason (frame0 0x8808) = some 4 ∧ s.takesHs (frame0 0x8808) = false) := by decide +kernel

theorem wit_PortsAnswerPauseFailAndReturn :
    (put F.portPStatusUp 1).portUp 0 = true ∧ (put F.portPStatusUp 1 State.reset 31).portUp 31 = true ∧ State.reset.portUp 32 = false ∧
    ((put F.portPCfgIpv6 0 (put F.portPStatusUp 1)).fb F.portPCfgIpv6 0 = false ∧ (put F.portPStatusUp 1).fb F.portPCfgIpv6 0 = true ∧
      (put F.portPStatusUp 1).gatewayDue 0 = true ∧ ({ State.reset with gatewayAt := [(0, 0)] } : State).gatewayDue 0 = false) ∧
    (let s := put F.portPCfgSpeed 1 (put F.portPStatusState 1);
      Reg.absent s.grade ⟨.portPStatus, 0, 0⟩ = false ∧ s.lanesUsed 0 ≠ 0 ∧ s.portUp 0 = false ∧ s.f F.portPStatusState 0 ≠ 0 ∧ s.f F.portPStatusState 0 ≠ 5 ∧
      s.fb F.portPStatusFault 0 = false ∧ 1 % 2 ^ s.lanesUsed 0 = 2 ^ s.lanesUsed 0 - 1 ∧
      (let t := put F.portPCfgSpeed 4 s; t.lanesUsed 0 ≠ 0 ∧ 1 % 2 ^ t.lanesUsed 0 ≠ 0 ∧ 1 % 2 ^ t.lanesUsed 0 ≠ 2 ^ t.lanesUsed 0 - 1)) ∧
    State.reset.groupPorts 0 ≠ [] ∧
    (let s := put F.recovJDomain (groupDomain 7) (put F.recovJBusy 1);
      s.inRecovery (groupDomain 7) = true ∧ s.liveOn 4 7 = false ∧ s.liveOn 6 7 = false ∧
      ({ s with boot := { s.boot with live := some ⟨4, 7, true, 0, true⟩ } } : State).liveOn 4 7 = true) := by decide +kernel

/-- A message of a handshake of part 5 with a bad signature. -/
def handshake5 : Handshake := { (default : Handshake) with peer := 5, feeder := false, sid := 9, sigOk := false }

/-- An exchange with part 5. -/
def exchange5 (initiator : Bool) : Exchange := { (default : Exchange) with peer := 5, feeder := false, initiator := initiator, sid := 9 }

theorem wit_HandshakesFormSessionsAndSessionsEnd :
    (let s := put F.secStatusAk 1;
      s.akReady = true ∧ handshake5.feeder = false ∧ (s.exchange handshake5.peer handshake5.feeder).any (·.initiator) = false) ∧
    ({ State.reset with exchanges := [exchange5 true] } : State).exchange 5 false = some (exchange5 true) ∧
    ({ State.reset with exchanges := [exchange5 false] } : State).exchange 5 false = some (exchange5 false) ∧
    (linked.session 5 false = some session5 ∧ linked.rekeyDue session5 = true ∧ linked.exchange 5 false = none ∧ 2 ^ 40 ≤ session5.txc) := by decide +kernel

theorem wit_HandshakeOfABadSignatureIsNotTrusted : State.reset.trusts handshake5 none = false := by
  simp [State.trusts, handshake5]

/-- Two sources are listed, every port runs PTP, and source 0 announces itself. -/
def ptpSources : State :=
  let s := (List.range 32).foldl (fun s p => put F.portPCfgPtp 1 s p) (put F.ptpCfgSources 2)
  { s with ptp := { s.ptp with announced := [(0, default, 9)], asked := some 1 } }

/-- Sources 0 and 1 may speak, whichever ports the image gives them, and source 0 is selected. -/
theorem wit_PtpMessagesPulsesAndTicksActOnTime_sources : ptpSources.ptpSource 0 = true ∧ ptpSources.ptpSource 1 = true ∧ ptpSources.selected 0 = true := by
  have ports : ∀ p : Fin 32, ptpSources.fb F.portPCfgPtp p.val = true := by decide +kernel
  have listed : ∀ n : Fin 2, decide (n.val < ptpSources.f F.ptpCfgSources) = true := by decide +kernel
  have speaks (n : Fin 2) : ptpSources.ptpSource n.val = true := by
    simp only [State.ptpSource, listed n, Bool.true_and]
    exact ports ⟨ptpSources.ptpPortOf n.val, Nat.mod_lt _ (by decide)⟩
  refine ⟨speaks 0, speaks 1, ?_⟩
  have hs : (0 == ptpSources.f F.ptpStatusSource && ptpSources.ptp.announced.any fun a => a.1 == 0) = true := by decide +kernel
  simp only [State.selected, show ptpSources.ptpSource 0 = true from speaks 0, Bool.true_and]
  exact hs

theorem wit_PtpMessagesPulsesAndTicksActOnTime :
    (bestSource [(1, { (default : Announce) with priority1 := 5 }, 15), (0, default, 9)] = some 0 ∧ bestSource [(0, { (default : Announce) with steps := 1 }, 15), (1, default, 9)] = some 1 ∧
      ptpSources.ptp.asked = some 1 ∧ ptpSources.ptp.twoStep = none) ∧
    ({ ptpSources with ptp := { ptpSources.ptp with twoStep := some 0 } } : State).ptp.twoStep = some 0 ∧
    (let s := put F.tickCountTicks 4000000 (put F.ptpStatusState ptpLocked);
      s.ptpState = ptpLocked ∧ s.ptp.lastSync + 4000000 ≤ s.now) ∧
    (let u := (put F.ptpCfgPpsEn 1).countEdges 1 2; u.fb F.ptpCfgPpsEn = true ∧ u.masked 1 = false) ∧
    State.reset.fb F.tickStatusBackup = false ∧
    (let s := put F.bootStatusState 1 (put F.portPStatusUp 1); s.f F.bootStatusState = 1 ∧ s.portUp 0 = true ∧
      ((s.boot.beacons.find? fun b => b.1 == 0).all fun b => decide (b.2 + 1000000 ≤ s.now)) = true) := by decide +kernel

theorem wit_CoresSleepAndSidebandInputsAct :
    (let s := put F.pwrCtrlLullEn 1;
      s.fb F.pwrCtrlLullEn = true ∧ s.corePwr 0 = 0 ∧ (∀ q ∈ s.queuesOf 0, s.execsOf q = [] ∧ s.canStart q = false) ∧
        s.f F.pwrCtrlLullCycles < cyclesPerTick * (assoc 0 s.quiet 0 + 1) ∧ s.sideband.woken.contains 0 = false) ∧
    (let s := (put F.pwrCtrlDeepEn 1 (put F.tickCountTicks 100000000)).setCorePwr 135 1;
      s.fb F.pwrCtrlDeepEn = true ∧ s.corePwr 135 = 1 ∧ assoc 0 s.lullSince 135 + s.f F.pwrCtrlDeepTicks ≤ s.now + 1 ∧
        (s.sideband.deep.any fun e => e.1 == 135) = false ∧ ({ s with sideband := { s.sideband with deep := [(135, false)] } } : State).corePwr 135 = 1 ∧
        (s.positionOf 134).isSome = true ∧ s.idleSpare 134 = false) ∧
    (let s := { State.reset.setLevel 0 true with pcieClock := false }; s.pcieClock = false ∧ s.levelHigh 0 = true ∧ s.boot.powered = true) ∧
    ((State.reset.countEdges 2 1).masked 2 = false ∧ (put F.sbStatusMasked 4).masked 2 = true ∧ State.reset.inHove = false ∧
      State.reset.fb F.sbStatusHeld = false ∧ (put F.sbStatusHeld 1).fb F.sbStatusHeld = true) ∧
    (let s := put F.sbStatusHeld 1 (put F.bootStatusState 3);
      s.fb F.sbStatusHeld = true ∧ s.sideband.holdActive = false ∧ s.inHove = false ∧ s.holdDue = true) ∧
    (let s := { put F.sbStatusHeld 1 (put F.tickCountTicks 100000000) with sideband := { State.reset.sideband with holdSince := some 0 } };
      s.sideband.holdSince = some 0 ∧ s.fb F.sbStatusEscalated = false ∧ 0 + s.f F.sbCtrlHoldLimit * 1000 ≤ s.now) ∧
    (let u := State.showWindow { State.reset with sideband := { State.reset.sideband with edges := [(1, 0, 9), (0, 0, 9), (2, 0, 8)] } } 1;
      8 < u.sideband.window 1 ∧ u.masked 1 = false ∧ 8 < u.sideband.window 0 ∧ u.sideband.perstReported = false ∧ u.sideband.window 2 ≤ 8) := by decide +kernel

/-- The record of a core at a stage of its recovery. -/
def coreRec (core : Nat) (st : CoreStage) : CoreRec := { core := core, since := 0, counted := false, forced := false, stage := st }

theorem wit_SafetyMonitorCommandsAct :
    (State.reset.testable 0 = true ∧ State.reset.testable 136 = false ∧ State.reset.testable 16 = true ∧ State.reset.idleSpare 0 = false) ∧
    (({ State.reset with coreRecs := [coreRec 20 .testing] } : State).coreRecs.find? (fun r => r.core == 20 && r.stage == .testing) = some (coreRec 20 .testing)) ∧
    (({ State.reset with coreRecs := [coreRec 20 .spareTest] } : State).coreRecs.find? (fun r => r.core / 17 == 1 && r.stage == .spareTest) = some (coreRec 20 .spareTest)) ∧
    (({ State.reset with coreRecs := [coreRec 20 .loading] } : State).coreRecs.find? (fun r => r.core / 17 == 1 && r.stage == .loading) = some (coreRec 20 .loading)) ∧
    ((put F.hoveStatusActive 1).fset F.hoveCtrlRelease 0).inHove = true ∧
    (State.reset.causes.all fun c => State.reset.f F.safeCtrlAutoRelease / 2 ^ c % 2 == 1) = true ∧
    State.reset.linksOut.contains 18 = false ∧ (put F.recovJDomain (0x400 + 18) (put F.recovJBusy 1)).inRecovery (0x400 + 18) = true ∧
    (let s := put F.recovJDomain 0x301 (put F.recovJBusy 1);
      s.inRecovery (0x300 + 1) = true ∧ s.bridgeOut = false ∧ s.badWords (ledgerBank (1 - 1)) = []) := by decide +kernel

/-- A full retrain of channel 3 of stack 0. -/
def retrain3 : Retrain := { die := 0, channel := 3, keep := false, start := 0 }

/-- Channel 3 of stack 0 is in a state of its retrain. -/
def retraining (st : Nat) : State := { State.reset.fset F.hbmChanNState st 0 3 with retrains := [retrain3] }

theorem wit_MemoryCareRunsThroughItsStates :
    (put F.hbmStatusSelfRefresh 1).fb F.hbmStatusSelfRefresh = true ∧
    (State.reset.f F.hbmChanNState 7 31 = chanNormal ∧ ∀ c, c < 32 → State.reset.f F.hbmChanNState 7 c ≠ chanRetuning) ∧
    (State.reset.nextRetune 7 = some (0, 0) ∧ (0 : Nat) ≤ State.reset.now) ∧ State.reset.fb F.hbmStatusSelfRefresh 7 = false ∧
    (State.reset.fset F.hbmChanNState chanRetuning 7 31).f F.hbmChanNState 7 31 = chanRetuning ∧
    (retraining chanEvacuating).retrainIn 0 chanEvacuating = some retrain3 ∧ (retraining chanRemapped).retrainIn 0 chanRemapped = some retrain3 ∧
    (retraining chanCopying).retrainIn 0 chanCopying = some retrain3 := by decide +kernel

/-- A reading at a junction temperature. -/
def readingAt (tj : Nat) : Reading := { tj := tj, stackTemps := [], watts := 0, mv := 12000 }

theorem wit_SuppliesHeatAndStartsOfThePart :
    (let u := (State.reset.showReading (readingAt 200)).setDuty (readingAt 200) (State.reset.nextDuty (readingAt 200));
      u.f F.pkgCtrlHoveT ≤ 200 ∧ u.causes.contains 9 = false ∧ (u.latched.any fun e => e.hove == some 9) = false) ∧
    State.reset.boot.powered = true ∧
    (let s := { State.reset with boot := { State.reset.boot with powered := false } };
      s.boot.powered = false ∧ s.boot.tripped = false ∧ s.boot.railFaults < 3 ∧ s.fullDebug = none) ∧
    (State.reset.f F.bootStatusState = 0 ∧ State.reset.boot.waiting = false) ∧
    (let s := put F.bootStatusState 1 (put F.bootStatusQual 1); s.f F.bootStatusState = 1 ∧ s.f F.bootStatusQual = 1) ∧
    findingsPass ⟨[], [], true⟩ = false ∧ findingsPass ⟨[0], [(3, 0)], false⟩ = true := by decide +kernel

theorem wit_ImagesJobsAndTheHallStart :
    (let u := (State.reset.fset F.cfgCtrlErase 0).fset F.cfgCtrlSlot 1; u.fb F.cfgCtrlBusy = false ∧ u.booted ≠ some 1) ∧
    ({ State.reset with boot := { State.reset.boot with programming := some (1, true, [], false) } } : State).boot.programming = some (1, true, [], false) ∧
    (let s := { put F.ptpStatusState ptpLocked with boot := { State.reset.boot with config := [1] } };
      s.awaitsRole = true ∧ s.mustJoin = true ∧ s.ptpState = ptpLocked ∧ (s.boot.contactAt.all fun t => decide (t + 10000000 ≤ s.now)) = true ∧ s.hallAsked = []) ∧
    (leading.inHove = false ∧ leading.hallCommittee.head? = some leading.me ∧ leading.isMember 5 = true) ∧
    (let s := { leading with hallPending := [(.jstart [0] [5], 0)] }; s.inHove = false ∧ s.dueStart = some (.jstart [0] [5], 0)) ∧
    (let s := { put F.tickCountTicks 60000000 with boot := { State.reset.boot with firstLoaded := some 0 } };
      s.boot.firstLoaded = some 0 ∧ 0 + 60000000 ≤ s.now ∧ s.jobRuns = false) ∧
    (let u := (put F.jobStatusState 2).fset F.jobCtrlStop 0; u.f F.jobStatusState ≠ 0 ∧ u.hallAsked.contains HallCmd.jobStop = false ∧ u.jobRuns = false) := by decide +kernel

theorem wit_LiveOperationsAskWaitStartAndEnd :
    (let u := State.reset.fset F.liveCtrlStart 0;
      u.liveWhy 2 255 = 0 ∧ u.liveWhy 3 0 = 0 ∧ u.liveWhy 4 7 = 0 ∧ u.liveWhy 5 0 = 0 ∧ u.liveWhy 6 0 = 0 ∧ u.liveWhy 8 0 = 0 ∧ u.liveWhy 2 256 ≠ 0 ∧ u.liveWhy 7 136 ≠ 0 ∧
      ∀ op, op < 9 → u.atBoundary ⟨op, 0, false, u.commitSeq, false⟩ = true) ∧
    ((put F.featCoresSpareFree 1).fset F.liveCtrlStart 0).liveWhy 7 0 = 0 ∧
    (let s := { State.reset with boot := { State.reset.boot with live := some ⟨5, 0, false, 0, false⟩ } };
      s.boot.live = some ⟨5, 0, false, 0, false⟩ ∧ s.slotsReady = true ∧ s.atBoundary ⟨5, 0, false, 0, false⟩ = true) ∧
    (let s := { State.reset with boot := { State.reset.boot with live := some ⟨1, 1, false, 0, false⟩ } };
      s.boot.live = some ⟨1, 1, false, 0, false⟩ ∧ s.atBoundary ⟨1, 1, false, 0, false⟩ = true) ∧
    (let s := { put F.jobStatusState 4 with boot := { State.reset.boot with staged := [1] } };
      s.f F.jobStatusState = 4 ∧ s.boot.staged ≠ [] ∧ s.inHove = false) := by decide +kernel

/-- A ring entry of a kind. -/
def ringEntryOf (kind : Nat) : List Byte := BitVec.ofNat 8 kind :: List.replicate 63 0

/-- Ring 63 has taken one entry. -/
def ringTook (kind : Nat) : State := State.reset.setRing 63 { taken := [(0, ringEntryOf kind)] }

theorem wit_HostRingsTakeCheckAndCompleteEntries :
    (State.reset.inHove = false ∧ State.reset.fullDebug = none) ∧
    (∀ k, k < 6 → ((ringTook k).ring 63).taken = [(0, ringEntryOf k)] ∧ (ringTook k).entryFault (ringEntryOf k) = none ∧ entryKind (ringEntryOf k) = k ∧
      ((ringTook k).ring 63).busy = none ∧ (ringTook k).ringTurn 63 = true) ∧
    ((ringTook 6).entryFault (ringEntryOf 6)).isSome = true ∧
    ((State.reset.setRing 63 { busy := some (0, ringEntryOf 4) }).ring 63).busy = some (0, ringEntryOf 4) ∧
    (State.reset.setRing 63 { busy := some (0, ringEntryOf 4) }).jobOver (leAt (ringEntryOf 4) 8 1) = true ∧
    ((State.reset.fset F.hringNStatusState ringHalted 63).fset F.hringNCtrlRetry 0 63).f F.hringNStatusState 63 = ringHalted := by decide +kernel

theorem wit_BarsRegistersAndInterruptsAnswer :
    (State.reset.memClosed = false ∧ State.reset.window 0 8 = some (.sram, 0) ∧ (State.reset.load true .sram 0 8).2.isSome = true) ∧
    State.reset.window (2 ^ 36) 8 = none ∧ (put F.secCtrlIdeRequired 1).memClosed = true ∧ State.reset.ideBars = false ∧ (put F.secCtrlIdeRequired 1).ideBars = true ∧
    State.reset.readsOnly = false ∧ (put F.bootStatusQual 4).readsOnly = true ∧ windowReg (Reg.offset ⟨.hostWin, 0, 0⟩) = true ∧ windowReg (Reg.offset ⟨.hostErr, 0, 0⟩) = false ∧
    (State.reset.fetchLedger ((State.reset.f F.ledgerWinBase * 0x100000 + 0xFFFF8) / 8)).2.isSome = true ∧
    (Reg.ofOffset (Reg.offset ⟨.hostWin, 0, 0⟩) = some ⟨.hostWin, 0, 0⟩ ∧ State.reset.promotedBlock ⟨.hostWin, 0, 0⟩ = false ∧
      Reg.absent State.reset.grade ⟨.hostWin, 0, 0⟩ = false) ∧
    (State.reset.fset F.intcTgtTCtrlMask 1 138).fb F.intcTgtTCtrlMask 138 = true ∧
    (let s := { State.reset with msixOn := true, msixRaised := [255] }; s.msixOn = true ∧ s.msixRaised.contains 255 = true) := by decide +kernel

/-- The attestation key is ready, and both SPDM connections are in phase 3 with a secured session. -/
def secured : State := { put F.secStatusAk 1 with spdmDoe := { phase := 3, psk := some 0, session := 2 }, spdmMctp := { phase := 3, psk := some 0, session := 1 } }

theorem wit_SpdmRequestsAnswerInTheirPhase :
    secured.spdmOpen = true ∧ secured.spdmReady .doe = true ∧ secured.spdmReady .mctp = true ∧ secured.dbgLevel ≠ 2 ∧ (secured.spdmConn .doe).psk.isSome = true ∧
    (secured.spdmConn .mctp).session = 1 ∧ secured.spdmSecured .doe = true ∧ secured.spdmSecured .mctp = false ∧ State.reset.spdmReady .doe = false ∧
    ((put F.dbgStatusLevel 2 secured).dbgLevel = 2 ∧ ((put F.dbgStatusLevel 2 secured).spdmConn .doe).phase = 3) := by decide +kernel

theorem wit_DebugOpensByTokenAndClosesAndTestPortActs :
    ((State.reset.fset F.dbgCtrlSubmit 0).jtagEdge.contains 0 = false ∧
      ((State.reset.fset F.dbgCtrlSubmit 0).readBytes .sram (State.reset.f F.dbgTokenBase) (State.reset.f F.dbgTokenLen)).2.isSome = true) ∧
    ({ State.reset with jtagEdge := [0] } : State).jtagEdge.contains 0 = true ∧ ((put F.dbgStatusLevel 1).fset F.dbgCtrlClose 0).dbgLevel = 1 ∧
    (let s := { put F.tickCountTicks 2000 with fullDebug := some 0 }; s.fullDebug = some 0 ∧ 0 + 2000 ≤ s.now ∧ s.dbgLevel ≠ 2) ∧
    (put F.dbgStatusLevel 2).dbgLevel = 2 ∧ State.reset.dbgLevel < 2 ∧
    ({ State.reset with bist := [(2, 135)] } : State).bist.contains (2, 135) = true := by decide +kernel

theorem wit_RowsHaveOneHomeShardAndLocalSlot : 0 < (tableReplaced.dir 0).shards := by decide +kernel

theorem wit_SoftwareWritesFollowTheAccessTypes : RegName.portPStatus.fields ≠ [] ∧ ∀ f ∈ RegName.portPStatus.fields, f.lo + f.w ≤ 64 := by decide +kernel


theorem wit_TheCodeCorrectsTwoBitsAndDetectsThree :
    c80Correction (BitVec.twoPow 80 79) = some (BitVec.twoPow 80 79) ∧
    c80Correction (BitVec.twoPow 80 79 ^^^ BitVec.twoPow 80 0) = some (BitVec.twoPow 80 79 ^^^ BitVec.twoPow 80 0) ∧
    c80Correction (BitVec.twoPow 80 79 ^^^ BitVec.twoPow 80 1 ^^^ BitVec.twoPow 80 0) = none := by decide +kernel

theorem wit_WaitsAreReachedByTheDistanceOfTheFlag :
    waitReached (BitVec.ofNat 16 (0xFFFF + 0x7FFF)) 0xFFFF = true ∧ waitReached (BitVec.ofNat 16 (0x8000 - 0x8000)) 0x8000 = false ∧
    waitReached (BitVec.ofNat 16 (1 - 1)) 1 = false := by decide

theorem wit_ElementCodesPackIntoTheElementPlane :
    packRow .u8s [0xFF] = [0xFF] ∧ packRow .u4s [0xF, 0x3] = [0x3F] := by decide

theorem wit_ComparisonsAndExtremaFollowIeee : Val.ltv (.fin true 1 0) (.fin false 1 0) = true := by decide +kernel

theorem wit_StorageReadsBackAndLedgerWritesReachBothCopies :
    (State.reset.setBytes .ledgerE (2 ^ 44 - 1) [7]).byte .ledgerE (2 ^ 44 - 1) = 7 ∧
    (State.reset.setLed (8 * (2 ^ 25 - 1)) 8 7).byte .ledgerW (8 * (2 ^ 25 - 1)) = 7 ∧
    (State.reset.setLed (8 * (2 ^ 25 - 1)) 8 7).byte .ledgerE (8 * (2 ^ 25 - 1) - 1) = 0 := by decide +kernel

theorem wit_LookingCommandsLeaveTheWorkAlone :
    (∃ t, exec .idcode State.reset = .next t) ∧ (∃ t, exec (.tmSelWrite 0) State.reset = .next t) ∧ (∃ t, exec (.getDigests .doe) State.reset = .next t) ∧
    (∃ t, exec (.pendingClear 0) State.reset = .next t) ∧ (∃ t, exec (.ptpDelayReqSend 0) State.reset = .next t) := by
  refine ⟨⟨_, rfl⟩, ?_, ?_, ?_, ?_⟩
  · simp only [exec, execTmSelWrite]; split <;> exact ⟨_, rfl⟩
  · simp only [exec, execGetDigests]; split <;> exact ⟨_, rfl⟩
  · simp only [exec, execPendingClear]; split <;> exact ⟨_, rfl⟩
  · simp only [exec, execPtpDelayReqSend]; split <;> exact ⟨_, rfl⟩


theorem wit_ReservesHoldTheSlotsOfOneChannel :
    (8 * (hbmSpace / 8 - 1) < hbmSpace) ∧
    (hbmSpace ≤ 8 * (hbmSpace / 8) ∧ (hbmPlace (8 * (hbmSpace / 8))).slot < 6291456 ∧ (hbmPlace (8 * (hbmSpace / 8))).channel = 0) ∧
    reserveWord (reservedFor 31 (hbmSpace / 8)) = hbmSpace / 8 := by decide

/-- A packet with every field of its header at the end of its range. -/
def pktMax : Pkt :=
  { ver := 15, type := some .probe, first := true, last := true, retx := true, cls := 7, dstFlow := 4095, dstPart := 65535, srcPart := 65535, srcFlow := 4095, path := 255
    key := 15, feeder := true, psn := 2 ^ 32 - 1, ackPsn := 2 ^ 32 - 1, win := 2 ^ 32 - 1, msg := 2 ^ 32 - 1, offset := 2 ^ 32 - 1, ts := 2 ^ 32 - 1, txc := 2 ^ 64 - 1
    len := 65535, payload := [1], sealOk := true, ce := false }

theorem wit_NaeloHeadersKeepEveryField :
    pktMax.ver < 2 ^ 4 ∧ pktMax.cls < 2 ^ 3 ∧ pktMax.dstFlow < 2 ^ 12 ∧ pktMax.dstPart < 2 ^ 16 ∧ pktMax.srcPart < 2 ^ 16 ∧ pktMax.srcFlow < 2 ^ 12 ∧ pktMax.path < 2 ^ 8 ∧
    pktMax.key < 2 ^ 4 ∧ pktMax.psn < 2 ^ 32 ∧ pktMax.ackPsn < 2 ^ 32 ∧ pktMax.win < 2 ^ 32 ∧ pktMax.msg < 2 ^ 32 ∧ pktMax.offset < 2 ^ 32 ∧ pktMax.len < 2 ^ 16 ∧
    pktMax.ts < 2 ^ 32 ∧ pktMax.txc < 2 ^ 64 := by decide

/-! ### Values worked in the spec -/

/-- The header words of the example of chapter 10: the first reply packet of an intake transfer. -/
theorem test_naelo_header_example :
    headerOf { ver := 1, type := some .data, first := true, last := false, retx := false, cls := 3, dstFlow := 0x805, dstPart := 12, srcPart := 3, srcFlow := 1, path := 2
               key := 0, feeder := true, psn := 0x1000, ackPsn := 7, win := 0x10007, msg := 0x42, offset := 0, ts := 0x3D090, txc := 0x51, len := 0x2000, payload := []
               sealOk := true, ce := false } =
      [0x10806805000C0003, 0x0010208000001000, 0x0000000700010007, 0x0000004200000000, 0x200000000003D090, 0x51].flatMap (beBytes 8) := by decide +kernel


/-- The register addresses given as examples by R111, R148, R182, R266 and the chapters of the ports, the FXE and the idle counters. -/
theorem test_register_addresses :
    Reg.offset ⟨.mxeOvfN, 5 * 17 + 3, 1⟩ = 0x02468028 ∧ Reg.offset ⟨.vxeMode, 2 * 17 + 7, 0⟩ = 0x018EA008 ∧ Reg.offset ⟨.queueQParamM, 0x189, 5⟩ = 0x01C40628 ∧
    Reg.offset ⟨.lkeRingN, 0x347, 0⟩ = 0x02B00118 ∧ Reg.offset ⟨.lkeRingN, 0x428, 0⟩ = 0x00B00140 ∧ Reg.offset ⟨.portPStatus, 20, 0⟩ = 0x00A14008 ∧
    Reg.offset ⟨.idleN, 1 * 17 + 4, 7⟩ = 0x0148C038 ∧ Reg.offset ⟨.hbmChanN, 0, 15⟩ = 0x01380178 := by decide +kernel

/-- The test vectors of Table 2.7 (R79). -/
theorem test_eddy_vectors :
    eddy ⟨0, 0, 0, 0, 0x0000, 0⟩ = 0xA5 ∧ eddy ⟨0, 0, 0, 0, 0x0001, 0⟩ = 0xB2 ∧ eddy ⟨0x0123456789ABCDEF, 1, 7, 0x100, 0x0003, 0⟩ = 0xC7 := by decide +kernel

/-- The conversion worked in the example of chapter 2: 0x3D40 and 0x4590 of U16w become 0x03 and 0x69 with offset byte 3. -/
theorem test_u8s_example :
    let e := encodeBlock .u8s ([((Fmt.u16w.decode 0x3D40 0).1, 0xA5), ((Fmt.u16w.decode 0x4590 0).1, 0)] ++ List.replicate 30 (.fin false 0 0, 0))
    e.codes.take 2 = [0x03, 0x69] ∧ e.offsets = [3] ∧ e.ovf = 0 ∧ e.van = 0 := by decide +kernel

/-- Without the carry of its random bits element 0 of that example is 0x02. -/
theorem test_u8s_example_down :
    ((encodeBlock .u8s ([((Fmt.u16w.decode 0x3D40 0).1, 127), ((Fmt.u16w.decode 0x4590 0).1, 0)] ++ List.replicate 30 (.fin false 0 0, 0))).codes.take 2) = [0x02, 0x69] := by
  decide +kernel

/-- The place of the offset of the example of R205. -/
theorem test_hbm_place_example :
    hbmPlace 0x1234567800 = { stack := 0, channel := 15, slot := 1193046, pseudo := 0, column := 3, stackId := 0, bank := 14, row := 3106 } := by decide

/-- The place of that offset in the reserves of its stack, as the example of R212 has it. -/
theorem test_hbm_reserve_example :
    (hbmPlace (8 * reserveWord (0x1234567800 / 8))).channel = 6 ∧ (hbmPlace (8 * reserveWord (0x1234567800 / 8))).slot = 6108246 := by decide

/-- The home shard and local slot of the rows of the example of chapter 7. -/
theorem test_row_home_example :
    let d := { tableReplaced.dir 0 with blk := 6, shards := 1536 }
    d.shardOf 9876543210 = 603 ∧ d.localOf 9876543210 = 6430058 ∧ d.localOf 9876543211 = 6430059 ∧ d.shardOf 773 = 12 ∧ d.localOf 773 = 5 := by decide +kernel

/-! ### Single steps -/

/-- The state that a step answers. -/
def after (i : Instr) (s : State) : State :=
  match exec i s with
  | .next t => t
  | _ => s

/-- PERST_N: a pulse of under four ticks counts two transitions (R408). -/
theorem test_short_pulse_counts_twice : (after (.perstNAssert 3) State.reset).f F.sbCountITransitions 0 = 2 := by decide +kernel

/-- An end of interrupt drops the handler taken last (R515). -/
theorem test_end_of_interrupt_drops_the_handler :
    assoc [] (after (.interruptEoi 138) { State.reset with handlers := [(138, [4, 2])] }).handlers 138 = [2] := by decide +kernel

/-- CE_LIMIT_EXCEEDED: a count at the limit triggers nothing (R211). -/
theorem test_ce_limit_is_exclusive :
    let s := (put F.hbmCfgCeLimit 5 State.reset 7).fset F.hbmChanNCeMin 5 7 31
    after (.ceLimitExceeded 7 31) s = s := by decide +kernel

/-- RETUNE_END: a margin of 8 returns the channel to NORMAL and triggers nothing (R210). -/
theorem test_retune_margin_of_eight :
    let t := after (.retuneEnd 7 31 8) (State.reset.fset F.hbmChanNState chanRetuning 7 31)
    t.f F.hbmChanNState 7 31 = chanNormal ∧ t.f F.hbmChanNMargin 7 31 = 8 ∧ t.f F.hbmChanNRetunes 7 31 = 1 ∧ t.retrains = [] := by decide +kernel

/-- ERR_RING: a read pointer ahead of what was written is ignored (R422). -/
theorem test_err_ring_read_ahead : (after (.errRingReadAdvance 1) State.reset).f F.errRingRead = 0 := by decide +kernel

/-- INTC: a masked target claims nothing; the answer is 0 (R515). -/
theorem test_masked_target_claims_nothing :
    (after (.interruptClaim 0) (put F.intcTgtTCtrlMask 1)).out = [.hostData [0, 0, 0, 0, 0, 0, 0, 0]] := by decide +kernel

/-- The memory window is closed while IDE is required and not active (R490). -/
theorem test_closed_window_answers_ur : (after (.memBarRead 0 8) (put F.secCtrlIdeRequired 1)).out = [.hostUr] := by decide +kernel

/-- A 16-bit wait is reached across the wrap (R170). -/
theorem test_wait_across_the_wrap : waitReached 2 0xFFFE = true ∧ waitReached 0xFFFD 0xFFFE = false := by decide +kernel

end Sys2Proof.Tests
end

section
/-! PROOFS. The statements of spec/00_scope.md: what a step keeps and the state after reset, software writes of registers, what the host, supplies and starts meet, and time. -/

/-! ### What a step keeps -/

namespace Sys2Proof.Proofs

open Sys2Proof.Machine Sys2Proof.Laws Sys2Proof.Safety

/-- A next state of a command has the grade and the queue of the state before, and its storage is canonical where that of the state before is. -/
theorem keeps_of_exec_eq_next {c : Instr} {s t : State} (h : exec c s = .next t) : Keeps s t :=
  (keeps_exec (Keeps.refl s)).next_keeps t h

theorem step_of_pending_nil {s : State} (h : s.pending = []) : step s = .next s := by
  simp only [step, h]

theorem step_of_pending_cons {s : State} {c : Instr} {rest : List Instr} (h : s.pending = c :: rest) :
    step s = exec c { s with pending := rest } := by
  simp only [step, h]

/-- The queue of commands is no part of the storage. -/
theorem canonical_with_pending {s : State} (h : Canonical s) (l : List Instr) : Canonical { s with pending := l } :=
  ⟨h.mem, h.errs, h.poison, h.regs, h.flags⟩

theorem wf_nil {κ α : Type} [DecidableEq α] (d : κ → α) (ord : κ → Nat) : Store.wf d ord [] = true := rfl

/-- Settles O1: the function of each command keeps the queue and the grade (`keeps_exec`). -/
theorem commandsLeaveQueueAndGradeAlone : Obligations.CommandsLeaveQueueAndGradeAlone := by
  intro c s t h
  have k : Keeps s t := keeps_of_exec_eq_next h
  exact ⟨k.pending, k.grade⟩

/-- Settles O2: an idle step answers the state itself; any other runs one command, whose function keeps the canonical form (`keeps_exec`). -/
theorem stepKeepsStorageCanonical : Obligations.StepKeepsStorageCanonical := by
  intro s t hs h
  cases hp : s.pending with
  | nil =>
    rw [step_of_pending_nil hp] at h
    cases h
    exact hs
  | cons c rest =>
    rw [step_of_pending_cons hp] at h
    exact (keeps_of_exec_eq_next h).canonical (canonical_with_pending hs rest)

/-- Settles O3: every store of the reset state is empty. -/
theorem resetStorageIsCanonical : Obligations.ResetStorageIsCanonical :=
  ⟨wf_nil .., wf_nil .., wf_nil .., wf_nil .., wf_nil ..⟩

/-! ### The state after reset -/

theorem byte_of_mem_nil {s : State} (h : s.mem = []) (b : Bank) (off : Nat) : s.byte b off = 0 := by
  rw [State.byte, h]
  rfl

theorem flag_of_flags_nil {s : State} (h : s.flags = []) (die i : Nat) : s.flag die i = 0 := by
  rw [State.flag, h]
  rfl

/-- Settles O57: the stores of the reset state are empty, so each key reads as an unlisted one does. -/
theorem resetRegistersHoldTheirResetColumn : Obligations.ResetRegistersHoldTheirResetColumn :=
  ⟨fun _ => rd_reset, flag_of_flags_nil rfl, byte_of_mem_nil rfl, rfl, rfl, rfl, rfl, rfl, rfl, by decide, by decide, by decide⟩

end Sys2Proof.Proofs

/-! ### Software writes of registers (Table 0.3) -/

namespace Sys2Proof.Proofs

open Sys2Proof.Machine Sys2Proof.Laws

/-- A bit lies in a field. -/
abbrev InField (f : RField) (k : Nat) : Prop := f.lo ≤ k ∧ k < f.lo + f.w

/-- Two fields share no bit. -/
abbrev Apart (f g : RField) : Prop := f.lo + f.w ≤ g.lo ∨ g.lo + g.w ≤ f.lo

/-- A bit of a field after a software write, by the access type of the field (Table 0.3). -/
def bitWritten (locked : Bool) (r : Reg) (old new : Word) (f : RField) (k : Nat) : Bool :=
  match r.access f with
  | .ro | .rc | .jobLoader => old.getLsbD k
  | .rw => new.getLsbD k
  | .rwl => if locked || !fieldTakes r.name f.lo (getBits new f.lo f.w) then old.getLsbD k else new.getLsbD k
  | .w1c => old.getLsbD k && !new.getLsbD k
  | .w1s => old.getLsbD k || new.getLsbD k

theorem fields_apart (n : RegName) : n.fields.Pairwise Apart := by
  cases n <;> decide

theorem fields_in_word (n : RegName) : ∀ f ∈ n.fields, f.lo + f.w ≤ 64 := by
  cases n <;> decide

variable {locked : Bool} {r : Reg} {old new v : Word} {f : RField} {k : Nat}

theorem getLsbD_setBits_in (hk : InField f k) (h : k < 64) (x : Nat) : (setBits v f.lo f.w x).getLsbD k = x.testBit (k - f.lo) := by
  rw [getLsbD_setBits k h, if_pos hk]

theorem getLsbD_setBits_out (hk : ¬ InField f k) (h : k < 64) (x : Nat) : (setBits v f.lo f.w x).getLsbD k = v.getLsbD k := by
  rw [getLsbD_setBits k h, if_neg hk]

/-- A bit of a field's value is the bit of the word at its place. -/
theorem testBit_getBits_in (hk : InField f k) : (getBits v f.lo f.w).testBit (k - f.lo) = v.getLsbD k := by
  obtain ⟨hlo, hhi⟩ := hk
  rw [testBit_getBits, Nat.add_sub_cancel' hlo, decide_eq_true (by omega), Bool.true_and]

/-- The write of one field leaves the bits outside it alone. -/
theorem getLsbD_swField_out (hk : ¬ InField f k) (h : k < 64) : (swField locked r old new v f).getLsbD k = v.getLsbD k := by
  unfold swField
  cases r.access f <;> dsimp only
  case rwl => split <;> simp only [getLsbD_setBits_out hk h]
  all_goals simp only [getLsbD_setBits_out hk h]

/-- The write of one field gives each bit of it what its access type says. -/
theorem getLsbD_swField_in (hk : InField f k) (h : k < 64) (hv : v.getLsbD k = old.getLsbD k) :
    (swField locked r old new v f).getLsbD k = bitWritten locked r old new f k := by
  have hlt : k - f.lo < 64 := by omega
  unfold swField bitWritten
  cases r.access f <;> dsimp only
  case rwl =>
    split
    · exact hv
    · rw [getLsbD_setBits_in hk h, testBit_getBits_in hk]
  case rw => rw [getLsbD_setBits_in hk h, testBit_getBits_in hk]
  case w1c =>
    rw [getLsbD_setBits_in hk h, BitVec.testBit_toNat, BitVec.getLsbD_and, BitVec.getLsbD_not, BitVec.getLsbD_ofNat, BitVec.getLsbD_ofNat,
      testBit_getBits_in hk, testBit_getBits_in hk]
    simp [hlt]
  case w1s =>
    rw [getLsbD_setBits_in hk h, BitVec.testBit_toNat, BitVec.getLsbD_or, BitVec.getLsbD_ofNat, BitVec.getLsbD_ofNat,
      testBit_getBits_in hk, testBit_getBits_in hk]
    simp [hlt]
  all_goals exact hv

/-- The writes of fields that do not hold a bit leave it alone. -/
theorem getLsbD_foldl_swField_out {l : List RField} (hl : ∀ f ∈ l, ¬ InField f k) (h : k < 64) :
    (l.foldl (fun v f => swField locked r old new v f) v).getLsbD k = v.getLsbD k := by
  induction l generalizing v with
  | nil => rfl
  | cons g l ih =>
    rw [List.foldl_cons, ih fun f hf => hl f (List.mem_cons_of_mem g hf), getLsbD_swField_out (hl g List.mem_cons_self) h]

theorem Apart.not_inField {g : RField} (h : Apart f g) (hk : InField f k) : ¬ InField g k := by
  omega

/-- Of the writes of fields that lie apart, the one of a bit's own field decides the bit. -/
theorem getLsbD_foldl_swField_in {l : List RField} (hl : l.Pairwise Apart) (hf : f ∈ l) (hk : InField f k) (h : k < 64)
    (hv : v.getLsbD k = old.getLsbD k) :
    (l.foldl (fun v f => swField locked r old new v f) v).getLsbD k = bitWritten locked r old new f k := by
  induction l generalizing v with
  | nil => cases hf
  | cons g l ih =>
    obtain ⟨hg, hl⟩ := List.pairwise_cons.mp hl
    rw [List.foldl_cons]
    rcases List.mem_cons.mp hf with rfl | hf
    · rw [getLsbD_foldl_swField_out (fun x hx => (hg x hx).not_inField hk) h, getLsbD_swField_in hk h hv]
    · have hgk : ¬ InField g k := fun hc => (hg f hf).not_inField hc hk
      exact ih hl hf ((getLsbD_swField_out hgk h).trans hv)

/-- Settles O55: the fields of a register lie apart and within the word, so the write of a bit's own field decides it, and no write reaches a bit outside
every field. -/
theorem softwareWritesFollowTheAccessTypes : Obligations.SoftwareWritesFollowTheAccessTypes := by
  intro locked r old new
  constructor
  · intro f hf k hlo hhi
    have hword := fields_in_word r.name f hf
    exact getLsbD_foldl_swField_in (fields_apart r.name) hf ⟨hlo, hhi⟩ (by omega) rfl
  · intro k h hout
    refine getLsbD_foldl_swField_out (fun f hf hk => ?_) h
    obtain ⟨hlo, hhi⟩ := hk
    have := hout f hf
    omega

end Sys2Proof.Proofs
end

section

/-! ### The BARs, the interrupt controller and MSI-X (R490, R500 to R517) -/

namespace Sys2Proof.Proofs

open Sys2Proof.Machine Sys2Proof.Laws

variable {s u : State} {x len off t n : Nat} {b : Bank} {l data : List Byte} {value v : Word} {r : Reg}

/-! #### The memory BAR -/

theorem exec_memBarRead_of_memClosed (h : s.memClosed = true) : exec (.memBarRead x len) s = .next (s.emit .hostUr) := by
  show execMemBarRead x len s = _
  rw [execMemBarRead, if_pos h]
  rfl

theorem exec_memBarWrite_of_memClosed (h : s.memClosed = true) : exec (.memBarWrite x data) s = .next (s.emit .hostUr) := by
  show execMemBarWrite x data s = _
  rw [execMemBarWrite, if_pos h]
  rfl

/-- An open memory BAR reads where its window leads. -/
theorem exec_memBarRead_of_load (h : s.memClosed = false) (hw : s.window x len = some (b, off)) (hl : s.load false b off len = (u, some l)) :
    exec (.memBarRead x len) s = .next (u.emit (.hostData l)) := by
  show execMemBarRead x len s = _
  simp only [execMemBarRead, h, hw, hl, Bool.false_eq_true, if_false]

theorem exec_memBarRead_of_window_none (h : s.memClosed = false) (hw : s.window x len = none) :
    exec (.memBarRead x len) s = .next ((s.fadd F.hostErrWinFaults).emit .hostUr) := by
  show execMemBarRead x len s = _
  simp only [execMemBarRead, h, hw, Bool.false_eq_true, if_false]
  rfl

/-- An open memory BAR stores where its window leads. -/
theorem exec_memBarWrite_of_window (h : s.memClosed = false) (hw : s.window x data.length = some (b, off)) :
    exec (.memBarWrite x data) s = .next (s.hostStore b off data) := by
  show execMemBarWrite x data s = _
  simp only [execMemBarWrite, h, hw, Bool.false_eq_true, if_false]

theorem exec_memBarWrite_of_window_none (h : s.memClosed = false) (hw : s.window x data.length = none) :
    exec (.memBarWrite x data) s = .next (s.fadd F.hostErrWinFaults) := by
  show execMemBarWrite x data s = _
  simp only [execMemBarWrite, h, hw, Bool.false_eq_true, if_false]
  rfl

/-! #### The window registers and the Ledger window -/

theorem exec_hostWinWrite_of_ideBars_false (h : s.ideBars = false) : exec (.hostWinWrite value) s = .next (s.writeHostWin value) := by
  show execHostWinWrite value s = _
  simp only [execHostWinWrite, h, Bool.false_eq_true, if_false]

theorem exec_ledgerWinWrite_of_ideBars_false (h : s.ideBars = false) :
    exec (.ledgerWinWrite value) s = .next (s.fset F.ledgerWinBase (getBits value 0 8)) := by
  show execLedgerWinWrite value s = _
  simp only [execLedgerWinWrite, h, Bool.false_eq_true, if_false]

/-- An aligned read within the Ledger window returns the word that R35 gives. -/
theorem exec_ledgerWindowRead_of_fetchLedger (hx : x % 8 = 0) (hlt : x < 0x100000)
    (h : s.fetchLedger ((s.f F.ledgerWinBase * 0x100000 + x) / 8) = (u, some v)) :
    exec (.ledgerWindowRead x) s = .next (u.emit (.hostData (leBytes 8 v.toNat))) := by
  show execLedgerWindowRead x s = _
  rw [execLedgerWindowRead, if_neg (by omega)]
  simp only [State.readLedgerWin, h]

/-! #### Registers -/

/-- A write at the offset of a register that exists is the software write of that register. -/
theorem writeOffset_eq_softWrite (ha : off % 8 = 0) (hlt : off < 0x04000000) (hw : off < 0x700000 ∨ 0x800000 ≤ off)
    (hr : Reg.ofOffset off = some r) (hp : s.promotedBlock r = false) (hg : r.absent s.grade = false) :
    s.writeOffset off value = s.softWrite r value := by
  rw [State.writeOffset, if_neg (by omega)]
  simp only [hr, hp, hg, Bool.false_eq_true, if_false]

/-- A read at the offset of a register other than a claim is the software read of that register. -/
theorem readOffset_eq_swRead (ha : off % 8 = 0) (hlt : off < 0x04000000) (hw : off < 0x700000 ∨ 0x800000 ≤ off)
    (hr : Reg.ofOffset off = some r) (hp : s.promotedBlock r = false) (hn : r.name ≠ .intcTgtTClaim) (h : (s.refresh r).swRead r = (v, u)) :
    s.readOffset off = u.emit (.hostData (leBytes 8 v.toNat)) := by
  rw [State.readOffset, if_neg (by omega), if_neg (by omega)]
  simp only [hr, hp, hn, h, Bool.false_eq_true, if_false]

theorem exec_registerWrite_of_ideBars (h : s.ideBars = true) : exec (.registerWrite off value) s = .next (s.emit .hostUr) := by
  show execRegisterWrite off value s = _
  rw [execRegisterWrite, if_pos h]
  rfl

/-- A part that serves only reads drops the writes of other registers than the windows' (R457; log entry 148). -/
theorem exec_registerWrite_of_readsOnly (h : s.ideBars = false) (hro : s.readsOnly = true) (hw : windowReg off = false) :
    exec (.registerWrite off value) s = .next s := by
  show execRegisterWrite off value s = _
  simp [execRegisterWrite, h, hro, hw]

theorem exec_registerWrite_of_served (h : s.ideBars = false) (hs : s.readsOnly = false ∨ windowReg off = true) :
    exec (.registerWrite off value) s = .next (s.writeOffset off value) := by
  show execRegisterWrite off value s = _
  rcases hs with hs | hs <;> simp [execRegisterWrite, h, hs]

/-! #### The interrupt controller -/

theorem exec_interruptClaim (ht : t < 139) : exec (.interruptClaim t) s = .next (s.claim t) := by
  show execInterruptClaim t s = _
  rw [execInterruptClaim, if_neg (by omega)]

theorem claim_of_masked (h : s.fb F.intcTgtTCtrlMask t = true) : s.claim t = s.emit (.hostData (leBytes 8 0)) := by
  simp only [State.claim, h, if_true]

/-- A claim of a target with no mask takes the source chosen: its PENDING clears and its level nests. -/
theorem claim_of_chosen (h : s.fb F.intcTgtTCtrlMask t = false) (hn : s.chosen t = some n) :
    s.claim t = State.emit ((s.fset F.intcSrcNPending 0 n).setHandlers t (s.sourceLevel n :: assoc [] s.handlers t)) (.hostData (leBytes 8 (0x8000 + n))) := by
  simp only [State.claim, h, hn, Bool.false_eq_true, if_false]

theorem exec_interruptEoi (ht : t < 139) : exec (.interruptEoi t) s =
    .next ((s.fset F.intcTgtTEoiEoi 0 t).setHandlers t (assoc [] s.handlers t).tail) := by
  show execInterruptEoi t s = _
  rw [execInterruptEoi, if_neg (by omega)]

/-- Every source but the internal ones 745 to 751 holds a PENDING bit that software clears. -/
theorem exec_pendingClear (h : n < 745 ∨ 751 < n ∧ n < 1024) : exec (.pendingClear n) s = .next (s.fclear F.intcSrcNPending n) := by
  show execPendingClear n s = _
  rw [execPendingClear, if_neg (by omega)]

/-! #### MSI-X -/

/-- A raised vector is raised no more, and either sends its message or becomes pending. -/
theorem exec_msixMessage_of_raised (hon : s.msixOn = true) (hr : s.msixRaised.contains n = true)
    (hu : u = { s with msixRaised := s.msixRaised.filter fun x => x != n }) :
    exec (.msixMessage n) s = .next (if u.msixMask || u.fb F.msixDataVMask n then u.raiseVector n
      else u.emit (.msix n (u.f F.msixAddrVAddr n) (u.f F.msixDataVData n))) := by
  subst hu
  show execMsixMessage n s = _
  simp only [execMsixMessage, hon, hr, Bool.not_true, Bool.or_self, Bool.false_eq_true, if_false]
  split <;> rfl

theorem exec_msixUnmask_vector (hn : n < 256) : exec (.msixUnmask n) s = .next ((s.fset F.msixDataVMask 0 n).releasePba n) := by
  show execMsixUnmask n s = _
  rw [execMsixUnmask, if_pos hn]

/-- Settles O47: each clause is what one command of the BARs, the interrupt controller or MSI-X answers in its case. -/
theorem barsRegistersAndInterruptsAnswer : Obligations.BarsRegistersAndInterruptsAnswer := by
  refine ⟨?memRead, ?memWrite, ?memClosed, ?windows, ?ledgerRead, ?refused, ?registers, ?interrupts, ?pending, ?message, ?unmask⟩
  case memRead => exact fun _ _ _ _ _ _ _ hc hw hl => exec_memBarRead_of_load hc hw hl
  case memWrite =>
    intro x data s hc
    exact ⟨fun _ _ hw => exec_memBarWrite_of_window hc hw,
      fun hw => ⟨exec_memBarWrite_of_window_none hc hw, exec_memBarRead_of_window_none hc hw⟩⟩
  case memClosed => exact fun _ _ _ hc => ⟨exec_memBarRead_of_memClosed hc, exec_memBarWrite_of_memClosed hc⟩
  case windows => exact fun _ _ hi => ⟨exec_hostWinWrite_of_ideBars_false hi, exec_ledgerWinWrite_of_ideBars_false hi⟩
  case ledgerRead => exact fun _ _ _ _ hx hlt h => exec_ledgerWindowRead_of_fetchLedger hx hlt h
  case refused => exact fun _ _ _ => ⟨rfl, rfl⟩
  case registers =>
    intro off value r s ha hlt hw hr hp hg
    refine ⟨fun hi hs => ?_, exec_registerWrite_of_readsOnly, exec_registerWrite_of_ideBars, fun u v hn h => ?_⟩
    · rw [exec_registerWrite_of_served hi hs, writeOffset_eq_softWrite ha hlt hw hr hp hg]
    · exact congrArg _ (readOffset_eq_swRead ha hlt hw hr hp hn h)
  case interrupts =>
    intro t n s ht
    refine ⟨fun hm => ?_, fun hm hn => ?_, exec_interruptEoi ht⟩
    · rw [exec_interruptClaim ht, claim_of_masked hm]
    · rw [exec_interruptClaim ht, claim_of_chosen hm hn]
  case pending => exact fun _ _ h => exec_pendingClear h
  case message => exact fun _ _ _ hon hr hu => exec_msixMessage_of_raised hon hr hu
  case unmask => exact fun _ => ⟨fun _ hv => exec_msixUnmask_vector hv, rfl⟩

end Sys2Proof.Proofs
end

section

/-! ### Supplies, heat and starts of the part (chapters 14 and 18) -/

namespace Sys2Proof.Proofs

open Sys2Proof.Machine Sys2Proof.Laws

variable {s u : State} {a b : Option ImageVerdict} {failed : List Nat} {all found : Findings}

/-! #### Throttling -/

/-- A reading at HOVE_T whose thermal cause is new asks for Hove-to. -/
theorem exec_throttleReading_of_hot {r : Reading} (hu : u = (s.showReading r).setDuty r (s.nextDuty r)) (ht : u.f F.pkgCtrlHoveT ≤ r.tj)
    (hc : u.causes.contains 9 = false) (hl : (u.latched.any fun e => e.hove == some 9) = false) :
    exec (.throttleReading r) s = .next (u.askHove 9) := by
  subst hu
  show execThrottleReading r s = _
  rw [execThrottleReading, if_pos ⟨ht, by rw [hc]; rfl, by rw [hl]; rfl⟩]

theorem exec_throttleReading_of_cool {r : Reading} (hu : u = (s.showReading r).setDuty r (s.nextDuty r)) (ht : r.tj < u.f F.pkgCtrlHoveT) :
    exec (.throttleReading r) s = .next u := by
  subst hu
  show execThrottleReading r s = _
  rw [execThrottleReading, if_neg fun h => absurd h.1 (Nat.not_le.mpr ht)]

/-! #### Lost and returning supplies -/

theorem exec_p12vLoss_of_powered (h : s.boot.powered = true) : exec .p12vLoss s = .next (s.error 0x1030 sevSafety).powerOff := by
  show execP12vLoss s = _
  rw [execP12vLoss, if_pos h]

/-- A fault of a watched rail files its record and takes a powered part to Off. -/
theorem exec_railFault_of_powered {rail : Nat} (hr : rail < 44) (h : s.boot.powered = true)
    (hu : u = (s.fadd F.pkgCountRailFaults).error 0x1031 sevSafety 0xFFF 0xFF 0 rail) :
    exec (.railFault rail) s = .next (State.powerOff { u with boot := { u.boot with railFaults := u.boot.railFaults + 1 } }) := by
  subst hu
  show execRailFault rail s = _
  rw [execRailFault, if_neg]
  rw [h]
  simpa using hr

theorem exec_p12vAbsentAtBoot_of_cold (hs : s.f F.bootStatusState = 0) (hw : s.boot.waiting = false) :
    exec .p12vAbsentAtBoot s = .next (State.raise { s with boot := { s.boot with waiting := true } } 0x3050 745) := by
  show execP12vAbsentAtBoot s = _
  rw [execP12vAbsentAtBoot, if_pos ⟨hs, by rw [hw]; rfl⟩]

/-- A part in Off that may start again boots from the slot choice. -/
theorem exec_p12vRestore_of_off (hp : s.boot.powered = false) (ht : s.boot.tripped = false) (hr : s.boot.railFaults < 3) (hd : s.fullDebug = none) :
    exec (.p12vRestore a b failed) s = .next (s.bootSlots (verdictOf a b) failed) := by
  show execP12vRestore a b failed s = _
  rw [execP12vRestore, if_neg (by simp [hp, ht, hr]), if_neg (by simp [hd])]

theorem exec_p12vRestore_of_barred (h : s.boot.powered = true ∨ s.boot.tripped = true ∨ 3 ≤ s.boot.railFaults) :
    exec (.p12vRestore a b failed) s = .next s := by
  show execP12vRestore a b failed s = _
  rw [execP12vRestore, if_pos h]

theorem exec_ethRefclkMissing {iod : Nat} (h : iod < 2) : exec (.ethRefclkMissing iod) s =
    .next ((((List.range 4).map fun g => iod * 4 + g).filter fun g => !(s.groupPorts g).isEmpty).foldl
      (fun s g => ((s.groupPorts g).foldl State.portDown s).faultDomain (groupDomain g) 0xFF g) s) := by
  show execEthRefclkMissing iod s = _
  rw [execEthRefclkMissing, if_neg (by omega)]

/-! #### Self-qualification -/

/-- The findings of the tests that name cores of the part's grade. -/
def gradeFindings (s : State) (all : Findings) : Findings := { all with cores := all.cores.filter fun c => !s.absentCore c }

/-- The cores that passed their tests leave reduced mode. -/
def readyCores (s : State) (found : Findings) : State :=
  let v : State := { s with vxeReady := s.liveCores.filter fun c => !found.cores.contains c }
  ((List.range 136).filterMap v.positionOf).foldl State.showVxeMode v

/-- Findings that do not pass end QUALIFY with QUAL 4 and their report (R457). -/
theorem exec_qualify_of_fail (hs : s.f F.bootStatusState = 1) (hq : s.f F.bootStatusQual = 1) (hf : found = gradeFindings s all)
    (hp : findingsPass found = false) : exec (.qualify all) s = .next ((readyCores (s.fset F.bootStatusQual 4) found).writeReport found) := by
  subst hf
  show execQualify all s = _
  unfold gradeFindings at hp
  rw [execQualify, if_neg (by simp [hs, hq])]
  simp only [hp]
  rfl

/-- Findings that pass are repaired, and QUALIFY ends with QUAL 2 or 3, ENROL and the report (R457, R458). -/
theorem exec_qualify_of_pass (hs : s.f F.bootStatusState = 1) (hq : s.f F.bootStatusQual = 1) (hf : found = gradeFindings s all)
    (hp : findingsPass found = true) :
    exec (.qualify all) s = .next (((readyCores (found.channels.foldl State.repairChannel (found.cores.foldl State.repairCore
      (s.fset F.bootStatusQual (if found.cores.isEmpty && found.channels.isEmpty then 2 else 3)))) found).fset F.bootStatusState 2).writeReport found) := by
  subst hf
  show execQualify all s = _
  unfold gradeFindings at hp
  rw [execQualify, if_neg (by simp [hs, hq])]
  simp only [hp]
  rfl

/-- Settles O43: each clause is what one command answers in its case. -/
theorem suppliesHeatAndStartsOfThePart : Obligations.SuppliesHeatAndStartsOfThePart := by
  refine ⟨?reading, ?trip, ?loss, ?rail, ?restore, ?absent, ?cold, ?ethernet, ?qualify⟩
  case reading => exact fun _ _ _ hu => ⟨exec_throttleReading_of_hot hu, exec_throttleReading_of_cool hu⟩
  case trip => exact fun _ _ hu => hu ▸ rfl
  case loss => exact fun _ h => exec_p12vLoss_of_powered h
  case rail => exact fun _ _ _ hr h hu => exec_railFault_of_powered hr h hu
  case restore => exact fun _ _ _ _ => ⟨exec_p12vRestore_of_off, exec_p12vRestore_of_barred, rfl⟩
  case absent => exact fun _ hs hw => exec_p12vAbsentAtBoot_of_cold hs hw
  case cold => exact fun _ => rfl
  case ethernet => exact fun _ _ h => exec_ethRefclkMissing h
  case qualify => exact fun _ _ hs hq => ⟨exec_qualify_of_fail hs hq rfl, exec_qualify_of_pass hs hq rfl⟩

end Sys2Proof.Proofs
end

section

/-! ### PTP, pulses, beacons and the tick (chapters 10 and 12) -/

namespace Sys2Proof.Proofs

open Sys2Proof.Machine Sys2Proof.Laws

variable {s u : State} {source b port : Nat} {offset delay error : Int}

/-! #### Messages of the selected source -/

theorem exec_ptpSync_oneStep (h : s.selected source = true) :
    exec (.ptpSync source offset false) s = .next (s.takeOffset (s.compensated source offset)) := by
  show execPtpSync source offset false s = _
  simp only [execPtpSync, h, Bool.not_true, Bool.false_eq_true, if_false]

theorem exec_ptpSync_twoStep (h : s.selected source = true) :
    exec (.ptpSync source offset true) s = .next { s with ptp := { s.ptp with twoStep := some source } } := by
  show execPtpSync source offset true s = _
  simp only [execPtpSync, h, Bool.not_true, Bool.false_eq_true, if_false, if_true]

/-- A Follow_Up completes the two-step Sync that waits for it. -/
theorem exec_ptpFollowUp_of_twoStep (h : s.selected source = true) (ht : s.ptp.twoStep = some source) :
    exec (.ptpFollowUp source offset) s = .next (State.takeOffset { s with ptp := { s.ptp with twoStep := none } } (s.compensated source offset)) := by
  show execPtpFollowUp source offset s = _
  rw [execPtpFollowUp, if_pos (by simp [h, ht])]

theorem exec_ptpDelayResp_of_asked (h : s.selected source = true) (ha : s.ptp.asked = some source) :
    exec (.ptpDelayResp source delay) s = .next { s with ptp := { s.ptp with delay := delay, asked := none } } := by
  show execPtpDelayResp source delay s = _
  rw [execPtpDelayResp, if_pos (by simp [h, ha])]

theorem exec_ptpDelayReqSend (h : s.selected source = true) :
    exec (.ptpDelayReqSend source) s = .next (State.emit { s with ptp := { s.ptp with asked := some source } } (.ptpDelayReq source)) := by
  show execPtpDelayReqSend source s = _
  rw [execPtpDelayReqSend, if_pos h]

/-! #### The best master -/

/-- The part forgets the sources whose Announce messages no longer hold. -/
def forgetSilent (s : State) : State := { s with ptp := { s.ptp with announced := s.ptp.announced.filter fun a => decide (s.now < a.2.2) } }

/-- Measurements begin anew with another source, which PTP_STATUS shows. -/
def selectSource (s : State) (b : Nat) : State :=
  (State.fset { s with ptp := { s.ptp with delay := 0, asked := none, twoStep := none, last := none } } F.ptpStatusSource b).fset
    F.ptpStatusPort (s.ptpPortOf b)

/-- The election selects the best of the sources that announce themselves, unless it is selected already (R359). -/
theorem elect_of_bestSource (hu : u = forgetSilent s) (hb : bestSource u.ptp.announced = some b) :
    s.elect = if b = u.f F.ptpStatusSource ∧ u.ptpPortOf b = u.f F.ptpStatusPort then u else selectSource u b := by
  subst hu
  unfold forgetSilent at hb
  simp only [State.elect, hb]
  rfl

theorem exec_ptpAnnounce_of_ptpSource {m : Announce} (h : s.ptpSource source = true) :
    exec (.ptpAnnounce source m) s = .next (State.elect { s with ptp := { s.ptp with
      announced := (s.ptp.announced.filter fun p => p.1 != source) ++ [(source, m, s.now + 3 * m.interval)] } }) := by
  show execPtpAnnounce source m s = _
  rw [execPtpAnnounce, if_neg (by simp [h])]

/-! #### Holdover, pulses and clocks -/

/-- A part in HOLDOVER does not slew (R360). -/
theorem enterPtp_holdover_target : (s.enterPtp ptpHoldover).ptp.target = 0 := by
  have hl : ptpHoldover ≠ ptpLocked := by decide
  have hf : ptpHoldover ≠ ptpFault := by decide
  simp only [State.enterPtp, hl, hf, false_and, if_false, or_true, if_true]
  split <;> rfl

theorem exec_ptpHoldoverEntry_of_lastSync (hs : s.ptpState = ptpAcquiring ∨ s.ptpState = ptpLocked ∨ s.ptpState = ptpFault)
    (h : s.ptp.lastSync + 4000000 ≤ s.now) : exec .ptpHoldoverEntry s = .next (s.enterPtp ptpHoldover) := by
  show execPtpHoldoverEntry s = _
  rw [execPtpHoldoverEntry, if_pos ⟨hs, h⟩]

/-- A pulse of an enabled input is ignored, slews or is only counted, by the PTP state. -/
theorem exec_ppsEdge_of_enabled (hu : u = s.countEdges 1 2) (he : u.fb F.ptpCfgPpsEn = true) (hm : u.masked 1 = false) :
    exec (.ppsEdge error) s = .next (if u.ptpState = ptpLocked ∧ 1000 < error.natAbs then u.fadd F.ptpStatusPpsIgnored
      else if u.slews then u.slew error else u) := by
  subst hu
  show execPpsEdge error s = _
  rw [execPpsEdge, if_neg (by simp [he, hm])]
  simp only [apply_ite Host.Outcome.next]

theorem exec_aonRefclkLoss_of_backup_clear (h : s.fb F.tickStatusBackup = false) : exec .aonRefclkLoss s =
    .next ((((s.fset F.tickStatusBackup 1).fset F.tickStatusHall 0).raise 0x1021 745).askHove 6) := by
  show execAonRefclkLoss s = _
  rw [execAonRefclkLoss, if_neg (by simp [h])]

/-- A port that is up in QUALIFY or ENROL sends its beacon when a second has passed since the last (R458). -/
theorem exec_beaconSend_of_due (hs : s.f F.bootStatusState = 1 ∨ s.f F.bootStatusState = 2) (hp : s.portUp port = true)
    (hd : ((s.boot.beacons.find? fun b => b.1 == port).all fun b => decide (b.2 + 1000000 ≤ s.now)) = true) :
    exec (.beaconSend port) s = .next (State.sendBeacon { s with boot := { s.boot with beacons := assocSet 0 s.boot.beacons port s.now } } port s.beaconBody) := by
  show execBeaconSend port s = _
  have hst : ¬ (s.f F.bootStatusState ≠ 1 ∧ s.f F.bootStatusState ≠ 2) := by omega
  rw [execBeaconSend, if_neg (by simp [hst, hp, hd])]

/-- Settles O39: each clause is what one command answers in its case. -/
theorem ptpMessagesPulsesAndTicksActOnTime : Obligations.PtpMessagesPulsesAndTicksActOnTime := by
  refine ⟨?messages, ?announce, ?holdover, ?pulse, ?clock, ?beacon, fun _ => rfl⟩
  case messages =>
    intro source offset delay s h
    exact ⟨exec_ptpSync_oneStep h, exec_ptpSync_twoStep h, exec_ptpFollowUp_of_twoStep h, exec_ptpDelayResp_of_asked h, exec_ptpDelayReqSend h⟩
  case announce =>
    intro source b message s h u l v hb
    have answer : exec (.ptpAnnounce source message) s = .next _ :=
      (exec_ptpAnnounce_of_ptpSource h).trans (congrArg _ (elect_of_bestSource (s := u) (u := v) rfl hb))
    exact ⟨fun hsel => answer.trans (congrArg _ (if_pos hsel)), fun hsel => answer.trans (congrArg _ (if_neg hsel))⟩
  case holdover => exact fun _ hs h => ⟨exec_ptpHoldoverEntry_of_lastSync hs h, enterPtp_holdover_target⟩
  case pulse => exact fun _ _ he hm => exec_ppsEdge_of_enabled rfl he hm
  case clock => exact fun _ h => exec_aonRefclkLoss_of_backup_clear h
  case beacon => exact fun _ _ hs hp hd => ⟨_, rfl, exec_beaconSend_of_due hs hp hd⟩

end Sys2Proof.Proofs
end

section

/-! PROOFS. The statements of spec/01_architecture.md: storage and the two Ledger copies, and the atomics of the shared update cache. -/

/-! ### Reads of storage after writes (R25, R33, R34, R187) -/

namespace Sys2Proof.Proofs

open Sys2Proof.Machine Sys2Proof.Laws

variable {s : State} {b c : Bank} {off k w n i v : Nat} {l : List Byte} {x : Word} {p : Bool}

/-! #### Runs of bytes -/

/-- The numbers of the banks tell them apart. -/
theorem bankNum_injective : Function.Injective Bank.num :=
  Function.LeftInverse.injective (g := Bank.ofNat) fun b => by cases b <;> rfl

/-- Within the 2^44 bytes of a bank's range, a key names one byte of one bank. -/
theorem byteKey_injective (hoff : off < 2 ^ 44) (hk : k < 2 ^ 44) (h : byteKey b off = byteKey c k) : b = c ∧ off = k := by
  unfold byteKey at h
  have hnum : b.num = c.num := by omega
  exact ⟨bankNum_injective hnum, by omega⟩

/-- A run of bytes written leaves every byte of its bank beside it and every other bank alone. -/
theorem byte_setBytes_other (hl : off + l.length ≤ 2 ^ 44) (hk : k < 2 ^ 44) (h : c ≠ b ∨ k < off ∨ off + l.length ≤ k) :
    (s.setBytes b off l).byte c k = s.byte c k := by
  refine byte_setBytes_outside l fun n hn he => ?_
  obtain ⟨hb, hkn⟩ := byteKey_injective hk (by omega) he
  rcases h with h | h
  · exact h hb
  · omega

/-! #### Little-endian words -/

@[simp] theorem leBytes_length : (leBytes n v).length = n := by simp [leBytes]

@[simp] theorem leBytes_getElem (h : i < (leBytes n v).length) : (leBytes n v)[i] = BitVec.ofNat 8 (v / 2 ^ (8 * i)) := by simp [leBytes]

/-- The lowest byte comes first. -/
theorem leBytes_succ : leBytes (n + 1) v = BitVec.ofNat 8 v :: leBytes n (v / 256) := by
  have hdiv (i : Nat) : v / 2 ^ (8 * (i + 1)) = v / 256 / 2 ^ (8 * i) := by
    rw [Nat.div_div_eq_div_mul, Nat.mul_add, Nat.pow_add, Nat.mul_comm]
  simp [leBytes, List.range_succ_eq_map, hdiv]

/-- The `n` lowest bytes of a number spell it modulo 2^(8n). -/
theorem leNat_leBytes : leNat (leBytes n v) = v % 2 ^ (8 * n) := by
  induction n generalizing v with
  | zero => simp [leBytes, leNat, Nat.mod_one]
  | succ n ih =>
    calc leNat (leBytes (n + 1) v) = v % 256 + 256 * leNat (leBytes n (v / 256)) := by simp [leBytes_succ, leNat]
      _ = v % (256 * 2 ^ (8 * n)) := by rw [ih, Nat.mod_mul]
      _ = v % 2 ^ (8 * (n + 1)) := by rw [Nat.mul_add, Nat.pow_add, Nat.mul_comm]

/-- A byte of a 64-bit word is the byte of the number that it is taken from. -/
theorem byte_ofNat_word (h : i < 8) : BitVec.ofNat 8 ((BitVec.ofNat 64 v).toNat / 2 ^ (8 * i)) = BitVec.ofNat 8 (v / 2 ^ (8 * i)) := by
  refine BitVec.eq_of_getLsbD_eq fun j hj => ?_
  have hbit : j + 8 * i < 64 := by omega
  simp only [BitVec.getLsbD_ofNat, BitVec.toNat_ofNat, Nat.testBit_div_two_pow, Nat.testBit_mod_two_pow, hbit, decide_true, Bool.true_and]

/-! #### Words -/

/-- The bytes of a word of storage just written are those of the value. -/
theorem byte_setCell_same (h : i < 8) : (s.setCell b w x p).byte b (8 * w + i) = BitVec.ofNat 8 (x.toNat / 2 ^ (8 * i)) :=
  (byte_setBytes_inside (leBytes 8 x.toNat) i (by simpa using h)).trans (leBytes_getElem _)

/-- A word of storage written leaves every other byte alone. -/
theorem byte_setCell_other (hw : 8 * w + 8 ≤ 2 ^ 44) (hk : k < 2 ^ 44) (h : c ≠ b ∨ k < 8 * w ∨ 8 * w + 8 ≤ k) :
    (s.setCell b w x p).byte c k = s.byte c k :=
  byte_setBytes_other (by simpa using hw) hk (by simpa using h)

/-! #### Ledger words -/

/-- A run of eight bytes at a multiple of eight covers one whole word. -/
theorem wordsWith_aligned (h : l.length = 8) : wordsWith (8 * w) l = [(w, l.map some)] := by
  have hone : wordsOf (8 * w) 8 = [w] := by
    have hcount : (8 * w + 8 + 7) / 8 - w = 1 := by omega
    simp [wordsOf, hcount]
  obtain ⟨a, t, rfl⟩ := List.exists_cons_of_length_eq_add_one h
  have ht : t.length = 7 := by simpa using h
  simp [wordsWith, hone, ht, chunksOf, List.take_of_length_le]

/-- A CME write of an aligned Ledger word replaces the whole word, reading nothing. -/
theorem setLed_word : s.setLed (8 * w) 8 v = s.setLedgerWord w (BitVec.ofNat 64 v) := by
  have hv : BitVec.ofNat 64 (leNat (leBytes 8 v)) = BitVec.ofNat 64 v :=
    BitVec.eq_of_toNat_eq (by simp [leNat_leBytes])
  simp [State.setLed, State.writeBytes, wordsWith_aligned, State.mergeWords, State.mergeWord, State.set1, Function.comp_def, hv]

/-- With the bridge there, a Ledger word goes into both copies. -/
theorem setLed_of_bridge (h : s.bridgeOut = false) :
    s.setLed (8 * w) 8 v = (s.setCell .ledgerE w (BitVec.ofNat 64 v)).setCell .ledgerW w (BitVec.ofNat 64 v) := by
  rw [setLed_word]
  exact if_neg (Bool.not_eq_true _ ▸ h)

/-- With the bridge out, a Ledger word goes into copy E and takes the place of one for the same word that waits for copy W. -/
theorem setLed_of_bridgeOut (h : s.bridgeOut = true) : s.setLed (8 * w) 8 v =
    { s.setCell .ledgerE w (BitVec.ofNat 64 v) with bridge := s.bridge.filter (fun y => y.1 != w) ++ [(w, BitVec.ofNat 64 v)] } := by
  rw [setLed_word]
  exact if_pos h

/-- Settles O56: a key names one byte of one bank, a run of bytes is written key by key, and an aligned Ledger word is one whole word of storage in each
copy that takes it. -/
theorem storageReadsBackAndLedgerWritesReachBothCopies : Obligations.StorageReadsBackAndLedgerWritesReachBothCopies := by
  refine ⟨?bytes, ?bothCopies, ?copyE⟩
  case bytes =>
    exact fun b off l s hl => ⟨fun n hn => byte_setBytes_inside l n hn, fun c k hk h => byte_setBytes_other hl hk h⟩
  case bothCopies =>
    intro w v s hw hb
    rw [setLed_of_bridge hb]
    refine ⟨fun i hi => ⟨?_, ?_⟩, fun c k hk h => ?_, rfl, rfl⟩
    · rw [byte_setCell_other (by omega) (by omega) (.inl (by decide)), byte_setCell_same hi, byte_ofNat_word hi]
    · rw [byte_setCell_same hi, byte_ofNat_word hi]
    · rw [byte_setCell_other (by omega) hk (h.imp_left And.right), byte_setCell_other (by omega) hk (h.imp_left And.left)]
  case copyE =>
    intro w v s hw hb
    rw [setLed_of_bridgeOut hb]
    exact ⟨fun i hi => (byte_setCell_same (p := false) hi).trans (byte_ofNat_word hi),
      fun c k hk h => byte_setCell_other (p := false) (by omega) hk h, rfl⟩

end Sys2Proof.Proofs
end

section

/-! ### Atomics (R31, R193 to R195, R256) -/

namespace Sys2Proof.Proofs

open Sys2Proof.Machine Sys2Proof.Laws

variable {s s1 s2 s3 u : State} {req : AtomicReq} {x : Exec} {b : Bank} {a q op type off : Nat} {v cmp old : Word} {l : List Byte}

/-- The queue's oldest entry in execution whose atomic has not arrived sends it. -/
theorem exec_atomic_of_find
    (h : (s.execs.find? fun y => y.q == q && opcodeOf y.entry == 0x53 && y.result.isNone && !s.arrivals.contains (.entry q y.id)) = some x) :
    exec (.atomic q) s = .next (s.arrive (.entry q x.id)) := by
  show execAtomic q s = _
  simp only [execAtomic, h]

/-- The value that an atomic stores: OPs 0 to 7 work on integers, 8 and 9 on 16-bit formats (Table 6.5). -/
def atomicNew (op type : Nat) (old v cmp : Word) : Word :=
  if op < 8 then atomicInt op type old v cmp else atomicFloat op type old v

/-- An atomic that R195 does not refuse reads its bytes, stores the new value and gives back the old one. -/
theorem atomicOp_of_store {far : Bool} (hr : s.run? a (atomicBytes type) = some (b, off)) (hb : b = .hbm ∨ b = .suc) (ha : a % atomicBytes type = 0)
    (hop : op ≤ 9) (ht : (atomicTypes op).contains type = true) (hl : s.load false b off (atomicBytes type) = (s1, some l))
    (hs : s1.store false b off (leBytes (atomicBytes type) (atomicNew op type (BitVec.ofNat 64 (leNat l)) v cmp).toNat) = (s2, true)) :
    s.atomicOp far a op type v cmp = (s2, some (BitVec.ofNat 64 (leNat l))) := by
  have hbank : (b == .hbm || b == .suc) = true := by simpa using hb
  have hop' : ¬ 9 < op := by omega
  rw [atomicNew] at hs
  simp only [State.atomicOp, hr, hbank, ha, hop', ht, hl, hs, bne_self_eq_false, decide_false,
    Bool.not_true, Bool.or_false, Bool.false_eq_true, if_false, if_true]

/-- An outside atomic whose turn has come answers its requester with what the operation gives. -/
theorem performArrival_outside
    (h : s.atomicOp (sourceFar req.source) req.addr.toNat req.op req.type req.value req.compare = (u, some old)) :
    s.performArrival (.outside req) = u.emit (.atomicDone req.source (some old)) := by
  show s.outsideAtomic req = _
  simp only [State.outsideAtomic, h]

/-- An ATOMIC entry whose turn has come is carried out under the unit states that it took at its start. -/
theorem performArrival_entry (h : s.execs.find? (fun y => y.q == q && y.id == x.id && y.result.isNone) = some x) :
    s.performArrival (.entry q x.id) = { State.atomicEntry { s with seen := s.taken x } q x with seen := [] } := by
  simp only [State.performArrival, h, State.asSeen]

/-- An ATOMIC entry whose operation gives an old value that its destination in SRAM space takes gets the result OK. -/
theorem atomicEntry_of_stored (hz : zeroBits x.entry [(159, 0)] = true)
    (hd : (s.run? (x.param (bitsOf x.entry 165 160)) 8).any (fun p => p.1 == .sram) = true)
    (ho : s.atomicOp false (x.param (bitsOf x.entry 191 186)) (bitsOf x.entry 185 182) (bitsOf x.entry 181 178)
      (BitVec.ofNat 64 (x.param (bitsOf x.entry 177 172))) (BitVec.ofNat 64 (x.param (bitsOf x.entry 171 166))) = (s1, some old))
    (hl : s1.oldBytes (bitsOf x.entry 181 178) old = (s2, l))
    (hs : s2.storeAt ⟨s2.coreFor q, [.sram], false⟩ (x.param (bitsOf x.entry 165 160)) l = (s3, true)) :
    s.atomicEntry q x = s3.finish x.id .ok := by
  simp only [State.atomicEntry, hz, hd, ho, hl, hs, Bool.not_true, Bool.false_eq_true, if_false, if_true]

/-- Settles O24: the two rows add an arrival, and the tick performs each arrival by the operation of its kind. -/
theorem atomicsWriteOnceAndAnswerTheOldValue : Obligations.AtomicsWriteOnceAndAnswerTheOldValue := by
  refine ⟨fun _ _ => rfl, fun _ _ _ h => exec_atomic_of_find h, ?outside, ?entry⟩
  case outside =>
    intro req b off l s s1 s2 n old new hr hb ha hop ht hl hs
    exact performArrival_outside (atomicOp_of_store hr hb ha hop ht hl hs)
  case entry =>
    intro q x old l s s1 s2 s3 e hx hz hd ho hl hs
    rw [performArrival_entry hx, atomicEntry_of_stored hz hd ho hl hs]

end Sys2Proof.Proofs
end

section

/-! PROOFS. The statements of spec/02_number_formats.md: the element plane, and comparison, minimum and maximum of decoded values. -/

/-! ### The element plane (R59) -/

namespace Sys2Proof.Proofs

open Sys2Proof.Machine

variable {n k i a b : Nat} {codes : List Nat}

/-- Run i of the cut of a list, where the fuel reaches it and the list has elements left for it. -/
theorem chunksOf_getElem? {α : Type} {l : List α} (hk : i < k) (hl : n * i < l.length) :
    (chunksOf n k l)[i]? = some ((l.drop (n * i)).take n) := by
  induction k generalizing i l with
  | zero => omega
  | succ k ih =>
    obtain ⟨x, t, rfl⟩ := List.exists_cons_of_length_pos (Nat.zero_lt_of_lt hl)
    cases i with
    | zero => simp [chunksOf]
    | succ i =>
      have hdrop : n * i < ((x :: t).drop n).length := by
        rw [Nat.mul_succ] at hl
        rw [List.length_drop]
        omega
      have hcut : chunksOf n (k + 1) (x :: t) = (x :: t).take n :: chunksOf n k ((x :: t).drop n) := rfl
      rw [hcut, List.getElem?_cons_succ, ih (by omega) hdrop, List.drop_drop, Nat.mul_succ, Nat.add_comm]

theorem packRow_u8s : packRow .u8s codes = codes.map (BitVec.ofNat 8) := by
  simp [packRow, Fmt.bits, leBytes, List.map_eq_flatMap]

/-- A byte of U4s codes is made of the two codes of its run, the even one low. -/
theorem packRow_u4s_getElem? (ha : codes[2 * i]? = some a) (hb : codes[2 * i + 1]? = some b) :
    (packRow .u4s codes)[i]? = some (BitVec.ofNat 8 (a + 16 * b)) := by
  obtain ⟨hlen, -⟩ := List.getElem?_eq_some_iff.1 hb
  have hrun := chunksOf_getElem? (n := 2) (k := codes.length) (i := i) (l := codes) (by omega) (by omega)
  simp [packRow, Fmt.bits, hrun, List.getElem?_drop, ha, hb]

/-- Two nibbles put into one byte are its low and its high nibble. -/
theorem extract_nibbles (ha : a < 16) :
    (BitVec.ofNat 8 (a + 16 * b)).extractLsb' 0 4 = BitVec.ofNat 4 a ∧ (BitVec.ofNat 8 (a + 16 * b)).extractLsb' 4 4 = BitVec.ofNat 4 b := by
  constructor <;> apply BitVec.eq_of_toNat_eq
  · simp
  · simp [Nat.shiftRight_eq_div_pow]
    omega

/-- Settles O53: a row of U8s codes is stored code by code, and a row of U4s codes in runs of two. -/
theorem elementCodesPackIntoTheElementPlane : Obligations.ElementCodesPackIntoTheElementPlane := by
  refine ⟨fun codes => ⟨?length, ?element⟩, ?pairs⟩
  case length => simp [packRow_u8s]
  case element =>
    intro i c h
    simp [packRow_u8s, h]
  case pairs => exact fun codes i a b ha hb ha16 _ => ⟨_, packRow_u4s_getElem? ha hb, extract_nibbles ha16⟩

end Sys2Proof.Proofs

/-! ### Comparison, minimum and maximum (R60) -/

namespace Sys2Proof.Proofs

variable {a b : Bool} {m n : Nat} {e e0 f : Int} {x y : Val}

/-- The exact number that a finite value stands for. -/
def ratOf (neg : Bool) (m : Nat) (e : Int) : Rat := (if neg then -1 else 1) * m * 2 ^ e

/-- A finite value is its scaled integer at any exponent at or below its own. -/
theorem ratOf_eq_scaled (h : e0 ≤ e) : ratOf a m e = Val.scaled a m e e0 * 2 ^ e0 := by
  have hpow : (2 : Rat) ^ e = 2 ^ (e - e0).toNat * 2 ^ e0 := by
    rw [← zpow_natCast, Int.toNat_of_nonneg (by omega), ← zpow_add₀ two_ne_zero, Int.sub_add_cancel]
  simp only [ratOf, Val.scaled, hpow]
  push_cast
  ring

/-- Scaling by a power of two keeps the order. -/
theorem compare_mul_two_zpow (i j : Int) : compare ((i : Rat) * 2 ^ e0) (j * 2 ^ e0) = compare i j := by
  have hmono : StrictMono fun i : Int => (i : Rat) * 2 ^ e0 := Int.cast_strictMono.mul_const (zpow_pos two_pos e0)
  exact (compare_iff ..).2 (hmono.compares.2 ((compare_iff ..).1 rfl))

/-- Finite values are ordered as the exact numbers they are. -/
theorem order_fin : Val.order (.fin a m e) (.fin b n f) = some (compare (ratOf a m e) (ratOf b n f)) := by
  rw [ratOf_eq_scaled (min_le_left e f), ratOf_eq_scaled (min_le_right e f), compare_mul_two_zpow]
  rfl

theorem order_zeros : Val.order (.fin a 0 e) (.fin b 0 f) = some .eq := by
  rw [order_fin, Option.some_inj, compare_eq_iff_eq]
  simp [ratOf]

/-- NaN is unordered. -/
theorem order_nan : Val.order .nan x = none ∧ Val.order x .nan = none := by
  cases x <;> exact ⟨rfl, rfl⟩

/-- The order of two values says that of the two exchanged. -/
theorem order_swap : y.order x = (x.order y).map Ordering.swap := by
  cases x with
  | nan => cases y <;> rfl
  | inf a =>
    cases y with
    | nan => rfl
    | inf b => cases a <;> cases b <;> rfl
    | fin b n f => cases a <;> rfl
  | fin a m e =>
    cases y with
    | nan => rfl
    | inf b => cases b <;> rfl
    | fin b n f => rw [order_fin, order_fin, Option.map_some, ← Std.OrientedCmp.eq_swap]

theorem ltv_iff : x.ltv y = true ↔ x.order y = some .lt := decide_eq_true_iff

theorem eqv_iff : x.eqv y = true ↔ x.order y = some .eq := decide_eq_true_iff

/-- The lesser and the greater of two values in either order. -/
theorem extrema_of_lt (h : x.ltv y = true) :
    Val.minimum x y = x ∧ Val.minimum y x = x ∧ Val.maximum x y = y ∧ Val.maximum y x = y := by
  have hxy : x.order y = some .lt := ltv_iff.1 h
  have hyx : y.order x = some .gt := by rw [order_swap, hxy]; rfl
  simp only [Val.minimum, Val.maximum, hxy, hyx, and_self]

/-- Settles O54: a comparison is decided by `Val.order`, which on finite values orders the exact numbers (`order_fin`), and a minimum or maximum is chosen by
the same order. -/
theorem comparisonsAndExtremaFollowIeee : Obligations.ComparisonsAndExtremaFollowIeee := by
  refine ⟨?zeros, ?infinities, ?nan, ?finite, ?nanExtrema, ?zeroExtrema, fun _ _ => extrema_of_lt⟩
  case zeros => exact fun _ _ _ _ => eqv_iff.2 order_zeros
  case infinities => exact fun a m e => ⟨rfl, rfl, rfl⟩
  case nan =>
    intro x
    simp [Val.eqv, Val.ltv, order_nan]
  case finite =>
    intro a b m n e f
    simp only [ltv_iff, eqv_iff, order_fin, Option.some_inj, compare_lt_iff_lt, compare_eq_iff_eq]
    exact ⟨.rfl, .rfl⟩
  case nanExtrema =>
    intro x
    simp [Val.minimum, Val.maximum, order_nan]
  case zeroExtrema =>
    intro e f
    simp [Val.minimum, Val.maximum, order_zeros]

end Sys2Proof.Proofs
end

section

/-! PROOFS. The statements of spec/03_matrix_engine.md: the self-tests of the engines, residue retries and the matrix product. -/

/-! ### Self-tests (R84, R110, R142, R143) -/

namespace Sys2Proof.Proofs

open Sys2Proof.Machine

variable {s : State} {q g : Nat} {l : List Nat} {pass : TestPass} {x : Exec}

/-- A failed self-test latches an uncorrectable error of the core and ends its entry ABORTED. -/
def failTest (s : State) (q : Nat) (x : Exec) : State :=
  (s.error 0x3001 sevUncorrectable (s.coreFor q) (s.coreFor q) 0 0 Status.aborted.code).finish x.id .aborted

theorem exec_mtest_of_running (hx : s.running q [0x2F] = some x) (hz : zeroBits x.entry [(191, 0)] = true) :
    exec (.mtest q pass) s = .next (if pass then s.finish x.id .ok else failTest s q x) := by
  show execMtest q pass s = _
  simp only [execMtest, hx, hz, Bool.not_true, Bool.false_eq_true, if_false]
  cases pass <;> rfl

/-- The cores that have left start-up, with one more. -/
def withReady (l : List Nat) (g : Nat) : List Nat := if l.contains g then l else l ++ [g]

theorem mem_withReady : g ∈ withReady l g := by
  unfold withReady
  split
  next h => exact List.contains_iff_mem.1 h
  next => exact List.mem_append_right l List.mem_cons_self

theorem subset_withReady : l ⊆ withReady l g := by
  unfold withReady
  split
  · exact List.Subset.refl l
  · exact List.subset_append_left l [g]

theorem exec_vtest_of_running (hx : s.running q [0x3F] = some x) (hz : zeroBits x.entry [(191, 0)] = true) :
    exec (.vtest q pass) s = .next (if pass then
      State.finish { s with vxeReady := withReady s.vxeReady (s.coreFor q) } x.id .ok else failTest s q x) := by
  show execVtest q pass s = _
  simp only [execVtest, hx, hz, Bool.not_true, Bool.false_eq_true, if_false]
  cases pass <;> rfl

/-- Settles O7: MTEST and VTEST file their verdict alike, and VTEST adds the core of a pass to those that have left start-up. -/
theorem selfTestEntriesFileTheirVerdict : Obligations.SelfTestEntriesFileTheirVerdict := by
  refine ⟨?mtest, ?vtest⟩
  case mtest => exact fun _ _ _ hx hz => ⟨exec_mtest_of_running hx hz, exec_mtest_of_running hx hz⟩
  case vtest =>
    intro q x s hx hz
    exact ⟨⟨withReady s.vxeReady (s.coreFor q), mem_withReady, fun _ h => subset_withReady h, exec_vtest_of_running hx hz⟩,
      exec_vtest_of_running hx hz⟩

end Sys2Proof.Proofs

/-! ### Residue retries (R107, Table 3.7) -/

namespace Sys2Proof.Proofs

open Sys2Proof.Machine Sys2Proof.Laws Sys2Proof.Statements

variable {s t u : State} {f : Fld} {l k : List Reg} {q core pass v i j : Nat} {x : Exec}

/-- A write of a field reaches no register but the field's own. -/
theorem onlyRegs_fset : OnlyRegs [⟨f.reg, i, j⟩] s (s.fset f v i j) :=
  ⟨rfl, fun _ hr => rd_wr_other (List.ne_of_not_mem_cons hr)⟩

theorem onlyRegs_trans (hst : OnlyRegs l s t) (htu : OnlyRegs k t u) : OnlyRegs (l ++ k) s u := by
  obtain ⟨ht, hrd⟩ := hst
  obtain ⟨hu, hrd'⟩ := htu
  constructor
  · rw [hu, ht]
  · intro r hr
    obtain ⟨hl, hk⟩ := not_or.1 (mt List.mem_append.2 hr)
    rw [hrd' r hk, hrd r hl]

/-- A mismatch holds the pass back: RETRY is set and LAST_PASS names the pass. -/
def holdPass (s : State) (core pass : Nat) : State :=
  (s.fset F.mxeStatusRetry 1 core).fset F.mxeResidueLastPass (pass % 2 ^ 16) core

theorem exec_residueMismatch_of_running (hx : s.running (Machine.mxeQueue core) [0x20] = some x) :
    exec (.residueMismatch core pass) s = .next (holdPass s core pass) := by
  show execResidueMismatch core pass s = _
  simp only [execResidueMismatch, hx]
  rfl

theorem holdPass_retry : (holdPass s core pass).f F.mxeStatusRetry core = 1 := by
  rw [holdPass, f_fset_other (by simp [F.mxeStatusRetry, F.mxeResidueLastPass]), f_fset_same (by decide) (by decide)]

theorem holdPass_lastPass : (holdPass s core pass).f F.mxeResidueLastPass core = pass % 2 ^ 16 :=
  f_fset_same (by decide) (Nat.mod_lt pass (by decide))

theorem onlyRegs_holdPass : OnlyRegs [⟨.mxeStatus, core, 0⟩, ⟨.mxeResidue, core, 0⟩] s (holdPass s core pass) :=
  onlyRegs_trans onlyRegs_fset onlyRegs_fset

/-- A clean retry of a pass held back clears RETRY, counts in RETRIED, latches a correctable error and marks the command. -/
theorem exec_residueRetryEnd_of_clean (hx : s.running (Machine.mxeQueue core) [0x20] = some x) (hr : s.fb F.mxeStatusRetry core = true)
    (hu : u = s.fset F.mxeStatusRetry 0 core) :
    exec (.residueRetryEnd core true) s = .next { (u.fadd F.mxeResidueRetried 1 core).error 0x7001 sevCorrectable
        (s.coreFor (Machine.mxeQueue core)) (s.coreFor (Machine.mxeQueue core)) 0 (u.f F.mxeResidueLastPass core) with
      execs := updateAll s.execs (fun y => y.id == x.id) fun y => { y with retried := true } } := by
  subst hu
  show execResidueRetryEnd core true s = _
  simp only [execResidueRetryEnd, hx, hr, if_true]
  rfl

/-- The MMUL of a pass held back waits for the end of its retry. -/
theorem exec_mmul_of_retry (hx : s.running q [0x20] = some x) (hr : s.fb F.mxeStatusRetry (coreOf q) = true) :
    exec (.mmul q) s = .next s := by
  show execMmul q s = _
  simp only [execMmul, hx, hr, if_true]

/-- Settles O8: each clause is what one command answers in its case; a mismatch writes one field of each of two registers. -/
theorem residueMismatchHoldsAPassAndItsRetryEndsIt : Obligations.ResidueMismatchHoldsAPassAndItsRetryEndsIt := by
  intro core pass x s hx
  refine ⟨?mismatch, ?clean, ?waits⟩
  case mismatch => exact ⟨holdPass s core pass, exec_residueMismatch_of_running hx, holdPass_retry, holdPass_lastPass, onlyRegs_holdPass⟩
  case clean => exact fun hr => exec_residueRetryEnd_of_clean hx hr rfl
  case waits => exact fun _ hq hr => exec_mmul_of_retry hq hr

end Sys2Proof.Proofs

/-! ### The matrix product (R80 to R87, R105) -/

namespace Sys2Proof.Proofs

open Sys2Proof.Machine

variable {s s1 s2 s3 s4 s5 : State} {q : Nat} {x : Exec} {b : Mmul} {da db dc : Desc} {va vb : List (List (Nat × Nat))} {r : Reach}

/-- An MMUL that no retry holds back runs under the unit states that it took at its start. -/
theorem exec_mmul_of_running (hx : s.running q [0x20] = some x) (hr : s.fb F.mxeStatusRetry (coreOf q) = false) :
    exec (.mmul q) s = .next { State.mmul { s with seen := s.taken x } q x with seen := [] } := by
  show execMmul q s = _
  simp only [execMmul, hx, hr, Bool.false_eq_true, if_false]
  rfl

/-- An MMUL whose descriptors are read and pass their checks, and whose views are read, runs on those operands. -/
theorem mmul_of_operands (hb : b = mmulOf x.entry) (hreach : r = ⟨s.coreFor q, [.sram], false⟩)
    (hz : zeroBits x.entry [(153, 152), (135, 128), (43, 0)] = true)
    (hda : (s.showRun (coreOf q) ((Fmt.ofCode b.fo).getD .u16w) 0).readDesc (s.coreFor q) (x.param (bitsOf x.entry 191 186)) = (s1, some da))
    (hdb : s1.readDesc (s.coreFor q) (x.param (bitsOf x.entry 185 180)) = (s2, some db))
    (hdc : s2.readDesc (s.coreFor q) (x.param (bitsOf x.entry 179 174)) = (s3, some dc))
    (hok : mmulOk b (formatsOf (s3.f F.featFormatsMxeOut)) da db dc = true)
    (hlocal : s3.mmulLocal b (x.param (bitsOf x.entry 173 168)) da db dc = true)
    (hva : s3.readView r da b.m b.k = (s4, some va)) (hvb : s4.readView r db b.n b.k = (s5, some vb)) :
    s.mmul q x = s5.mmulRun q x b dc va vb := by
  subst hb hreach
  simp only [State.mmul, hz, hda, hdb, hdc, hok, hlocal, hva, hvb, Bool.not_true, Bool.or_self, Bool.false_eq_true, if_false]

/-- Settles O9: the command runs the product under the unit states taken (`exec_mmul_of_running`) on the operands read (`mmul_of_operands`). -/
theorem matrixProductReadsItsViewsAndRuns : Obligations.MatrixProductReadsItsViewsAndRuns := by
  intro q x s s1 s2 s3 s4 s5 da db dc va vb b r hx hr hz hda hdb hdc hok hlocal hva hvb
  rw [exec_mmul_of_running hx hr, mmul_of_operands rfl rfl hz hda hdb hdc hok hlocal hva hvb]

end Sys2Proof.Proofs
end

section

/-! PROOFS. The statements of spec/04_vector_engine.md: conversion, changes of mode, element programs and direct-channel blocks. -/

/-! ### Conversion (R133) -/

namespace Sys2Proof.Proofs

open Sys2Proof.Machine

variable {s s1 s2 s3 s4 : State} {q m n : Nat} {x : Exec} {bad : List (Nat × Bool)} {di dc : Desc} {raw : List (List (Nat × Nat))} {r : Reach}

/-- What a CVT stores of a view it has read: the rows converted at site 0x0000, with the tensor, HBASE and statistics of its entry. -/
def storeConverted (s : State) (q : Nat) (x : Exec) (r : Reach) (m n : Nat) (di dc : Desc) (raw : List (List (Nat × Nat))) : State :=
  let e := x.entry
  let vals := raw.map (rowValues di.format)
  s.writeConverted q x r (bitsOf e 127 96) m n (signedField 8 (bitsOf e 167 160))
    (if bitOf e 173 then some (x.param (bitsOf e 179 174)) else none) ((vals.map fun l => (l.1.filter Val.nonfinite).length).sum)
    ((vals.map (·.2)).sum) dc (convertRows (fun i => s.site (bitsOf e 127 96) i 0) dc (vals.map (·.1)))

/-- A CVT runs under the unit states that it took at its start. -/
theorem exec_cvt_of_running (hx : s.running q [0x33] = some x) :
    exec (.cvt q bad) s = .next { State.cvt { s with seen := s.taken x } q x bad with seen := [] } := by
  show execCvt q bad s = _
  simp only [execCvt, hx]
  rfl

/-- A CVT whose descriptors are read and pass their checks, whose view is read and whose groups pass stores that view converted. -/
theorem cvt_of_operands (hm : m = bitsOf x.entry 95 80 + 1) (hn : n = bitsOf x.entry 79 64 + 1) (hreach : r = ⟨s.coreFor q, [.sram], true⟩)
    (hz : zeroBits x.entry [(172, 168), (159, 128), (63, 0)] = true)
    (hdi : s.readDesc (s.coreFor q) (x.param (bitsOf x.entry 191 186)) = (s1, some di))
    (hdc : s1.readDesc (s.coreFor q) (x.param (bitsOf x.entry 185 180)) = (s2, some dc))
    (hok : (di.ok [0, 1, 2, 3] none && dc.ok [0, 1, 2, 3] (some n) && (!di.tile || decide (n ≤ 64 ∧ (m ≤ 64 ∨ di.epitch = 0))) &&
      (!dc.tile || decide (m ≤ 64 ∧ n ≤ 64))) = true)
    (hraw : s2.readView r di m n = (s3, some raw)) (hgroups : s3.groupChecks q bad = (s4, true)) :
    s.cvt q x bad = storeConverted s4 q (x.regrouped bad) r m n di dc raw := by
  subst hm hn hreach
  simp only [State.cvt, hz, hdi, hdc, hok, hraw, hgroups, Bool.not_true, Bool.false_eq_true, if_false]
  rfl

end Sys2Proof.Proofs

/-! ### Changes of mode (R143, R144, Table 4.11) -/

namespace Sys2Proof.Proofs

open Sys2Proof.Machine

variable {s : State} {core : Nat} {x : Exec}

/-- With none but common entries in execution, the mode follows its causes. -/
theorem exec_vxeModeChange_of_common (h : ∀ x ∈ s.execsOf (core / 17 * 128 + core % 17 * 4 + 1), opcodeOf x.entry < 0x10) :
    exec (.vxeModeChange core) s = .next (s.showVxeMode core) := by
  have hall : ((s.execsOf (execVxeModeChange.mxeQueue' core)).all fun x => decide (opcodeOf x.entry < 0x10)) = true :=
    List.all_eq_true.2 fun x hx => decide_eq_true (h x hx)
  show execVxeModeChange core s = _
  rw [execVxeModeChange, if_pos hall]

/-- A VXE entry in execution holds the mode back. -/
theorem exec_vxeModeChange_of_busy (hx : x ∈ s.execsOf (core / 17 * 128 + core % 17 * 4 + 1)) (hop : 0x10 ≤ opcodeOf x.entry) :
    exec (.vxeModeChange core) s = .next s := by
  have hbusy : ¬ ((s.execsOf (execVxeModeChange.mxeQueue' core)).all fun x => decide (opcodeOf x.entry < 0x10)) = true :=
    fun hall => absurd (of_decide_eq_true (List.all_eq_true.1 hall x hx)) (Nat.not_lt.2 hop)
  show execVxeModeChange core s = _
  rw [execVxeModeChange, if_neg hbusy]

/-- Settles O10: CVT stores the view it read (`cvt_of_operands`) under the unit states taken, and the mode follows its causes unless a VXE entry executes. -/
theorem vectorConversionAndModeChangeRun : Obligations.VectorConversionAndModeChangeRun := by
  refine ⟨?cvt, fun _ _ => exec_vxeModeChange_of_common, fun _ _ _ => exec_vxeModeChange_of_busy⟩
  case cvt =>
    intro q x bad s s1 s2 s3 s4 di dc raw e r m n vals hx hz hdi hdc hok hraw hgroups
    rw [exec_cvt_of_running hx, cvt_of_operands rfl rfl rfl hz hdi hdc hok hraw hgroups]
    rfl

end Sys2Proof.Proofs

/-! ### Element programs (R121 to R128) -/

namespace Sys2Proof.Proofs

open Sys2Proof.Machine

variable {s s1 s2 s3 s4 s5 : State} {q : Nat} {x : Exec} {bad : List (Nat × Bool)} {b : Eprog} {ins outs : List Desc} {code : List Byte}
  {prog : List MicroOp} {raw : List (List (List (Nat × Nat)))}

/-- An EPROG runs under the unit states that it took at its start. -/
theorem exec_eprog_of_running (hx : s.running q [0x30] = some x) :
    exec (.eprog q bad) s = .next { State.eprog { s with seen := s.taken x } q x bad with seen := [] } := by
  show execEprog q bad s = _
  simp only [execEprog, hx]
  rfl

/-- An EPROG that passes its load checks, whose inputs are read and whose groups pass runs its program on those inputs. -/
theorem eprog_of_inputs (hb : b = eprogOf x.entry) (hprog : prog = (chunksOf 4 b.plen code).map fun w => microOf (leNat w))
    (hfields : eprogFieldsOk x.entry b = true)
    (hins : s.readDescs (s.coreFor q) ((eprogDescRegs x.entry b).1.map x.param) = (s1, some ins))
    (houts : s1.readDescs (s.coreFor q) ((eprogDescRegs x.entry b).2.map x.param) = (s2, some outs))
    (hcode : s2.loadAt ⟨s.coreFor q, [.sram], false⟩ (x.param (bitsOf x.entry 191 186)) (4 * b.plen) = (s3, some code))
    (hdescs : eprogDescsOk b ins outs = true) (hload : eprogLoadOk b ins outs prog = true)
    (hraw : s3.readInputs ⟨s.coreFor q, [.sram], true⟩ b.m b.n ins = (s4, some raw)) (hgroups : s4.groupChecks q bad = (s5, true)) :
    s.eprog q x bad = s5.eprogDo q (x.regrouped bad) b prog ins outs raw := by
  subst hb hprog
  simp only [State.eprog, hfields, hins, houts, hcode, hdescs, hload, hraw, hgroups, Bool.not_true, Bool.false_eq_true, if_false]

end Sys2Proof.Proofs

/-! ### Direct-channel blocks (R134 to R141) -/

namespace Sys2Proof.Proofs

open Sys2Proof.Machine

variable {s s1 : State} {q : Nat} {x : Exec} {code : List Byte} {prog : List DirectInstr} {d : Drun} {mismatch : Bool}

/-- A block before its first instruction: registers 0, nothing counted or written. -/
def blockStart (s : State) : Drun :=
  { s := s, regs := List.replicate 32 (List.replicate 16 0), pwr := [], w16 := {}, n16 := {}, faults := 0, wrote := [], nonfin := false }

/-- The parameter registers that a block's PWR instructions name, written in order. -/
def writePwr (d : Drun) (s : State) : State := d.pwr.foldl (fun s p => s.fset F.queueQParamMValue p.2.2.toNat p.1 p.2.1) s

/-- The rounding and format-fault counts of a block, added to those of its core. -/
def countBlock (d : Drun) (pos : Nat) (s : State) : State :=
  ((s.vxeTally pos .u16w d.w16).vxeTally pos .u16n d.n16).fadd F.vxeFaultsFormatFaults d.faults pos

/-- What a block leaves at its HALT: its PWR writes, its counts, the watch of what it stored and its status. -/
def finishBlock (d : Drun) (q : Nat) (x : Exec) : State :=
  ((countBlock d (coreOf q) (writePwr d d.flagged)).watch (bitsOf x.entry 127 96) d.wrote).finish x.id (if d.nonfin then .nonfinite else .ok)

/-- A DRUN runs under the unit states that it took at its start. -/
theorem exec_drun_of_running (hx : s.running q [0x31] = some x) :
    exec (.drun q mismatch) s = .next { State.drun { s with seen := s.taken x } q x mismatch with seen := [] } := by
  show execDrun q mismatch s = _
  simp only [execDrun, hx]
  rfl

/-- A DRUN with no mismatch whose block is read, passes its checks and reaches its HALT leaves what that block left. -/
theorem drun_of_done (hprog : prog = (chunksOf 8 (bitsOf x.entry 185 176 + 1) code).map fun w => directOfWord (leNat w))
    (hz : zeroBits x.entry [(149, 128), (95, 0)] = true) (hchan : bitsOf x.entry 175 174 ≠ 3)
    (hcode : s.loadAt ⟨s.coreFor q, [.sram, .hbm], false⟩ (x.param (bitsOf x.entry 191 186)) (8 * (bitsOf x.entry 185 176 + 1)) = (s1, some code))
    (hok : blockOk prog = true)
    (hrun : Drun.run (s.coreFor q) q (bitsOf x.entry 127 96) prog ((bitsOf x.entry 173 150 + 1) * 64) 0 (blockStart s1) = (d, .done)) :
    s.drun q x false = finishBlock d q x := by
  subst hprog
  rw [blockStart] at hrun
  simp only [State.drun, hz, beq_eq_false_iff_ne.2 hchan, hcode, hok, hrun, Bool.not_true, Bool.or_self, Bool.false_eq_true, if_false]
  rfl

/-- Settles O11: EPROG runs its program on the inputs read (`eprog_of_inputs`), DRUN leaves what its block left (`drun_of_done`), both under the unit states taken. -/
theorem elementProgramAndDirectBlockRun : Obligations.ElementProgramAndDirectBlockRun := by
  refine ⟨?eprog, ?drun⟩
  case eprog =>
    intro q x bad s s1 s2 s3 s4 s5 ins outs code raw b r prog hx hfields hins houts hcode hdescs hload hraw hgroups
    rw [exec_eprog_of_running hx, eprog_of_inputs rfl rfl hfields hins houts hcode hdescs hload hraw hgroups]
  case drun =>
    intro q x s s1 code d e prog u v hx hz hchan hcode hok hrun
    rw [exec_drun_of_running hx, drun_of_done rfl hz hchan hcode hok hrun]
    rfl

end Sys2Proof.Proofs
end

section

/-! PROOFS. The statements of spec/05_command_lists.md: that every command answers a next state, waits, the common entries, head checks and starts, completions, queue commands, stalemates, and host rings. -/

/-! ### Every command answers a next state -/

namespace Sys2Proof.Proofs

open Sys2Proof.Machine Sys2Proof.Safety

/-- An outcome is a next state, neither a fault nor a refusal. -/
def Answers (o : Host.Outcome State Fault Refusal) : Prop := ∃ t, o = .next t

theorem answers_next {s : State} : Answers (.next s) := ⟨s, rfl⟩

theorem answers_ite {c : Prop} [Decidable c] {a b : Host.Outcome State Fault Refusal} (ha : Answers a) (hb : Answers b) :
    Answers (if c then a else b) := by
  split
  · exact ha
  · exact hb

/-- The function of each command ends every branch of its case analysis in a next state. -/
theorem answers_exec (c : Instr) (s : State) : Answers (exec c s) := by
  unfold exec
  split
  all_goals
    delta
      execMmul execMtest execResidueMismatch execResidueRetryEnd execEprog execCvt execDrun execVtest execVxeModeChange execNop execReplay
      execPset execJump execEndEntry execFlagadd execPcopy execCopy execFill execEntryStart execEntryCompletion execRingEntryTake execGo
      execResume execRetry execAbortEntry execStop execStalemateScan execStalemateHold execParamWrite execRingRegisterWrite execLookup
      execScatter execHrefresh execMigrationFlip execAtomic execGopen execGclose execGadd execSucAtomic execSucMismatch execSucTest
      execRemoteRunRequest execLeafArrival execLeafGroupWaitExpiry execKeeperApply execTstage execTflip execToffline execTonline
      execOldVersionRelease execUopen execUclose execVote execVoteReceive execVoteLimitExpiry execDecisionFinal execDecisionReceive
      execUnitApplyDone execLeaderTakeover execMinorityRefetch execResolve execFreezeLimitExpiry execUnitResolution execExportShard execPhase
      execPhaseSwitch execSentMarkerSend execSentReceive execTempoDeadline execLateSetReceive execRread execRwrite execRatomic execRemoteRequest
      execRedscat execAllgather execCollectiveTimeout execPull execPullLimitExpiry execFlowctlOpen execFlowctlClose execFlowctlReset
      execMchangeJoin execMchangeLeave execMchangeRole execHallVoteDecision execHallChangeEffect execMemberHeartbeat execMemberLostTimeout
      execPartPromotionRestore execPromotedReceive execResignReceive execDataReceive execAckReceive execStatusReceive execProbeReceive
      execFrameReceive execAckDelayExpiry execRtoExpiry execPathHoldExpiry execArpRequest execNeighbourSolicitation execGatewayResolve
      execPfcFrame execPortLinkDown execPortLinkUp execPortGroupFault execHelloReceive execReplyReceive execFinishReceive execHandshakeTimeout
      execRekey execSessionTxcLimit execBeaconSend execPtpSync execPtpFollowUp execPtpDelayResp execPtpAnnounce execPtpDelayReqSend
      execPtpHoldoverEntry execPpsEdge execTick execAonRefclkLoss execLullEntry execDeepLullEntry execCoreWake execPerstNAssert
      execPerstNDeassert execHoldNLow execHoldTakeEffect execHoldNHigh execHoldLimitExpiry execSidebandChatter execSidebandAutoUnmask
      execSbUnmask execRotatingSelfTest execCoreRecoveryTestEnd execSpareTestEnd execPromotionComplete execHoveToEntry execHoveEnter
      execHoveRelease execErrRecordUnlock execErrRingReadAdvance execStaleRecordUnlock execLinkFlitCrcFail execLinkRetrainEnd execLedgerRebuild
      execPatrolRead execSelfRefreshPatrolExit execRetune execRetuneEnd execCeLimitExceeded execChannelDead execEvacuationDone
      execRetrainVerifyEnd execCopyBackDone execThrottleReading execThermalTrip execP12vLoss execRailFault execP12vRestore execP12vAbsentAtBoot
      execP3v3AonLoss execEthRefclkMissing execPcieRefclkMissing execPowerOnReset execHallContact execHallFound execQualify execCfgWrite
      execCfgErase execJobLoad execLoadedReceive execJstart execJstartTimeout execJobStop execJobUpdate execJobUpdateApply execActivate
      execConfigLiveApply execRetrain execRetireChan execReadapt execGroupOff execGroupOn execPromote execRetest execLiveOpStart
      execHringTailSample execHringNop execHringQcmd execHringFlagadd execHringParam execHringJob execHringLive execHringResume execHringRetry
      execHringStop execMemBarRead execMemBarWrite execHostWinWrite execLedgerWinWrite execLedgerWindowRead execLedgerWindowWrite
      execRegBarBadAccess execRegisterWrite execRcCounterRead execInterruptClaim execInterruptEoi execPendingClear execMsixMessage execMsixUnmask
      execGetVersion execGetCapabilities execNegotiateAlgorithms execGetDigests execGetCertificate execChallenge execGetMeasurements execKemx
      execPskExchange execPskFinish execKeyUpdate execHeartbeat execEndSession execIdeKm execIdeIntegrityFail execNewChal execDbgSubmit
      execDbgClose execFullDebugOpen execTrstNAssert execIdcode execSamplePreload execExtest execClamp execHighz execBypass execJtagChallenge
      execToken execDbgstatus execMuxsel execIjtag execBistctl execTmSelWrite execBistStart execBistSessionEnd execFlowOpenTimeout
      execHeartbeatReceive execVoteRequestReceive execHallVoteRequestReceive execPortGroupRecoveryEnd execSlotProgrammingEnd execPcieRefclkReturn
    repeat' first
      | with_reducible exact answers_next
      | with_reducible apply answers_ite
      | split
      | dsimp only

/-- Settles O4: an outcome that answers is a completion. -/
theorem everyCommandAnswersANextState : Obligations.EveryCommandAnswersANextState := answers_exec

end Sys2Proof.Proofs

/-! ### Waits (R170) -/

namespace Sys2Proof.Proofs

open Sys2Proof.Machine

theorem waitReached_iff {flag : BitVec 16} {v : Nat} (hv : v < 2 ^ 16) :
    waitReached flag v = true ↔ (flag.toNat + 2 ^ 16 - v) % 2 ^ 16 < 0x8000 := by
  have hf := flag.isLt
  simp only [waitReached, decide_eq_true_iff, BitVec.toNat_sub, BitVec.toNat_ofNat]
  omega

/-- A flag less than 0x8000 ahead of the effective value reaches the wait. -/
theorem waitReached_ahead {v d : Nat} (hd : d < 0x8000) : waitReached (BitVec.ofNat 16 (v + d)) v = true := by
  simp only [waitReached, decide_eq_true_iff, BitVec.toNat_sub, BitVec.toNat_ofNat]
  omega

/-- A flag up to 0x8000 behind the effective value does not. -/
theorem waitReached_behind {v d : Nat} (h0 : 0 < d) (hd : d ≤ 0x8000) (hv : d ≤ v) : waitReached (BitVec.ofNat 16 (v - d)) v = false := by
  simp only [waitReached, decide_eq_false_iff_not, BitVec.toNat_sub, BitVec.toNat_ofNat]
  omega

/-- Settles O52: the wait looks at the distance from the effective value to the flag, modulo 2^16. -/
theorem waitsAreReachedByTheDistanceOfTheFlag : Obligations.WaitsAreReachedByTheDistanceOfTheFlag :=
  ⟨fun _ _ _ _ => rfl, fun _ _ => waitReached_iff, fun _ _ => waitReached_ahead, fun _ _ => waitReached_behind⟩

end Sys2Proof.Proofs

/-! ### Common entries and FLAGADD (R164, R168, R169) -/

namespace Sys2Proof.Proofs

open Sys2Proof.Machine Sys2Proof.Laws Sys2Proof.Statements

variable {s : State} {q : Nat} {x : Exec}

theorem exec_nop_of_running (hx : s.running q [0x00] = some x) (hz : zeroBits x.entry [(191, 0)] = true) :
    exec (.nop q) s = .next (if s.settled x then s.finish x.id .ok else s) := by
  show execNop q s = _
  simp only [execNop, hx, hz, Bool.not_true, Bool.false_eq_true, if_false]
  exact (apply_ite ..).symm

/-- END completes once it is settled, unless an earlier entry has halted the queue. -/
theorem exec_endEntry_of_running (hx : s.running q [0x04] = some x) (hz : zeroBits x.entry [(191, 0)] = true) :
    exec (.endEntry q) s = .next (if s.settled x && !(s.queue q).halted.any fun h => decide (h.id < x.id) then s.finish x.id .ok else s) := by
  show execEndEntry q s = _
  simp only [execEndEntry, hx, hz, Bool.not_true, Bool.false_eq_true, if_false]
  exact (apply_ite ..).symm

theorem exec_flagadd_of_settled (hx : s.running q [0x10] = some x) (hz : zeroBits x.entry [(176, 176), (159, 0)] = true) (hs : s.settled x = true) :
    exec (.flagadd q) s = .next ((s.flagAdd (bitsOf x.entry 191 189) (bitsOf x.entry 188 177) (bitsOf x.entry 175 160)).finish x.id .ok) := by
  show execFlagadd q s = _
  simp only [execFlagadd, hx, hz, hs, Bool.not_true, Bool.false_eq_true, if_false, if_true]

/-- Settles O12: NOP and END file OK once settled, and FLAGADD adds to its flag alone. -/
theorem barrierAndFlagEntriesRun : Obligations.BarrierAndFlagEntriesRun := by
  refine ⟨?nop, ?endEntry, ?flagadd⟩
  case nop =>
    intro q x s hx hz
    rw [exec_nop_of_running hx hz]
    exact ⟨fun hs => by rw [if_pos hs], fun hs => by rw [hs]; rfl⟩
  case endEntry =>
    intro q x s hx hz
    rw [exec_endEntry_of_running hx hz]
    refine ⟨fun hs hh => ?_, fun hs => by rw [hs]; rfl⟩
    have hany : ((s.queue q).halted.any fun h => decide (h.id < x.id)) = false := by
      rw [Option.any_eq_false]
      exact fun h hq => by simpa using hh h hq
    rw [hs, hany]
    rfl
  case flagadd =>
    intro q x s hx hz hs
    exact ⟨_, exec_flagadd_of_settled hx hz hs, flag_flagAdd_same .., fun _ _ h => flag_flagAdd_other h, rfl⟩

theorem exec_pset_of_running (hx : s.running q [0x02] = some x) (hz : zeroBits x.entry [(185, 64)] = true) :
    exec (.pset q) s = .next ((s.fset F.queueQParamMValue (bitsOf x.entry 63 0) q (bitsOf x.entry 191 186)).finish x.id .ok) := by
  show execPset q s = _
  simp only [execPset, hx, hz, Bool.not_true, Bool.false_eq_true, if_false]

theorem exec_jump_ring (hx : s.running q [0x03] = some x) (hz : zeroBits x.entry [(180, 176), (159, 0)] = true) (hq : isCoreQueue q = false)
    (ht : bitsOf x.entry 191 181 = 0) :
    exec (.jump q) s = .next ((s.fwrap F.queueQStatusWbias (bitsOf x.entry 175 160) q).finish x.id .ok) := by
  show execJump q s = _
  simp [execJump, hx, hz, hq, ht]

theorem exec_jump_ring_target (hx : s.running q [0x03] = some x) (hq : isCoreQueue q = false) (ht : bitsOf x.entry 191 181 ≠ 0) :
    exec (.jump q) s = .next (s.finish x.id .aborted) := by
  show execJump q s = _
  simp [execJump, hx, hq, ht]

theorem exec_jump_core (hx : s.running q [0x03] = some x) (hz : zeroBits x.entry [(180, 176), (159, 0)] = true) (hq : isCoreQueue q = true) :
    exec (.jump q) s = .next
      ((((s.fwrap F.queueQStatusWbias (bitsOf x.entry 175 160) q).setQueue q { s.queue q with head := bitsOf x.entry 191 181 }).showHead q).finish x.id .ok) := by
  show execJump q s = _
  simp only [execJump, hx, hz, hq, Bool.not_true, Bool.false_and, Bool.or_self, Bool.false_eq_true, if_false, if_true]
  rfl

/-- Settles O13: PSET writes one register; JUMP adds to WBIAS, and its TARGET is the head of a core queue and must be 0 on a ring-fed one. -/
theorem parameterAndJumpEntriesAct : Obligations.ParameterAndJumpEntriesAct := by
  refine ⟨?pset, ?jump⟩
  case pset =>
    intro q x s hx hz
    exact ⟨_, exec_pset_of_running hx hz, f_fset_same (by decide) (Nat.mod_lt _ (by decide)), onlyRegs_fset⟩
  case jump =>
    intro q x s hx hz
    exact ⟨fun hq ht => ⟨_, exec_jump_ring hx hz hq ht, f_fset_same (by decide) (Nat.mod_lt _ (by decide)), onlyRegs_fset⟩,
      exec_jump_ring_target hx, exec_jump_core hx hz⟩

end Sys2Proof.Proofs

/-! ### REPLAY (R165 to R167) -/

namespace Sys2Proof.Proofs

open Sys2Proof.Machine

variable {s s1 s2 : State} {q from_ : Nat} {x : Exec} {st : Status} {l : List Byte}

theorem lastTurn_of_replay_none (h : (s.queue q).replay = none) : s.lastTurn q = s := by
  simp only [State.lastTurn, h]
  cases (s.queue q).redo <;> rfl

/-- A REPLAY newly in execution, with none issuing and none to drain, begins. -/
theorem exec_replay_of_new (hr : (s.queue q).replay = none) (hd : (s.queue q).drains = [])
    (hx : (s.execsOf q).find? (fun x => opcodeOf x.entry == 1 && x.result.isNone) = some x) :
    exec (.replay q) s = .next (s.replayBegin q x) := by
  show execReplay q s = _
  simp only [execReplay, lastTurn_of_replay_none hr, hr, hd, Option.any_none, Bool.not_false, Bool.and_true, List.all_nil, hx, List.find?_nil]

/-- A REPLAY that is the queue's last entry in execution and whose drain waits for no RETRY gets the status of its drain. -/
theorem exec_replay_of_drained (hr : (s.queue q).replay = none) (hd : (s.queue q).drains = [(x.id, from_, st)]) (hx : s.execsOf q = [x])
    (hop : opcodeOf x.entry = 1) (hres : x.result = none) (hst : s.qState q ≠ qHalted) (hretry : (s.queue q).retries from_ = false) :
    exec (.replay q) s = .next (s.finish x.id st) := by
  show execReplay q s = _
  simp [execReplay, lastTurn_of_replay_none hr, hr, hd, hx, hop, hres, hst, hretry]

/-- A REPLAY that begins, by the patches of its table: what it owes and its patched registers are recorded and the patches of iteration 0 applied. -/
def beginPatched (s : State) (q : Nat) (x : Exec) (patches : List Patch) : State :=
  let len := bitsOf x.entry 175 168 + 1
  ((s.setQueue q { s.queue q with
      owed := if isCoreQueue q then 0 else (x.pos + 1 + len + 2 ^ 16 - s.ringHead q) % 2 ^ 16
      patched := (s.queue q).patched ++ [(x.id, patches.map (·.param))] }).patchReplay q
    ⟨x.id, x.pos, len, bitsOf x.entry 191 176 + 1, 0, 0, patches, bitsOf x.entry 162 147, false⟩).showHead q

/-- A REPLAY whose fields, range and patch table pass their checks begins with the patches read. -/
theorem replayBegin_of_checks {np len : Nat} (hnp : np = bitsOf x.entry 167 163) (hlen : len = bitsOf x.entry 175 168 + 1)
    (hz : zeroBits x.entry [(146, 64)] = true) (hmany : np ≤ 16) (hfit : isCoreQueue q = true ∨ len ≤ s.ringSize q - 1)
    (htab : np = 0 ∨ (addrSpace (bitsOf x.entry 63 0) = 1 ∧ (s.run? (bitsOf x.entry 63 0) (16 * np)).isSome = true ∧ bitsOf x.entry 63 0 % 16 = 0))
    (hrange : s.rangeOk q ((List.range len).map (x.pos + 1 + ·)) = (s1, true))
    (hload : (if np = 0 then (s1, some []) else s1.loadAt ⟨s1.coreFor q, [.sram], false⟩ (bitsOf x.entry 63 0) (16 * np)) = (s2, some l))
    (hzero : ((chunksOf 16 np l).any fun w => leAt w 0 8 % 2 ^ 57 != 0) = false) :
    s.replayBegin q x = beginPatched s2 q x ((chunksOf 16 np l).map (s2.patchOf q)) := by
  subst hnp hlen
  have hring : (!isCoreQueue q && decide (s.ringSize q - 1 < bitsOf x.entry 175 168 + 1)) = false := by
    rcases hfit with h | h
    · rw [h]
      rfl
    · rw [decide_eq_false (Nat.not_lt.2 h), Bool.and_false]
  have htable : (bitsOf x.entry 167 163 != 0 && (decide (addrSpace (bitsOf x.entry 63 0) ≠ 1) ||
      (s.run? (bitsOf x.entry 63 0) (16 * bitsOf x.entry 167 163)).isNone || bitsOf x.entry 63 0 % 16 != 0)) = false := by
    rcases htab with h | ⟨hspace, hrun, halign⟩
    · rw [h]
      rfl
    · rw [hspace, Option.isNone_eq_false_iff.2 hrun, halign]
      exact Bool.and_false _
  simp only [State.replayBegin, hz, decide_eq_false (Nat.not_lt.2 hmany), hring, htable, hrange, hload, hzero, Bool.not_true, Bool.or_self,
    Bool.false_eq_true, if_false]
  rfl

/-- Settles O14: a new REPLAY begins with the patches read (`replayBegin_of_checks`), and a drained one gets the status of its drain. -/
theorem replayBeginsAndEnds : Obligations.ReplayBeginsAndEnds := by
  refine ⟨?begins, fun _ _ _ _ _ => exec_replay_of_drained⟩
  case begins =>
    intro q x s s1 s2 l e np len hr hd hx hz hmany hfit htab hrange hload hzero
    rw [exec_replay_of_new hr hd hx, replayBegin_of_checks rfl rfl hz hmany hfit htab hrange hload hzero]
    rfl

end Sys2Proof.Proofs

/-! ### PCOPY, FILL and COPY (R172) -/

namespace Sys2Proof.Proofs

open Sys2Proof.Machine

variable {s s1 s2 s3 s4 : State} {q m n : Nat} {x : Exec} {l : List Byte} {di dc : Desc} {raw : List (List (Nat × Nat))} {r : Reach}

/-! Each runs under the unit states that it took at its start. -/

theorem exec_pcopy_of_running (hx : s.running q [0x12] = some x) :
    exec (.pcopy q) s = .next { State.pcopy { s with seen := s.taken x } q x with seen := [] } := by
  show execPcopy q s = _
  simp only [execPcopy, hx]
  rfl

theorem exec_fill_of_running (hx : s.running q [0x41] = some x) :
    exec (.fill q) s = .next { State.fillEntry { s with seen := s.taken x } q x with seen := [] } := by
  show execFill q s = _
  simp only [execFill, hx]
  rfl

theorem exec_copy_of_running (hx : s.running q [0x40] = some x) :
    exec (.copy q) s = .next { State.copyEntry { s with seen := s.taken x } q x with seen := [] } := by
  show execCopy q s = _
  simp only [execCopy, hx]
  rfl

/-- A PCOPY within register 63 whose words are loaded writes them to the registers of the named queue. -/
theorem pcopy_of_load {first : Nat} (hfirst : first = bitsOf x.entry 189 184) (hn : n = bitsOf x.entry 183 178 + 1)
    (hz : zeroBits x.entry [(177, 64)] = true) (hle : first + n ≤ 64)
    (hl : s.loadAt ⟨s.coreFor q, [.sram], false⟩ (bitsOf x.entry 63 0) (8 * n) = (s1, some l)) :
    s.pcopy q x = (s1.setParams (q / 4 * 4 + bitsOf x.entry 191 190)
      ((chunksOf 8 n l).mapIdx fun i w => (first + i, BitVec.ofNat 64 (leNat w)))).finish x.id .ok := by
  subst hfirst hn
  simp only [State.pcopy, hz, decide_eq_false (Nat.not_lt.2 hle), hl, Bool.not_true, Bool.or_self, Bool.false_eq_true, if_false]

/-- A FILL whose descriptor is read and passes its checks stores its value converted in every element. -/
theorem fillEntry_of_desc (hm : m = bitsOf x.entry 95 80 + 1) (hn : n = bitsOf x.entry 79 64 + 1)
    (hz : zeroBits x.entry [(191, 186), (179, 176), (159, 128), (63, 0)] = true)
    (hdc : s.readDesc (s.coreFor q) (x.param (bitsOf x.entry 185 180)) = (s1, some dc))
    (hok : (dc.ok [0, 1, 2, 3] (some n) && (!dc.tile || decide (m ≤ 64 ∧ n ≤ 64))) = true) :
    s.fillEntry q x = s1.writeConverted q x ⟨s.coreFor q, [.sram, .hbm], false⟩ (bitsOf x.entry 127 96) m n 0 none 0 0 dc
      (convertRows (fun i => s1.site (bitsOf x.entry 127 96) i 0) dc
        (List.replicate m (List.replicate n (Fmt.u16w.decode (bitsOf x.entry 175 160) 0).1))) := by
  subst hm hn
  simp only [State.fillEntry, hz, hdc, hok, Bool.not_true, Bool.false_eq_true, if_false]

/-- A COPY of one format, without statistics, whose descriptors are read and pass their checks, whose view is read and whose rows land, ends OK. -/
theorem copyEntry_of_landed (hm : m = bitsOf x.entry 95 80 + 1) (hn : n = bitsOf x.entry 79 64 + 1) (hreach : r = ⟨s.coreFor q, [.sram, .hbm], false⟩)
    (hz : zeroBits x.entry [(172, 168), (159, 128), (63, 0)] = true) (hstats : bitOf x.entry 173 = false)
    (hdi : s.readDesc (s.coreFor q) (x.param (bitsOf x.entry 191 186)) = (s1, some di))
    (hdc : s1.readDesc (s.coreFor q) (x.param (bitsOf x.entry 185 180)) = (s2, some dc)) (hfmt : di.fmt = dc.fmt)
    (hok : (di.ok [0, 1, 2, 3] (some n) && dc.ok [0, 1, 2, 3] (some n) && (!di.tile || decide (m ≤ 64 ∧ n ≤ 64)) &&
      (!dc.tile || decide (m ≤ 64 ∧ n ≤ 64))) = true)
    (hraw : s2.readView r di m (di.copyColumns n) = (s3, some raw))
    (hland : s3.writeRows r dc dc.format 0 (raw.map (rawEncoded di.format)) = (s4, true)) :
    s.copyEntry q x =
      (s4.watch (bitsOf x.entry 127 96) ((raw.map (rowValues di.format)).flatMap fun r => r.1.take n)).finish x.id .ok dc.fmt := by
  subst hm hn hreach
  have hsame : (di.fmt == dc.fmt) = true := beq_iff_eq.2 hfmt
  simp only [State.copyEntry, hz, hstats, hdi, hdc, hsame, hok, hraw, hland, Bool.not_true, Bool.false_eq_true, if_false, if_true]

/-- Settles O15: each entry does its work on what it reads (`pcopy_of_load`, `fillEntry_of_desc`, `copyEntry_of_landed`), under the unit states taken. -/
theorem copyFillAndParameterCopyRun : Obligations.CopyFillAndParameterCopyRun := by
  refine ⟨?pcopy, ?fill, ?copy⟩
  case pcopy =>
    intro q x s s1 l e first n hx hz hle hl
    rw [exec_pcopy_of_running hx, pcopy_of_load rfl rfl hz hle hl]
  case fill =>
    intro q x s s1 dc e m n hx hz hdc hok
    rw [exec_fill_of_running hx, fillEntry_of_desc rfl rfl hz hdc hok]
    rfl
  case copy =>
    intro q x s s1 s2 s3 s4 di dc raw e m n r hx hz hstats hdi hdc hfmt hok hraw hland
    rw [exec_copy_of_running hx, copyEntry_of_landed rfl rfl rfl hz hstats hdi hdc hfmt hok hraw hland]

end Sys2Proof.Proofs

/-! ### The head of a queue (R154, R155, R170) -/

namespace Sys2Proof.Proofs

open Sys2Proof.Machine

variable {s s1 : State} {q : Nat} {h : Head} {e : BitVec 256} {st : Status}

/-- A queue that nothing holds back, RUNNING or WAITING, works on its head entry. -/
theorem exec_entryStart_of_served (hclass : (qClass q).isSome = true) (hab : s.absent q = false) (hhove : s.inHove = false)
    (hdebug : s.fullDebug = none) (hhold : (isCoreQueue q && s.sideband.holdActive) = false) (hawake : s.awake q = true)
    (hblocked : s.headBlocked q = false) (hst : s.qState q = qRunning ∨ s.qState q = qWaiting) :
    exec (.entryStart q) s = .next (s.entryStart q) := by
  show execEntryStart q s = _
  rw [execEntryStart, if_neg, if_pos hst]
  rw [Option.isNone_eq_false_iff.2 hclass, hab, hhove, hdebug, hhold, hawake, hblocked]
  decide

/-- The effective value that a queue's head entry waits for. -/
def headTarget (s : State) (q : Nat) (h : Head) (e : BitVec 256) : Nat :=
  waitTarget (waitValue e) (s.f F.queueQStatusWbias q) h.iter h.wstep

/-- The head entry waits for no flag, or its flag has reached the effective value. -/
abbrev HeadReached (s : State) (q : Nat) (h : Head) (e : BitVec 256) : Prop :=
  waitEn e = true → waitReached (s.flag (s.homeDie q) (waitFlag e)) (headTarget s q h e) = true

section
variable (hh : ((s.turnReplay q).showHead q).headOf q = (s1, some h)) (he : h.entry = some e)
include hh he

theorem entryStart_of_headFault (hf : s1.headFault q e = some st) : s.entryStart q = s1.dropHead q h st true := by
  simp only [State.entryStart, hh, he, hf]

theorem entryStart_of_wait (hf : s1.headFault q e = none) (hw : waitEn e = true)
    (hr : waitReached (s1.flag (s1.homeDie q) (waitFlag e)) (headTarget s1 q h e) = false) :
    s.entryStart q = (s1.showWait q e (headTarget s1 q h e)).enter q qWaiting := by
  rw [headTarget] at hr ⊢
  simp only [State.entryStart, hh, he, hf, hw, hr, Bool.not_false, Bool.and_self, if_true]

/-- A RUNNING queue whose head passes its checks and waits for nothing starts it once its engine is free. -/
theorem entryStart_of_reached (hf : s1.headFault q e = none) (hr : HeadReached s1 q h e) (hst : s1.qState q = qRunning) :
    s.entryStart q =
      if s1.engineFree q e ((List.range 64).map fun m => s1.rd ⟨.queueQParamM, q, m⟩) && s1.replayCovered q e then s1.start q h e else s1 := by
  have hwait : (waitEn e && !waitReached (s1.flag (s1.homeDie q) (waitFlag e)) (headTarget s1 q h e)) = false := by
    cases hw : waitEn e
    · rfl
    · rw [hr hw]
      rfl
  have hne : s1.qState q ≠ qWaiting := by
    rw [hst]
    decide
  rw [headTarget] at hwait
  simp only [State.entryStart, hh, he, hf, hwait, if_neg hne, Bool.false_eq_true, if_false]

end

/-- Settles O16: a served queue works on its head, which faults, waits, or starts once its engine is free. -/
theorem headEntryIsCheckedWaitsOrStarts : Obligations.HeadEntryIsCheckedWaitsOrStarts := by
  intro q h e s s1 hclass hab hhove hdebug hhold hawake hblocked hst hh he target params
  rw [exec_entryStart_of_served hclass hab hhove hdebug hhold hawake hblocked hst]
  refine ⟨fun st hf => ?faulty, fun hf hw hr => ?waits, fun hf hr hrun hfree => ?starts, fun hf hr hrun hbusy => ?busy⟩
  case faulty => rw [entryStart_of_headFault hh he hf]
  case waits =>
    rw [entryStart_of_wait hh he hf hw hr]
    rfl
  case starts => rw [entryStart_of_reached hh he hf hr hrun, if_pos hfree]
  case busy => rw [entryStart_of_reached hh he hf hr hrun, if_neg (Bool.eq_false_iff.1 hbusy)]

end Sys2Proof.Proofs

/-! ### Completions and ring entries (R156, R224, R225) -/

namespace Sys2Proof.Proofs

open Sys2Proof.Machine

variable {s s1 : State} {q : Nat} {e : BitVec 256}

theorem exec_entryCompletion_of_result {x : Exec} {st : Status} {engine : Nat} (hx : s.execs.find? (fun y => y.q == q && y.id == x.id) = some x)
    (hres : x.result = some (st, engine)) : exec (.entryCompletion q x.id) s = .next (s.complete x st engine) := by
  show execEntryCompletion q x.id s = _
  simp only [execEntryCompletion, hx, hres]

theorem turnReplay_of_replay_none (h : (s.queue q).replay = none) : s.turnReplay q = s := by
  simp only [State.turnReplay, h]
  cases (s.queue q).redo <;> rfl

/-- A RUNNING ring-fed queue with EN = 1 takes entries: no REPLAY issues or drains, no entry is taken or to start again, and none holds back its successors. -/
structure TakesEntries (s : State) (q : Nat) : Prop where
  isQueue : (qClass q).isSome = true
  ringFed : isCoreQueue q = false
  running : s.qState q = qRunning
  enabled : s.fb F.lkeRingNEn q = true
  noneTaken : (s.queue q).taken = none
  noReplay : (s.queue q).replay = none
  noDrains : (s.queue q).drains = []
  noRedo : (s.queue q).redo = false
  unblocked : s.headBlocked q = false

/-- The head that a queue shows for a ring that has overflowed: HEAD's position, with no entry read. -/
def overflowHead (s : State) (q : Nat) : Head := ⟨s.ringHead q, 0, 0, none, s.nextId⟩

/-- Where entries wait, nothing keeps such a queue from its ring. -/
theorem TakesEntries.not_kept (ht : TakesEntries s q) (h0 : 0 < s.ringAvail q) :
    ((qClass q).isNone || isCoreQueue q || s.qState q != qRunning || !s.fb F.lkeRingNEn q || (s.queue q).taken.isSome || (s.queue q).replay.isSome ||
      !(s.queue q).drains.isEmpty || (s.queue q).redo || s.headBlocked q || s.ringAvail q == 0) = false := by
  rw [Option.isNone_eq_false_iff.2 ht.isQueue, ht.ringFed, ht.running, ht.enabled, ht.noneTaken, ht.noReplay, ht.noDrains, ht.noRedo, ht.unblocked,
    beq_eq_false_iff_ne.2 (Nat.ne_of_gt h0)]
  rfl

/-- More entries than the ring holds halt the queue. -/
theorem exec_ringEntryTake_of_overflow (ht : TakesEntries s q) (hn : s.ringSize q < s.ringAvail q) :
    exec (.ringEntryTake q) s = .next ((State.postStatus { s with nextId := s.nextId + 1 } q (overflowHead s q) .aborted 0).halt q (overflowHead s q) .aborted) := by
  show execRingEntryTake q s = _
  simp only [execRingEntryTake, turnReplay_of_replay_none ht.noReplay, ite_self, ht.not_kept (Nat.zero_lt_of_lt hn), hn, Bool.false_eq_true, if_false,
    if_true]
  rfl

/-- An entry that waits in a ring that has not overflowed is taken; HEAD moves past it unless it is a REPLAY. -/
theorem exec_ringEntryTake_of_entry (ht : TakesEntries s q) (h0 : 0 < s.ringAvail q) (hn : s.ringAvail q ≤ s.ringSize q)
    (he : s.readEntry q (s.ringHead q) = (s1, some e)) :
    exec (.ringEntryTake q) s = .next (((if opcodeOf e = 1 then s1 else s1.fwrap F.lkeHeadNHead 1 q).setQueue q
      { s.queue q with taken := some ⟨s.ringHead q, 0, 0, some e, 0⟩, owed := if opcodeOf e = 1 then 1 else 0 }).showHead q) := by
  show execRingEntryTake q s = _
  simp only [execRingEntryTake, turnReplay_of_replay_none ht.noReplay, ite_self, ht.not_kept h0, Nat.not_lt.2 hn, he, Option.any_some, beq_iff_eq,
    Bool.false_eq_true, if_false]

/-- Settles O17: a filed result completes its entry, and a queue that takes entries halts on an overflow or takes the entry at HEAD. -/
theorem entryCompletesAndRingEntryIsTaken : Obligations.EntryCompletesAndRingEntryIsTaken := by
  refine ⟨fun _ _ _ _ _ hx hres _ => exec_entryCompletion_of_result hx hres, ?take⟩
  case take =>
    intro q s h1 h2 h3 h4 h5 h6 h7 h8 h9
    have ht : TakesEntries s q := ⟨h1, h2, h3, h4, h5, h6, h7, h8, h9⟩
    refine ⟨fun hn => exec_ringEntryTake_of_overflow ht hn, fun s1 e h0 hn he => ?_⟩
    rw [exec_ringEntryTake_of_entry ht h0 hn he]
    exact ⟨fun hop => by rw [if_neg hop, if_neg hop], fun hop => by rw [if_pos hop, if_pos hop]⟩

end Sys2Proof.Proofs

/-! ### Queue commands (R173, R174) -/

namespace Sys2Proof.Proofs

open Sys2Proof.Machine

variable {s u : State} {q k j : Nat} {who : Sender}

/-- A command to a queue of the part sets its bit and waits for the tick edge. -/
theorem queueCtrl_of_present (hclass : (qClass q).isSome = true) (hab : s.absent q = false) :
    s.queueCtrl q k who = { s.fset (ctrlBit k) 1 q with edgeCmds := s.edgeCmds ++ [(q, k, who)] } := by
  rw [State.queueCtrl, if_neg]
  rw [Option.isNone_eq_false_iff.2 hclass, hab]
  decide

/-- A host command to a queue that the supervisor commands at the same edge is refused and counted. -/
theorem commandQueue_of_supervised (h : s.edgeSup = [q]) : (s.commandQueue q k .host).1 = s.badCmd q := by
  simp [State.commandQueue, h]

/-- A command that the supervisor does not exclude acts where its queue's state lists it, and is counted elsewhere. -/
theorem commandQueue_of_free (h : who = .supervisor ∨ s.edgeSup = []) :
    (s.commandQueue q k who).1 = if s.commandValid q k then s.doCommand q k else s.badCmd q := by
  rcases h with rfl | h
  · simp [State.commandQueue]
  · simp [State.commandQueue, h]

/-- One command of QUEUE_q_CTRL as a tick edge takes it: its bit is cleared and the command judged. -/
def takeCommand (s : State) (c : Nat × Nat × Sender) : State := ((s.fset (ctrlBit c.2.1) 0 c.1).commandQueue c.1 c.2.1 c.2.2).1

/-- A tick edge before its first command: none waits, and `sup` are the queues that the supervisor commands. -/
def edgeStart (s : State) (sup : List Nat) : State := { s with edgeCmds := [], edgeSup := sup }

/-- A tick edge takes its commands in their order. -/
theorem takeCommands_eq_foldl {l : List (Nat × Nat × Sender)} {sup : List Nat} (hl : s.edgeCmds = l)
    (hsup : ((l.filter fun c => c.2.2 == .supervisor).map (·.1)).dedup = sup) : s.takeCommands = l.foldl takeCommand (edgeStart s sup) := by
  subst hl hsup
  rfl

/-- A single command of an edge meets no other. -/
theorem takeCommands_single (hl : s.edgeCmds = [(q, k, who)]) (hu : u = (edgeStart s (if who = .supervisor then [q] else [])).fset (ctrlBit k) 0 q) :
    s.takeCommands = if u.commandValid q k then u.doCommand q k else u.badCmd q := by
  subst hu
  cases who with
  | host =>
    rw [takeCommands_eq_foldl hl (sup := []) rfl]
    exact commandQueue_of_free (.inr rfl)
  | supervisor =>
    rw [takeCommands_eq_foldl hl (sup := [q]) rfl]
    exact commandQueue_of_free (.inl rfl)

/-- Settles O18: a command waits for its edge (`queueCtrl_of_present`), which takes the commands in turn; the supervisor's excludes those of the host. -/
theorem queueCommandsWaitForTheTickEdge : Obligations.QueueCommandsWaitForTheTickEdge := by
  intro q who s hclass hab
  refine ⟨?waits, ?single, ?hostFirst, ?supervisorFirst⟩
  case waits =>
    have hctrl (k : Nat) := queueCtrl_of_present (k := k) (who := who) hclass hab
    exact ⟨congrArg _ (hctrl 0), congrArg _ (hctrl 1), congrArg _ (hctrl 2), congrArg _ (hctrl 3), congrArg _ (hctrl 4)⟩
  case single =>
    intro k hl u
    rw [takeCommands_single (u := u) hl rfl]
    exact ⟨fun hv => if_pos hv, fun hv => if_neg (Bool.eq_false_iff.1 hv)⟩
  case hostFirst =>
    intro k j hl u
    rw [takeCommands_eq_foldl hl (sup := [q]) rfl]
    exact congrArg (takeCommand · (q, j, .supervisor)) (commandQueue_of_supervised rfl)
  case supervisorFirst =>
    rintro k j hl u rfl hsup
    rw [takeCommands_eq_foldl hl (sup := [q]) rfl]
    exact commandQueue_of_supervised hsup

end Sys2Proof.Proofs

/-! ### Stalemates (R175, R176, R178) -/

namespace Sys2Proof.Proofs

open Sys2Proof.Machine

variable {s : State} {t : StaleTrack}

/-- A stalemate is held once its count has reached STALE_CTRL.TICKS, and once only. -/
def staleDue (s : State) (t : StaleTrack) : Bool := !t.held && decide (s.f F.staleCtrlTicks ≤ t.count)

theorem staleDue_eq_false_iff : staleDue s t = false ↔ t.held = true ∨ t.count < s.f F.staleCtrlTicks := by
  simp [staleDue, or_iff_not_imp_left]

theorem exec_stalemateHold : exec .stalemateHold s = .next ((sortStale (s.stale.filter (staleDue s))).foldl State.staleHold
    { s with stale := updateAll s.stale (staleDue s) fun t => { t with held := true } }) := rfl

theorem updateAll_of_none {α : Type} {l : List α} {p : α → Bool} {f : α → α} (h : ∀ x ∈ l, p x = false) : updateAll l p f = l := by
  rw [updateAll, List.map_congr_left (g := id) fun x hx => by rw [h x hx]; rfl, List.map_id]

theorem exec_stalemateHold_of_none (h : ∀ t ∈ s.stale, staleDue s t = false) : exec .stalemateHold s = .next s := by
  rw [exec_stalemateHold, updateAll_of_none h, List.filter_eq_nil_iff.2 fun t ht => Bool.eq_false_iff.1 (h t ht)]
  rfl

theorem exec_stalemateHold_of_single (hs : s.stale = [t]) (h : staleDue s t = true) :
    exec .stalemateHold s = .next (State.staleHold { s with stale := [{ t with held := true }] } t) := by
  rw [exec_stalemateHold, hs, List.filter_cons_of_pos h, updateAll, List.map_cons, if_pos h]
  rfl

/-- Settles O19: a scan answers the list of the stalemates found, and a hold acts on those that are due. -/
theorem stalemateScanCountsAndHoldActs : Obligations.StalemateScanCountsAndHoldActs := by
  refine ⟨fun _ => rfl, ?none, ?single⟩
  case none => exact fun s h => exec_stalemateHold_of_none fun t ht => staleDue_eq_false_iff.2 (h t ht)
  case single =>
    intro s t hs hheld hcount
    refine exec_stalemateHold_of_single hs ?_
    rw [staleDue, hheld, decide_eq_true hcount]
    rfl

end Sys2Proof.Proofs

/-! ### Parameter and ring registers (R163, R564) -/

namespace Sys2Proof.Proofs

open Sys2Proof.Machine

variable {s : State} {q m off : Nat} {r : Reg} {v : Word}

theorem exec_paramWrite (hm : m < 64) : exec (.paramWrite q m v) s = .next (s.paramWrite q m v) := by
  show execParamWrite q m v s = _
  rw [execParamWrite, if_pos hm]

/-- A write of a parameter register to a queue of the part lands in STOPPED and HALTED, and is counted elsewhere where it would change the value. -/
theorem paramWrite_of_present (hclass : (qClass q).isSome = true) (hab : s.absent q = false) :
    s.paramWrite q m v = if s.qState q = qStopped ∨ s.qState q = qHalted then s.wr ⟨.queueQParamM, q, m⟩ v
      else if s.rd ⟨.queueQParamM, q, m⟩ = v then s else s.badCmd q := by
  rw [State.paramWrite, if_neg]
  rw [Option.isNone_eq_false_iff.2 hclass, hab]
  decide

theorem ringWrite_of_present {new : Word} (hab : r.absent s.grade = false) (hnew : new = swWrite true r (s.rd r) v) :
    s.ringWrite r v =
      if s.qState r.i = qStopped ∧ (if r.name = .queueQCring then cringOk new else ringOk new) = true then s.wr r new else s.badCmd r.i := by
  subst hnew
  simp only [State.ringWrite, hab, Bool.and_eq_true, decide_eq_true_iff, Bool.false_eq_true, if_false]

theorem exec_ringRegisterWrite_cring (hr : RegName.at .queueQCring off = some r) : exec (.ringRegisterWrite off v) s = .next (s.ringWrite r v) := by
  show execRingRegisterWrite off v s = _
  simp only [execRingRegisterWrite, hr]

theorem exec_ringRegisterWrite_ring (hc : RegName.at .queueQCring off = none) (hr : RegName.at .lkeRingN off = some r) :
    exec (.ringRegisterWrite off v) s = .next (s.ringWrite r v) := by
  show execRingRegisterWrite off v s = _
  simp only [execRingRegisterWrite, hc, hr]

/-- Settles O20: the two writes by the queue's state (`paramWrite_of_present`, `ringWrite_of_present`). -/
theorem parameterAndRingRegisterWritesOfTheHost : Obligations.ParameterAndRingRegisterWritesOfTheHost := by
  refine ⟨?param, ?ring⟩
  case param =>
    intro q m v s hm hclass hab
    rw [exec_paramWrite hm, paramWrite_of_present hclass hab]
    exact ⟨fun hst => by rw [if_pos hst], fun hst hv => by rw [if_neg hst, if_neg hv], fun hst hv => by rw [if_neg hst, if_pos hv]⟩
  case ring =>
    intro off r v s hab
    refine ⟨fun hr => ?_, fun hc hr => ?_⟩
    · rw [exec_ringRegisterWrite_cring hr, ringWrite_of_present hab rfl]
    · rw [exec_ringRegisterWrite_ring hc hr, ringWrite_of_present hab rfl]

end Sys2Proof.Proofs

/-! ### Host rings (R505 to R510) -/

namespace Sys2Proof.Proofs

open Sys2Proof.Machine

variable {s s1 u v w : State} {n pos kind result : Nat} {l : List Byte} {rest : List (Nat × List Byte)} {st : Status} {act : RingAct} {ok : Bool}
  {iv : ImageVerdict} {pass : TestPass}

theorem exec_hringTailSample (hhove : s.inHove = false) (hdebug : s.fullDebug = none) :
    exec .hringTailSample s = .next ((List.range 64).foldl State.sampleRing s) := by
  show execHringTailSample s = _
  rw [execHringTailSample, if_neg]
  rw [hhove, hdebug]
  decide

/-! #### The entry at the front of what a ring has taken -/

section
variable (ht : (s.ring n).taken = (pos, l) :: rest) (hturn : s.ringTurn n = true) (hs1 : s1 = s.setRingHead n (pos + 1))
include ht hturn hs1

/-- An entry that fails a check completes with the status of that check, whatever its KIND. -/
theorem actRing_of_fault (hf : s.entryFault l = some st) : s.actRing n kind act = s1.ringComplete n l st rest := by
  subst hs1
  simp only [State.actRing, hturn, ht, hf, if_true]

/-- An entry whose act gives a status completes with it. -/
theorem actRing_of_status (hf : s.entryFault l = none) (hk : entryKind l = kind) (ha : act s1 l = (u, some st)) :
    s.actRing n kind act = u.ringComplete n l st rest := by
  subst hs1
  simp only [State.actRing, hturn, ht, hf, hk, ha, ne_eq, not_true_eq_false, if_true, if_false]

/-- An entry whose act gives no status yet holds its ring BUSY. -/
theorem actRing_of_busy (hf : s.entryFault l = none) (hk : entryKind l = kind) (ha : act s1 l = (u, none)) :
    s.actRing n kind act = (u.setRing n { u.ring n with taken := rest, busy := some (pos, l) }).fset F.hringNStatusState ringBusy n := by
  subst hs1
  simp only [State.actRing, hturn, ht, hf, hk, ha, ne_eq, not_true_eq_false, if_true, if_false]

theorem exec_hringNop_of_fault (hf : s.entryFault l = some st) : exec (.hringNop n) s = .next (s1.ringComplete n l st rest) :=
  congrArg _ (actRing_of_fault ht hturn hs1 hf)

theorem exec_hringNop (hf : s.entryFault l = none) (hk : entryKind l = 0) : exec (.hringNop n) s = .next (s1.ringComplete n l .ok rest) :=
  congrArg _ (actRing_of_status ht hturn hs1 hf hk rfl)

theorem exec_hringQcmd (hf : s.entryFault l = none) (hk : entryKind l = 1) (hc : s1.commandQueue (entryTarget l) (leAt l 8 1) .host = (u, ok)) :
    exec (.hringQcmd n) s = .next (u.ringComplete n l (if ok then .ok else .aborted) rest) :=
  congrArg _ (actRing_of_status ht hturn hs1 hf hk (by simp only [hc]))

theorem exec_hringFlagadd (hf : s.entryFault l = none) (hk : entryKind l = 2) (hdie : leAt l 8 1 < 8) (hflag : leAt l 10 2 < 4096) :
    exec (.hringFlagadd n) s = .next ((s1.flagAdd (leAt l 8 1) (leAt l 10 2) (leAt l 12 2)).ringComplete n l .ok rest) :=
  congrArg _ (actRing_of_status ht hturn hs1 hf hk (if_neg (by omega)))

theorem exec_hringParam (hf : s.entryFault l = none) (hk : entryKind l = 3) (hm : leAt l 8 1 < 64) :
    exec (.hringParam n) s = .next ((s1.paramWrite (entryTarget l) (leAt l 8 1) (BitVec.ofNat 64 (leAt l 16 8))).ringComplete n l
      (if s1.qState (entryTarget l) == qStopped || s1.qState (entryTarget l) == qHalted then .ok else .aborted) rest) :=
  congrArg _ (actRing_of_status ht hturn hs1 hf hk (if_neg (Nat.not_le.2 hm)))

end

theorem exec_hringJob_of_idle (hb : (s.ring n).busy = none) : exec (.hringJob n iv) s = .next (s.actRing n 4 (State.ringJob iv)) := by
  show execHringJob n iv s = _
  simp only [execHringJob, hb, Option.isSome_none, Bool.false_eq_true, if_false]

theorem exec_hringLive_of_idle (hb : (s.ring n).busy = none) : exec (.hringLive n iv pass) s = .next (s.actRing n 5 (State.ringLive iv pass)) := by
  show execHringLive n iv pass s = _
  simp only [execHringLive, hb, Option.isSome_none, Bool.false_eq_true, if_false]

/-! #### Rings that are BUSY -/

/-- A BUSY ring whose operation is over completes its entry. -/
theorem endBusy_of_over {ended : List Byte → Bool} (hb : (s.ring n).busy = some (pos, l)) (hk : entryKind l = kind) (he : ended l = true) :
    s.endBusy n kind ended result = s.ringComplete n l (statusOf result) (s.ring n).taken := by
  simp only [State.endBusy, hb, hk, he, and_self, if_true]

theorem exec_hringJob_of_over (hb : (s.ring n).busy = some (pos, l)) (hk : entryKind l = 4) (ho : s.jobOver (leAt l 8 1) = true) :
    exec (.hringJob n iv) s = .next (s.ringComplete n l (statusOf (s.f F.jobStatusResult)) (s.ring n).taken) := by
  show execHringJob n iv s = _
  rw [execHringJob, if_pos (by rw [hb]; rfl), endBusy_of_over hb hk ho]

theorem exec_hringLive_of_over (hb : (s.ring n).busy = some (pos, l)) (hk : entryKind l = 5) (ho : s.boot.live = none) :
    exec (.hringLive n iv pass) s = .next (s.ringComplete n l (statusOf (s.f F.liveStatusResult)) (s.ring n).taken) := by
  show execHringLive n iv pass s = _
  rw [execHringLive, if_pos (by rw [hb]; rfl), endBusy_of_over hb hk (by rw [ho]; rfl)]

/-! #### Ring commands -/

theorem exec_hringResume (hn : n < 64) (hu : u = s.fset F.hringNCtrlResume 0 n) :
    exec (.hringResume n) s = .next (if u.f F.hringNStatusState n = ringHalted then u.fset F.hringNStatusState ringRunning n
      else u.fadd F.hringNStatusBadCmd 1 n) := by
  subst hu
  show execHringResume n s = _
  rw [execHringResume, if_neg (Nat.not_le.2 hn)]
  rfl

/-- RETRY takes again the entry before HEAD of a HALTED ring. The position stays a name, since the kernel would evaluate the difference in unary. -/
theorem ringRetry_of_halted (hv : v = s.fset F.hringNCtrlRetry 0 n) (hh : v.f F.hringNStatusState n = ringHalted)
    (hpos : pos = (v.f F.hringNStatusHead n + 2 ^ 32 - 1) % 2 ^ 32) (hl : v.hringEntry n pos = (w, l)) :
    s.ringRetry n = (w.setRing n { w.ring n with taken := [(pos, l)] }).fset F.hringNStatusState ringRunning n := by
  unfold State.ringRetry
  extract_lets cleared before
  have hcleared : cleared = v := hv.symm
  have hbefore : before = pos := by rw [hpos, ← hcleared]
  clear_value before cleared
  rw [hcleared, hbefore, if_neg (not_not.2 hh), hl]

theorem exec_hringRetry (hn : n < 64) : exec (.hringRetry n) s = .next (s.ringRetry n) := by
  show execHringRetry n s = _
  rw [execHringRetry, if_neg (Nat.not_le.2 hn)]

theorem exec_hringStop (hn : n < 64) (hu : u = (s.fset F.hringNCtrlStop 0 n).fset F.hringNCfgEn 0 n)
    (hv : v = u.setRing n { u.ring n with taken := [] }) :
    exec (.hringStop n) s = .next (if (v.ring n).busy.isSome then v else v.fset F.hringNStatusState ringOff n) := by
  subst hv hu
  show execHringStop n s = _
  rw [execHringStop, if_neg (Nat.not_le.2 hn)]
  rfl

/-- Settles O46: the front entry acts by `actRing`, a BUSY ring completes by `endBusy`, and each ring command acts on its ring. -/
theorem hostRingsTakeCheckAndCompleteEntries : Obligations.HostRingsTakeCheckAndCompleteEntries := by
  refine ⟨fun _ => exec_hringTailSample, ?front, ?busy, ?resume, ?stop⟩
  case front =>
    intro n pos l rest s s1 ht hturn hs1
    refine ⟨fun _ => exec_hringNop_of_fault ht hturn hs1, fun hf => ?_⟩
    refine ⟨exec_hringNop ht hturn hs1 hf, fun _ _ => exec_hringQcmd ht hturn hs1 hf, exec_hringFlagadd ht hturn hs1 hf,
      exec_hringParam ht hturn hs1 hf, ?job, ?jobBusy, ?live⟩
    case job =>
      intro v u st hk hb ha
      rw [exec_hringJob_of_idle hb, actRing_of_status ht hturn hs1 hf hk ha]
    case jobBusy =>
      intro v u hk hb ha
      rw [exec_hringJob_of_idle hb, actRing_of_busy ht hturn hs1 hf hk ha]
    case live =>
      intro v pass u st hk hb ha
      rw [exec_hringLive_of_idle hb, actRing_of_status ht hturn hs1 hf hk ha]
  case busy => exact fun _ _ _ _ _ _ hb => ⟨exec_hringJob_of_over hb, exec_hringLive_of_over hb⟩
  case resume =>
    intro n s u v w hn hu hv
    refine ⟨exec_hringResume hn hu, fun pos l hh hpos hl => ?_⟩
    rw [exec_hringRetry hn, ringRetry_of_halted hv hh hpos hl]
  case stop => exact fun _ _ _ _ hn hu hv => exec_hringStop hn hu hv

end Sys2Proof.Proofs
end

section
/-! PROOFS. The statements of spec/06_memory.md: the C80 code, the reserves of the stacks, reduction groups, mismatches of a SUC, and the care of the memories. -/

/-! ### The C80 code (R187 to R189)

The columns are those of a BCH code: with x = α^j in GF(2^7), bit j has the rows x and x^3 and a parity row; the parity bit has x = 0. A pair of bits is known
from x + y and x^3 + y^3 (`pair_eq_of_sums`), and the parity row tells an odd number of bits from an even one. -/

namespace Sys2Proof.Proofs

open Sys2Proof.Machine

/-! #### Powers of α in a field of characteristic 2 -/

section
variable {K : Type} [Field K] {α : K}

/-- The field element whose coefficients in the powers of α a word holds (R188). -/
def fieldElt (α : K) (v : BitVec 7) : K := ∑ i ∈ Finset.range 7, if v.getLsbD i then α ^ i else 0

theorem fieldElt_zero : fieldElt α 0#7 = 0 := by
  simp [fieldElt]

theorem fieldElt_shift (v : BitVec 7) : fieldElt α (v <<< 1) + (if v.msb then α ^ 7 else 0) = α * fieldElt α v := by
  have hbit (i : Nat) (hi : i < 6) : (v <<< 1).getLsbD (i + 1) = v.getLsbD i := by
    rw [BitVec.getLsbD_shiftLeft, decide_eq_true (by omega : i + 1 < 7), decide_eq_false (by omega : ¬ i + 1 < 1)]
    rfl
  have h0 : (v <<< 1).getLsbD 0 = false := by simp
  have hm : v.msb = v.getLsbD 6 := BitVec.msb_eq_getLsbD_last v
  rw [fieldElt, fieldElt, Finset.sum_range_succ', h0, hm, Finset.mul_sum, Finset.sum_range_succ _ 6]
  simp only [Bool.false_eq_true, if_false, add_zero, mul_ite, mul_zero, ← pow_succ']
  refine congrArg (· + _) (Finset.sum_congr rfl fun i hi => ?_)
  rw [hbit i (Finset.mem_range.1 hi)]

theorem fieldElt_three : fieldElt α 3#7 = α + 1 := by
  simp [fieldElt, Finset.sum_range_succ, add_comm]

theorem alpha_ne_zero (hα : α ^ 7 = α + 1) : α ≠ 0 := by
  rintro rfl
  simp at hα

theorem alpha_ne_one (hα : α ^ 7 = α + 1) : α ≠ 1 := by
  rintro rfl
  simp at hα

variable [CharP K 2]

theorem fieldElt_xor (v w : BitVec 7) : fieldElt α (v ^^^ w) = fieldElt α v + fieldElt α w := by
  simp only [fieldElt, ← Finset.sum_add_distrib, BitVec.getLsbD_xor]
  refine Finset.sum_congr rfl fun i _ => ?_
  cases v.getLsbD i <;> cases w.getLsbD i <;> simp [CharTwo.add_self_eq_zero]

/-- A pair of different elements is known from its sum and the sum of its cubes. -/
theorem pair_eq_of_sums {x y z w : K} (hxy : x ≠ y) (h1 : x + y = z + w) (h3 : x ^ 3 + y ^ 3 = z ^ 3 + w ^ 3) : x = z ∧ y = w ∨ x = w ∧ y = z := by
  have hs : x + y ≠ 0 := fun h => hxy (CharTwo.add_eq_zero.1 h)
  have hprod : x * y = z * w := by
    refine mul_left_cancel₀ hs ?_
    linear_combination ((x + y) ^ 2 + (x + y) * (z + w) + (z + w) ^ 2 - 3 * (z * w)) * h1 - h3 - (x + y) * (x * y - z * w) * CharTwo.two_eq_zero (R := K)
  have h : (x - z) * (x - w) = 0 := by linear_combination x * h1 - hprod
  rcases mul_eq_zero.1 h with h | h
  · exact .inl ⟨sub_eq_zero.1 h, by linear_combination h1 - h⟩
  · exact .inr ⟨sub_eq_zero.1 h, by linear_combination h1 - h⟩

variable (hα : α ^ 7 = α + 1)
include hα

theorem fieldElt_alphaPow (n : Nat) : fieldElt α (alphaPow n) = α ^ n := by
  induction n with
  | zero => simp [fieldElt, alphaPow]
  | succ n ih =>
    rw [pow_succ', ← ih, ← fieldElt_shift, hα, alphaPow, fieldElt_xor]
    refine congrArg (_ + ·) ?_
    cases (alphaPow n).msb
    · exact fieldElt_zero
    · exact fieldElt_three

/-- Squaring is additive, so α^8 = α^2 + α comes round to α^128 = α. -/
theorem alpha_pow_127 : α ^ 127 = 1 := by
  have h8 : α ^ 8 = α ^ 2 + α := by rw [pow_succ, hα]; ring
  have h16 : α ^ 16 = α ^ 4 + α ^ 2 := by rw [pow_mul α 8 2, h8, CharTwo.add_sq, ← pow_mul]
  have h32 : α ^ 32 = α ^ 4 + α ^ 2 + α := by
    rw [pow_mul α 16 2, h16, CharTwo.add_sq, ← pow_mul, ← pow_mul, h8]; ring
  have h64 : α ^ 64 = α ^ 4 + α := by
    rw [pow_mul α 32 2, h32, CharTwo.add_sq, CharTwo.add_sq, ← pow_mul, ← pow_mul, h8]
    linear_combination α ^ 2 * CharTwo.two_eq_zero (R := K)
  have h128 : α ^ 128 = α := by
    rw [pow_mul α 64 2, h64, CharTwo.add_sq, ← pow_mul, h8]
    linear_combination α ^ 2 * CharTwo.two_eq_zero (R := K)
  exact mul_right_cancel₀ (alpha_ne_zero hα) (by rw [← pow_succ, h128, one_mul])

theorem pow_mod_127 (n : Nat) : α ^ (n % 127) = α ^ n := by
  conv_rhs => rw [← Nat.div_add_mod n 127, pow_add, pow_mul, alpha_pow_127 hα, one_pow, one_mul]

theorem alpha_pow_injOn {i j : Nat} (hi : i < 127) (hj : j < 127) (h : α ^ i = α ^ j) : i = j := by
  have : Fact (Nat.Prime 127) := ⟨by norm_num⟩
  have hord : orderOf α = 127 := orderOf_eq_prime (alpha_pow_127 hα) (alpha_ne_one hα)
  exact pow_injOn_Iio_orderOf (hord.symm ▸ hi : i < orderOf α) (hord.symm ▸ hj : j < orderOf α) h

/-- The locator of a bit of a codeword: α^j for the bits of the BCH code, and 0 for the parity bit, which only the parity row covers. -/
def locator (α : K) (j : Nat) : K := if j < 79 then α ^ j else 0

theorem locator_injOn {i j : Nat} (hi : i < 80) (hj : j < 80) (h : locator α i = locator α j) : i = j := by
  have h0 (n : Nat) : α ^ n ≠ 0 := pow_ne_zero n (alpha_ne_zero hα)
  unfold locator at h
  split at h <;> split at h
  · exact alpha_pow_injOn hα (by omega) (by omega) h
  · exact absurd h (h0 i)
  · exact absurd h.symm (h0 j)
  · omega

end

open Polynomial in
/-- A field of characteristic 2 holds such an α, a root of x^7 + x + 1. -/
theorem exists_pow_seven_eq_add_one : ∃ α : AlgebraicClosure (ZMod 2), α ^ 7 = α + 1 := by
  have hdeg : (X ^ 7 + X + 1 : (AlgebraicClosure (ZMod 2))[X]).degree = 7 := by compute_degree!
  obtain ⟨α, hα⟩ := IsAlgClosed.exists_root _ (hdeg.trans_ne (by decide))
  refine ⟨α, ?_⟩
  simp only [IsRoot.def, eval_add, eval_pow, eval_X, eval_one] at hα
  rwa [add_assoc, CharTwo.add_eq_zero] at hα

/-! #### Sums of columns -/

/-- The rows α^j and α^(3j) of a sum of columns. -/
def powerRow (c : Nat) : BitVec 7 := BitVec.ofNat 7 (c / 2 ^ 8)
@[inherit_doc powerRow] def cubeRow (c : Nat) : BitVec 7 := BitVec.ofNat 7 (c / 2 ^ 1)

theorem powerRow_xor (c d : Nat) : powerRow (c ^^^ d) = powerRow c ^^^ powerRow d := by
  rw [powerRow, Nat.xor_div_two_pow, BitVec.ofNat_xor]
  rfl

theorem cubeRow_xor (c d : Nat) : cubeRow (c ^^^ d) = cubeRow c ^^^ cubeRow d := by
  rw [cubeRow, Nat.xor_div_two_pow, BitVec.ofNat_xor]
  rfl

theorem column_odd (j : Nat) : c80Column j % 2 = 1 := by
  unfold c80Column
  split <;> omega

theorem rows_of_words (u v : BitVec 7) :
    powerRow ((u.toNat * 128 + v.toNat) * 2 + 1) = u ∧ cubeRow ((u.toNat * 128 + v.toNat) * 2 + 1) = v := by
  constructor <;> refine BitVec.eq_of_toNat_eq ?_ <;> simp only [powerRow, cubeRow, BitVec.toNat_ofNat] <;> omega

/-- The rows of a bit's column are its locator and the cube of it. -/
theorem fieldElt_rows {K : Type} [Field K] [CharP K 2] {α : K} (hα : α ^ 7 = α + 1) (j : Nat) :
    fieldElt α (powerRow (c80Column j)) = locator α j ∧ fieldElt α (cubeRow (c80Column j)) = locator α j ^ 3 := by
  unfold locator c80Column
  split
  next hj =>
    obtain ⟨hpower, hcube⟩ := rows_of_words (alphaPow (j % 127)) (alphaPow (3 * j % 127))
    rw [hpower, hcube, fieldElt_alphaPow hα, fieldElt_alphaPow hα, Nat.mod_eq_of_lt (by omega : j < 127)]
    refine ⟨rfl, ?_⟩
    rw [← pow_mul, Nat.mul_comm j 3, pow_mod_127 hα]
  next => exact ⟨fieldElt_zero, by rw [zero_pow three_ne_zero]; exact fieldElt_zero⟩

/-- Columns of two bits are known from their sum: it gives the sum of the locators and the sum of their cubes. -/
theorem columns_of_pair {a b c d : Nat} (ha : a < 80) (hb : b < 80) (hc : c < 80) (hd : d < 80) (hab : a ≠ b)
    (h : c80Column a ^^^ c80Column b = c80Column c ^^^ c80Column d) : a = c ∧ b = d ∨ a = d ∧ b = c := by
  obtain ⟨α, hα⟩ := exists_pow_seven_eq_add_one
  have hrow (j : Nat) := fieldElt_rows hα j
  have hsum := congrArg (fieldElt α ∘ powerRow) h
  have hcube := congrArg (fieldElt α ∘ cubeRow) h
  simp only [Function.comp_apply, powerRow_xor, cubeRow_xor, fieldElt_xor, (hrow _).1, (hrow _).2] at hsum hcube
  have hinj {i j : Nat} (hi : i < 80) (hj : j < 80) := locator_injOn hα hi hj
  rcases pair_eq_of_sums (fun he => hab (hinj ha hb he)) hsum hcube with ⟨h1, h2⟩ | ⟨h1, h2⟩
  · exact .inl ⟨hinj ha hc h1, hinj hb hd h2⟩
  · exact .inr ⟨hinj ha hd h1, hinj hb hc h2⟩

theorem column_injOn {a b : Nat} (ha : a < 80) (hb : b < 80) (h : c80Column a = c80Column b) : a = b := by
  obtain ⟨α, hα⟩ := exists_pow_seven_eq_add_one
  exact locator_injOn hα ha hb (by rw [← (fieldElt_rows hα a).1, h, (fieldElt_rows hα b).1])

/-! #### The syndrome of an error -/

theorem mem_c80Columns {c : Nat × Nat} : c ∈ c80Columns ↔ c.1 < 80 ∧ c.2 = c80Column c.1 := by
  simp only [c80Columns, List.mem_map, List.mem_range]
  constructor
  · rintro ⟨j, hj, rfl⟩
    exact ⟨hj, rfl⟩
  · intro ⟨hj, hc⟩
    exact ⟨c.1, hj, Prod.ext rfl hc.symm⟩

/-- One column's part in a syndrome. -/
def addColumn (e : BitVec 80) (a : Nat) (c : Nat × Nat) : Nat := if e.getLsbD c.1 then a ^^^ c.2 else a

theorem foldl_addColumn_xor (x y : BitVec 80) (l : List (Nat × Nat)) (u v : Nat) :
    l.foldl (addColumn (x ^^^ y)) (u ^^^ v) = l.foldl (addColumn x) u ^^^ l.foldl (addColumn y) v := by
  induction l generalizing u v with
  | nil => rfl
  | cons c l ih =>
    have hstep : addColumn (x ^^^ y) (u ^^^ v) c = addColumn x u c ^^^ addColumn y v c := by
      unfold addColumn
      rw [BitVec.getLsbD_xor]
      cases x.getLsbD c.1 <;> cases y.getLsbD c.1 <;> simp [Nat.xor_comm, Nat.xor_left_comm]
    rw [List.foldl_cons, hstep, ih]
    rfl

theorem c80Syndrome_xor (x y : BitVec 80) : c80Syndrome (x ^^^ y) = c80Syndrome x ^^^ c80Syndrome y :=
  foldl_addColumn_xor x y c80Columns 0 0

theorem addColumn_twoPow {a j acc col : Nat} (ha : a < 80) : addColumn (BitVec.twoPow 80 a) acc (j, col) = if a = j then acc ^^^ col else acc := by
  rw [addColumn, BitVec.getLsbD_twoPow, decide_eq_true ha, Bool.true_and]
  simp only [decide_eq_true_iff]

/-- The syndrome of one wrong bit is its column. -/
theorem c80Syndrome_twoPow {a : Nat} (ha : a < 80) : c80Syndrome (BitVec.twoPow 80 a) = c80Column a := by
  have hfold (n : Nat) (hn : n ≤ 80) : ((List.range n).map fun j => (j, c80Column j)).foldl (addColumn (BitVec.twoPow 80 a)) 0 =
      if a < n then c80Column a else 0 := by
    induction n with
    | zero => rfl
    | succ n ih =>
      rw [List.range_succ, List.map_append, List.foldl_append, ih (by omega), List.map_singleton, List.foldl_cons, List.foldl_nil,
        addColumn_twoPow ha]
      rcases Nat.lt_trichotomy a n with h | rfl | h
      · rw [if_neg h.ne, if_pos h, if_pos (by omega)]
      · rw [if_pos rfl, if_neg (Nat.lt_irrefl a), if_pos a.lt_succ_self, Nat.zero_xor]
      · rw [if_neg h.ne', if_neg (by omega), if_neg (by omega)]
  exact (hfold 80 le_rfl).trans (if_pos ha)

/-! #### The correction -/

variable {e : BitVec 80} {a b c : Nat}

theorem find?_eq_some_of_unique {β : Type} {l : List β} {p : β → Bool} {x : β} (hx : x ∈ l) (hp : p x = true) (hu : ∀ y ∈ l, p y = true → y = x) :
    l.find? p = some x := by
  cases h : l.find? p with
  | none => exact absurd hp (List.find?_eq_none.1 h x hx)
  | some y => rw [hu y (List.mem_of_find?_eq_some h) (List.find?_some h)]

theorem c80Correction_of_column (ha : a < 80) (h : c80Syndrome e = c80Column a) : c80Correction e = some (BitVec.twoPow 80 a) := by
  have hodd := column_odd a
  have hfind : (c80Columns.find? fun c => c.2 = c80Column a) = some (a, c80Column a) := by
    refine find?_eq_some_of_unique (mem_c80Columns.2 ⟨ha, rfl⟩) (decide_eq_true rfl) fun y hy hp => ?_
    obtain ⟨hlt, hy2⟩ := mem_c80Columns.1 hy
    have hcol : y.2 = c80Column a := of_decide_eq_true hp
    exact Prod.ext (column_injOn hlt ha (hy2.symm.trans hcol)) hcol
  simp only [c80Correction, h, hfind]
  rw [if_neg (by omega)]

/-- The pair of wrong bits that the decoder finds for a syndrome with the given column as the higher one. -/
def pairBelow (syn : Nat) (c : Nat × Nat) : Option (BitVec 80) :=
  (c80Columns.find? fun d => d.1 < c.1 ∧ d.2 ^^^ c.2 = syn).map fun d => BitVec.twoPow 80 c.1 ^^^ BitVec.twoPow 80 d.1

/-- A syndrome that is no column's is looked for among the pairs. -/
theorem c80Correction_eq_findSome? (h0 : c80Syndrome e ≠ 0) (hcol : ∀ j < 80, c80Column j ≠ c80Syndrome e) :
    c80Correction e = c80Columns.findSome? (pairBelow (c80Syndrome e)) := by
  have hfind : (c80Columns.find? fun c => c.2 = c80Syndrome e) = none := by
    refine List.find?_eq_none.2 fun c hc hp => ?_
    obtain ⟨hlt, hc2⟩ := mem_c80Columns.1 hc
    exact hcol c.1 hlt (hc2.symm.trans (of_decide_eq_true hp))
  simp only [c80Correction, if_neg h0, hfind]
  rfl

variable {syn : Nat} {p : Nat × Nat} {r : BitVec 80}

theorem pairBelow_eq_some (hp : p ∈ c80Columns) (h : pairBelow syn p = some r) :
    ∃ i j, i < 80 ∧ j < i ∧ c80Column i ^^^ c80Column j = syn ∧ r = BitVec.twoPow 80 i ^^^ BitVec.twoPow 80 j := by
  obtain ⟨d, hd, rfl⟩ := Option.map_eq_some_iff.1 h
  obtain ⟨hlt, hsyn⟩ : d.1 < p.1 ∧ d.2 ^^^ p.2 = syn := by simpa using List.find?_some hd
  obtain ⟨hp1, hp2⟩ := mem_c80Columns.1 hp
  obtain ⟨-, hd2⟩ := mem_c80Columns.1 (List.mem_of_find?_eq_some hd)
  exact ⟨p.1, d.1, hp1, hlt, by rw [← hp2, ← hd2, Nat.xor_comm, hsyn], rfl⟩

theorem pairBelow_ne_none (ha : a < 80) (hb : b < a) (h : c80Column a ^^^ c80Column b = syn) : pairBelow syn (a, c80Column a) ≠ none := by
  intro hn
  have hnone := List.find?_eq_none.1 (Option.map_eq_none_iff.1 hn) (b, c80Column b) (mem_c80Columns.2 ⟨hb.trans ha, rfl⟩)
  exact hnone (decide_eq_true ⟨hb, by rw [Nat.xor_comm, h]⟩)

/-- Columns are odd, so the sum of two is no column, and it names its pair. -/
theorem c80Correction_of_pair (ha : a < 80) (hb : b < a) (h : c80Syndrome e = c80Column a ^^^ c80Column b) :
    c80Correction e = some (BitVec.twoPow 80 a ^^^ BitVec.twoPow 80 b) := by
  have heven : c80Syndrome e % 2 = 0 := by rw [h, Nat.xor_mod_two_eq, Nat.add_mod, column_odd, column_odd]
  have h0 : c80Syndrome e ≠ 0 := fun h0 => hb.ne' (column_injOn ha (hb.trans ha) (Nat.xor_eq_zero_iff.1 (h.symm.trans h0)))
  rw [c80Correction_eq_findSome? h0 fun j _ hj => by have := column_odd j; omega]
  cases hf : c80Columns.findSome? (pairBelow (c80Syndrome e)) with
  | none => exact absurd (List.findSome?_eq_none_iff.1 hf _ (mem_c80Columns.2 ⟨ha, rfl⟩)) (pairBelow_ne_none ha hb h.symm)
  | some r =>
    obtain ⟨p, hp, hr⟩ := List.exists_of_findSome?_eq_some hf
    obtain ⟨i, j, hi, hj, hij, rfl⟩ := pairBelow_eq_some hp hr
    rcases columns_of_pair hi (hj.trans hi) ha (hb.trans ha) hj.ne' (hij.trans h) with ⟨rfl, rfl⟩ | ⟨rfl, rfl⟩
    · rfl
    · omega

/-- The sum of three columns is odd, so it is no pair's, and no column's, since then two pairs had one sum. -/
theorem c80Correction_of_triple (ha : a < 80) (hb : b < a) (hc : c < b) (h : c80Syndrome e = c80Column a ^^^ c80Column b ^^^ c80Column c) :
    c80Correction e = none := by
  have hodd : c80Syndrome e % 2 = 1 := by
    rw [h, Nat.xor_mod_two_eq, Nat.add_mod, Nat.xor_mod_two_eq, Nat.add_mod (c80Column a), column_odd, column_odd, column_odd]
  rw [c80Correction_eq_findSome? (by omega) fun d hd hcol => ?_]
  · refine List.findSome?_eq_none_iff.2 fun p hp => Option.eq_none_iff_forall_ne_some.2 fun r hr => ?_
    obtain ⟨i, j, -, -, hij, -⟩ := pairBelow_eq_some hp hr
    rw [← hij, Nat.xor_mod_two_eq, Nat.add_mod, column_odd, column_odd] at hodd
    omega
  · have hpair : c80Column a ^^^ c80Column b = c80Column c ^^^ c80Column d := by
      rw [hcol, h, Nat.xor_comm (c80Column c), Nat.xor_assoc, Nat.xor_self, Nat.xor_zero]
    rcases columns_of_pair ha (hb.trans ha) (by omega) hd hb.ne' hpair with ⟨hac, -⟩ | ⟨-, hbc⟩ <;> omega

/-- Settles O51: sums of columns name at most two bits (`columns_of_pair`), and their parity tells three bits from two. -/
theorem theCodeCorrectsTwoBitsAndDetectsThree : Obligations.TheCodeCorrectsTwoBitsAndDetectsThree := by
  refine ⟨?clean, ?one, ?two, ?three⟩
  case clean => 
    have h : c80Syndrome 0 = 0 := (c80Syndrome_xor 0 0).trans (Nat.xor_self _)
    rw [c80Correction, h]
    rfl
  case one => exact fun a ha => c80Correction_of_column ha (c80Syndrome_twoPow ha)
  case two =>
    intro a b ha hb
    exact c80Correction_of_pair ha hb (by rw [c80Syndrome_xor, c80Syndrome_twoPow ha, c80Syndrome_twoPow (hb.trans ha)])
  case three =>
    intro a b c ha hb hc
    exact c80Correction_of_triple ha hb hc
      (by rw [c80Syndrome_xor, c80Syndrome_xor, c80Syndrome_twoPow ha, c80Syndrome_twoPow (hb.trans ha), c80Syndrome_twoPow (by omega)])

end Sys2Proof.Proofs

/-! ### The reserves of a stack (R205, R212) -/

namespace Sys2Proof.Proofs

open Sys2Proof.Machine

variable {w x c n j stack channel slot i : Nat}

/-- A word lies in the granule that its place names, at its own place of the granule. -/
theorem granuleAt_hbmPlace (w : Nat) :
    granuleAt (hbmPlace (8 * w)).stack (hbmPlace (8 * w)).channel (hbmPlace (8 * w)).slot / 8 + w % 32 = w := by
  simp only [granuleAt, hbmPlace]
  omega

theorem stack_lt (w : Nat) : (hbmPlace w).stack < 8 := Nat.mod_lt _ (by decide)

theorem channel_lt (w : Nat) : (hbmPlace w).channel < 32 := by
  simp only [hbmPlace]
  omega

/-- Each word of a granule has the place of the granule. -/
theorem hbmPlace_granuleAt (hs : stack < 8) (hc : channel < 32) (hi : i < 32) :
    (hbmPlace (8 * (granuleAt stack channel slot / 8 + i))).stack = stack ∧
    (hbmPlace (8 * (granuleAt stack channel slot / 8 + i))).channel = channel ∧
    (hbmPlace (8 * (granuleAt stack channel slot / 8 + i))).slot = slot ∧ (granuleAt stack channel slot / 8 + i) % 32 = i := by
  simp only [granuleAt, hbmPlace]
  omega

/-- A word of HBM space lies in a slot below the reserve's first. -/
theorem lt_hbmSpace_iff : 8 * w < hbmSpace ↔ (hbmPlace (8 * w)).slot < spaceSlots := by
  simp only [hbmSpace, hbmPlace, spaceSlots]
  omega

/-- The `j`-th of the channels other than `c`. -/
def otherChannel (c j : Nat) : Nat := if j < c then j else j + 1

/-- The place of a channel among the channels other than `c`. -/
def otherIndex (c k : Nat) : Nat := if k < c then k else k - 1

theorem otherIndex_otherChannel (c j : Nat) : otherIndex c (otherChannel c j) = j := by
  unfold otherIndex otherChannel
  split_ifs <;> omega

theorem otherChannel_otherIndex (h : x ≠ c) : otherChannel c (otherIndex c x) = x := by
  unfold otherIndex otherChannel
  split_ifs <;> omega

theorem otherChannel_lt (hj : j < n) : otherChannel c j < n + 1 := by
  unfold otherChannel
  split <;> omega

theorem otherIndex_lt (hc : c < n + 1) (hx : x < n + 1) (h : x ≠ c) : otherIndex c x < n := by
  unfold otherIndex
  split <;> omega

/-- Of the first numbers without `c`, the `j`-th. -/
theorem filter_ne_getElem? (hc : c < n + 1) (hj : j < n) : ((List.range (n + 1)).filter (fun k => k ≠ c))[j]? = some (otherChannel c j) := by
  have hidx : List.idxOf c (List.range (n + 1)) = c := by
    have h := (List.nodup_range (n := n + 1)).idxOf_getElem c (by rwa [List.length_range])
    rwa [List.getElem_range] at h
  have hfilter : (List.range (n + 1)).filter (fun k => k ≠ c) = (List.range (n + 1)).eraseIdx c := by
    rw [← List.erase_eq_eraseIdx_of_idxOf hidx, List.nodup_range.erase_eq_filter]
    exact List.filter_congr fun k _ => (decide_not.trans (congrArg _ (beq_eq_decide k c).symm))
  rw [hfilter, List.getElem?_eraseIdx, otherChannel]
  split <;> exact List.getElem?_range (by omega)

/-- The slots of a channel in HBM space fill 31 reserves. -/
theorem slot_div_lt (h : 8 * w < hbmSpace) : (hbmPlace (8 * w)).slot / reserveSlots < 31 :=
  Nat.div_lt_of_lt_mul (lt_hbmSpace_iff.1 h)

theorem reserveWord_eq (w : Nat) : reserveWord w =
    granuleAt (hbmPlace (8 * w)).stack (otherChannel (hbmPlace (8 * w)).channel ((hbmPlace (8 * w)).slot / reserveSlots))
      (spaceSlots + (hbmPlace (8 * w)).slot % reserveSlots) / 8 + w % 32 := rfl

theorem reservedFor_eq (c x : Nat) : reservedFor c x =
    granuleAt (hbmPlace (8 * x)).stack c (otherIndex c (hbmPlace (8 * x)).channel * reserveSlots + ((hbmPlace (8 * x)).slot - spaceSlots)) / 8 + x % 32 := rfl

/-- Where a word of HBM space lies in the reserves (R212). -/
theorem hbmPlace_reserveWord (h : 8 * w < hbmSpace) :
    (hbmPlace (8 * reserveWord w)).stack = (hbmPlace (8 * w)).stack ∧
    (hbmPlace (8 * reserveWord w)).channel = otherChannel (hbmPlace (8 * w)).channel ((hbmPlace (8 * w)).slot / reserveSlots) ∧
    (hbmPlace (8 * reserveWord w)).slot = spaceSlots + (hbmPlace (8 * w)).slot % reserveSlots ∧ reserveWord w % 32 = w % 32 :=
  hbmPlace_granuleAt (stack_lt _) (otherChannel_lt (slot_div_lt h)) (Nat.mod_lt _ (by decide))

/-- Where the word lies that a reserve word stands for. -/
theorem hbmPlace_reservedFor (hc : c < 32) :
    (hbmPlace (8 * reservedFor c x)).stack = (hbmPlace (8 * x)).stack ∧ (hbmPlace (8 * reservedFor c x)).channel = c ∧
    (hbmPlace (8 * reservedFor c x)).slot = otherIndex c (hbmPlace (8 * x)).channel * reserveSlots + ((hbmPlace (8 * x)).slot - spaceSlots) ∧
      reservedFor c x % 32 = x % 32 :=
  hbmPlace_granuleAt (stack_lt _) hc (Nat.mod_lt _ (by decide))

theorem reservedFor_reserveWord (h : 8 * w < hbmSpace) : reservedFor (hbmPlace (8 * w)).channel (reserveWord w) = w := by
  obtain ⟨hstack, hchannel, hslot, hi⟩ := hbmPlace_reserveWord h
  rw [reservedFor_eq, hstack, hchannel, hslot, hi, otherIndex_otherChannel, Nat.add_sub_cancel_left, Nat.div_add_mod', granuleAt_hbmPlace]

theorem reserveWord_reservedFor (hc : c < 32) (hx : spaceSlots ≤ (hbmPlace (8 * x)).slot) (hlt : (hbmPlace (8 * x)).slot < spaceSlots + reserveSlots)
    (hne : (hbmPlace (8 * x)).channel ≠ c) : reserveWord (reservedFor c x) = x := by
  obtain ⟨hstack, hchannel, hslot, hi⟩ := hbmPlace_reservedFor (x := x) hc
  have hq : (hbmPlace (8 * x)).slot - spaceSlots < reserveSlots := by omega
  have hpos : 0 < reserveSlots := by decide
  rw [reserveWord_eq, hstack, hchannel, hslot, hi, Nat.add_comm (_ * _), Nat.add_mul_div_right _ _ hpos, Nat.div_eq_of_lt hq, Nat.zero_add,
    otherChannel_otherIndex hne, Nat.add_mul_mod_self_right, Nat.mod_eq_of_lt hq, Nat.add_sub_cancel' hx, granuleAt_hbmPlace]

theorem reservedFor_lt (hc : c < 32) (hx : spaceSlots ≤ (hbmPlace (8 * x)).slot) (hlt : (hbmPlace (8 * x)).slot < spaceSlots + reserveSlots)
    (hne : (hbmPlace (8 * x)).channel ≠ c) : 8 * reservedFor c x < hbmSpace := by
  obtain ⟨-, -, hslot, -⟩ := hbmPlace_reservedFor (x := x) hc
  have hj := otherIndex_lt hc (channel_lt (8 * x)) hne
  rw [lt_hbmSpace_iff, hslot]
  unfold reserveSlots spaceSlots at *
  omega

/-- Settles O59: `reserveWord` and `reservedFor` are inverse to each other on the slots of a channel. -/
theorem reservesHoldTheSlotsOfOneChannel : Obligations.ReservesHoldTheSlotsOfOneChannel := by
  refine ⟨?place, ?back⟩
  case place =>
    intro w h
    obtain ⟨hstack, hchannel, hslot, hi⟩ := hbmPlace_reserveWord h
    refine ⟨hstack, ?_, hslot, hi, reservedFor_reserveWord h⟩
    rw [hchannel]
    exact filter_ne_getElem? (channel_lt _) (slot_div_lt h)
  case back =>
    intro x c hc hspace hlt hne
    have hx : spaceSlots ≤ (hbmPlace (8 * x)).slot := Nat.not_lt.1 fun h => Nat.not_lt.2 hspace (lt_hbmSpace_iff.2 h)
    obtain ⟨hstack, hchannel, -⟩ := hbmPlace_reservedFor (x := x) hc
    exact ⟨reservedFor_lt hc hx hlt hne, hchannel, hstack, reserveWord_reservedFor hc hx hlt hne⟩
end Sys2Proof.Proofs

/-! ### Reduction groups (R196, R197, R199) -/

namespace Sys2Proof.Proofs

open Sys2Proof.Machine

variable {s s1 u : State} {q die : Nat} {x : Exec} {g : Group} {node n : Node} {t : Tally} {ok : Bool} {mismatch : Option Nat}

/-- The group that a GOPEN asks for. -/
def askedGroup (x : Exec) : Group :=
  { id := bitsOf x.entry 191 186, fmt := bitsOf x.entry 185 182, rowlen := bitsOf x.entry 181 175 + 1, extent := bitsOf x.entry 173 142 + 1
    accumulate := bitOf x.entry 174, tensor := bitsOf x.entry 127 96, spill := x.param (bitsOf x.entry 141 136) % 2 ^ 44
    spillSlots := x.param (bitsOf x.entry 141 136) / 2 ^ 48 * 32768, spilled := [], faults := [], nodes := [] }

theorem exec_gopen_of_running (hx : s.running q [0x54] = some x) (hz : zeroBits x.entry [(135, 128), (95, 0)] = true)
    (hsp : x.param (bitsOf x.entry 141 136) / 2 ^ 44 % 16 = 0) :
    exec (.gopen q) s = .next (if s.groups.any (fun g => g.id == bitsOf x.entry 191 186) then s.finish x.id .aborted
      else (s.openGroup (askedGroup x)).retryLeaves.finish x.id .ok) := by
  show execGopen q s = _
  simp only [execGopen, hx, hz, hsp, Bool.not_true, Bool.false_or, bne_self_eq_false]
  split <;> rfl

/-- The die whose SUC takes a node: its row's home die, or the issuing die where the address names none. -/
def nodeHome (die : Nat) (node : Node) : Nat := if node.addr < hbmSpace then hbmDie node.addr else die

theorem gaddAt_of_room {home : Nat} (hhome : home = nodeHome die node) (hg : s.groups.find? (fun g => g.id == node.group) = some g)
    (htakes : g.takes node = true) (hfaults : g.faults = []) (hwiden : s.widenNode g node = (n, t)) (hs1 : s1 = s.sucTally home .u16w t)
    (hroom : s1.pendingNodes home < (12 - s1.f F.sucCfgScratch home) * 24576) :
    s.gaddAt die node = ((s1.enterNode home 33 g n).1.setGroup (s1.enterNode home 33 g n).2, true) := by
  subst hhome hs1
  simp only [nodeHome] at hroom ⊢
  simp only [State.gaddAt, hg, htakes, hfaults, hwiden, hroom, Bool.not_true, List.isEmpty_nil, Bool.false_eq_true, if_false, if_true]

theorem gaddAt_of_closed (hg : s.groups.find? (fun g => g.id == node.group) = none) : s.gaddAt die node = (s, false) := by
  simp only [State.gaddAt, hg]

theorem exec_gadd (h : s.gaddAt (die % 8) node = (u, ok)) : exec (.gadd die node) s = .next (u.emit (.nodeDone (die % 8) ok)) := by
  show execGadd die node s = _
  simp only [execGadd, h]

theorem exec_gclose_of_running (hx : s.running q [0x55] = some x) : exec (.gclose q mismatch) s = .next (s.gclose x mismatch) := by
  show execGclose q mismatch s = _
  simp only [execGclose, hx]

/-- Stale leaves that are due arrive first, and the close waits for them. -/
theorem gclose_of_sent (hz : zeroBits x.entry [(185, 0)] = true) (hg : s.groups.find? (fun g => g.id == bitsOf x.entry 191 186) = some g)
    (hw : ((s.ofStep g && !s.mayClose) || s.staleWaits (bitsOf x.entry 191 186)) = false) (hsettle : s.settleGroup x g = (u, true)) :
    s.gclose x mismatch = u := by
  simp only [State.gclose, hz, hg, hw, hsettle, Bool.not_true, Bool.false_eq_true, if_false, if_true]

/-- With no stale leaf due, the rows close and the entry ends as they could be written. -/
theorem gclose_of_settled (hz : zeroBits x.entry [(185, 0)] = true) (hg : s.groups.find? (fun g => g.id == bitsOf x.entry 191 186) = some g)
    (hw : ((s.ofStep g && !s.mayClose) || s.staleWaits (bitsOf x.entry 191 186)) = false) (hsettle : s.settleGroup x g = (u, false))
    (hclose : u.closeGroupRows ((u.groups.find? (fun g => g.id == bitsOf x.entry 191 186)).getD g) mismatch = (s1, ok)) :
    s.gclose x mismatch = s1.finish x.id (if ok then .ok else .aborted) := by
  simp only [State.gclose, hz, hg, hw, hsettle, hclose, Bool.not_true, Bool.false_eq_true, if_false]

/-- Settles O25: each clause is what one command answers in its case. -/
theorem reductionGroupsOpenTakeAndClose : Obligations.ReductionGroupsOpenTakeAndClose := by
  refine ⟨?gopen, ?gadd, ?gclose⟩
  case gopen =>
    intro q x s e sp hx hz hsp
    rw [exec_gopen_of_running hx hz hsp]
    exact ⟨fun hopen => congrArg _ (if_neg (Bool.eq_false_iff.1 hopen)), fun hopen => congrArg _ (if_pos hopen)⟩
  case gadd =>
    intro die node s home
    refine ⟨fun g n t u hg htakes hfaults hwiden hroom hu => ?_, fun hg => exec_gadd (gaddAt_of_closed hg)⟩
    subst hu
    exact exec_gadd (gaddAt_of_room rfl hg htakes hfaults hwiden rfl hroom)
  case gclose =>
    intro q x mismatch ok g s s1 hx hz hg hw
    rw [exec_gclose_of_running hx]
    exact ⟨fun u hsettle => congrArg _ (gclose_of_sent hz hg hw hsettle), fun u hsettle hclose => congrArg _ (gclose_of_settled hz hg hw hsettle hclose)⟩

end Sys2Proof.Proofs

/-! ### Mismatches and the test of a SUC (R203) -/

namespace Sys2Proof.Proofs

open Sys2Proof.Machine

variable {s : State} {die id : Nat} {victim : SucVictim} {pass : TestPass}

theorem exec_sucMismatch_of_repeat : exec (.sucMismatch die true victim) s = .next ((s.sucFails die).sucAbort victim) := rfl

theorem sucAbort_atomic {req : AtomicReq} (h : s.arrivals.contains (.outside req) = true) :
    s.sucAbort (.atomic req) = State.emit { s with arrivals := s.arrivals.erase (.outside req) } (.atomicDone req.source none) := if_pos h

theorem sucAbort_remote {req : RemoteReq} (h : s.arrivals.contains (.remote req) = true) :
    s.sucAbort (.remote req) = State.emit { s with arrivals := s.arrivals.erase (.remote req) } (.reply req.part req.flow .refused) := if_pos h

/-- An arrival is a leaf on its way to its home, for the first time or again. -/
def arrivesAs (l : Leaf) : Arrival → Bool
  | .leaf m | .again m _ => m == l
  | _ => false

theorem sucAbort_leaf {l : Leaf} {a : Arrival} (h : s.arrivals.find? (arrivesAs l) = some a) :
    s.sucAbort (.leaf l) = State.answerLeaf { s with arrivals := s.arrivals.erase a } l .refused := by
  show (match s.arrivals.find? (arrivesAs l) with
    | some a => State.answerLeaf { s with arrivals := s.arrivals.erase a } l .refused
    | none => s) = _
  rw [h]

/-- The group of a GCLOSE closes with its entry. -/
def closeOf (s : State) (x : Exec) : State :=
  if opcodeOf x.entry = 0x55 ∧ s.groups.any (fun g => g.id == bitsOf x.entry 191 186) then s.closeGroup (bitsOf x.entry 191 186) else s

theorem sucAbort_entry {x : Exec} (h : s.execs.find? (fun x => x.id == id && x.result.isNone) = some x) :
    s.sucAbort (.entry id) =
      State.finish { closeOf s x with arrivals := (closeOf s x).arrivals.filter fun a => a != .entry x.q id } id .aborted := by
  simp only [State.sucAbort, h]
  rfl

theorem exec_sucTest_of_recovery (hrec : s.inRecovery (stackDomain die) = true) (hidle : s.retrains.any (fun r => r.die == die % 8) = false) :
    exec (.sucTest die pass) s = .next (if pass then s.domainBack (stackDomain die) else s.error 0x3003 sevLost (stackDomain die)) :=
  if_pos (by rw [hrec, hidle]; rfl)

theorem exec_sucTest_of_service (h : s.inRecovery (stackDomain die) = false) : exec (.sucTest die pass) s = .next s :=
  if_neg (by rw [h]; exact Bool.false_ne_true)

/-- Settles O26: a mismatch that repeats fails its stack (`State.sucFails`) and ends what met it (`State.sucAbort`), and the test ends the recovery. -/
theorem sucMismatchAndTestEnd : Obligations.SucMismatchAndTestEnd := by
  refine ⟨fun _ _ _ => rfl, ?again, ?recovery, fun _ _ _ h => exec_sucTest_of_service h⟩
  case again =>
    intro die s t
    refine ⟨rfl, fun _ _ => rfl, fun req h => ?_, fun req h => ?_, fun l a h => ?_, fun _ => rfl, fun id x h => ?_⟩
    · exact congrArg _ (sucAbort_atomic h)
    · exact congrArg _ (sucAbort_remote h)
    · exact congrArg _ (sucAbort_leaf h)
    · exact congrArg _ (sucAbort_entry h)
  case recovery => exact fun _ _ hrec hidle => ⟨exec_sucTest_of_recovery hrec hidle, exec_sucTest_of_recovery hrec hidle⟩

end Sys2Proof.Proofs

/-! ### Patrol and retunes (R207 to R210) -/

namespace Sys2Proof.Proofs

open Sys2Proof.Machine

variable {s u : State} {die memory key i channel due margin : Nat}

/-- A pass of the patrol notes when it began. -/
def beginPass (s : State) (key i : Nat) : State := if i = 0 then { s with patrol := assocSet 0 s.patrol (64 + key) s.now } else s

/-- The patrol moves on to the next word, or ends its pass. -/
def movePatrol (s : State) (die memory key i : Nat) : State :=
  if i + 1 < patrolWords memory then { s with patrol := assocSet 0 s.patrol key (i + 1) }
  else State.endPass { s with patrol := assocSet 0 s.patrol key 0 } die memory (assoc 0 s.patrol (64 + key))

theorem exec_patrolRead_of_awake (hm : memory < 4) (hd : die < (if memory = 3 then 2 else 8))
    (hawake : memory = 2 → s.fb F.hbmStatusSelfRefresh die = false) (hkey : key = memory * 8 + die) (hi : i = assoc 0 s.patrol key)
    (hu : u = (beginPass s key i).patrolCell die memory (patrolWord die memory i)) :
    exec (.patrolRead die memory) s = .next (movePatrol u die memory key i) := by
  subst hu hi hkey
  have hreads : ¬ (4 ≤ memory ∨ (if memory = 3 then 2 else 8) ≤ die ∨ (memory = 2 ∧ s.fb F.hbmStatusSelfRefresh die)) := by
    rintro (h | h | ⟨h2, h⟩)
    · exact Nat.not_lt.2 h hm
    · exact Nat.not_lt.2 h hd
    · exact Bool.eq_false_iff.1 (hawake h2) h
  show execPatrolRead die memory s = _
  rw [execPatrolRead, if_neg hreads, movePatrol, apply_ite Host.Outcome.next]
  rfl

theorem exec_selfRefreshPatrolExit (hd : die < 8) (hs : s.fb F.hbmStatusSelfRefresh die = true) : exec (.selfRefreshPatrolExit die) s =
    .next ((s.sweepCells .hbm ((s.badWords .hbm).filter fun w => hbmDie (8 * w) == die)).endPass die 2 s.now) := if_pos ⟨hd, hs⟩

/-- A retune goes on with a sweep of the whole stack. -/
def inSweep (s : State) (die : Nat) : Bool := (s.sweepFrom die).any fun k => (s.retunable die ((List.range 32).drop k)).isSome

/-- No channel above takes a retune. -/
def lastChannel (s : State) (die channel : Nat) : Bool := (s.retunable die ((List.range 32).drop (channel + 1))).isNone

/-- A retune of a channel begins: the rotation or the sweep moves on, and tick and temperature are noted. -/
def beginRetune (s : State) (die channel : Nat) : State :=
  State.fset { s with
    retuneNext := if inSweep s die then s.retuneNext else assocSet 0 s.retuneNext die ((channel + 1) % 32)
    sweeps := (s.sweeps.filter fun x => x.1 != die) ++ if inSweep s die && !lastChannel s die channel then [(die, channel + 1)] else []
    retuneTemps := (s.retuneTemps.filter fun x => x.1 != die) ++ [(die, s.f F.hbmStatusTemp die)]
    retuneAt := (s.retuneAt.filter fun x => x.1 != die) ++ [(die, s.now)] } F.hbmChanNState chanRetuning die channel

theorem exec_retune_of_due (hd : die < 8) (hc : channel < 32) (hidle : ∀ c, c < 32 → s.f F.hbmChanNState die c ≠ chanRetuning)
    (hnext : s.nextRetune die = some (channel, due)) (hdue : due ≤ s.now) : exec (.retune die channel) s = .next (beginRetune s die channel) := by
  have hturn : ¬ (8 ≤ die ∨ 32 ≤ channel ∨ ((List.range 32).any fun c => s.f F.hbmChanNState die c == chanRetuning) = true) := by
    rintro (h | h | h)
    · exact Nat.not_lt.2 h hd
    · exact Nat.not_lt.2 h hc
    · obtain ⟨c, hmem, hst⟩ := List.any_eq_true.1 h
      exact hidle c (List.mem_range.1 hmem) (beq_iff_eq.1 hst)
  have hnow : ¬ (channel ≠ channel ∨ s.now < due) := by omega
  show execRetune die channel s = _
  rw [execRetune, if_neg hturn]
  simp only [hnext, if_neg hnow]
  rfl

theorem exec_retuneEnd_of_retuning (hd : die < 8) (hc : channel < 32) (hst : s.f F.hbmChanNState die channel = chanRetuning)
    (hu : u = ((s.fset F.hbmChanNState chanNormal die channel).fset F.hbmChanNMargin (min margin 255) die channel).fadd F.hbmChanNRetunes 1 die channel) :
    exec (.retuneEnd die channel margin) s = .next (if margin < 8 then u.triggerRetrain die channel else u) := by
  subst hu
  have hret : ¬ (8 ≤ die ∨ 32 ≤ channel ∨ s.f F.hbmChanNState die channel ≠ chanRetuning) := by omega
  show execRetuneEnd die channel margin s = _
  rw [execRetuneEnd, if_neg hret, apply_ite Host.Outcome.next]

theorem exec_ceLimitExceeded (hd : die < 8) (hc : channel < 32) : exec (.ceLimitExceeded die channel) s =
    .next (if s.f F.hbmCfgCeLimit die < s.f F.hbmChanNCeMin die channel then s.triggerRetrain die channel else s) := by
  show execCeLimitExceeded die channel s = _
  simp only [execCeLimitExceeded, hd, hc, true_and, apply_ite Host.Outcome.next]

theorem exec_channelDead (hd : die < 8) (hc : channel < 32) :
    exec (.channelDead die channel) s = .next (if 16 < s.badCount die channel then s.loseDomain (stackDomain die) 0xFF else s) := by
  show execChannelDead die channel s = _
  simp only [execChannelDead, hd, hc, true_and, apply_ite Host.Outcome.next]

/-! ### The full retrain (R211 to R214) -/

variable {r : Retrain} {pass : TestPass}

/-- The copy pointer of a die's retrain has passed every slot. -/
def pointAtEnd (s : State) (die : Nat) : State :=
  { s with retrains := updateAll s.retrains (fun x => x.die == die) fun x => { x with pointer := spaceSlots } }

theorem exec_evacuationDone_of_evacuating (h : s.retrainIn die chanEvacuating = some r) : exec (.evacuationDone die) s =
    .next (((pointAtEnd (s.evacuate die r.channel r.pointer spaceSlots) die).fset F.hbmStatusReserve 2 die).fset F.hbmChanNState chanRemapped die r.channel) := by
  show execEvacuationDone die s = _
  simp only [execEvacuationDone, h]
  rfl

theorem exec_retrainVerifyEnd_of_remapped (h : s.retrainIn die chanRemapped = some r) (hu : u = s.patterned die r.channel) :
    exec (.retrainVerifyEnd die pass) s = .next (if !pass then (u.fset F.hbmChanNState chanRetired die r.channel).endRetrain r
      else if r.keep then u.endRetrain r else (u.fset F.hbmStatusReserve 3 die).fset F.hbmChanNState chanCopying die r.channel) := by
  subst hu
  show execRetrainVerifyEnd die pass s = _
  simp only [execRetrainVerifyEnd, h, apply_ite Host.Outcome.next]

theorem exec_copyBackDone_of_copying (h : s.retrainIn die chanCopying = some r) : exec (.copyBackDone die) s =
    .next (((((s.copyBack die r.channel).fset F.hbmStatusReserve 0 die).fset F.hbmStatusRchan 0 die).fset F.hbmChanNState chanNormal die r.channel).endRetrain r) := by
  show execCopyBackDone die s = _
  simp only [execCopyBackDone, h]

/-- Settles O42: each clause is what one command answers in its case. -/
theorem memoryCareRunsThroughItsStates : Obligations.MemoryCareRunsThroughItsStates := by
  refine ⟨?patrol, fun _ _ => exec_selfRefreshPatrolExit, fun _ _ _ _ hd hc hidle hnext hdue => exec_retune_of_due hd hc hidle hnext hdue,
    fun _ _ _ _ _ => exec_retuneEnd_of_retuning, fun _ _ _ hd hc => ⟨exec_ceLimitExceeded hd hc, exec_channelDead hd hc⟩,
    fun _ _ _ => exec_evacuationDone_of_evacuating, ?verify, fun _ _ _ => exec_copyBackDone_of_copying⟩
  case patrol =>
    intro die memory key i s s1 s2 hm hd hawake hkey hi hs1 hs2
    subst hs1
    exact exec_patrolRead_of_awake hm hd hawake hkey hi hs2
  case verify =>
    intro die r s h u
    have hend (pass : TestPass) := exec_retrainVerifyEnd_of_remapped (pass := pass) h rfl
    exact ⟨hend false, fun hk => (hend true).trans (congrArg _ (if_pos hk)), fun hk => (hend true).trans (congrArg _ (if_neg (Bool.eq_false_iff.1 hk)))⟩

end Sys2Proof.Proofs
end

section
/-! PROOFS. The statements of spec/07_embedding_tables.md: rows and their homes, LOOKUP, SCATTER, HREFRESH and its flips, leaves at their homes, the Keeper's apply, and the changes of the table directory and of the hall. -/

/-! ### Rows and their homes (R218) -/

namespace Sys2Proof.Proofs

open Sys2Proof.Machine

variable {d : Dir} {r k l n a b : Nat}

theorem div_of_block (hn : 0 < n) : (a * n + b % n) / n = a := by
  rw [Nat.mul_comm, Nat.mul_add_div hn, Nat.div_eq_of_lt (Nat.mod_lt b hn), Nat.add_zero]

theorem mod_of_block : (a * n + b % n) % n = b % n := by
  rw [Nat.mul_comm, Nat.mul_add_mod, Nat.mod_mod]

theorem localOf_div : d.localOf r / 2 ^ d.blk = r / 2 ^ d.blk / d.shards := div_of_block (Nat.two_pow_pos _)

theorem localOf_mod : d.localOf r % 2 ^ d.blk = r % 2 ^ d.blk := mod_of_block

theorem rowOf_div : d.rowOf k l / 2 ^ d.blk = l / 2 ^ d.blk * d.shards + k := div_of_block (Nat.two_pow_pos _)

theorem rowOf_mod : d.rowOf k l % 2 ^ d.blk = l % 2 ^ d.blk := mod_of_block

/-- A row is the one of its home shard and local slot. -/
theorem rowOf_shardOf_localOf : d.rowOf (d.shardOf r) (d.localOf r) = r := by
  rw [Dir.rowOf, localOf_div, localOf_mod, Dir.shardOf, Nat.div_add_mod', Nat.div_add_mod']

theorem shardOf_rowOf (hk : k < d.shards) : d.shardOf (d.rowOf k l) = k := by
  rw [Dir.shardOf, rowOf_div, Nat.mul_comm, Nat.mul_add_mod, Nat.mod_eq_of_lt hk]

theorem localOf_rowOf (hk : k < d.shards) : d.localOf (d.rowOf k l) = l := by
  rw [Dir.localOf, rowOf_div, rowOf_mod, Nat.mul_comm (l / _), Nat.mul_add_div (Nat.zero_lt_of_lt hk), Nat.div_eq_of_lt hk, Nat.add_zero, Nat.div_add_mod']

/-- Settles O50: a block of 2^BLK rows keeps its inner place, and the blocks are dealt to the shards in turn. -/
theorem rowsHaveOneHomeShardAndLocalSlot : Obligations.RowsHaveOneHomeShardAndLocalSlot := by
  intro d hs
  refine ⟨fun r => ⟨?_, Nat.mod_lt _ hs, ?_, rowOf_shardOf_localOf⟩, fun k l hk => ⟨shardOf_rowOf hk, localOf_rowOf hk⟩⟩
  · rw [Nat.shiftRight_eq_div_pow, Dir.shardOf]
  · rw [Nat.shiftRight_eq_div_pow, Dir.localOf]

end Sys2Proof.Proofs

/-! ### LOOKUP (R229, R230, R235, R238) -/

namespace Sys2Proof.Proofs

open Sys2Proof.Machine

variable {s s1 s2 : State} {q t v st n base : Nat} {x : Exec} {replies : List RunReply} {dc : Desc} {d : Dir} {bags : List (List Pos)}

theorem exec_lookup_of_running (hx : s.running q [0x50] = some x) :
    exec (.lookup q replies) s = .next { State.lookup { s with seen := s.taken x } q x replies with seen := [] } := by
  show execLookup q replies s = _
  simp only [execLookup, hx]
  rfl

theorem lookup_of_reserved (hp : x.pin = some (t, v, st)) (h : 3 ≤ st % 16) : s.lookup q x replies = (s.badState t).lookupAbort x := by
  simp only [State.lookup, hp, h, if_true]

theorem lookup_of_absent (hp : x.pin = some (t, v, st)) (h : st = 0 ∨ 16 ≤ st) (hr : st % 16 < 3) : s.lookup q x replies = s.lookupAbort x := by
  simp only [State.lookup, hp, Nat.not_le.2 hr, h, if_false, if_true]

/-- An abort whose descriptor cannot be read or names a tile writes no output. -/
theorem lookupAbort_of_no_view {o : Option Desc} (h : s.readDesc 0xFF (x.param (bitsOf x.entry 173 168)) = (s1, o))
    (ho : o = none ∨ o.any Desc.tile = true) : s.lookupAbort x = s1.finish x.id .aborted := by
  rcases o with _ | dc
  · simp only [State.lookupAbort, h]
  · have htile : dc.tile = true := by simpa using ho
    simp only [State.lookupAbort, h, htile, if_true]

/-- An abort whose descriptor names an output leaves it without defined values. -/
theorem lookupAbort_of_view (h : s.readDesc 0xFF (x.param (bitsOf x.entry 173 168)) = (s1, some dc)) (htile : dc.tile = false) :
    s.lookupAbort x = (s1.undefineView ⟨0xFF, [.sram, .hbm], false⟩ dc ((Fmt.ofCode (bitsOf x.entry 143 140)).getD .u16w)
      (bitsOf x.entry 95 80 + 1) (s1.dir (bitsOf x.entry 161 146)).rowlen).finish x.id .aborted := by
  simp only [State.lookupAbort, h, htile, Bool.false_eq_true, if_false]

/-- A LOOKUP of an ONLINE or OFFLINE table that passes its checks and whose arrays are read runs on the version it pinned. -/
theorem lookup_of_read (hp : x.pin = some (t, v, st)) (hd : d = s.dir t) (hst : st = 1 ∨ st = 2) (hpool : bitsOf x.entry 145 144 ≠ 3)
    (hz : zeroBits x.entry [(131, 128), (79, 0)] = true) (hdc : s.readDesc 0xFF (x.param (bitsOf x.entry 173 168)) = (s1, some dc))
    (hbags : s1.readBags (x.param (bitsOf x.entry 191 186)) (x.param (bitsOf x.entry 185 180)) (x.param (bitsOf x.entry 179 174))
      (bitsOf x.entry 95 80 + 1) (bitsOf x.entry 145 144 == 0) (bitsOf x.entry 145 144 == 1) = (s2, some (bags, n)))
    (hbase : regionOf d v = some base) (htile : dc.tile = false) (hok : dc.ok [0, 1] none = true) :
    s.lookup q x replies = s2.lookupRun x ⟨lkeDie q, t, d, v, base, st == 2, bitsOf x.entry 127 96⟩ (bitsOf x.entry 145 144 == 0)
      ((Fmt.ofCode (bitsOf x.entry 143 140)).getD .u16w) dc (if bitOf x.entry 139 then some (x.param (bitsOf x.entry 167 162)) else none) bags replies := by
  subst hd
  have hlegal : ¬ 3 ≤ st % 16 := by omega
  have hheld : ¬ (st = 0 ∨ 16 ≤ st) := by omega
  simp only [State.lookup, hp, hlegal, hheld, beq_eq_false_iff_ne.2 hpool, hz, hdc, hbags, hbase, htile, hok, Bool.not_true, Bool.or_self, Bool.false_eq_true, if_false]

/-- Settles O21: the pinned STATE decides between the abort and the run, and the descriptor what an abort leaves of the output. -/
theorem lookupPoolsOrIsRefused : Obligations.LookupPoolsOrIsRefused := by
  intro q replies x t v st s hx hp
  rw [exec_lookup_of_running hx]
  refine ⟨fun hres => ?reserved, fun hst hres s1 o hdesc => ?absent, ?held⟩
  case reserved => rw [lookup_of_reserved hp hres]
  case absent =>
    rw [lookup_of_absent hp hst hres]
    refine ⟨fun ho => ?_, fun dc ho htile => ?_⟩
    · rw [lookupAbort_of_no_view hdesc ho]
    · subst ho
      rw [lookupAbort_of_view hdesc htile]
  case held =>
    intro s1 s2 dc bags n base e d hst hpool hz hdc hbags hbase htile hok
    rw [lookup_of_read hp rfl hst hpool hz hdc hbags hbase htile hok]

end Sys2Proof.Proofs

/-! ### SCATTER and HREFRESH (R244, R250, R253) -/

namespace Sys2Proof.Proofs

open Sys2Proof.Machine

variable {s s1 s2 : State} {q k n : Nat} {x : Exec} {acked : LeafAcks} {stale : Bool} {l : List Byte}

/-- A SCATTER whose leaves have gone ends by what their homes answered, or waits for its own. -/
theorem exec_scatter_of_sent (hx : s.running q [0x51] = some x) (hstage : x.stage = 1)
    (hfind : s.execs.find? (fun y => y.id == x.id && y.stage == 1 && y.result.isNone) = some x) :
    exec (.scatter q acked stale) s = .next (if x.bad || !acked.all || !s.leafReached x acked.hove then s.finish x.id .aborted
      else if s.leafWaits x.id then s else s.finish x.id (if stale || x.stale then .replacing else .ok)) := by
  show execScatter q acked stale s = _
  simp only [execScatter, hx, State.scatter, hstage, Nat.one_ne_zero, if_false, hfind]

theorem exec_hrefresh_of_running (hx : s.running q [0x52] = some x) :
    exec (.hrefresh q) s = .next { State.hrefresh { s with seen := s.taken x } q x with seen := [] } := by
  show execHrefresh q s = _
  simp only [execHrefresh, hx]
  rfl

/-- An HREFRESH whose list is read takes up the entries that it has not taken, and ends once its runs have moved. -/
theorem hrefresh_of_load (hn : n = bitsOf x.entry 185 176 + 1) (hz : zeroBits x.entry [(175, 0)] = true)
    (hl : s.loadAt ⟨0xFF, [.sram], false⟩ (x.param (bitsOf x.entry 191 186)) (16 * n) = (s1, some l))
    (hlist : s1.readHot.refreshList (lkeDie q) x.id x.stage (((chunksOf 16 n l).map refreshOf).drop x.stage) = (s2, k)) :
    s.hrefresh q x = (s2.staged x k).showMoving.refreshDone x.id n := by
  subst hn
  simp only [State.hrefresh, hz, hl, hlist, Bool.not_true, Bool.false_eq_true, if_false]
  rfl

/-- Settles O22: a SCATTER ends by what its leaves met (`exec_scatter_of_sent`), and an HREFRESH works on its list (`hrefresh_of_load`). -/
theorem scatterAndRefreshRun : Obligations.ScatterAndRefreshRun := by
  refine ⟨?scatter, ?hrefresh⟩
  case scatter =>
    intro q x acked stale s hx hstage hfind
    rw [exec_scatter_of_sent hx hstage hfind]
    refine ⟨fun hbad hall hreach hwaits => ?ended, fun hbad hall hreach hwaits => ?waits, fun h => ?failed⟩
    case ended => simp only [hbad, hall, hreach, hwaits, Bool.not_true, Bool.or_self, Bool.false_eq_true, if_false, Bool.or_eq_true]
    case waits => simp only [hbad, hall, hreach, hwaits, Bool.not_true, Bool.or_self, Bool.false_eq_true, if_false, if_true]
    case failed =>
      have hfail : (x.bad || !acked.all || !s.leafReached x acked.hove) = true := by simpa [or_assoc] using h
      rw [if_pos hfail]
  case hrefresh =>
    intro q x s s1 s2 l k n hx hz hl hlist
    rw [exec_hrefresh_of_running hx, hrefresh_of_load rfl hz hl hlist]
    rfl

end Sys2Proof.Proofs

/-! ### Flips of moving runs (R246, R247, R249) -/

namespace Sys2Proof.Proofs

open Sys2Proof.Machine

variable {s : State} {m : Move} {x : Exec}

/-- The one run in motion flips once its copy is done and nothing holds it. -/
theorem exec_migrationFlip_of_single (hm : s.moves = [m]) (hfree : s.moveFree m = true)
    (hx : (s.flipMove m).showMoving.execs.find? (fun y => y.id == m.id) = some x) :
    exec (.migrationFlip [m.frame] []) s = .next ((s.flipMove m).showMoving.refreshDone m.id (bitsOf x.entry 185 176 + 1)) := by
  have hready : s.moves.filter (fun n => [m.frame].contains n.frame && s.moveFree n) = [m] := by simp [hm, hfree]
  have hids : [m.id].dedup = [m.id] := (List.nodup_singleton _).dedup
  show execMigrationFlip [m.frame] [] s = _
  simp only [execMigrationFlip, List.contains_nil, List.filter_false, hready, List.foldl_nil, List.foldl_cons, List.nil_append, List.map_cons, List.map_nil,
    hids, hx]

theorem exec_migrationFlip_of_none : exec (.migrationFlip [] []) s = .next s.showMoving := by
  show execMigrationFlip [] [] s = _
  simp only [execMigrationFlip, List.contains_nil, Bool.false_and, List.filter_false, List.foldl_nil, List.append_nil, List.map_nil, List.dedup_nil]

/-- Settles O23: the run that is done flips, and with none listed only LKE_STATUS.MOVING is shown. -/
theorem runsFlipAtAFlipTick : Obligations.RunsFlipAtAFlipTick :=
  ⟨fun _ _ _ => exec_migrationFlip_of_single, fun _ => exec_migrationFlip_of_none⟩

end Sys2Proof.Proofs

/-! ### Runs and leaves at their home (R236, R253, R255, R436) -/

namespace Sys2Proof.Proofs

open Sys2Proof.Machine

variable {s s1 : State} {run : RunRequest} {r : RunReply} {leaf : Leaf} {end_ : LeafEnd}

theorem exec_remoteRunRequest_of_refused (h : s.inHove = true ∨ s.isMember run.part = false) :
    exec (.remoteRunRequest run) s = .next (s.emit (.runReply run.part ⟨false, s.inHove, []⟩)) := by
  show execRemoteRunRequest run s = _
  cases hhove : s.inHove
  case true => simp only [execRemoteRunRequest, hhove, if_true]
  case false =>
    have hmember : s.isMember run.part = false := h.resolve_left (Bool.eq_false_iff.1 hhove)
    simp only [execRemoteRunRequest, hhove, hmember, Bool.not_false, Bool.false_eq_true, if_false, if_true]

theorem exec_remoteRunRequest_of_member (hhove : s.inHove = false) (hmember : s.isMember run.part = true) (hserve : s.serveRun run = (s1, r)) :
    exec (.remoteRunRequest run) s = .next (s1.emit (.runReply run.part r)) := by
  show execRemoteRunRequest run s = _
  simp only [execRemoteRunRequest, hhove, hmember, hserve, Bool.not_true, Bool.false_eq_true, if_false]

theorem exec_leafArrival : exec (.leafArrival leaf) s =
    .next (if s.inHove then s.leafHove leaf else if !s.isMember leaf.part then s.ackLeaf leaf false false else s.arrive (.leaf leaf)) := by
  show execLeafArrival leaf s = _
  simp only [execLeafArrival, apply_ite Host.Outcome.next]

theorem leafHove_of_remote (h : leaf.queue = none) : s.leafHove leaf = s.emit (.leafOut leaf.part) := by
  simp only [State.leafHove, h]

/-- Outside Hove-to the tick has a leaf taken at its home. -/
theorem performArrival_leaf (hhove : s.inHove = false) : s.performArrival (.leaf leaf) = s.leafIn leaf (s.now + 1000) :=
  if_neg (Bool.eq_false_iff.1 hhove)

theorem leafIn_of_waits {due : Nat} (h : s.takeLeaf leaf = (s1, .waits)) :
    s.leafIn leaf due = { s1 with waitingLeaves := s1.waitingLeaves ++ [(leaf, due)] } := by
  simp only [State.leafIn, h]

theorem leafIn_of_end {due : Nat} (h : s.takeLeaf leaf = (s1, end_)) (hw : end_ ≠ .waits) : s.leafIn leaf due = s1.answerLeaf leaf end_ := by
  cases end_
  case waits => exact absurd rfl hw
  all_goals simp only [State.leafIn, h]

/-- The leaves that have waited for their group until now. -/
def leafDue (s : State) (w : Leaf × Nat) : Bool := decide (w.2 ≤ s.now)

theorem exec_leafGroupWaitExpiry : exec .leafGroupWaitExpiry s = .next ((s.waitingLeaves.filter (leafDue s)).foldl (fun s w => s.answerLeaf w.1 .refused)
    { s with waitingLeaves := s.waitingLeaves.filter fun w => !leafDue s w }) := rfl

theorem exec_leafGroupWaitExpiry_of_none (h : ∀ w ∈ s.waitingLeaves, s.now < w.2) : exec .leafGroupWaitExpiry s = .next s := by
  have hdue (w : Leaf × Nat) (hw : w ∈ s.waitingLeaves) : leafDue s w = false := decide_eq_false (Nat.not_le.2 (h w hw))
  have hnone : s.waitingLeaves.filter (leafDue s) = [] := List.filter_eq_nil_iff.2 fun w hw => Bool.eq_false_iff.1 (hdue w hw)
  have hrest : s.waitingLeaves.filter (fun w => !leafDue s w) = s.waitingLeaves := List.filter_eq_self.2 fun w hw => by rw [hdue w hw]; rfl
  rw [exec_leafGroupWaitExpiry, hnone, hrest, List.foldl_nil]

theorem exec_leafGroupWaitExpiry_of_single {w : Leaf × Nat} (hs : s.waitingLeaves = [w]) (h : w.2 ≤ s.now) :
    exec .leafGroupWaitExpiry s = .next (State.answerLeaf { s with waitingLeaves := [] } w.1 .refused) := by
  have hdue : leafDue s w = true := decide_eq_true h
  have hone : s.waitingLeaves.filter (leafDue s) = [w] := by rw [hs, List.filter_singleton, hdue]; rfl
  have hrest : s.waitingLeaves.filter (fun w => !leafDue s w) = [] := by rw [hs, List.filter_singleton, hdue]; rfl
  rw [exec_leafGroupWaitExpiry, hone, hrest, List.foldl_cons, List.foldl_nil]

/-- Settles O27: a run or leaf is answered by who sent it, and a leaf's answer follows what `State.takeLeaf` makes of it. -/
theorem remoteRunsAndLeavesReachTheirHome : Obligations.RemoteRunsAndLeavesReachTheirHome := by
  refine ⟨fun _ _ => exec_remoteRunRequest_of_refused, fun _ _ _ _ => exec_remoteRunRequest_of_member, ?hove, ?stranger, ?member,
    fun _ => exec_leafGroupWaitExpiry_of_none, fun _ _ => exec_leafGroupWaitExpiry_of_single⟩
  case hove =>
    intro leaf s hhove
    refine ⟨?_, leafHove_of_remote⟩
    rw [exec_leafArrival, if_pos hhove]
  case stranger =>
    intro leaf s hhove hmember
    rw [exec_leafArrival, if_neg (Bool.eq_false_iff.1 hhove), hmember, Bool.not_false, if_pos rfl]
  case member =>
    intro leaf s hhove hmember
    rw [performArrival_leaf hhove, exec_leafArrival, if_neg (Bool.eq_false_iff.1 hhove), hmember, Bool.not_true, if_neg Bool.false_ne_true]
    exact ⟨rfl, fun s1 h => leafIn_of_end h (by decide), fun s1 h => leafIn_of_end h (by decide), fun s1 h => leafIn_of_end h (by decide),
      fun s1 h => leafIn_of_waits h⟩

end Sys2Proof.Proofs

/-! ### The Keeper's apply (R257, R436) -/

namespace Sys2Proof.Proofs

open Sys2Proof.Machine

variable {s : State}

/-- The apply of a Keeper part is due. -/
def ApplyDue (s : State) : Prop := s.keeper = true ∧ s.inHove = false ∧ s.now / s.f F.lkeCfgApply * s.f F.lkeCfgApply = s.now

/-- The Keeper groups of the part applied in turn. -/
def keeperApplied (s : State) : State := (s.groups.filter fun g => g.keeper.isSome).foldl (State.keeperTable · false) s.readHot

theorem applyDue_iff : (s.keeper && !s.inHove && decide (s.now / s.f F.lkeCfgApply * s.f F.lkeCfgApply = s.now)) = true ↔ ApplyDue s := by
  simp [ApplyDue, and_assoc]

theorem exec_keeperApply_of_due (h : ApplyDue s) :
    exec .keeperApply s = .next (State.retryLeaves { keeperApplied s with keeperApplies := (keeperApplied s).keeperApplies + 1 }) :=
  if_pos (applyDue_iff.2 h)

theorem exec_keeperApply_of_not_due (h : ¬ ApplyDue s) : exec .keeperApply s = .next s := if_neg fun hc => h (applyDue_iff.1 hc)

/-- Settles O28: the apply acts when it is due, and at no other tick. -/
theorem keeperAppliesEachPeriod : Obligations.KeeperAppliesEachPeriod := by
  intro s
  refine ⟨fun hrole hhove hnow => ⟨keeperApplied s, rfl, exec_keeperApply_of_due ⟨hrole, hhove, hnow⟩⟩, fun h => exec_keeperApply_of_not_due ?_⟩
  rintro ⟨hrole, hhove, hnow⟩
  rcases h with hr | hh | hn
  · exact Bool.eq_false_iff.1 hr hrole
  · exact Bool.eq_false_iff.1 hhove hh
  · exact hn hnow

end Sys2Proof.Proofs

/-! ### Staging, hall-wide changes of the directory and releases (R260 to R264) -/

namespace Sys2Proof.Proofs

open Sys2Proof.Machine

variable {s u : State} {q t v op part table version : Nat} {x : Exec} {d : Dir} {cmd : Nat → Nat → HallCmd} {c : HallCmd}

/-- A TSTAGE of a table with a layout and no retained version stages a version that is new. -/
theorem exec_tstage_of_new (ht : t = bitsOf x.entry 191 176) (hv : v = bitsOf x.entry 175 144) (hu : u = s.readDir t) (hd : d = u.dir t)
    (hx : s.running q [0x84] = some x) (hz : zeroBits x.entry [(137, 0)] = true) (hold : d.oldValid = false) (hcur : v ≠ d.version)
    (hret : v ≠ d.oldVersion) (hlayout : d.state = 1 ∨ d.state = 2 ∨ d.rows ≠ 0) :
    exec (.tstage q) s = .next ((u.setDir t { d with
      nextVersion := v, nextBase := x.param (bitsOf x.entry 143 138) % 2 ^ 44, nextValid := true }).finish x.id .ok) := by
  have hl : ((d.state == 0 || decide (3 ≤ d.state)) && d.rows == 0) = false := by
    rcases hlayout with h | h | h <;> simp [h]
  subst hd hu ht hv
  show execTstage q s = _
  simp only [execTstage, hx, hz, hold, beq_eq_false_iff_ne.2 hcur, beq_eq_false_iff_ne.2 hret, hl, Bool.not_true, Bool.or_self, Bool.false_eq_true, if_false]

/-- An entry that asks the hall for the first time waits for the vote. -/
theorem asking_of_new (h : x.stage = 0) : s.asking x c =
    { s with execs := updateAll s.execs (fun y => y.id == x.id) fun y => { y with stage := 1 }, hallAsked := s.hallAsked ++ [c], out := s.out ++ [.hallAsk c] } :=
  if_pos h

theorem tableVote_of_running (hx : s.running q [op] = some x) (hz : zeroBits x.entry [(137, 0)] = true) :
    s.tableVote q op cmd = s.asking x (cmd (bitsOf x.entry 191 176) (bitsOf x.entry 175 144)) := by
  simp only [State.tableVote, hx, hz, Bool.not_true, Bool.false_eq_true, if_false]

theorem exec_oldVersionRelease_of_hove (h : s.inHove = true) : exec (.oldVersionRelease part table version) s =
    .next { s with boot := { s.boot with releases := s.boot.releases ++ [(part, table, version)] } } := if_pos h

theorem exec_oldVersionRelease_of_service (h : s.inHove = false) :
    exec (.oldVersionRelease part table version) s = .next (s.countRelease part table version) := if_neg (Bool.eq_false_iff.1 h)

/-- Settles O29: a version is staged where it is new, `State.asking` asks once, and `State.countRelease` counts each member's release once. -/
theorem tableCommandsStageAskAndRelease : Obligations.TableCommandsStageAskAndRelease := by
  refine ⟨fun _ _ _ => exec_tstage_of_new rfl rfl rfl rfl, ?votes, fun _ _ _ _ => exec_oldVersionRelease_of_hove, ?release⟩
  case votes =>
    intro q x s hz hstage ask
    have hask {op : Nat} (cmd : Nat → Nat → HallCmd) (hx : s.running q [op] = some x) :
        s.tableVote q op cmd = ask (cmd (bitsOf x.entry 191 176) (bitsOf x.entry 175 144)) := (tableVote_of_running hx hz).trans (asking_of_new hstage)
    exact ⟨fun hx => congrArg _ (hask _ hx), fun hx => congrArg _ (hask _ hx), fun hx => congrArg _ (hask _ hx)⟩
  case release =>
    intro part table version s hhove
    rw [exec_oldVersionRelease_of_service hhove]
    refine ⟨fun hvalid hver hmember hnew => congrArg _ (if_pos ⟨hvalid, hver, hmember, hnew⟩), fun hver => congrArg _ (if_neg ?_),
      fun hold => congrArg _ (if_neg ?_)⟩
    · rintro ⟨-, h, -, -⟩
      exact hver h
    · rintro ⟨-, -, -, h⟩
      exact h hold

end Sys2Proof.Proofs

/-! ### Members of the hall (R262, R298, R369 to R371, R387, R431, R436) -/

namespace Sys2Proof.Proofs

open Sys2Proof.Machine

variable {s u v : State} {q part t tick : Nat} {x : Exec} {cmd : HallCmd} {mine accepted hove : Bool}

/-! #### MCHANGE -/

theorem exec_mchangeJoin_of_running (hx : s.runningOp q 0x7A [0] = some x) (hz : zeroBits x.entry [(171, 0)] = true)
    (hrole : s.roleOk (bitsOf x.entry 173 172) = true) : exec (.mchangeJoin q) s = .next (s.asking x (.join (bitsOf x.entry 189 174)
      (bitsOf x.entry 173 172) (s.joinerOf (bitsOf x.entry 189 174)).1 (s.joinerOf (bitsOf x.entry 189 174)).2)) := by
  show execMchangeJoin q s = _
  simp only [execMchangeJoin, hx, hz, hrole, Bool.not_true, Bool.or_self, Bool.false_eq_true, if_false]

theorem exec_mchangeLeave_of_running (hx : s.runningOp q 0x7A [1] = some x) : exec (.mchangeLeave q) s =
    .next (if zeroBits x.entry [(171, 0)] then s.asking x (.leave (bitsOf x.entry 189 174)) else s.finish x.id .aborted) := by
  show execMchangeLeave q s = _
  cases hz : zeroBits x.entry [(171, 0)]
  case false => simp only [execMchangeLeave, hx, hz, Bool.not_false, Bool.false_eq_true, if_false, if_true]
  case true => simp only [execMchangeLeave, hx, hz, Bool.not_true, Bool.false_eq_true, if_false, if_true]

theorem exec_mchangeRole_of_running (hx : s.runningOp q 0x7A [2, 3] = some x) (hop : bitsOf x.entry 191 190 = 2) (hz : zeroBits x.entry [(171, 0)] = true)
    (hrole : s.roleOk (bitsOf x.entry 173 172) = true) :
    exec (.mchangeRole q) s = .next (s.asking x (.role (bitsOf x.entry 189 174) (bitsOf x.entry 173 172))) := by
  show execMchangeRole q s = _
  simp [execMchangeRole, hx, hop, hz, hrole]

/-! #### Votes of the hall and what they decide -/

theorem exec_hallVoteRequestReceive_of_member (hm : s.isMember s.me = true) (hh : s.inHove = false) :
    exec (.hallVoteRequestReceive part cmd) s = .next (s.emit (.hallAnswer part cmd (s.acceptsHall cmd))) :=
  if_pos (by rw [hm, hh]; rfl)

section
variable (hmine : mine = (part == s.me && s.hallAsked.contains cmd)) (hu : u = if mine then { s with hallAsked := s.hallAsked.erase cmd } else s)
include hmine hu

theorem exec_hallVoteDecision_of_refused : exec (.hallVoteDecision ⟨part, cmd, tick⟩ false) s = .next (u.refuseHall cmd mine) := by
  subst hu hmine
  rfl

variable (hv : v = if mine then u.acceptEntry cmd else u)
include hv

/-- An accepted command waits for the step in progress of a job that learns, else for its tick. -/
theorem exec_hallVoteDecision_of_accepted : exec (.hallVoteDecision ⟨part, cmd, tick⟩ true) s =
    .next (if v.hallJob && !v.hallGen then { v with step := { v.step with postponed := v.step.postponed ++ [cmd] } }
      else { v with hallPending := v.hallPending ++ [(cmd, v.effectTick cmd tick)] }) := by
  subst hv hu hmine
  exact (apply_ite Host.Outcome.next _ _ _).symm

end

theorem exec_hallChangeEffect_of_service (h : s.inHove = false) : exec .hallChangeEffect s =
    .next (State.applyHalls { s with hallPending := s.hallPending.filter fun c => decide (s.now < c.2) }
      ((s.hallPending.filter fun c => decide (c.2 ≤ s.now)).map (·.1))) :=
  congrArg _ (if_neg (Bool.eq_false_iff.1 h))

theorem exec_hallChangeEffect_of_hove (h : s.inHove = true) : exec .hallChangeEffect s = .next s := congrArg _ (if_pos h)

/-! #### Heartbeats -/

theorem exec_memberHeartbeat_of_due (hm : s.isMember s.me = true) (hdue : s.lastBeat + s.f F.hallCtrlBeat * 1000 ≤ s.now) : exec .memberHeartbeat s =
    .next (State.emits { s with lastBeat := s.now } ((s.hallCommittee.filter fun p => p != s.me).map fun p => .heartbeat p s.inHove)) :=
  if_neg (by rw [hm, decide_eq_false (Nat.not_lt.2 hdue)]; exact Bool.false_ne_true)

/-- The leader of the hall committee has yet to ask for the flag that a heartbeat tells. -/
abbrev flagUnasked (s : State) (part : Nat) (hove : Bool) : Prop :=
  s.memberFlags part % 2 ≠ (if hove then 1 else 0) ∧ s.hallCommittee.head? = some s.me ∧ HallCmd.hove part hove ∉ s.hallAsked

/-- A heartbeat starts its member's count again, and the leader asks once for a flag that differs. -/
theorem exec_heartbeatReceive_of_member (hh : s.inHove = false) (hc : s.hallCommittee.contains s.me = true) (hm : s.isMember part = true)
    (hu : u = { s with beats := assocSet 0 s.beats part s.now }) : exec (.heartbeatReceive part hove) s = .next (if flagUnasked u part hove
      then State.emit { u with hallAsked := u.hallAsked ++ [HallCmd.hove part hove] } (.hallAsk (.hove part hove)) else u) := by
  subst hu
  show execHeartbeatReceive part hove s = _
  simp only [execHeartbeatReceive, hh, hc, hm, Bool.not_true, Bool.or_self, Bool.false_eq_true, if_false]
  rw [apply_ite Host.Outcome.next, ← ite_not]
  refine if_congr ?_ rfl rfl
  simp [flagUnasked, and_assoc]

theorem exec_memberLostTimeout_of_silent (hh : s.inHove = false) (hj : s.hallJob = false) (hlead : s.hallCommittee.head? = some s.me) (hme : part ≠ s.me)
    (hm : s.isMember part = true) (hb : s.beats.find? (fun b => b.1 == part) = some (part, t))
    (ht : t + s.f F.hallCtrlBeatsLost * (s.f F.hallCtrlBeat * 1000) ≤ s.now) (hnew : HallCmd.lost part ∉ s.hallAsked) :
    exec (.memberLostTimeout part) s = .next (State.emit { s with hallAsked := s.hallAsked ++ [HallCmd.lost part] } (.hallAsk (.lost part))) := by
  have hasked : s.hallAsked.contains (HallCmd.lost part) = false := by simpa using hnew
  show execMemberLostTimeout part s = _
  simp only [execMemberLostTimeout, hh, hj, hlead, beq_eq_false_iff_ne.2 hme, hm, hb, Option.any_some, decide_eq_true ht, hasked, bne_self_eq_false,
    Bool.not_true, Bool.or_self, Bool.false_eq_true, if_false]

/-! #### Resignation and promotion -/

theorem exec_resignReceive_of_leader (hl : s.leads = true) (hm : s.stepMembers.contains part = true) (hr : s.step.resigned.contains part = false) :
    exec (.resignReceive part) s = .next { s with step := { s.step with resigned := s.step.resigned ++ [part] } } :=
  if_pos (by rw [hl, hm, hr]; rfl)

section
variable {shards : List RestoredShard} {rows : List (Nat × List Byte)} (hj : s.jobRuns = true) (hh : s.inHove = false) (hp : s.beingPromoted = true)
include hj hh hp

/-- A promoted spare whose image cannot be restored resigns. -/
theorem exec_partPromotionRestore_of_fail : exec (.partPromotionRestore false shards rows) s = .next s.promotionFailed := by
  show execPartPromotionRestore false shards rows s = _
  simp only [execPartPromotionRestore, hj, hh, hp, Bool.not_true, Bool.not_false, Bool.or_self, Bool.false_eq_true, if_false, if_true]

/-- A promoted spare before its rows come back: its cores stopped, its segments loaded, its flags clear and its settings those of the job. -/
def spareLoaded (s : State) : State :=
  State.applyJobSettings (State.clearFlags (s.stopCores.loadSegments (s.stopCores.segmentSet s.stopCores.step.segSet)).1)

theorem exec_partPromotionRestore_of_restored {marks : List (Nat × Nat)} (hr : ((spareLoaded s).restoreRows rows).restoreShards shards = (v, some marks)) :
    exec (.partPromotionRestore true shards rows) s = .next (v.emit (.promoted (v.committee.headD v.me) ⟨marks, 0⟩)) := by
  rw [spareLoaded] at hr
  show execPartPromotionRestore true shards rows s = _
  simp only [execPartPromotionRestore, hj, hh, hp, hr, Bool.not_true, Bool.or_self, Bool.false_eq_true, if_false]

/-- A promoted spare with a record that fails its check resigns. -/
theorem exec_partPromotionRestore_of_bad_record (hr : ((spareLoaded s).restoreRows rows).restoreShards shards = (v, none)) :
    exec (.partPromotionRestore true shards rows) s = .next v.promotionFailed := by
  rw [spareLoaded] at hr
  show execPartPromotionRestore true shards rows s = _
  simp only [execPartPromotionRestore, hj, hh, hp, hr, Bool.not_true, Bool.or_self, Bool.false_eq_true, if_false]

end

/-- At a part that does not lead the step, PROMOTED ends the promotion and starts the deferred run at the tick it carries. -/
theorem exec_promotedReceive_of_follower {mark : PromotedMark} (hh : s.inHove = false) (hm : s.isMember part = true)
    (hf : s.memberFlags part / 2 % 2 = 1) (hl : (s.committee.head? == some s.me) = false) (hu : u = (s.endPromotion part mark).startDeferred mark.tick) :
    exec (.promotedReceive part mark) s = .next (if part = u.me then u.goCores else u) := by
  subst hu
  have hon : (s.memberFlags part / 2 % 2 == 0) = false := by rw [hf]; rfl
  show execPromotedReceive part mark s = _
  simp only [execPromotedReceive, hh, hm, hon, hl, Bool.not_true, Bool.or_self, Bool.false_eq_true, if_false]

/-- Settles O35: each clause is what one command answers in its case. -/
theorem membershipEntriesAskAndHallCommandsAct : Obligations.MembershipEntriesAskAndHallCommandsAct := by
  refine ⟨fun _ _ _ => exec_mchangeJoin_of_running, fun _ _ _ => exec_mchangeLeave_of_running, fun _ _ _ => exec_mchangeRole_of_running,
    fun _ _ _ => exec_hallVoteRequestReceive_of_member, ?decision, fun _ => exec_hallChangeEffect_of_service, fun _ => exec_hallChangeEffect_of_hove,
    fun _ => exec_memberHeartbeat_of_due, ?heartbeat, fun _ _ _ => exec_memberLostTimeout_of_silent, fun _ _ => exec_resignReceive_of_leader,
    ?restore, fun _ _ _ hh hm hf hl => exec_promotedReceive_of_follower hh hm hf hl rfl⟩
  case decision =>
    intro part tick cmd s mine u v
    rw [exec_hallVoteDecision_of_accepted (s := s) rfl rfl rfl]
    refine ⟨exec_hallVoteDecision_of_refused rfl rfl, fun hj => congrArg _ (if_neg ?_), fun hj hg => congrArg _ (if_pos ?_)⟩
    · rw [hj]
      exact Bool.false_ne_true
    · rw [hj, hg]
      rfl
  case heartbeat =>
    intro part hove s hh hc hm u
    rw [exec_heartbeatReceive_of_member hh hc hm rfl]
    refine ⟨fun h => congrArg _ (if_neg ?_), fun hflag hlead hnew => congrArg _ (if_pos ⟨hflag, hlead, hnew⟩)⟩
    rintro ⟨hflag, hlead, hnew⟩
    rcases h with h | h | h
    · exact hflag h
    · exact h hlead
    · exact hnew h
  case restore =>
    intro shards rows s hj hh hp
    exact ⟨exec_partPromotionRestore_of_fail hj hh hp, spareLoaded s, rfl, fun v marks => exec_partPromotionRestore_of_restored hj hh hp,
      fun v => exec_partPromotionRestore_of_bad_record hj hh hp⟩

end Sys2Proof.Proofs
end

section
/-! PROOFS. The statements of spec/08_step_and_commit.md: Castling units, the vote and the decision, the phases of a job and the late set. -/

/-! ### Castling units (R274, R275, R281, R290, R291, R293, R295) -/

namespace Sys2Proof.Proofs

open Sys2Proof.Machine

variable {s s1 s2 v : State} {q n slot step table shard copy c : Nat} {x : Exec} {u : CUnit} {d : Decision} {rest : List (Nat × Decision)}
  {p : ExportPlan} {rows : List (Nat × List (List Byte))} {stream : List Byte} {l : List Byte × List Span} {mismatch : Bool}

/-- An ONLINE or OFFLINE table passes the check of its STATE (R217). -/
theorem serving_not_refused {state : Nat} (h : state = 1 ∨ state = 2) : (state == 0 || decide (3 ≤ state)) = false := by
  rcases h with rfl | rfl <;> rfl

/-! #### UOPEN -/

theorem exec_uopen_of_running (hx : s.running q [0x80] = some x) : exec (.uopen q) s = .next (s.uopen x) := by
  show execUopen q s = _
  simp only [execUopen, hx]

theorem unit_live_any_of_retired {units : List CUnit} (h : ∀ u ∈ units, u.state = .retired) (p : CUnit → Bool) :
    (units.any fun u => u.state != .retired && p u) = false := by
  simpa using fun u hu hne => absurd (h u hu) hne

/-- The unit that UOPEN of a table adds: OPEN on the ranges of its tables, with no records. -/
def openedUnit (s : State) (slot copy table shard : Nat) : CUnit :=
  { slot, dense := false, copy, table, shard, ranges := s.tableRanges table, state := .opened, failed := false, step := s.f F.stepEpochEpoch,
    recs := [], segs := [], digest := 0, count := 0, minority := false }

/-- A UOPEN of a table unit that no case of R274 aborts adds its unit. -/
theorem uopen_of_accepted (htable : table = bitsOf x.entry 188 173) (hshard : shard = bitsOf x.entry 172 157) (hslot : slot = bitsOf x.entry 156 149)
    (hcopy : copy = bitsOf x.entry 190 189) (hz : zeroBits x.entry [(138, 0)] = true) (hdense : bitOf x.entry 191 = false)
    (hexp : s.exporting false table shard x.id = false) (hstate : (s.dir table).state = 1 ∨ (s.dir table).state = 2) (hgen : s.generation = false)
    (hunits : ∀ u ∈ s.units, u.state = .retired) (hholds : s.holdsUnit false table shard copy = true)
    (hranges : ((s.tableRanges table).all fun r => decide (r.2.1 + r.2.2 ≤ if r.1 = .hbm then 0x5D00000000 else 0x800000000)) = true) :
    s.uopen x = (State.showUnits { s with units := s.units ++ [openedUnit s slot copy table shard] }).finish x.id .ok := by
  subst htable hshard hslot hcopy
  simp only [State.uopen, hz, hdense, hexp, serving_not_refused hstate, hgen, unit_live_any_of_retired hunits, hholds, hranges, Bool.not_true, Bool.not_false,
    Bool.true_and, Bool.or_self, Bool.false_eq_true, if_false, if_true]
  rfl

/-! #### UCLOSE -/

theorem exec_uclose_of_running (hx : s.running q [0x81] = some x) : exec (.uclose ⟨q, mismatch⟩) s = .next (s.uclose x mismatch) := by
  show execUclose ⟨q, mismatch⟩ s = _
  simp only [execUclose, hx]

section
variable (hslot : slot = bitsOf x.entry 191 184) (hz : zeroBits x.entry [(151, 0)] = true)
  (hu : s.units.find? (fun u => u.slot == slot && u.state == .opened) = some u) (hfailed : u.failed = false)
include hslot hz hu hfailed

/-- A UCLOSE whose segments are all in and whose NEW halves are filled closes its unit with its count and digest. -/
theorem uclose_of_filled (hn : n = bitsOf x.entry 183 152) (hsome : n ≠ 0) (hle : n ≤ u.segs.length)
    (hall : ((List.range n).all fun i => u.segs.any fun g => g.1 == i) = true) (hfill : s.fillNew u.recs = (s1, true)) :
    s.uclose x false = State.finish { s1 with units := updateAll s1.units (fun v => v.slot == slot && v.state == .opened) fun v =>
      { v with state := .closed, count := s1.unitCount u n, digest := unitDigest u (s1.unitCount u n) n,
               recs := v.recs.map fun r => { r with newValid := true } } } x.id .ok := by
  have hsegs : ¬ (n = 0 ∨ u.segs.length < n) := by omega
  subst hslot hn
  simp only [State.uclose, hz, hu, hfailed, hsegs, hall, hfill, Bool.not_true, Bool.false_eq_true, if_false]

/-- A mismatch of the duplicated digest unit fails the unit. -/
theorem uclose_of_mismatch : s.uclose x true = (s.failUnit slot).finish x.id .aborted := by
  subst hslot
  simp only [State.uclose, hz, hu, hfailed, Bool.not_true, Bool.false_eq_true, if_false, if_true]

end

/-! #### The apply, a minority copy and a unit left behind -/

/-- Outside Hove-to the units of the oldest decision being applied are settled, and the mirror shows that decision. -/
theorem exec_unitApplyDone_of_applying (happ : s.step.applying = (n, d) :: rest) (hhove : s.inHove = false) {u v w : State}
    (hu : u = State.freeJournal ((s.units.filter fun c => c.decided == n && (c.state == .applyingNew || c.state == .applyingOld) && !c.asked).foldl
      State.applyUnit s))
    (hv : v = u.listedTables.foldl State.clearGmap u) (hw : w = { v with step := { v.step with applying := rest } }) :
    exec .unitApplyDone s = .next ((if w.f F.stepStatusState = 5 ∧ rest = [] then w.fset F.stepStatusState
      (if !w.jobRuns || !w.step.begun then 0 else if w.step.voted.isSome then 2 else 1) else w).writeMirror d) := by
  subst hw hv hu
  show execUnitApplyDone s = _
  simp only [execUnitApplyDone, happ, hhove, Bool.false_eq_true, if_false]

/-- A refetch of a minority copy puts the rows in place; the digest of the stream that they make decides. -/
theorem exec_minorityRefetch_of_asked
    (hu : s.units.find? (fun u => u.slot == slot && u.step == step && u.minority && u.asked && u.state != .retired) = some u) (hhove : s.inHove = false)
    (hp : s.exportPlan u.dense u.table u.shard = some p) (hc : (s.putRows p rows).refetchStream u p rows = (v, stream, n)) :
    exec (.minorityRefetch slot step rows) s = .next (if u.committed = some (streamDigest u n stream)
      then State.showUnits { v.markDirty u (sortNat (rows.map (·.1))) with units := v.units.filter fun w => w != u }
      else v.faultDomain (unitDomain u)) := by
  show execMinorityRefetch slot step rows s = _
  simp only [execMinorityRefetch, hu, hhove, Option.filter_some, Bool.not_false, if_true, hp, hc]
  exact (apply_ite Host.Outcome.next _ _ _).symm

section
variable {committee : Option (Option Outcome)} (hhove : s.inHove = false) (hu : s.unresolved slot = some u)
include hhove hu

/-- A unit left behind follows the outcome that the Ledger holds of its step. -/
theorem exec_unitResolution_of_recorded (hc : s.recordedOutcome u.step = some c) :
    exec (.unitResolution slot committee) s = .next (s.resolveUnit u (some c)).rejoin := by
  show execUnitResolution slot committee s = _
  simp only [execUnitResolution, hhove, hu, hc, Bool.false_eq_true, if_false]

theorem exec_unitResolution_of_answered {o : Option Outcome} (hc : s.recordedOutcome u.step = none) :
    exec (.unitResolution slot (some o)) s = .next (s.resolveUnit u (o.map Outcome.code)).rejoin := by
  show execUnitResolution slot (some o) s = _
  simp only [execUnitResolution, hhove, hu, hc, Bool.false_eq_true, if_false]

theorem exec_unitResolution_of_unknown (hc : s.recordedOutcome u.step = none) : exec (.unitResolution slot none) s =
    .next (s.emits ((s.committee.filter fun p => p != s.me).map fun p => .askDecision p u.step)) := by
  show execUnitResolution slot none s = _
  simp only [execUnitResolution, hhove, hu, hc, Bool.false_eq_true, if_false]

end

/-! #### EXPORT -/

theorem exec_exportShard_of_running (hx : s.running q [0x88] = some x) :
    exec (.exportShard q) s = .next { State.exportEntry { s with seen := s.taken x } x with seen := [] } := by
  show execExportShard q s = _
  simp only [execExportShard, hx]
  rfl

/-- An EXPORT of a table into a buffer whose bytes are read and stored ends OK. -/
theorem exportEntry_of_stored (htable : table = bitsOf x.entry 191 176) (hz : zeroBits x.entry [(144, 0)] = true) (hdense : bitOf x.entry 159 = false)
    (hstate : (s.dir table).state = 1 ∨ (s.dir table).state = 2) (hflow : bitOf x.entry 157 = false)
    (hl : s.exportBytes false (bitOf x.entry 158) table (bitsOf x.entry 175 160) (x.param (bitsOf x.entry 150 145)) x.epoch = (s1, some l))
    (hs : s1.storeAt ⟨0xFF, [.sram], false⟩ (mkAddr 1 (x.param (bitsOf x.entry 156 151) % 2 ^ 44)) l.1 = (s2, true)) :
    s.exportEntry x = s2.finish x.id .ok := by
  subst htable
  simp only [State.exportEntry, hz, hdense, serving_not_refused hstate, hflow, hl, hs, Bool.not_true, Bool.and_false, Bool.false_and,
    Bool.false_eq_true, if_false, if_true]

/-- Settles O30: each clause is what one command answers in its case. -/
theorem castlingUnitsOpenCloseAndSettle : Obligations.CastlingUnitsOpenCloseAndSettle := by
  refine ⟨?uopen, ?close, ?mismatch, fun _ _ _ _ happ hhove => exec_unitApplyDone_of_applying happ hhove rfl rfl rfl, ?refetch, ?resolution, ?writes⟩
  case uopen =>
    intro q x s e table shard slot copy hx hz hdense hexp hstate hgen hunits hholds hranges
    rw [exec_uopen_of_running hx, uopen_of_accepted rfl rfl rfl rfl hz hdense hexp hstate hgen hunits hholds hranges]
    rfl
  case close =>
    intro q x u s s1 slot n hx hz hu hfailed hsome hle hall hfill
    rw [exec_uclose_of_running hx, uclose_of_filled rfl hz hu hfailed rfl hsome hle hall hfill]
  case mismatch =>
    intro q x u s hx hz hu hfailed
    rw [exec_uclose_of_running hx, uclose_of_mismatch rfl hz hu hfailed]
  case refetch =>
    intro slot step rows u p s hu hhove hp v c
    rw [exec_minorityRefetch_of_asked hu hhove hp rfl]
    exact ⟨fun h => congrArg _ (if_pos h), fun h => congrArg _ (if_neg h)⟩
  case resolution =>
    intro slot committee u s hhove hu
    refine ⟨fun c hc => exec_unitResolution_of_recorded hhove hu hc, fun o hc hcommittee => ?_, fun hc hcommittee => ?_⟩
    · rw [hcommittee, exec_unitResolution_of_answered hhove hu hc]
    · rw [hcommittee, exec_unitResolution_of_unknown hhove hu hc]
  case writes =>
    intro q x l s s1 s2 e s0 hx hz hdense hstate hflow hl hs
    rw [exec_exportShard_of_running hx, exportEntry_of_stored rfl hz hdense hstate hflow hl hs]

end Sys2Proof.Proofs

/-! ### The vote and the decision (R282 to R285, R294, R384) -/

namespace Sys2Proof.Proofs

open Sys2Proof.Machine

variable {s u : State} {q part step keep since : Nat} {x : Exec} {m : VoteMsg} {d : Decision} {v : Vote × List Layer} {new : List Vote} {missing : List Nat}

/-! #### Votes -/

theorem exec_vote_of_running (hx : s.running q [0x82] = some x) : exec (.vote q) s = .next (s.voteEntry x) := by
  show execVote q s = _
  simp only [execVote, hx]

/-- A part that has not voted and has no unit of the step to close votes as its entry says. -/
theorem voteEntry_of_no_units (hz : zeroBits x.entry [(190, 0)] = true) (hgen : s.generation = false) (hruns : s.stepRuns = true) (hvoted : s.step.voted = none)
    (hunits : (s.units.filter fun u => u.step == s.f F.stepEpochEpoch && (u.state == .opened || u.state == .closed)) = []) :
    s.voteEntry x = (s.sendVote (bitOf x.entry 191)).finish x.id .ok := by
  cases hb : bitOf x.entry 191
  case false =>
    simp only [State.voteEntry, hz, hgen, hruns, hvoted, hunits, hb, Option.isSome_none, List.any_nil, Bool.not_true, Bool.or_self, Bool.false_eq_true, if_false]
  case true =>
    simp only [State.voteEntry, hz, hgen, hruns, hvoted, hb, Option.isSome_none, Bool.not_true, Bool.true_or, Bool.or_self, Bool.false_eq_true, if_false, if_true]

/-- The leader stores new votes, adds their layer entries, and decides where it can. -/
theorem exec_voteReceive_of_leader (hl : s.leads = true) (hnew : new = s.newVotes m (s.step.votes.map (·.part))) (hne : new.isEmpty = false)
    (hu : u = new.foldl State.storeVote s) : exec (.voteReceive m) s =
      .next (State.reconsider { u with step := { u.step with hallLayers := sumLayers (u.step.hallLayers ++ m.layers) } }) := by
  subst hu hnew
  show execVoteReceive m s = _
  simp only [execVoteReceive, State.takeVotes, hl, hne, Bool.false_eq_true, if_false, if_true]

/-- A node of the gather tree holds new votes until it may send them on. -/
theorem exec_voteReceive_of_node (hl : s.leads = false) (hj : s.jobRuns = true) (hh : s.inHove = false)
    (hnew : new = s.newVotes m (s.step.gather.flatMap fun (g : VoteMsg) => g.votes.map (·.part))) (hne : new.isEmpty = false) :
    exec (.voteReceive m) s = .next (State.pumpVotes { s with step := { s.step with gather := s.step.gather ++ [{ m with votes := new }] } }) := by
  subst hnew
  show execVoteReceive m s = _
  simp only [execVoteReceive, State.gatherVotes, hl, hj, hh, hne, Bool.not_false, Bool.and_self, Bool.false_eq_true, if_false, if_true]

theorem exec_voteLimitExpiry_of_missing (hm : missing = s.stepMembers.filter fun p => !(s.step.votes.any fun w => w.part == p)) (hmay : s.mayDecide = true)
    (hne : missing ≠ []) (hdue : s.stepDue + s.f F.commitCtrlVoteLimit ≤ s.now) : exec .voteLimitExpiry s = .next (s.decideAbort missing) := by
  subst hm
  exact if_pos (by rw [hmay, List.isEmpty_eq_false_iff.2 hne, decide_eq_true hdue]; rfl)

theorem emits_nil : s.emits [] = s := by
  rw [State.emits, List.append_nil]

/-- A committee member that asks about the step in progress leads it, and a part that holds no decision of the step sends its vote again. -/
theorem exec_voteRequestReceive_of_voted (hh : s.inHove = false) (hruns : s.stepRuns = true) (hstep : v.1.step = s.f F.stepEpochEpoch)
    (hc : s.committee.contains part = true) (hu : u = s.fset F.stepStatusLeader part) (hd : u.decisionOf v.1.step = none) (hheld : u.step.held = none)
    (hv : u.step.voted = some v) : exec (.voteRequestReceive ⟨part, v.1.step⟩) s = .next (u.resendVote v) := by
  have hnow : (s.stepRuns && v.1.step == s.f F.stepEpochEpoch && s.committee.contains part) = true := by rw [hruns, hstep, hc, beq_self_eq_true]; rfl
  subst hu
  show execVoteRequestReceive ⟨part, v.1.step⟩ s = _
  simp only [execVoteRequestReceive, hh, hnow, hd, hheld, hv, Option.toList_none, Option.filter_none, Option.filter_some, List.map_nil, emits_nil,
    beq_self_eq_true, Bool.false_eq_true, if_false, if_true]

/-! #### The decision -/

/-- Once another committee member has written the leader's decision, it is final and leaves for every member with this tick. -/
theorem exec_decisionFinal_of_leader (hheld : s.step.held = some d) (hl : s.leads = true) (hp : part ≠ s.me) (hc : s.committee.contains part = true) :
    exec (.decisionFinal part) s = .next (s.sendDecision d) := by
  show execDecisionFinal part s = _
  simp only [execDecisionFinal, hheld, hl, hc, bne_iff_ne.2 hp, Bool.and_self, if_true]

theorem sendDecision_of_new (ht : d.tick = 0) {e : Decision} (he : e = { d with tick := s.now, deadline := s.nextLength d.outcome s.now }) :
    s.sendDecision d = ((State.emit { s with step := { s.step with held := none } } (.decision s.me e)).passDecision e).emits
      ((s.memberParts.filter fun p => !s.stepMembers.contains p).map fun p => .decision p e) := by
  subst he
  simp only [State.sendDecision, ht, if_true]

section
variable (hh : s.inHove = false) (hj : s.jobRuns = true) (hgen : s.generation = false)
include hh hj hgen

/-- A final decision that this part awaits goes down the tree, but from the leader that sent it, and is taken. -/
theorem exec_decisionReceive_of_final (ha : s.awaits d = true) :
    exec (.decisionReceive ⟨true, d⟩) s = .next ((if s.leads && d.leader == s.me then s else s.passDecision d).takeDecision d) := by
  show execDecisionReceive ⟨true, d⟩ s = _
  simp only [execDecisionReceive, hh, hj, hgen, ha, Bool.not_true, Bool.or_self, Bool.false_eq_true, if_false]

/-- A committee member holds a proposal of the step in progress and writes it. -/
theorem exec_decisionReceive_of_proposal (hruns : (s.stepRuns || s.promoting) = true) (hc : s.committee.contains s.me = true)
    (hheld : s.step.held.all (fun h => h.step == d.step) = true) (hstep : d.step = s.f F.stepEpochEpoch) :
    exec (.decisionReceive ⟨false, d⟩) s = .next (State.writeHeld { s with step := { s.step with held := some d } }) := by
  show execDecisionReceive ⟨false, d⟩ s = _
  simp only [execDecisionReceive, hh, Bool.not_false, Bool.false_eq_true, if_false, if_true]
  exact congrArg _ (if_pos (by rw [hj, hgen, hruns, hc, hheld, beq_iff_eq.2 hstep]; rfl))

end

/-- A part that does not lead tells the leader that it has written the decision it holds. -/
theorem writeHeld_of_follower (hheld : s.step.held = some d) (hbusy : s.ledgerBusy = false) (hl : (s.writeCommit d).leads = false) :
    s.writeHeld = (s.writeCommit d).emit (.written ((s.writeCommit d).f F.stepStatusLeader) d.step) := by
  simp only [State.writeHeld, hheld, hbusy, hl, Bool.not_false, Bool.false_eq_true, if_false, if_true]

/-- The next committee member takes over a step of which it knows no decision by gathering the votes again. -/
theorem exec_leaderTakeover_of_no_decision (hruns : s.stepRuns = true) (hh : s.inHove = false)
    (hnext : s.committee.find? (fun p => decide (s.f F.stepStatusLeader < p)) = some s.me) (hheld : s.step.held = none)
    (hu : u = (s.fset F.stepStatusLeader s.me).emits (s.stepMembers.map fun p => .askVotes p (s.f F.stepEpochEpoch))) :
    exec (.leaderTakeover none) s = .next { u with step := { u.step with votes := [], hallLayers := [] } } := by
  have hkept : u.step.held = none := by subst hu; exact hheld
  subst hu
  show execLeaderTakeover none s = _
  simp only [execLeaderTakeover, hruns, hh, hnext, hkept, Option.filter_none, Option.or_none, bne_self_eq_false, Bool.not_true, Bool.or_self,
    Bool.false_eq_true, if_false]

/-! #### A frozen step -/

theorem exec_resolve_of_running (hx : s.running q [0x83] = some x) : exec (.resolve (.entry q)) s = .next (s.resolveEntry x) := by
  show execResolve (.entry q) s = _
  simp only [execResolve, hx]

/-- The leader that holds every vote settles a RESOLVE with ABORT by an abort. -/
theorem settle_abort : s.settle keep true = (s.decideAbort [], true) := rfl

section
variable (hz : zeroBits x.entry [(188, 0)] = true) (hfrozen : s.step.frozen.isSome = true)
include hz hfrozen

theorem resolveEntry_of_leader_abort (hl : s.leads = true) (hheld : s.step.held = none) (hin : s.votesIn = true) (hab : bitOf x.entry 189 = true) :
    s.resolveEntry x = (s.decideAbort []).finish x.id .ok := by
  simp only [State.resolveEntry, hz, Option.isNone_eq_false_iff.2 hfrozen, hl, hheld, hin, hab, settle_abort, Option.isSome_none, Bool.not_true, Bool.or_self,
    Bool.false_eq_true, if_false]

/-- A part that does not lead passes its RESOLVE to the leader. -/
theorem resolveEntry_of_follower (hl : s.leads = false) : s.resolveEntry x = (s.emit (.resolve (s.f F.stepStatusLeader) (s.f F.stepEpochEpoch)
    (bitsOf x.entry 191 190) (bitOf x.entry 189))).finish x.id .ok := by
  simp only [State.resolveEntry, hz, Option.isNone_eq_false_iff.2 hfrozen, hl, Bool.not_true, Bool.not_false, Bool.or_self, Bool.false_eq_true, if_false, if_true]

end

theorem exec_resolve_of_member_abort (hl : s.leads = true) (hm : s.stepMembers.contains part = true) (hfrozen : s.step.frozen.isSome = true)
    (hheld : s.step.held = none) (hin : s.votesIn = true) : exec (.resolve (.member part (s.f F.stepEpochEpoch) keep true)) s = .next (s.decideAbort []) := by
  refine congrArg _ (if_pos ?_)
  rw [hl, hm, hfrozen, hheld, hin, beq_self_eq_true]
  rfl

/-- Under policy HOLD the leader waits for the freeze limit, then aborts. -/
theorem exec_freezeLimitExpiry_of_due (hfrozen : s.step.frozen = some (d, since)) (hl : s.leads = true) (hheld : s.step.held = none)
    (hpolicy : s.f F.commitCtrlPairPolicy = 0) (hdue : since + s.f F.commitCtrlFreezeLimit * 1000000 ≤ s.now) :
    exec .freezeLimitExpiry s = .next (s.decideAbort []) := by
  show execFreezeLimitExpiry s = _
  simp only [execFreezeLimitExpiry, hfrozen, hl, hheld, hpolicy, decide_eq_true hdue, Option.isNone_none, beq_self_eq_true, Bool.and_self, if_true]

/-- Settles O31: each clause is what one command answers in its case; an abort is `State.decideAbort`, which reads the votes and proposes. -/
theorem votesLeadToDecisions : Obligations.VotesLeadToDecisions := by
  refine ⟨?vote, ?receive, fun _ => exec_voteLimitExpiry_of_missing rfl, fun _ _ _ hh hruns hstep hc => exec_voteRequestReceive_of_voted hh hruns hstep hc rfl,
    ?final, ?decision, fun _ hruns hh hnext hheld => exec_leaderTakeover_of_no_decision hruns hh hnext hheld rfl, ?resolve,
    fun _ _ _ => exec_resolve_of_member_abort, fun _ _ _ => exec_freezeLimitExpiry_of_due⟩
  case vote =>
    intro q x s hx hz hgen hruns hvoted hunits
    rw [exec_vote_of_running hx, voteEntry_of_no_units hz hgen hruns hvoted hunits]
  case receive =>
    exact fun m s => ⟨fun hl hne => exec_voteReceive_of_leader hl rfl hne rfl, fun hl hj hh => exec_voteReceive_of_node hl hj hh rfl⟩
  case final =>
    intro part d s hheld ht hl hp hc e
    rw [exec_decisionFinal_of_leader hheld hl hp hc, sendDecision_of_new ht rfl]
  case decision =>
    intro d s hh hj hgen
    refine ⟨exec_decisionReceive_of_final hh hj hgen, ?_⟩
    intro hruns hc hheld hstep _ hbusy u hl
    rw [exec_decisionReceive_of_proposal hh hj hgen hruns hc hheld hstep, writeHeld_of_follower (s := u) rfl hbusy hl]
  case resolve =>
    intro q x s hx hz hfrozen
    rw [exec_resolve_of_running hx]
    refine ⟨fun hl hheld hin hab => ?_, fun hl => ?_⟩
    · rw [resolveEntry_of_leader_abort hz hfrozen hl hheld hin hab]
      rfl
    · rw [resolveEntry_of_follower hz hfrozen hl]

end Sys2Proof.Proofs

/-! ### The phases of a job and the late set (R297, R320, R321, R528) -/

namespace Sys2Proof.Proofs

open Sys2Proof.Machine

variable {s s1 : State} {q seg e part : Nat} {x : Exec} {st : Status} {late stale : List Nat}

/-! #### Phases -/

/-- A PHASE of a job part for the other phase and a segment set that the job holds asks the hall. -/
theorem exec_phase_of_other (hx : s.running q [0x89] = some x) (hz : zeroBits x.entry [(182, 0)] = true) (hj : s.jobRuns = true)
    (hgen : bitOf x.entry 191 ≠ s.generation) (hseg : Config.hasSegment s.boot.job (bitsOf x.entry 190 183) = true) :
    exec (.phase q) s = .next (s.asking x (.phase (bitOf x.entry 191) (bitsOf x.entry 190 183))) := by
  show execPhase q s = _
  simp only [execPhase, hx, hz, hj, beq_eq_false_iff_ne.2 hgen, hseg, Bool.not_true, Bool.or_self, Bool.false_eq_true, if_false]

theorem exec_phaseSwitch_of_idle (h : s.step.phaseTo = none ∨ s.inHove = true) : exec .phaseSwitch s = .next s := by
  have hnone : s.step.phaseTo.filter (fun _ => !s.inHove) = none := by
    rcases h with h | h <;> simp [h]
  show execPhaseSwitch s = _
  simp only [execPhaseSwitch, hnone]

/-- The switch into generation runs the core queues on its segment set, whatever the load reports. -/
theorem exec_phaseSwitch_of_generation (hto : s.step.phaseTo = some (true, seg)) (hh : s.inHove = false)
    (hload : s.stopCores.loadSegments (s.stopCores.segmentSet seg) = (s1, st)) :
    exec .phaseSwitch s = .next ((((State.goCores { s1 with step := { s1.step with phaseTo := none, segSet := seg } }).fset F.stepStatusGen 1).fset
      F.stepStatusState 0).finishPhase true seg .ok) := by
  show execPhaseSwitch s = _
  simp only [execPhaseSwitch, hto, hh, Option.filter_some, Bool.not_false, hload, or_true, if_true]

/-! #### SENT markers -/

section
variable (hj : s.jobRuns = true) (hgen : s.generation = false) (hruns : s.stepRuns = true) (hh : s.inHove = false)
include hj hgen hruns hh

/-- A part that has sent its contributions to the step before sends the SENT that it owes for it. -/
theorem exec_sentMarkerSend_of_owed (howed : s.step.sentOwed = some e) (hc : s.contributes true = false) :
    exec .sentMarkerSend s = .next (State.emit { s with step := { s.step with sentOwed := none } } (.sent (s.f F.stepStatusLeader) e)) := by
  show execSentMarkerSend s = _
  simp only [execSentMarkerSend, hj, hgen, hruns, hh, howed, hc, Option.filter_some, Bool.not_true, Bool.not_false, Bool.or_self, Bool.false_eq_true,
    if_false, if_true]

theorem exec_sentMarkerSend_of_done (howed : s.step.sentOwed = none) (hdone : s.step.sentDone = false) (hc : s.contributes false = false) :
    exec .sentMarkerSend s =
      .next (State.emit { s with step := { s.step with sentDone := true } } (.sent (s.f F.stepStatusLeader) (s.f F.stepEpochEpoch))) := by
  show execSentMarkerSend s = _
  simp only [execSentMarkerSend, hj, hgen, hruns, hh, howed, hdone, hc, Option.filter_none, Bool.not_true, Bool.or_self, Bool.false_eq_true, if_false]

end

/-- The leader marks a member's SENT of the step in progress once. -/
theorem exec_sentReceive_of_member (hl : s.leads = true) (hgen : s.generation = false) (hm : s.stepMembers.contains part = true) :
    exec (.sentReceive part (s.f F.stepEpochEpoch)) s = .next (if s.step.sent.contains part then s else s.markSent part) := by
  show execSentReceive part (s.f F.stepEpochEpoch) s = _
  simp only [execSentReceive, hl, hgen, hm, Bool.not_true, Bool.or_self, Bool.false_eq_true, if_false, if_true]

/-! #### The deadline and the late set -/

section
variable (hgen : s.generation = false) (hfrozen : s.step.frozen = none) (hdue : s.stepDue ≤ s.now)
include hgen hfrozen hdue

section
variable (hlate : late = s.stepMembers.filter fun p => !s.step.sent.contains p) (hl : s.leads = true) (hfixed : s.step.fixed = none)
include hlate hl hfixed

theorem exec_tempoDeadline_of_few (hmax : late.length ≤ s.f F.tempoCtrlLateMax) : exec .tempoDeadline s = .next (s.fixLate late) := by
  subst hlate
  show execTempoDeadline s = _
  simp only [execTempoDeadline, hgen, hfrozen, decide_eq_false (Nat.not_lt.2 hdue), hl, hfixed, hmax, Option.isSome_none, Bool.not_true, Bool.or_self,
    Bool.false_eq_true, if_false, if_true]

/-- A late set that is too large extends the deadline once. -/
theorem exec_tempoDeadline_of_many (hmax : s.f F.tempoCtrlLateMax < late.length) (hext : s.step.extended = false) :
    exec .tempoDeadline s = .next (State.fadd { s with step := { s.step with extended := true } } F.tempoCountExtended) := by
  subst hlate
  show execTempoDeadline s = _
  simp only [execTempoDeadline, hgen, hfrozen, decide_eq_false (Nat.not_lt.2 hdue), hl, hfixed, Nat.not_le.2 hmax, hext, Option.isSome_none, Bool.not_true,
    Bool.not_false, Bool.or_self, Bool.false_eq_true, if_false, if_true]

end

/-- From the deadline on a node of the gather tree holds no vote back. -/
theorem exec_tempoDeadline_of_node (hl : s.leads = false) (hj : s.jobRuns = true) (hh : s.inHove = false) : exec .tempoDeadline s = .next s.pumpVotes := by
  show execTempoDeadline s = _
  simp only [execTempoDeadline, hgen, hfrozen, decide_eq_false (Nat.not_lt.2 hdue), hl, hj, hh, Option.isSome_none, Bool.not_false, Bool.true_or,
    Bool.or_self, Bool.and_self, Bool.false_eq_true, if_false, if_true]

end

theorem exec_lateSetReceive_of_first (hj : s.jobRuns = true) (hgen : s.generation = false) (hruns : s.stepRuns = true) (hlate : s.step.late = none) :
    exec (.lateSetReceive (s.f F.stepEpochEpoch) late stale) s = .next (s.takeLateSet late stale) := by
  show execLateSetReceive (s.f F.stepEpochEpoch) late stale s = _
  simp only [execLateSetReceive, hj, hgen, hruns, hlate, bne_self_eq_false, Option.isNone_none, Bool.not_true, Bool.or_self, Bool.false_eq_true, if_false, if_true]

/-- Settles O32: each clause is what one command answers in its case; a PHASE asks the hall once (`asking_of_new`). -/
theorem phasesSwitchAndTheLateSetIsFixed : Obligations.PhasesSwitchAndTheLateSetIsFixed := by
  refine ⟨?phase, fun _ => exec_phaseSwitch_of_idle, fun _ _ _ _ => exec_phaseSwitch_of_generation,
    fun _ hj hgen hruns hh => ⟨fun _ => exec_sentMarkerSend_of_owed hj hgen hruns hh, exec_sentMarkerSend_of_done hj hgen hruns hh⟩, ?sent,
    fun _ hl hgen hfixed hfrozen hdue => ⟨exec_tempoDeadline_of_few hgen hfrozen hdue rfl hl hfixed, exec_tempoDeadline_of_many hgen hfrozen hdue rfl hl hfixed⟩,
    fun _ => exec_tempoDeadline_of_node, fun _ _ _ => exec_lateSetReceive_of_first⟩
  case phase =>
    intro q x s hx hz hj hgen hseg hstage c
    rw [exec_phase_of_other hx hz hj hgen hseg, asking_of_new hstage]
  case sent =>
    intro part s hl hgen hm
    rw [exec_sentReceive_of_member hl hgen hm]
    exact ⟨fun h => congrArg _ (if_neg (Bool.eq_false_iff.1 h)), fun h => congrArg _ (if_pos h)⟩

end Sys2Proof.Proofs
end

section
/-! PROOFS. The statements of spec/10_naelo_links.md: the Naelo header, remote operations, collectives and flow entries, packets and timers of flows, and ports. -/

/-! ### The Naelo header (R339) -/

namespace Sys2Proof.Proofs

open Sys2Proof.Machine

variable {l l' : List (Nat × Nat)} {i v w lo a n : Nat} {p : Pkt}

/-! #### Packed fields -/

/-- Bits of a list of fields. -/
def fieldBits (l : List (Nat × Nat)) : Nat := (l.map (·.2)).sum

theorem fieldBits_cons {f : Nat × Nat} : fieldBits (f :: l) = f.2 + fieldBits l := by simp [fieldBits]

/-- Fields packed behind a number shift it up by their bits. -/
theorem foldl_pack : l.foldl (fun a f => a * 2 ^ f.2 + f.1 % 2 ^ f.2) a = a * 2 ^ fieldBits l + packFields l := by
  induction l generalizing a with
  | nil => simp [packFields, fieldBits]
  | cons f l ih =>
    have hcons : packFields (f :: l) = f.1 % 2 ^ f.2 * 2 ^ fieldBits l + packFields l := by
      simp only [packFields, List.foldl_cons, Nat.zero_mul, Nat.zero_add]
      exact ih
    rw [List.foldl_cons, ih, hcons, fieldBits_cons, Nat.pow_add]
    ring

theorem packFields_append : packFields (l ++ l') = packFields l * 2 ^ fieldBits l' + packFields l' := by
  rw [packFields, List.foldl_append, foldl_pack]
  rfl

theorem packFields_singleton : packFields [(v, w)] = v % 2 ^ w := by simp [packFields]

/-- Packed fields fit their bits. -/
theorem packFields_lt : packFields l < 2 ^ fieldBits l := by
  induction l with
  | nil => exact Nat.one_pos
  | cons f l ih =>
    rw [← List.singleton_append, packFields_append, packFields_singleton, List.singleton_append, fieldBits_cons, Nat.pow_add, Nat.mul_comm]
    exact Nat.mul_add_lt_mul_of_lt_of_lt (Nat.mod_lt _ (Nat.two_pow_pos _)) ih

/-- A packed field is read back at the place that the fields behind it leave it. -/
theorem packFields_read (hi : l[i]? = some (v, w)) (hlo : fieldBits (l.drop (i + 1)) = lo) : packFields l / 2 ^ lo % 2 ^ w = v % 2 ^ w := by
  obtain ⟨h, hget⟩ := List.getElem?_eq_some_iff.1 hi
  have hl : l = l.take i ++ ([(v, w)] ++ l.drop (i + 1)) := by
    rw [← hget, List.singleton_append, ← List.drop_eq_getElem_cons h, List.take_append_drop]
  have hw : fieldBits [(v, w)] = w := by simp [fieldBits]
  have hpack : packFields l = 2 ^ lo * (2 ^ w * packFields (l.take i) + v % 2 ^ w) + packFields (l.drop (i + 1)) := by
    conv_lhs => rw [hl, ← List.append_assoc]
    rw [packFields_append, packFields_append, packFields_singleton, hlo, hw, Nat.mul_comm _ (2 ^ lo), Nat.mul_comm _ (2 ^ w)]
  have hrest : packFields (l.drop (i + 1)) < 2 ^ lo := hlo ▸ packFields_lt
  rw [hpack, Nat.mul_add_div (Nat.two_pow_pos _), Nat.div_eq_of_lt hrest, Nat.add_zero, Nat.mul_add_mod, Nat.mod_mod]

/-! #### The header -/

/-- A number below 2^(8n) is the one that its `n` bytes spell, highest first. -/
theorem beAt_beBytes (hw : 8 * n = w) (hv : v < 2 ^ w) : beAt (beBytes n v) 0 n = v := by
  have hall : sliceAt (beBytes n v) 0 n = beBytes n v := List.take_of_length_le (by simp [beBytes])
  rw [beAt, hall, beBytes, List.reverse_reverse, leNat_leBytes, hw, Nat.mod_eq_of_lt hv]

/-- The fields of a header, from bit 383 down (Table 10.3). -/
def headerFields (p : Pkt) : List (Nat × Nat) :=
  [(p.ver, 4), ((p.type.map typeCode).getD 15, 4), (if p.first then 1 else 0, 1), (if p.last then 1 else 0, 1), (if p.retx then 1 else 0, 1), (0, 5),
    (p.cls, 3), (0, 1), (p.dstFlow, 12), (p.dstPart, 16), (p.srcPart, 16), (p.srcFlow, 12), (p.path, 8), (p.key, 4), (if p.feeder then 1 else 0, 1),
    (0, 7), (p.psn, 32), (p.ackPsn, 32), (p.win, 32), (p.msg, 32), (p.offset, 32), (p.len, 16), (0, 16), (p.ts, 32), (p.txc, 64)]

theorem headerNat_eq_packFields : headerNat p = packFields (headerFields p) := rfl

/-- Widths of the fields of a header. -/
def headerWidths : List Nat := [4, 4, 1, 1, 1, 5, 3, 1, 12, 16, 16, 12, 8, 4, 1, 7, 32, 32, 32, 32, 32, 16, 16, 32, 64]

theorem map_headerFields : (headerFields p).map (·.2) = headerWidths := rfl

theorem fieldBits_drop_headerFields : fieldBits ((headerFields p).drop i) = (headerWidths.drop i).sum := by
  rw [fieldBits, List.map_drop, map_headerFields]

theorem headerNat_lt : headerNat p < 2 ^ 384 := by
  have hbits : fieldBits (headerFields p) = 384 := fieldBits_drop_headerFields (i := 0)
  rw [headerNat_eq_packFields, ← hbits]
  exact packFields_lt

theorem headerOf_length : (headerOf p).length = 48 := by simp [headerOf, beBytes]

/-- The bytes of a header spell its number. -/
theorem beAt_headerOf : beAt (headerOf p) 0 48 = headerNat p := beAt_beBytes (w := 384) rfl headerNat_lt

/-- A field that fits its width is read back from the header's number. -/
theorem headerNat_read (p : Pkt) (i lo : Nat) (hi : (headerFields p)[i]? = some (v, w)) (hlo : (headerWidths.drop (i + 1)).sum = lo) (hv : v < 2 ^ w) :
    headerNat p / 2 ^ lo % 2 ^ w = v :=
  (packFields_read hi (fieldBits_drop_headerFields.trans hlo)).trans (Nat.mod_eq_of_lt hv)

/-- A flag of the header is read back. -/
theorem headerNat_read_flag (p : Pkt) (i lo : Nat) {b : Bool} (hi : (headerFields p)[i]? = some (if b then 1 else 0, 1))
    (hlo : (headerWidths.drop (i + 1)).sum = lo) : (headerNat p / 2 ^ lo % 2 ^ 1 == 1) = b := by
  rw [headerNat_read p i lo hi hlo (by cases b <;> decide)]
  cases b <;> rfl

/-- A type is read back from its code; no type is sent as the reserved code 15, which reads as none. -/
theorem typeOf_code {t : Option PktType} : typeOf ((t.map typeCode).getD 15) = t := by
  rcases t with _ | t
  · rfl
  · cases t <;> rfl

theorem code_lt {t : Option PktType} : (t.map typeCode).getD 15 < 2 ^ 4 := by
  rcases t with _ | t
  · decide
  · cases t <;> decide

/-- Settles O60: the number of the header is its packed fields, each read back at its place (`headerNat_read`), and its bytes spell that number. -/
theorem naeloHeadersKeepEveryField : Obligations.NaeloHeadersKeepEveryField := by
  refine ⟨?fields, fun p => ⟨beAt_headerOf, headerNat_lt⟩⟩
  case fields =>
    intro p hver hcls hdstFlow hdstPart hsrcPart hsrcFlow hpath hkey hpsn hackPsn hwin hmsg hoffset hlen hts htxc
    refine ⟨headerOf_length, ?_⟩
    have htype : typeOf (headerNat p / 2 ^ 376 % 2 ^ 4) = p.type := by rw [headerNat_read p 1 376 rfl rfl code_lt, typeOf_code]
    calc pktOf (headerOf p) p.payload p.sealOk p.ce
      _ = { p with
            ver := headerNat p / 2 ^ 380 % 2 ^ 4, type := typeOf (headerNat p / 2 ^ 376 % 2 ^ 4), first := headerNat p / 2 ^ 375 % 2 ^ 1 == 1
            last := headerNat p / 2 ^ 374 % 2 ^ 1 == 1, retx := headerNat p / 2 ^ 373 % 2 ^ 1 == 1, cls := headerNat p / 2 ^ 365 % 2 ^ 3
            dstFlow := headerNat p / 2 ^ 352 % 2 ^ 12, dstPart := headerNat p / 2 ^ 336 % 2 ^ 16, srcPart := headerNat p / 2 ^ 320 % 2 ^ 16
            srcFlow := headerNat p / 2 ^ 308 % 2 ^ 12, path := headerNat p / 2 ^ 300 % 2 ^ 8, key := headerNat p / 2 ^ 296 % 2 ^ 4
            feeder := headerNat p / 2 ^ 295 % 2 ^ 1 == 1, psn := headerNat p / 2 ^ 256 % 2 ^ 32, ackPsn := headerNat p / 2 ^ 224 % 2 ^ 32
            win := headerNat p / 2 ^ 192 % 2 ^ 32, msg := headerNat p / 2 ^ 160 % 2 ^ 32, offset := headerNat p / 2 ^ 128 % 2 ^ 32
            len := headerNat p / 2 ^ 112 % 2 ^ 16, ts := headerNat p / 2 ^ 64 % 2 ^ 32, txc := headerNat p / 2 ^ 0 % 2 ^ 64 } := by
        rw [pktOf, beAt_headerOf]
      _ = p := by
        rw [headerNat_read p 0 380 rfl rfl hver, htype, headerNat_read_flag p 2 375 rfl rfl, headerNat_read_flag p 3 374 rfl rfl,
          headerNat_read_flag p 4 373 rfl rfl, headerNat_read p 6 365 rfl rfl hcls, headerNat_read p 8 352 rfl rfl hdstFlow,
          headerNat_read p 9 336 rfl rfl hdstPart, headerNat_read p 10 320 rfl rfl hsrcPart, headerNat_read p 11 308 rfl rfl hsrcFlow,
          headerNat_read p 12 300 rfl rfl hpath, headerNat_read p 13 296 rfl rfl hkey, headerNat_read_flag p 14 295 rfl rfl,
          headerNat_read p 16 256 rfl rfl hpsn, headerNat_read p 17 224 rfl rfl hackPsn, headerNat_read p 18 192 rfl rfl hwin,
          headerNat_read p 19 160 rfl rfl hmsg, headerNat_read p 20 128 rfl rfl hoffset, headerNat_read p 21 112 rfl rfl hlen,
          headerNat_read p 23 64 rfl rfl hts, headerNat_read p 24 0 rfl rfl htxc]

end Sys2Proof.Proofs

/-! ### Remote operations (R355, R357, R375 to R378) -/

namespace Sys2Proof.Proofs

open Sys2Proof.Machine

variable {s s1 s2 u : State} {q f a src dst n type dest : Nat} {x : Exec} {data l : List Byte} {note : Option (Nat × Nat × Nat × Nat)}
  {reply : RemoteReply} {answer : Option RemoteReply} {req : RemoteReq}

theorem exec_rread_of_running (hx : s.running q [0x60] = some x) (h : State.rreadEntry { s with seen := s.taken x } q x reply = u) :
    exec (.rread q reply) s = .next { u with seen := [] } := by
  show execRread q reply s = _
  simp only [execRread, hx, State.asSeen, h]

theorem exec_rwrite_of_running (hx : s.running q [0x61] = some x) (h : State.rwriteEntry { s with seen := s.taken x } q x reply = u) :
    exec (.rwrite q reply) s = .next { u with seen := [] } := by
  show execRwrite q reply s = _
  simp only [execRwrite, hx, State.asSeen, h]

theorem exec_ratomic_of_running (hx : s.running q [0x62] = some x) (h : State.ratomicEntry { s with seen := s.taken x } q x reply = u) :
    exec (.ratomic q reply) s = .next { u with seen := [] } := by
  show execRatomic q reply s = _
  simp only [execRatomic, hx, State.asSeen, h]

theorem exec_pull_of_running (hx : s.running q [0x78] = some x) (h : State.pullEntry { s with seen := s.taken x } q x answer = u) :
    exec (.pull q answer) s = .next { u with seen := [] } := by
  show execPull q answer s = _
  simp only [execPull, hx, State.asSeen, h]

/-- An RREAD that passes its checks asks its home; data of its length that can be stored at its destination end it OK. -/
theorem rreadEntry_of_stored (hf : f = bitsOf x.entry 191 180) (hsrc : src = x.param (bitsOf x.entry 179 174)) (hdst : dst = x.param (bitsOf x.entry 173 168))
    (hn : n = x.param (bitsOf x.entry 167 162)) (hz : zeroBits x.entry [(161, 0)] = true) (hflow : s.flowOk q f = true) (hmove : moveOk src dst n = true)
    (hpeer : s.peerOk f src n false = true) (hrun : (s.localRun dst n).isSome = true) (hlen : data.length = n)
    (hstore : (s.ask f ⟨s.me, f, BitVec.ofNat 64 src, .read n⟩).storeAt ⟨0xFF, [.sram, .hbm], false⟩ dst data = (s1, true)) :
    s.rreadEntry q x (.ok data) = s1.remoteOk q x := by
  subst hf hsrc hdst hn
  simp only [State.rreadEntry, hz, hflow, hmove, hpeer, Option.isNone_eq_false_iff.2 hrun, hlen, hstore, Bool.not_true, Bool.or_self, Bool.false_eq_true,
    if_false, if_true]

/-- An RWRITE that passes its checks and reads its source sends its data with its request; the reply of its home ends it. -/
theorem rwriteEntry_of_read (hf : f = bitsOf x.entry 191 180) (hsrc : src = x.param (bitsOf x.entry 179 174)) (hdst : dst = x.param (bitsOf x.entry 173 168))
    (hn : n = x.param (bitsOf x.entry 167 162))
    (hnote : note = if bitOf x.entry 161 then some (bitsOf x.entry 154 152, bitsOf x.entry 151 140, bitsOf x.entry 139 138 + 1, bitsOf x.entry 160 155) else none)
    (hz : zeroBits x.entry [(137, 0)] = true) (hflow : s.flowOk q f = true) (hmove : moveOk src dst n = true)
    (hpeer : s.peerOk f dst n true = true) (hrun : (s.localRun src n).isSome = true) (hload : s.loadAt ⟨0xFF, [.sram, .hbm], false⟩ src n = (s1, some l))
    (hu : u = s1.ask f ⟨s1.me, f, BitVec.ofNat 64 dst, .write l note⟩ [.place src n]) :
    s.rwriteEntry q x (.ok data) = u.remoteOk q x ∧ s.rwriteEntry q x .hoveTo = u.remoteHove q x := by
  subst hf hsrc hdst hn hnote hu
  constructor <;>
    simp only [State.rwriteEntry, hz, hflow, hmove, hpeer, Option.isNone_eq_false_iff.2 hrun, hload, Bool.not_true, Bool.or_self, Bool.false_eq_true, if_false,
      State.remoteEnd]

/-- An RATOMIC that passes its checks asks its home; an old value that can be stored at its destination in SRAM space ends it OK. -/
theorem ratomicEntry_of_stored (hf : f = bitsOf x.entry 191 180) (ha : a = x.param (bitsOf x.entry 179 174)) (htype : type = bitsOf x.entry 169 166)
    (hdest : dest = x.param (bitsOf x.entry 153 148)) (hz : zeroBits x.entry [(147, 0)] = true) (hflow : s.flowOk q f = true)
    (hpeer : s.peerOk f a (atomicBytes type) true = true) (hrun : (s.run? dest 8).any (fun p => p.1 == .sram) = true)
    (hold : (s.ask f ⟨s.me, f, BitVec.ofNat 64 a, .atomic (bitsOf x.entry 173 170) type (BitVec.ofNat 64 (x.param (bitsOf x.entry 165 160)))
      (BitVec.ofNat 64 (x.param (bitsOf x.entry 159 154)))⟩).oldBytes type (BitVec.ofNat 64 (leNat (data.take (atomicBytes type)))) = (s1, l))
    (hstore : s1.storeAt ⟨0xFF, [.sram], false⟩ dest l = (s2, true)) : s.ratomicEntry q x (.ok data) = s2.remoteOk q x := by
  subst hf ha htype hdest
  simp only [State.ratomicEntry, hz, hflow, hpeer, hrun, hold, hstore, Bool.not_true, Bool.or_self, Bool.false_eq_true, if_false, if_true]

/-- A PULL has sent its request and waits for the message. -/
def pullAsked (s : State) (x : Exec) : State :=
  ((s.sendMessage (bitsOf x.entry 191 180) (Config.pullBytes (bitsOf x.entry 179 164) (BitVec.ofNat 64 (x.param (bitsOf x.entry 163 158))))).emit
    (.pullRequest (bitsOf x.entry 191 180) (bitsOf x.entry 179 164) (BitVec.ofNat 64 (x.param (bitsOf x.entry 163 158))))).staged x 1

section
variable (hf : f = bitsOf x.entry 191 180) (hdst : dst = x.param (bitsOf x.entry 157 152)) (hstage : x.stage = 0) (hz : zeroBits x.entry [(145, 0)] = true)
  (hdie : flowDie f = fxeDie q) (hopen : s.flowState f = flowOpen) (hfeeder : s.fb F.flowFStatusFeeder f = true) (hal : dst % 64 = 0) (hdst44 : dst < 2 ^ 44)
  (hrun : (s.localRun (pullDest x).1 (pullDest x).2).isSome = true)
include hf hdst hstage hz hdie hopen hfeeder hal hdst44 hrun

/-- A PULL that passes its checks sends its request; its message lands where it has come. -/
theorem pullEntry_of_asks :
    s.pullEntry q x none = pullAsked s x ∧ ∀ data, s.pullEntry q x (some (.ok data)) = (pullAsked s x).pullLand x 0 data (some data) := by
  subst hf hdst
  refine ⟨?_, fun data => ?_⟩ <;>
    simp only [State.pullEntry, pullAsked, hstage, hz, hdie, hopen, hfeeder, hal, Nat.not_le.2 hdst44, Option.isNone_eq_false_iff.2 hrun, beq_self_eq_true,
      bne_self_eq_false, Bool.and_self, Bool.not_true, Bool.or_self, Bool.false_eq_true, and_false, or_self, if_false, if_true]

end

/-- A whole message that fits, can be stored and is the one asked for ends a PULL OK. -/
theorem pullLand_of_whole (hfits : data.length ≤ (pullDest x).2) (hstore : s.storeAt ⟨0xFF, [.sram], false⟩ ((pullDest x).1 + 0) data = (s1, true))
    (hmatch : pullMatches x data = true) : s.pullLand x 0 data (some data) = s1.finish x.id .ok := by
  have hroom : ¬ (pullDest x).2 < 0 + data.length := by omega
  simp only [State.pullLand, hroom, hstore, hmatch, if_false, if_true]

/-! #### The home of a request -/

theorem exec_remoteRequest_of_hove (hh : s.inHove = true) : exec (.remoteRequest req) s = .next (s.emit (.reply req.part req.flow .hoveTo)) := if_pos hh

theorem exec_remoteRequest_of_stranger (hh : s.inHove = false) (hm : s.isMember req.part = false) : exec (.remoteRequest req) s =
    .next ((s.fadd F.fxeStatusAborted 1 (s.homeFlowDie req.part req.flow)).emit (.reply req.part req.flow .refused)) := by
  show execRemoteRequest req s = _
  simp only [execRemoteRequest, hh, hm, Bool.not_false, Bool.false_eq_true, if_false, if_true]

section
variable (hh : s.inHove = false) (hm : s.isMember req.part = true)
include hh hm

/-- An atomic of a member waits for the tick's order (R31). -/
theorem exec_remoteRequest_of_atomic {op type : Nat} {v c : Word} (hk : req.kind = .atomic op type v c) :
    exec (.remoteRequest req) s = .next (s.arrive (.remote req)) := by
  show execRemoteRequest req s = _
  simp only [execRemoteRequest, hh, hm, hk, Bool.not_true, Bool.false_eq_true, if_false]

theorem exec_remoteRequest_of_move (hk : ∀ op type v c, req.kind ≠ .atomic op type v c) : exec (.remoteRequest req) s = .next (s.answerRemote req) := by
  show execRemoteRequest req s = _
  cases hreq : req.kind with
  | read n => simp only [execRemoteRequest, hh, hm, hreq, Bool.not_true, Bool.false_eq_true, if_false]
  | write data note => simp only [execRemoteRequest, hh, hm, hreq, Bool.not_true, Bool.false_eq_true, if_false]
  | atomic op type v c => exact absurd hreq (hk op type v c)

end

theorem answerRemote_of_served (h : s.serveRemote req = (s1, reply)) : s.answerRemote req = s1.emit (.reply req.part req.flow reply) := by
  simp only [State.answerRemote, h]

/-- Settles O33: each clause is what one command answers in its case. -/
theorem remoteOperationsMoveData : Obligations.RemoteOperationsMoveData := by
  refine ⟨?rread, ?rwrite, ?ratomic, ?pull, ?request⟩
  case rread =>
    intro q x data s s1 e f src dst n s0 hx hz hflow hmove hpeer hrun hlen hstore
    exact exec_rread_of_running hx (rreadEntry_of_stored rfl rfl rfl rfl hz hflow hmove hpeer hrun hlen hstore)
  case rwrite =>
    intro q x l s s1 e f src dst n note s0 sent hx hz hflow hmove hpeer hrun hload
    obtain ⟨hok, hhove⟩ := rwriteEntry_of_read (data := []) rfl rfl rfl rfl rfl hz hflow hmove hpeer hrun hload rfl
    exact ⟨exec_rwrite_of_running hx hok, exec_rwrite_of_running hx hhove⟩
  case ratomic =>
    intro q x data l s s1 s2 e f a dest s0 hx hz hflow hpeer hrun hold hstore
    exact exec_ratomic_of_running hx (ratomicEntry_of_stored rfl rfl rfl rfl hz hflow hpeer hrun hold hstore)
  case pull =>
    intro q x s e f cursor dst s0 u hx hstage hz hdie hopen hfeeder hal hdst44 hrun
    obtain ⟨hwaits, hlands⟩ := pullEntry_of_asks (s := s0) rfl rfl hstage hz hdie hopen hfeeder hal hdst44 hrun
    exact ⟨exec_pull_of_running hx hwaits, fun data s1 hfits hstore hmatch =>
      exec_pull_of_running hx ((hlands data).trans (pullLand_of_whole hfits hstore hmatch))⟩
  case request =>
    exact fun req s => ⟨exec_remoteRequest_of_hove, exec_remoteRequest_of_stranger, fun s1 r => answerRemote_of_served,
      fun hh hm => ⟨fun op type v c => exec_remoteRequest_of_atomic hh hm,
        fun s1 r hk h => (exec_remoteRequest_of_move hh hm hk).trans (congrArg _ (answerRemote_of_served h))⟩⟩

end Sys2Proof.Proofs

/-! ### Collectives and the entries of flows (R343, R357, R358, R379 to R383) -/

namespace Sys2Proof.Proofs

open Sys2Proof.Machine

variable {s s1 s2 s3 u w : State} {q f n peer : Nat} {x : Exec} {c : Coll} {row : List Half} {arrivals chunks : List TreeNode}

/-! #### REDSCAT -/

theorem exec_redscat_of_none (hx : s.running q [0x68] = none) :
    exec (.redscat q arrivals) s = .next (s.takeNodes (fxeDie q) (earlyRoom (fxeDie q)) (arrivals.filter fun n => !n.gather)) := by
  show execRedscat q arrivals s = _
  simp only [execRedscat, hx]

theorem exec_redscat_of_running (hx : s.running q [0x68] = some x) (h : State.redscatEntry { s with seen := s.taken x } q x arrivals = u) :
    exec (.redscat q arrivals) s = .next { u with seen := [] } := by
  show execRedscat q arrivals s = _
  simp only [execRedscat, hx, State.asSeen, h]

/-- A REDSCAT with its operands takes the nodes that have come, within its room for pending ones. -/
def takePending (s : State) (q : Nat) (x : Exec) (c : Coll) (arrivals : List TreeNode) : State :=
  s.takeNodes (fxeDie q) (pendingRoom (fxeDie q) c.tensor s.round (x.param (bitsOf x.entry 179 174))) (arrivals.filter fun n => !n.gather)

/-- A new REDSCAT sends its leaves and takes nodes; until the collective may close it goes no further. -/
theorem redscatEntry_of_new (hstage : x.stage = 0) (hc : s.collOf x true = (s1, some c)) (hrow : s1.firstRow c.pi c.n = (s2, some row))
    (hu : u = takePending ((s2.sendLeavesOf (fxeDie q) c row).staged x 1) q x c arrivals) (hclose : u.collMayClose = false) :
    s.redscatEntry q x arrivals = u := by
  subst hu
  simp only [takePending] at hclose ⊢
  simp only [State.redscatEntry, hc, hstage, hrow, hclose, Bool.false_and, Bool.and_false, Bool.false_eq_true, if_false, if_true]

/-- A REDSCAT that has done its part as a delegate reduces its chunk once it is covered. -/
theorem redscatEntry_of_covered (hstage : x.stage = 2) (hc : s.collOf x true = (s1, some c)) (hu : u = takePending s1 q x c arrivals)
    (hclose : u.collMayClose = true) (hcov : covered (u.heldNodes (fxeDie q) c.tensor u.round c.own) u.lateShards 0 u.jobShards = true) :
    s.redscatEntry q x arrivals = u.reduceChunk q x c := by
  subst hu
  simp only [takePending] at hclose hcov ⊢
  simp only [State.redscatEntry, hc, hstage, hclose, hcov, Nat.lt_irrefl, decide_false, beq_self_eq_true, OfNat.ofNat_ne_zero, Bool.or_true, Bool.false_and,
    Bool.and_self, Bool.false_eq_true, if_false, if_true]

/-! #### ALLGATHER -/

theorem exec_allgather_of_none (hx : s.running q [0x69] = none) :
    exec (.allgather q chunks) s = .next (s.hold (fxeDie q) (earlyRoom (fxeDie q)) (chunks.filter (·.gather))) := by
  show execAllgather q chunks s = _
  simp only [execAllgather, hx]

theorem exec_allgather_of_running (hx : s.running q [0x69] = some x) (h : State.allgatherEntry { s with seen := s.taken x } x chunks = u) :
    exec (.allgather q chunks) s = .next { u with seen := [] } := by
  show execAllgather q chunks s = _
  simp only [execAllgather, hx, State.asSeen, h]

/-- The chunks that an ALLGATHER writes: this part's own, then those held of every other logical shard. -/
def gathered (s : State) (x : Exec) (c : Coll) (row : List Half) : List (Nat × List Byte) :=
  (c.own, row.flatMap fun h => leBytes 2 h.toNat) ::
    (((List.range s.jobShards).filter (· ≠ c.own)).flatMap fun o => s.heldNodes (fxeDie x.q) c.tensor s.round o true).map
      fun n => (n.chunk, n.vals.flatMap fun h => leBytes 2 h.toNat)

/-- An ALLGATHER that has every chunk and writes them ends OK, its elements flagged and counted. -/
theorem allgatherEntry_of_complete (hstage : x.stage = 1) (hc : s.collOf x false = (s1, some c))
    (hrow : s1.firstRow c.pi ((chunkSpan c.n s1.jobShards c.own).2 - (chunkSpan c.n s1.jobShards c.own).1) = (s2, some row))
    (hu : u = s2.hold (fxeDie x.q) (gatherRoom (fxeDie x.q) c.tensor s2.round) (chunks.filter (·.gather)))
    (hall : ∀ o < u.jobShards, o = c.own ∨ (u.heldNodes (fxeDie x.q) c.tensor u.round o true).isEmpty = false)
    (hwrite : u.writeChunks c (gathered u x c row) = (s3, true)) {vals : List Half} (hvals : vals = (gathered u x c row).flatMap (viewHalves c s3.jobShards))
    (hw : w = (if vals.any (Half.nonfinite c.po.format) then s3.nonfinite else s3).watch c.tensor (vals.map (Half.val c.po.format))) :
    s.allgatherEntry x chunks = State.finish { w with collectives := w.collectives.filter fun y =>
      !(y.1 == fxeDie x.q && y.2.gather && y.2.tensor == c.tensor && y.2.epoch == w.round) } x.id .ok := by
  have hgot (late : Nat → Bool) : ((List.range u.jobShards).all fun o =>
      (o == c.own || !(u.heldNodes (fxeDie x.q) c.tensor u.round o true).isEmpty) || late o) = true := by
    refine List.all_eq_true.2 fun o ho => ?_
    rcases hall o (List.mem_range.1 ho) with h | h <;> simp [h]
  subst hw hvals hu
  simp only [gathered] at hwrite ⊢
  simp only [State.allgatherEntry, hc, hrow, hstage, hgot, hwrite, Nat.one_ne_zero, if_false, if_true]
  rfl

/-! #### Limits -/

theorem exec_collectiveTimeout_of_overdue (hx : s.overdue q x.id [0x68, 0x69] = some x) :
    exec (.collectiveTimeout q x.id) s = .next (if s.generation then s.finish x.id .aborted else s) := by
  show execCollectiveTimeout q x.id s = _
  simp only [execCollectiveTimeout, hx, apply_ite Host.Outcome.next]

theorem exec_pullLimitExpiry_of_overdue (hx : s.overdue q x.id [0x78] = some x) :
    exec (.pullLimitExpiry q x.id) s = .next (if x.stage = 0 then s.finish x.id .aborted else s.pullBad x) := by
  show execPullLimitExpiry q x.id s = _
  simp only [execPullLimitExpiry, hx]

/-! #### FLOWCTL -/

theorem exec_flowctlOpen_of_running (hx : s.runningOp q 0x79 [0] = some x) : exec (.flowctlOpen q) s = .next (s.flowOpenEntry q x) := by
  show execFlowctlOpen q s = _
  simp only [execFlowctlOpen, hx]

theorem flowOpenEntry_of_closed (hf : f = bitsOf x.entry 189 178) (hpeer : peer = bitsOf x.entry 175 160) (hn : n = bitsOf x.entry 156 152)
    (hu : u = (s.staged x 1).openFlow f peer (bitsOf x.entry 159 157) n false (some x.id)) (hstage : x.stage = 0)
    (hz : zeroBits x.entry [(176, 176), (151, 0)] = true) (hmember : bitOf x.entry 177 = false) (hdie : flowDie f = fxeDie q)
    (hclosed : s.flowState f = flowClosed) (hp : s.isMember peer = true) (hsome : n ≠ 0) (hmax : n ≤ 16)
    (hports : n ≤ (s.portsUp (flowDie f)).length * 16) :
    s.flowOpenEntry q x = if u.flowState f = flowOpening then u.startExchange peer false else u := by
  subst hu hf hpeer hn
  rw [hdie] at hports
  simp only [State.flowOpenEntry, hstage, hz, hmember, hdie, hclosed, hp, beq_false_of_ne hsome, decide_eq_false (Nat.not_lt.2 hmax),
    decide_eq_false (Nat.not_lt.2 hports), bne_self_eq_false, ne_eq, not_true_eq_false, Bool.not_true, Bool.or_self, Bool.false_eq_true, if_false]

theorem exec_flowctlClose_of_running (hx : s.runningOp q 0x79 [1] = some x) : exec (.flowctlClose q) s = .next (s.flowCloseEntry q x) := by
  show execFlowctlClose q s = _
  simp only [execFlowctlClose, hx]

section
variable (hf : f = bitsOf x.entry 189 178) (hstage : x.stage = 0) (hz : zeroBits x.entry [(176, 176), (151, 0)] = true) (hdie : flowDie f = fxeDie q)
include hf hstage hz hdie

theorem flowCloseEntry_of_closed (hst : s.flowState f = flowClosed) : s.flowCloseEntry q x = s.finish x.id .ok := by
  subst hf
  simp only [State.flowCloseEntry, hstage, hz, hdie, hst, bne_self_eq_false, ne_eq, not_true_eq_false, Bool.not_true, Bool.or_self, Bool.false_eq_true,
    if_false, if_true]

theorem flowCloseEntry_of_open (hst : s.flowState f = flowOpen) : s.flowCloseEntry q x = ((s.staged x 1).enterFlow f flowDraining).drain f := by
  have hclosed : flowOpen ≠ flowClosed := by decide
  have hfailed : flowOpen ≠ flowFailed := by decide
  have hopening : flowOpen ≠ flowOpening := by decide
  subst hf
  simp only [State.flowCloseEntry, hstage, hz, hdie, hst, hclosed, hfailed, hopening, bne_self_eq_false, ne_eq, not_true_eq_false, Bool.not_true, Bool.or_self,
    Bool.false_eq_true, if_false]

end

theorem exec_flowctlReset_of_failed (hf : f = bitsOf x.entry 189 178) (hx : s.runningOp q 0x79 [2, 3] = some x) (hop : bitsOf x.entry 191 190 = 2)
    (hz : zeroBits x.entry [(176, 176), (151, 0)] = true) (hdie : flowDie f = fxeDie q) (hst : s.flowState f = flowFailed) :
    exec (.flowctlReset q) s = .next ((s.closeFlow f).finish x.id .ok) := by
  subst hf
  show execFlowctlReset q s = _
  simp only [execFlowctlReset, hx, State.flowResetEntry, hop, hz, hdie, hst, bne_self_eq_false, ne_eq, not_true_eq_false, decide_false, Bool.not_true,
    Bool.or_self, Bool.false_eq_true, if_false]

/-- An OPEN that alone is in execution and has waited 100 ms for its session ends with its flow closed. -/
theorem exec_flowOpenTimeout_of_due (hexecs : s.execs = [x]) (hop : opcodeOf x.entry = 0x79) (hopen : bitsOf x.entry 191 190 = 0) (hstage : x.stage = 1)
    (hresult : x.result = none) (hdue : x.start + 100000 ≤ s.now) :
    exec (.flowOpenTimeout x.q x.id) s = .next ((s.closeFlow (bitsOf x.entry 189 178)).finish x.id .aborted) := by
  show execFlowOpenTimeout x.q x.id s = _
  simp only [execFlowOpenTimeout, hexecs, List.find?_cons, hop, hopen, hstage, hresult, hdue, Option.isNone_none, beq_self_eq_true, decide_true, Bool.and_self]

/-- Settles O34: each clause is what one command answers in its case. -/
theorem collectivesAndFlowEntriesRun : Obligations.CollectivesAndFlowEntriesRun := by
  refine ⟨fun _ _ _ => exec_redscat_of_none, ?new, ?covered, fun _ _ _ => exec_allgather_of_none, ?gather, ?timeout, fun _ _ _ => exec_pullLimitExpiry_of_overdue,
    ?opens, ?closes, fun _ _ _ hx hop hz hdie hst => exec_flowctlReset_of_failed rfl hx hop hz hdie hst, ?late⟩
  case new =>
    intro q x arrivals c row s s1 s2 v u hx hstage hc hrow hclose
    exact exec_redscat_of_running hx (redscatEntry_of_new hstage hc hrow rfl hclose)
  case covered =>
    intro q x arrivals c s s1 u hx hstage hc hclose hcov
    exact exec_redscat_of_running hx (redscatEntry_of_covered hstage hc rfl hclose hcov)
  case gather =>
    intro q x chunks c row s s1 s2 s3 span u held all vals w hx hstage hc hrow hall hwrite
    exact exec_allgather_of_running hx (allgatherEntry_of_complete hstage hc hrow rfl hall hwrite rfl rfl)
  case timeout =>
    intro q x s hx
    rw [exec_collectiveTimeout_of_overdue hx]
    exact ⟨fun hgen => congrArg _ (if_pos hgen), fun hgen => congrArg _ (if_neg (Bool.eq_false_iff.1 hgen))⟩
  case opens =>
    intro q x s f n u hx hstage hz hmember hdie hclosed hp hsome hmax hports
    rw [exec_flowctlOpen_of_running hx, flowOpenEntry_of_closed rfl rfl rfl rfl hstage hz hmember hdie hclosed hp hsome hmax hports]
  case closes =>
    intro q x s f hx hstage hz hdie
    rw [exec_flowctlClose_of_running hx]
    exact ⟨fun hst => congrArg _ (flowCloseEntry_of_closed rfl hstage hz hdie hst), fun hst => congrArg _ (flowCloseEntry_of_open rfl hstage hz hdie hst)⟩
  case late =>
    rintro q x s hexecs rfl hop hopen hstage hresult hdue
    exact exec_flowOpenTimeout_of_due hexecs hop hopen hstage hresult hdue

end Sys2Proof.Proofs

/-! ### Packets and timers of a flow, and frames (R344 to R348, R350, R352, R353) -/

namespace Sys2Proof.Proofs

open Sys2Proof.Machine

variable {s : State} {p : Pkt} {x y : Flow} {n flow psn path t ts : Nat} {w : Unacked} {h : Path} {f : Frame}

/-! #### Packets -/

theorem exec_ackReceive_of_taken (hp : s.takesPkt p .ack = true) : exec (.ackReceive p) s = .next ((s.acceptTxc p).takeAck p true) := if_pos hp

theorem exec_dataReceive_of_taken (hp : s.takesPkt p .data = true) (hx : (s.acceptTxc p).flow p.dstFlow = some x) : exec (.dataReceive p) s =
    .next ((s.acceptTxc p).placeData p x ((psnAt x.ackBase p.psn).filter fun n => !x.received.contains n)) := by
  show execDataReceive p s = _
  simp only [execDataReceive, hp, hx, Bool.not_true, Bool.false_eq_true, if_false]

/-- A PSN within the window that was not received is a new place. -/
theorem psn_new (hn : psnAt x.ackBase p.psn = some n) (hnew : x.received.contains n = false) :
    ((psnAt x.ackBase p.psn).filter fun n => !x.received.contains n) = some n := by
  rw [hn, Option.filter_some, hnew]
  rfl

/-- A PSN outside the window, or one that was received, is no new place. -/
theorem psn_repeated (h : ∀ n, psnAt x.ackBase p.psn = some n → x.received.contains n = true) :
    ((psnAt x.ackBase p.psn).filter fun n => !x.received.contains n) = none := by
  rw [Option.filter_eq_none_iff]
  intro n hn
  rw [h n hn]
  decide

theorem placeData_of_new (hy : (s.takeAck p false).flow p.dstFlow = some y) : s.placeData p x (some n) = (s.takeAck p false).takeData p y n := by
  simp only [State.placeData, hy]

/-- The flow that a PROBE marks. -/
def probed (x : Flow) (p : Pkt) : Flow := Flow.mark { x with peerFlow := p.srcFlow } p

section
variable (hp : s.takesPkt p .probe = true) (hx : (s.acceptTxc p).flow p.dstFlow = some x)
include hp hx

/-- A PROBE below the window is marked and acknowledged. -/
theorem exec_probeReceive_of_old (hn : psnAt (probed x p).ackBase p.psn = none) : exec (.probeReceive p) s =
    .next (((s.acceptTxc p).setFlow p.dstFlow (probed x p)).sendAck p.dstFlow p.path p.ts) := by
  rw [probed] at hn ⊢
  show execProbeReceive p s = _
  simp only [execProbeReceive, hp, hx, hn, Bool.not_true, Bool.false_eq_true, if_false]

/-- A new PROBE takes its PSN as well. -/
theorem exec_probeReceive_of_new (hn : psnAt (probed x p).ackBase p.psn = some n) (hnew : (probed x p).received.contains n = false) :
    exec (.probeReceive p) s = .next (((s.acceptTxc p).setFlow p.dstFlow ((probed x p).receive n).1).sendAck p.dstFlow p.path p.ts) := by
  rw [probed] at hn hnew ⊢
  show execProbeReceive p s = _
  simp only [execProbeReceive, hp, hx, hn, hnew, Bool.not_true, Bool.false_eq_true, if_false]

end

section
variable (hp : s.takesPkt p .status = true)
include hp

theorem exec_statusReceive_of_hoveTo (hc : leAt p.payload 0 1 = 1) : exec (.statusReceive p) s = .next ((s.acceptTxc p).hoveAnswer p.dstFlow) := by
  show execStatusReceive p s = _
  simp only [execStatusReceive, hp, hc, Bool.not_true, Bool.false_eq_true, if_false]

theorem exec_statusReceive_of_noFlow (hc : leAt p.payload 0 1 = 2) : exec (.statusReceive p) s = .next (s.acceptTxc p) := by
  show execStatusReceive p s = _
  simp only [execStatusReceive, hp, hc, Bool.not_true, Bool.false_eq_true, if_false]

theorem exec_statusReceive_of_busy (hc : leAt p.payload 0 1 = 3) (hx : (s.acceptTxc p).flow p.dstFlow = some x) :
    exec (.statusReceive p) s = .next ((s.acceptTxc p).setFlow p.dstFlow { x with winOut := winAt x.nextPsn p.win }) := by
  show execStatusReceive p s = _
  simp only [execStatusReceive, hp, hc, hx, Bool.not_true, Bool.false_eq_true, if_false]

end

/-! #### Timers -/

section
variable (hx : s.flow flow = some x) (hlive : s.flowLive flow = true)
include hx hlive

theorem exec_ackDelayExpiry_of_waiting (hhead : x.sinceAck.head? = some (t, path, ts)) :
    exec (.ackDelayExpiry flow) s = .next (if t + 1 ≤ s.now then s.sendAck flow path ts else s) := by
  show execAckDelayExpiry flow s = _
  simp only [execAckDelayExpiry, hx, Option.bind_some, hhead, hlive, and_true, apply_ite Host.Outcome.next]

theorem exec_rtoExpiry_of_due (hw : x.unacked.find? (fun u => u.psn % 2 ^ 32 == psn % 2 ^ 32) = some w)
    (hdue : s.rto flow x w.expiries ≤ ((s.now - w.sentAt) * 1000 : Nat)) :
    exec (.rtoExpiry flow psn) s = .next ((s.holdPath flow w.path).resend flow { w with expiries := w.expiries + 1 }) := by
  show execRtoExpiry flow psn s = _
  simp only [execRtoExpiry, hx, hw, hlive, decide_eq_true hdue, Bool.and_self, if_true]

/-- A path whose hold has ended, with no PROBE of it on its way, sends one within the window. -/
theorem exec_pathHoldExpiry_of_ended (hh : x.paths[path]? = some h) (hup : h.down = false) (hwin : x.nextPsn ≤ x.winOut) (hroom : x.unacked.length < 65536)
    (hheld : h.held.any (fun t => decide (t ≤ s.now)) = true) (hnone : x.unacked.any (fun u => u.probe && u.path == path) = false) :
    exec (.pathHoldExpiry flow path) s =
      .next ((s.setFlow flow { x with nextPsn := x.nextPsn + 1 }).putPacket flow ⟨x.nextPsn, path, 0, ⟨0, 0, 0, false, []⟩, 0, 0, 0, true, 0⟩ false) := by
  show execPathHoldExpiry flow path s = _
  simp only [execPathHoldExpiry, hx, hlive, hh, hup, decide_eq_true hwin, decide_eq_true hroom, hheld, hnone, Bool.not_false, Bool.and_self, if_true]

end

/-! #### Frames -/

/-- What a frame leaves behind whether it passes or not: a HANDSHAKE taken, its codewords, and PFC for the classes that it fills. -/
def countFrame (s : State) (f : Frame) : State := ((if s.takesHs f then s.countHs f.port else s).countFec f).sendPfc f

theorem exec_frameReceive_of_passed (h : s.dropReason f = none) : exec (.frameReceive f) s = .next ((countFrame s f).fadd F.portPFramesRx 1 f.port) := by
  show execFrameReceive f s = _
  simp only [execFrameReceive, h, countFrame]

theorem exec_frameReceive_of_dropped (h : s.dropReason f = some n) :
    exec (.frameReceive f) s = .next ((countFrame s f).fadd F.portPDropNCount 1 f.port n) := by
  show execFrameReceive f s = _
  simp only [execFrameReceive, h, countFrame]

/-- Settles O36: each clause is what one command answers in its case. -/
theorem packetsAreTakenOnceAndTimersActOnAFlow : Obligations.PacketsAreTakenOnceAndTimersActOnAFlow := by
  refine ⟨fun _ _ => exec_ackReceive_of_taken, ?data, fun _ _ _ => exec_probeReceive_of_old, fun _ _ _ _ hp hx hnew hn => exec_probeReceive_of_new hp hx hn hnew,
    fun _ _ hp => ⟨exec_statusReceive_of_hoveTo hp, exec_statusReceive_of_noFlow hp, fun _ => exec_statusReceive_of_busy hp⟩,
    fun _ _ _ _ _ _ hx hhead hlive => exec_ackDelayExpiry_of_waiting hx hlive hhead,
    fun _ _ _ _ _ hx hw hlive => exec_rtoExpiry_of_due hx hlive hw,
    fun _ _ _ _ _ hx hh hlive hup hwin hroom hheld hnone => exec_pathHoldExpiry_of_ended hx hlive hh hup hwin hroom hheld hnone,
    fun _ _ => ⟨exec_frameReceive_of_passed, fun _ => exec_frameReceive_of_dropped⟩⟩
  case data =>
    intro p x s hp hx
    rw [exec_dataReceive_of_taken hp hx]
    refine ⟨fun n y hn hnew hy => ?_, fun hrep => ?_⟩
    · rw [psn_new hn hnew, placeData_of_new hy]
    · rw [psn_repeated hrep]
      rfl

end Sys2Proof.Proofs

/-! ### Ports (R333, R336, R338, R427) -/

namespace Sys2Proof.Proofs

open Sys2Proof.Machine

variable {s u : State} {port target classes lanes n group m : Nat}

/-! #### Addresses -/

theorem exec_arpRequest_of_ipv6 (h6 : s.fb F.portPCfgIpv6 port = true) : exec (.arpRequest port target) s = .next s := by
  show execArpRequest port target s = _
  simp only [execArpRequest, h6, Bool.not_true, Bool.and_false, Bool.false_and, Bool.false_eq_true, if_false]

section
variable (hup : s.portUp port = true)
include hup

/-- An IPv4 port answers ARP for its own address. -/
theorem exec_arpRequest_of_ipv4 (h6 : s.fb F.portPCfgIpv6 port = false) :
    exec (.arpRequest port target) s = .next (if target = s.portAddress port then s.sendFrame port (.arpReply port) else s) := by
  show execArpRequest port target s = _
  simp only [execArpRequest, hup, h6, Bool.not_false, Bool.and_self, Bool.true_and, beq_iff_eq, apply_ite Host.Outcome.next]

/-- An IPv6 port answers neighbour solicitations for its own address. -/
theorem exec_neighbourSolicitation_of_ipv6 (h6 : s.fb F.portPCfgIpv6 port = true) : exec (.neighbourSolicitation port target) s =
    .next (if target = s.portAddress port then s.sendFrame port (.neighbourAdvert port) else s) := by
  show execNeighbourSolicitation port target s = _
  simp only [execNeighbourSolicitation, hup, h6, Bool.and_self, Bool.true_and, beq_iff_eq, apply_ite Host.Outcome.next]

end

/-! #### Gateways -/

/-- A gateway is resolved no more often than every 10 s. -/
theorem exec_gatewayResolve_of_early {mac : Option Nat} (hdue : s.gatewayDue port = false) : exec (.gatewayResolve port mac) s = .next s := by
  show execGatewayResolve port mac s = _
  simp only [execGatewayResolve, hdue, Bool.not_false, Bool.or_true, if_true]

section
variable (hup : s.portUp port = true)
include hup

/-- A port asks for its gateway and notes when. -/
def askGateway (s : State) (port : Nat) : State :=
  State.sendFrame { s with gatewayAt := (s.gatewayAt.filter fun (g : Nat × Nat) => g.1 != port) ++ [(port, s.now)] } port (.gatewayQuery port)

theorem exec_gatewayResolve_of_silent (hdue : s.gatewayDue port = true) : exec (.gatewayResolve port none) s = .next (askGateway s port) := by
  show execGatewayResolve port none s = _
  simp only [execGatewayResolve, hup, hdue, Bool.not_true, Bool.or_self, Bool.false_eq_true, if_false]
  rfl

/-- The MAC address that answers is kept. -/
theorem exec_gatewayResolve_of_answer (hdue : s.gatewayDue port = true) (hu : u = askGateway s port) : exec (.gatewayResolve port (some m)) s =
    .next { u with gateways := (u.gateways.filter fun g => g.1 != port) ++ [(port, some m)] } := by
  subst hu
  show execGatewayResolve port (some m) s = _
  simp only [execGatewayResolve, hup, hdue, Bool.not_true, Bool.or_self, Bool.false_eq_true, if_false]
  rfl

/-! #### PFC -/

theorem exec_pfcFrame_of_up : exec (.pfcFrame port classes) s =
    .next (State.pumpDie { s with paused := if Nat.land classes (s.f F.portPCfgPfcEn port) = 0 then s.paused.filter fun p => p.1 != port
      else (s.paused.filter fun p => p.1 != port) ++ [(port, Nat.land classes (s.f F.portPCfgPfcEn port))] } port) := by
  show execPfcFrame port classes s = _
  simp only [execPfcFrame, hup, Bool.not_true, Bool.false_eq_true, if_false]

/-! #### Links -/

/-- A port that goes down keeps some of the lanes it had locked, never all of them. -/
theorem exec_portLinkDown_of_up {old kept : Nat} (hold : old = s.f F.portPStatusLocked port) (hkept : kept = Nat.land old s.open_.1.toNat) :
    exec (.portLinkDown port) s = .next ((s.open_.2.portDown port).fset F.portPStatusLocked (if kept = old then clearBit old 0 else kept) port) := by
  subst hkept hold
  show execPortLinkDown port s = _
  simp only [execPortLinkDown, hup, Bool.not_true, Bool.false_eq_true, if_false]

end

theorem exec_portLinkDown_of_down (hdown : s.portUp port = false) : exec (.portLinkDown port) s = .next s := by
  show execPortLinkDown port s = _
  simp only [execPortLinkDown, hdown, Bool.not_false, if_true]

section
variable (hn : n = s.lanesUsed port) (hport : port < 32) (hthere : Reg.absent s.grade ⟨.portPStatus, port, 0⟩ = false) (hlanes : n ≠ 0)
  (hdown : s.portUp port = false) (hoff : s.f F.portPStatusState port ≠ 0) (hfused : s.f F.portPStatusState port ≠ 5)
  (hfault : s.fb F.portPStatusFault port = false) (hsome : lanes % 2 ^ n ≠ 0)
include hn hport hthere hlanes hdown hoff hfused hfault hsome

/-- Lanes of an enabled port that is not up are locked: it trains with some of them, and is up with all of them. -/
theorem exec_portLinkUp_of_locked : exec (.portLinkUp port lanes) s = .next (if lanes % 2 ^ n ≠ 2 ^ n - 1
    then (s.fset F.portPStatusState 2 port).fset F.portPStatusLocked (lanes % 2 ^ n) port
    else ((((((s.fset F.portPStatusUp 1 port).fset F.portPStatusState 3 port).fset F.portPStatusLocked (lanes % 2 ^ n) port).latch
      { code := 0x4011, source := 748, detail := port }).turnFlows port false).pumpDie port)) := by
  subst hn
  show execPortLinkUp port lanes s = _
  simp only [execPortLinkUp, Nat.not_le.2 hport, hthere, hlanes, hdown, hoff, hfused, hfault, hsome, Bool.false_eq_true, or_self, if_false,
    apply_ite Host.Outcome.next]

end

/-! #### Groups -/

theorem exec_portGroupFault_of_ports (hg : s.groupPorts group ≠ []) :
    exec (.portGroupFault group) s = .next (s.faultDomain (groupDomain group) 0xFF (group % 8)) := if_neg (by simpa using hg)

section
variable (hrec : s.inRecovery (groupDomain group) = true)
include hrec

theorem exec_portGroupRecoveryEnd_of_fail :
    exec (.portGroupRecoveryEnd group false) s = .next ((s.loseDomain (groupDomain group)).endGroupOp group .aborted) := by
  show execPortGroupRecoveryEnd group false s = _
  simp only [execPortGroupRecoveryEnd, hrec, Bool.not_true, Bool.false_eq_true, if_false]

theorem exec_portGroupRecoveryEnd_of_pass : exec (.portGroupRecoveryEnd group true) s = .next (if s.liveOn 4 (group % 8) || s.liveOn 6 (group % 8)
    then ((s.groupRetry group).releaseSlot (groupDomain group)).endGroupOp group .ok else (s.groupRetry group).domainBack (groupDomain group)) := by
  show execPortGroupRecoveryEnd group true s = _
  simp only [execPortGroupRecoveryEnd, hrec, Bool.not_true, Bool.false_eq_true, if_false, if_true]

end

/-- Settles O37: each clause is what one command answers in its case. -/
theorem portsAnswerPauseFailAndReturn : Obligations.PortsAnswerPauseFailAndReturn := by
  refine ⟨fun port target s hup => ⟨exec_arpRequest_of_ipv4 hup, fun h6 => ⟨exec_arpRequest_of_ipv6 h6, exec_neighbourSolicitation_of_ipv6 hup h6⟩,
      fun _ => exec_gatewayResolve_of_early, fun _ hdue => ⟨exec_gatewayResolve_of_silent hup hdue, exec_gatewayResolve_of_answer hup hdue rfl⟩,
      fun _ => exec_pfcFrame_of_up hup⟩,
    fun _ _ hup => exec_portLinkDown_of_up hup rfl rfl, fun _ _ => exec_portLinkDown_of_down, ?linkUp, fun _ _ => exec_portGroupFault_of_ports, ?recovery⟩
  case linkUp =>
    intro port lanes s hport hthere hlanes hdown hoff hfused hfault hsome
    rw [exec_portLinkUp_of_locked rfl hport hthere hlanes hdown hoff hfused hfault hsome]
    exact ⟨fun h => congrArg _ (if_pos h), fun h => congrArg _ (if_neg (not_not_intro h))⟩
  case recovery =>
    intro group s hrec
    refine ⟨exec_portGroupRecoveryEnd_of_fail hrec, fun h4 h6 => ?_, fun h4 => ?_⟩
    · rw [exec_portGroupRecoveryEnd_of_pass hrec, h4, h6]
      rfl
    · rw [exec_portGroupRecoveryEnd_of_pass hrec, h4]
      rfl

end Sys2Proof.Proofs
end

section

/-! ### Core sleep and sideband inputs (chapters 12 and 16) -/

namespace Sys2Proof.Proofs

open Sys2Proof.Machine

variable {s u : State} {core ticks input n t : Nat}

/-! #### Core sleep -/

/-- A core is quiet when none of its queues executes or can start an entry (R404). -/
theorem coreQuiet_of_queues (h : ∀ q ∈ s.queuesOf core, s.execsOf q = [] ∧ s.canStart q = false) : s.coreQuiet core = true :=
  List.all_eq_true.2 fun q hq => by simp [h q hq]

theorem exec_lullEntry_of_quiet (hen : s.fb F.pwrCtrlLullEn = true) (hcore : core < 136) (hrun : s.corePwr core = 0) (hquiet : s.coreQuiet core = true)
    (hlong : s.quietLong core = true) (hwoken : s.sideband.woken.contains core = false) : exec (.lullEntry core) s =
      .next (State.setCorePwr { s with lullSince := assocSet 0 s.lullSince core (s.now + 1) } core 1) := by
  show execLullEntry core s = _
  simp only [execLullEntry, hen, hcore, hrun, hquiet, hlong, hwoken, decide_true, beq_self_eq_true, Bool.not_false, Bool.and_self, if_true]

theorem exec_deepLullEntry_of_stayed (hen : s.fb F.pwrCtrlDeepEn = true) (hcore : core < 136) (hlull : s.corePwr core = 1)
    (hstay : assoc 0 s.lullSince core + s.f F.pwrCtrlDeepTicks ≤ s.now + 1) (hdeep : (s.sideband.deep.any fun e => e.1 == core) = false) :
    exec (.deepLullEntry core) s = .next { s with sideband := { s.sideband with deep := s.sideband.deep ++ [(core, false)] } } := by
  show execDeepLullEntry core s = _
  simp only [execDeepLullEntry, hen, hcore, hlull, hstay, hdeep, decide_true, beq_self_eq_true, Bool.not_false, Bool.and_self, if_true]

/-- The next tick edge completes the one entry to Deep Lull that has begun and for which no wake is held (R406). -/
theorem finishDeep_of_single (hdeep : s.sideband.deep = [(core, false)]) (hlull : s.corePwr core = 1) :
    s.finishDeep = State.setCorePwr { s with sideband := { s.sideband with deep := [], woken := [] } } core 2 := by
  rw [State.finishDeep, hdeep]
  exact if_pos hlull

theorem exec_coreWake_of_serving (hcore : core < 136) (hpos : (s.positionOf core).isSome = true) (hspare : s.idleSpare core = false) :
    exec (.coreWake core) s = .next (s.wake core) := if_pos (by simp [hcore, hpos, hspare])

/-! #### PERST_N and the PCIe clock -/

theorem exec_perstNAssert : exec (.perstNAssert ticks) s =
    .next (if ticks < 4 then s.countEdges 0 (pulseEdges ticks) else (s.countEdges 0 1).resetLink) :=
  (apply_ite Host.Outcome.next _ _ _).symm

theorem exec_perstNDeassert (hu : u = (s.countEdges 0 1).setLevel 0 true) : exec .perstNDeassert s =
    .next (if u.pcieClock && u.boot.powered && !u.fb F.hostLinkUp then u.hostLinkTrain else u) := by
  subst hu
  exact (apply_ite Host.Outcome.next _ _ _).symm

/-- The clock that returns trains the link of a powered part whose PERST_N is high. -/
theorem exec_pcieRefclkReturn_of_missing (hclock : s.pcieClock = false) (hlevel : s.levelHigh 0 = true) (hpower : s.boot.powered = true) :
    exec .pcieRefclkReturn s = .next ((State.fadd { s with pcieClock := true } F.hostLinkRetrains).hostLinkTrain) := by
  have hlevel' : State.levelHigh { s with pcieClock := true } 0 = true := hlevel
  show execPcieRefclkReturn s = _
  simp only [execPcieRefclkReturn, hclock, hlevel', hpower, Bool.not_false, Bool.and_self, if_true]

/-! #### HOLD_N -/

/-- A pulse of under four ticks is not taken as a level, whichever it was (R408). -/
theorem exec_holdN_of_short (h : ticks < 4) :
    exec (.holdNLow ticks) s = .next (s.countEdges 2 (pulseEdges ticks)) ∧ exec (.holdNHigh ticks) s = .next (s.countEdges 2 (pulseEdges ticks)) :=
  ⟨if_pos h, if_pos h⟩

section
variable (hticks : 4 ≤ ticks) (hu : u = s.countEdges 2 1)
include hticks hu

/-- A change of a masked input only counts (R409). -/
theorem exec_holdN_of_masked (hmask : u.masked 2 = true) : exec (.holdNLow ticks) s = .next u ∧ exec (.holdNHigh ticks) s = .next u := by
  subst hu
  exact ⟨(if_neg (Nat.not_lt.2 hticks)).trans (if_pos hmask), (if_neg (Nat.not_lt.2 hticks)).trans (if_pos hmask)⟩

variable {v w : State} (hmask : u.masked 2 = false)
include hmask

/-- HOLD_N taken low holds a part that is neither held nor in Hove-to (R411). -/
theorem exec_holdNLow_of_taken (hv : v = u.setLevel 2 false) (hhove : v.inHove = false) (hheld : v.fb F.sbStatusHeld = false)
    (hw : w = (v.fset F.sbStatusHeld 1).fset F.sbStatusEscalated 0) : exec (.holdNLow ticks) s =
      .next (State.raise { w with sideband := { w.sideband with holdSince := some w.now, holdSeq := w.commitSeq } } 0x7021 745) := by
  subst hw hv hu
  show execHoldNLow ticks s = _
  simp only [execHoldNLow, Nat.not_lt.2 hticks, hmask, hhove, hheld, Bool.or_self, Bool.false_eq_true, if_false]

/-- HOLD_N taken high ends the hold of a part that is not in Hove-to (R411). -/
theorem exec_holdNHigh_of_taken (hv : v = u.setLevel 2 true) (hhove : v.inHove = false) (hheld : v.fb F.sbStatusHeld = true) :
    exec (.holdNHigh ticks) s = .next v.endHold := by
  subst hv hu
  show execHoldNHigh ticks s = _
  simp only [execHoldNHigh, Nat.not_lt.2 hticks, hmask, hhove, hheld, Bool.not_true, Bool.or_self, Bool.false_eq_true, if_false]

end

theorem exec_holdTakeEffect_of_due (hheld : s.fb F.sbStatusHeld = true) (hactive : s.sideband.holdActive = false) (hhove : s.inHove = false)
    (hdue : s.holdDue = true) : exec .holdTakeEffect s =
      .next (State.fset { s with sideband := { s.sideband with holdActive := true } } F.pwrStatusPart 1) := by
  show execHoldTakeEffect s = _
  simp only [execHoldTakeEffect, hheld, hactive, hhove, hdue, Bool.not_false, Bool.and_self, if_true]

/-- What HOLD_POLICY does when the limit has expired: Hove-to, the input masked and the hold ended, or nothing (R412). -/
def applyHoldPolicy (s : State) : State :=
  if s.f F.sbCtrlHoldPolicy = 1 then s.askHove 2
  else if s.f F.sbCtrlHoldPolicy = 2 then ((s.maskInput 2).setLevel 2 true).endHold
  else s

/-- A hold that has lasted HOLD_LIMIT escalates once. -/
theorem exec_holdLimitExpiry_of_due (hsince : s.sideband.holdSince = some t) (hheld : s.fb F.sbStatusHeld = true)
    (hesc : s.fb F.sbStatusEscalated = false) (hdue : t + s.f F.sbCtrlHoldLimit * 1000 ≤ s.now) (hu : u = (s.fset F.sbStatusEscalated 1).raise 0x1020 745) :
    exec .holdLimitExpiry s = .next (applyHoldPolicy u) := by
  subst hu
  show execHoldLimitExpiry s = _
  simp only [execHoldLimitExpiry, hsince, hheld, hesc, Nat.not_lt.2 hdue, Bool.not_true, decide_false, Bool.or_self, Bool.false_eq_true, if_false]
  rw [applyHoldPolicy]
  split
  · next h => rw [if_pos h]
  · next h => rw [if_neg (by omega), if_pos h]
  · next h1 h2 => rw [if_neg h1, if_neg h2]

/-! #### Chatter -/

/-- Up to eight transitions in 1,000 ticks are no chatter. -/
theorem chatter_of_few (h : s.sideband.window input ≤ 8) : s.chatter input = s := if_pos h

/-- Chatter masks PTP_PPS_IN and HOLD_N (R409). -/
theorem chatter_of_many (h : 8 < s.sideband.window input) (hi : 0 < input) : s.chatter input =
    if s.masked input then s else ((s.maskInput input).fadd F.sbCountIMaskings 1 input).raise (0x3020 + input) 745 :=
  (if_neg (Nat.not_le.2 h)).trans (if_neg (Nat.ne_of_gt hi))

/-- Chatter of PERST_N is reported once, and masks nothing (R410). -/
theorem chatter_perst_of_many (h : 8 < s.sideband.window 0) : s.chatter 0 = if s.sideband.perstReported then s else
    State.raise (State.fadd { s with sideband := { s.sideband with perstReported := true } } F.sbCountIMaskings 1 0) 0x3020 745 :=
  (if_neg (Nat.not_le.2 h)).trans (if_pos rfl)

/-- Transitions of an input are counted, also for each of its masked windows, and WINDOW shows those of the last 1,000 ticks. -/
def noteEdges (s : State) (input n : Nat) : State :=
  State.showWindow { s.fadd F.sbCountITransitions n input with sideband := { (s.fadd F.sbCountITransitions n input).sideband with
    edges := (s.fadd F.sbCountITransitions n input).sideband.edges ++ [(input, 0, n)]
    quiets := (s.fadd F.sbCountITransitions n input).sideband.quiets.map fun (w : QuietRun) =>
      if w.input == input then { w with transitions := w.transitions + n } else w } } input

theorem exec_sidebandChatter_of_transitions (hi : input < 3) (hn : 0 < n) : exec (.sidebandChatter input n) s = .next ((noteEdges s input n).chatter input) :=
  if_neg (by omega)

theorem exec_sidebandAutoUnmask_of_input (hi : input < 3) : exec (.sidebandAutoUnmask input) s =
    .next (if s.fb F.sbCtrlAutoUnmask ∧ s.longQuiet input then s.unmask input else s) := by
  show execSidebandAutoUnmask input s = _
  simp only [execSidebandAutoUnmask, hi, decide_true, Bool.true_and, Bool.and_eq_true, apply_ite Host.Outcome.next]

/-- Settles O40: each clause is what one command answers in its case; the limit of a hold is `applyHoldPolicy`, and transitions end in `State.chatter`. -/
theorem coresSleepAndSidebandInputsAct : Obligations.CoresSleepAndSidebandInputsAct := by
  refine ⟨fun _ _ hen hcore hrun hstart hlong hwoken => exec_lullEntry_of_quiet hen hcore hrun (coreQuiet_of_queues hstart) (decide_eq_true hlong) hwoken,
    fun _ _ => exec_deepLullEntry_of_stayed, fun _ _ => finishDeep_of_single, fun _ _ => exec_coreWake_of_serving,
    fun _ _ => exec_perstNAssert, fun _ _ => exec_perstNDeassert, fun _ => rfl, fun _ => exec_pcieRefclkReturn_of_missing,
    ?hold, fun _ => exec_holdTakeEffect_of_due, ?limit, ?chatter, fun _ _ => exec_sidebandAutoUnmask_of_input, fun _ _ => rfl⟩
  case hold =>
    intro ticks s u v hu hv
    exact ⟨exec_holdN_of_short, exec_holdN_of_masked (hu := hu),
      fun hticks hmask => ⟨fun hhove hheld => ⟨_, rfl, exec_holdNLow_of_taken hticks hu hmask hv hhove hheld rfl⟩, exec_holdNHigh_of_taken hticks hu hmask rfl⟩⟩
  case limit =>
    intro t s u hsince hheld hesc hdue hu
    rw [exec_holdLimitExpiry_of_due hsince hheld hesc hdue hu]
    exact ⟨fun hp => by simp [applyHoldPolicy, hp], fun hp => by simp [applyHoldPolicy, hp], fun hp => by simp [applyHoldPolicy, hp]⟩
  case chatter =>
    intro input n s v u hi hn hv hu
    have hnote : u = noteEdges s input n := by rw [hu, hv]; rfl
    rw [exec_sidebandChatter_of_transitions hi hn, ← hnote]
    refine ⟨fun h => congrArg _ (chatter_of_few h), fun h h0 => congrArg _ (chatter_of_many h h0), fun h h0 => ?_⟩
    subst h0
    exact congrArg _ (chatter_perst_of_many h)

end Sys2Proof.Proofs
end

section

/-! ### The safety monitor (chapter 13) -/

namespace Sys2Proof.Proofs

open Sys2Proof.Machine

variable {s u : State} {core die link copy read ahead n : Nat} {r : CoreRec} {c : HoveCause} {test : TestPass}

/-! #### Tests, recoveries and Promotion -/

/-- A core under test is noted with the tick of its test, counted, and shown as the last one tested. -/
def noteTest (s : State) (core : Nat) : State :=
  (State.fadd { s with tested := assocSet 0 s.tested core s.now } F.stestStatusTests).fset F.stestStatusLastCore core

/-- A core that is no free spare wakes for its test, and a failed test is a fault of its domain (R407, R418). -/
theorem exec_rotatingSelfTest_of_testable (htest : s.testable core = true) (hspare : s.idleSpare core = false) (hu : u = noteTest (s.wake core) core) :
    exec (.rotatingSelfTest core test) s = .next (if test then u else (u.fadd F.stestStatusFails).faultDomain core core) := by
  subst hu
  show execRotatingSelfTest core test s = _
  simp only [execRotatingSelfTest, htest, hspare, Bool.not_true, Bool.false_eq_true, if_false, apply_ite Host.Outcome.next]
  rfl

section
variable (hr : s.coreRecs.find? (fun r => r.core == core && r.stage == .testing) = some r)
include hr

/-- A pass returns the core, unless it is retired whatever its test shows (R430). -/
theorem exec_coreRecoveryTestEnd_of_pass (hforced : r.forced = false) :
    exec (.coreRecoveryTestEnd core true) s = .next ((State.domainBack { s with coreRecs := s.otherRecs core } core).showCoreMode core) := by
  show execCoreRecoveryTestEnd core true s = _
  simp only [execCoreRecoveryTestEnd, hr, hforced, Bool.not_false, Bool.and_self, if_true]

theorem exec_coreRecoveryTestEnd_of_fail : exec (.coreRecoveryTestEnd core false) s =
    .next (if s.replaceable core then s.bringSpare core else (s.loseDomain core core).afterPromote) := by
  show execCoreRecoveryTestEnd core false s = _
  simp only [execCoreRecoveryTestEnd, hr, Bool.false_and, Bool.false_eq_true, if_false, apply_ite Host.Outcome.next]

end

theorem exec_spareTestEnd_of_spareTest (hr : s.coreRecs.find? (fun r => r.core / 17 == die && r.stage == .spareTest) = some r) :
    exec (.spareTestEnd die test) s = .next (if test then (s.switchSpare r).afterPromote
      else ((s.retireCore (die * 17 + 16)).loseDomain r.core r.core).afterPromote) := by
  show execSpareTestEnd die test s = _
  simp only [execSpareTestEnd, hr, apply_ite Host.Outcome.next]

theorem exec_promotionComplete_of_loading (hr : s.coreRecs.find? (fun r => r.core / 17 == die && r.stage == .loading) = some r)
    (hu : u = (s.loadSegments (s.segmentsAt r.core)).1) : exec (.promotionComplete die) s =
      .next (State.endCorePromotion { u with step := { u.step with starts := u.step.starts ++ [r.core] } } r).afterPromote := by
  subst hu
  show execPromotionComplete die s = _
  simp only [execPromotionComplete, hr]

/-! #### Hove-to -/

theorem exec_hoveToEntry_of_recorded (h3 : 3 ≤ c.cause) (h11 : c.cause < 11) (h8 : c.cause ≠ 8 ∨ c.healthy = true) :
    exec (.hoveToEntry c) s = .next (s.safetyFault { code := 0x1001, source := 744 } 1 c.cause) :=
  (if_neg (Nat.not_le.2 h11)).trans (if_pos ⟨h3, h8⟩)

/-- The causes below 3, and a monitor of which neither copy passes its self-check, file no record. -/
theorem exec_hoveToEntry_of_unrecorded (h : c.cause < 3 ∨ (c.cause = 8 ∧ c.healthy = false)) : exec (.hoveToEntry c) s = .next (s.hoveTaken c.cause) := by
  have hrec : ¬ (3 ≤ c.cause ∧ (c.cause ≠ 8 ∨ c.healthy = true)) := by
    rintro ⟨h3, h8⟩
    obtain hlow | ⟨hmon, hsick⟩ := h
    · omega
    · exact h8.elim (fun hne => hne hmon) (by simp [hsick])
  exact (if_neg (by omega)).trans (if_neg hrec)

theorem exec_hoveRelease_host_of_inHove (hu : u = s.fset F.hoveCtrlRelease 0) (hhove : u.inHove = true) : exec (.hoveRelease .host test) s =
    .next (if u.releasable test then u.release else (u.fadd F.hoveStatusRefusedReleases).raise 0x7005 751) := by
  subst hu
  show execHoveRelease .host test s = _
  simp only [execHoveRelease, hhove, Bool.not_true, Bool.false_eq_true, if_false, apply_ite Host.Outcome.next]

/-- The supervisor releases where AUTO_RELEASE has every cause (R438). -/
theorem exec_hoveRelease_supervisor_of_auto (hauto : (s.causes.all fun c => s.f F.safeCtrlAutoRelease / 2 ^ c % 2 == 1) = true) :
    exec (.hoveRelease .supervisor test) s = .next (if s.releasable test then s.release else s) := by
  show execHoveRelease .supervisor test s = _
  simp only [execHoveRelease, hauto, Bool.true_and, apply_ite Host.Outcome.next]

/-! #### The error ring -/

/-- READ never goes beyond WRITTEN. -/
theorem exec_errRingReadAdvance (ha : ahead = (read + 2 ^ 32 - s.f F.errRingWritten) % 2 ^ 32) : exec (.errRingReadAdvance read) s =
    .next (if 0 < ahead ∧ ahead < 2 ^ 31 then s else (s.fset F.errRingRead read).showTop) := by
  subst ha
  exact (apply_ite Host.Outcome.next _ _ _).symm

/-! #### Package links -/

section
variable (hlink : link < 19) (hin : s.linksOut.contains link = false)
include hlink hin

/-- A flit replayed is a corrected error, and ends the run of failed replays. -/
theorem exec_linkFlitCrcFail_of_replayed : exec (.linkFlitCrcFail link true) s =
    .next (State.error { s with linkFails := assocSet 0 s.linkFails link 0 } 0x7001 sevCorrectable (0x400 + link)) := by
  show execLinkFlitCrcFail link true s = _
  simp only [execLinkFlitCrcFail, Nat.not_le.2 hlink, hin, Bool.false_eq_true, or_self, if_false, if_true]

/-- The sixteenth failed replay in a row is a fault of the link's domain. -/
theorem exec_linkFlitCrcFail_of_failed (hn : n = assoc 0 s.linkFails link + 1) : exec (.linkFlitCrcFail link false) s =
    .next (if n < 16 then { s with linkFails := assocSet 0 s.linkFails link n }
      else State.faultDomain { s with linkFails := assocSet 0 s.linkFails link 0 } (0x400 + link)) := by
  subst hn
  show execLinkFlitCrcFail link false s = _
  simp only [execLinkFlitCrcFail, Nat.not_le.2 hlink, hin, Bool.false_eq_true, or_self, if_false, apply_ite Host.Outcome.next]

end

section
variable (hrec : s.inRecovery (0x400 + link) = true)
include hrec

/-- The writes that waited for the bridge land when it returns (R25). -/
theorem exec_linkRetrainEnd_of_pass (hu : u = State.domainBack { s with linksOut := s.linksOut.filter fun k => k != link } (0x400 + link)) :
    exec (.linkRetrainEnd link true) s = .next (if link = 18 then u.flushBridge.afterRebuild else u) := by
  subst hu
  show execLinkRetrainEnd link true s = _
  simp only [execLinkRetrainEnd, hrec, Bool.not_true, Bool.false_eq_true, if_false, if_true]

theorem exec_linkRetrainEnd_of_fail : exec (.linkRetrainEnd link false) s = .next (s.loseDomain (0x400 + link)) := by
  show execLinkRetrainEnd link false s = _
  simp only [execLinkRetrainEnd, hrec, Bool.not_true, Bool.false_eq_true, if_false]

end

/-! #### The Ledger rebuild -/

/-- The other copy is swept, then copied over the one in recovery, unless the sweep met the second fault of R36. -/
theorem exec_ledgerRebuild_of_recovery (hcopy : copy < 2) (hrec : s.inRecovery (0x300 + copy) = true) (hbridge : s.bridgeOut = false)
    (hu : u = (s.badWords (ledgerBank (1 - copy))).foldl (fun s w => (s.fetchCopy (1 - copy) w).1) s) : exec (.ledgerRebuild copy) s =
      .next (if u.latched.any (fun e => e.hove == some 4) then u else
        (State.domainBack { u.cleanBank (ledgerBank copy) with mem := copyBank (u.cleanBank (ledgerBank copy)).mem (ledgerBank (1 - copy)) (ledgerBank copy) }
          (0x300 + copy)).afterRebuild) := by
  subst hu
  show execLedgerRebuild copy s = _
  simp only [execLedgerRebuild, Nat.not_le.2 hcopy, hrec, hbridge, Bool.not_true, Bool.false_eq_true, or_self, if_false, apply_ite Host.Outcome.next]

/-- Settles O41: each clause is what one command answers in its case. -/
theorem safetyMonitorCommandsAct : Obligations.SafetyMonitorCommandsAct := by
  refine ⟨?test, ?recovery, ?spare, ?promotion, ?entry, fun _ => rfl, ?host, ?supervisor, fun _ => ⟨rfl, rfl⟩, ?ring, ?flit, ?link, ?ledger⟩
  case test => exact fun core s htest hspare => ⟨noteTest (s.wake core) core, rfl,
    exec_rotatingSelfTest_of_testable htest hspare rfl, exec_rotatingSelfTest_of_testable htest hspare rfl⟩
  case recovery => exact fun _ _ _ hr => ⟨exec_coreRecoveryTestEnd_of_pass hr, exec_coreRecoveryTestEnd_of_fail hr⟩
  case spare => exact fun _ _ _ hr => ⟨exec_spareTestEnd_of_spareTest hr, exec_spareTestEnd_of_spareTest hr⟩
  case promotion => exact fun _ _ _ _ => exec_promotionComplete_of_loading
  case entry => exact fun _ _ => ⟨exec_hoveToEntry_of_unrecorded, exec_hoveToEntry_of_recorded, fun h => if_pos h⟩
  case host => exact fun _ _ _ => exec_hoveRelease_host_of_inHove
  case supervisor => exact fun _ _ => exec_hoveRelease_supervisor_of_auto
  case ring => exact fun _ _ _ => exec_errRingReadAdvance
  case flit => exact fun _ _ _ hlink hin hn => ⟨exec_linkFlitCrcFail_of_replayed hlink hin, exec_linkFlitCrcFail_of_failed hlink hin hn⟩
  case link => exact fun _ _ hrec => ⟨exec_linkRetrainEnd_of_pass hrec rfl, exec_linkRetrainEnd_of_fail hrec⟩
  case ledger => exact fun _ _ hcopy hrec hbridge => exec_ledgerRebuild_of_recovery hcopy hrec hbridge rfl

end Sys2Proof.Proofs
end

section
/-! PROOFS. The statements of spec/00_scope.md on the queue of commands, of spec/14_start_and_change.md on images, jobs and the hall, and of spec/15_security.md and spec/19_test_debug.md. -/

/-! ### The queue of commands (Scope; log entry 9) -/

namespace Sys2Proof.Proofs

open Sys2Proof.Machine

/-- Settles O5: `step` unfolded at a queue that holds a command. -/
theorem stepRunsFront : Obligations.StepRunsFront := fun _ _ _ h => step_of_pending_cons h

/-- Settles O6: `step` unfolded at the empty queue. -/
theorem stepIdlesOnAnEmptyQueue : Obligations.StepIdlesOnAnEmptyQueue := fun _ h => step_of_pending_nil h

end Sys2Proof.Proofs
end

section

/-! ### Images, jobs and the hall (R442, R453, R459 to R464) -/

namespace Sys2Proof.Proofs

open Sys2Proof.Machine

variable {s u v u1 u2 : State} {slot k p part t : Nat} {img : List Byte} {iv : ImageVerdict} {reply : RemoteReply} {mark : LoadedMark} {enrol : Bool}

/-! #### Slots -/

/-- An image that checks begins its programming, in the slot that did not boot and on a part that has passed QUALIFY. -/
theorem exec_cfgWrite_of_accepted (hu : u = (s.fset F.cfgCtrlWrite 0).fset F.cfgCtrlSlot (slot % 2)) (hbusy : u.fb F.cfgCtrlBusy = false)
    (hslot : u.booted ≠ some (slot % 2)) (hqual : 2 ≤ u.f F.bootStatusState) (himg : u.hostImage = (u1, some img))
    (hok : u1.checkImage 1 img iv = (u2, .ok)) : exec (.cfgWrite slot iv) s = .next (State.fset
      { u2 with boot := { u2.boot with programming := some (slot % 2, false, img, u2.f F.bootStatusState == 2) } } F.cfgCtrlBusy 1) := by
  subst hu
  show execCfgWrite slot iv s = _
  simp only [execCfgWrite, hbusy, hslot, Nat.not_lt.2 hqual, himg, hok, or_self, Bool.false_eq_true, if_false]

theorem exec_cfgErase_of_ready (hu : u = (s.fset F.cfgCtrlErase 0).fset F.cfgCtrlSlot (slot % 2)) (hbusy : u.fb F.cfgCtrlBusy = false) :
    exec (.cfgErase slot) s = .next (if u.booted = some (slot % 2) ∨ u.readsOnly = true then u.cfgResult .aborted
      else State.fset { u with boot := { u.boot with programming := some (slot % 2, true, [], false) } } F.cfgCtrlBusy 1) := by
  subst hu
  show execCfgErase slot s = _
  simp only [execCfgErase, hbusy, Bool.false_eq_true, if_false, apply_ite Host.Outcome.next]

section
variable (hu : u = (State.fset { s with boot := { s.boot with programming := none } } F.cfgCtrlBusy 0).cfgResult .ok)
include hu

theorem exec_slotProgrammingEnd_of_erase (h : s.boot.programming = some (k, true, img, enrol)) :
    exec .slotProgrammingEnd s = .next (u.setSlot k Slot.empty) := by
  subst hu
  show execSlotProgrammingEnd s = _
  simp only [execSlotProgrammingEnd, h, if_true]

/-- A programmed image that enrols no part leaves its slot STAGED. -/
theorem exec_slotProgrammingEnd_of_write (h : s.boot.programming = some (k, false, img, false)) : exec .slotProgrammingEnd s =
    .next ((u.setSlot k { (u.slot k).write { state := slotStaged, length := img.length, digest := digest128 img, magic := 0, seq := 0, check := 0 }
      with image := img }).raise 0x7404 749) := by
  subst hu
  show execSlotProgrammingEnd s = _
  simp only [execSlotProgrammingEnd, h, Bool.false_eq_true, if_false]

end

/-! #### The hall -/

section
variable (hjoin : s.mustJoin = true) (hptp : s.ptpState = ptpLocked) (hdue : (s.boot.contactAt.all fun t => decide (t + 10000000 ≤ s.now)) = true)
  (hu : u = State.emits { s with boot := { s.boot with contactAt := some s.now } }
    ((sortNat (((Config.hallList s.boot.config).map (·.1)).filter fun p => p != s.me)).map fun p => .hallProbe p))
include hjoin hptp hdue hu

theorem exec_hallContact_of_silent : exec (.hallContact none) s = .next u := by
  subst hu
  show execHallContact none s = _
  simp only [execHallContact, hjoin, hptp, hdue, bne_self_eq_false, Bool.not_true, Bool.or_self, Bool.false_eq_true, if_false]

/-- The JOIN that a part asks for, with the role of its image (R453). -/
def joinCmd (v : State) : HallCmd := .join v.me (imageRole v.boot.config) (v.f F.hallStatusSite) (Config.deviceId.setWidth 64)

/-- A listed part that answers is asked for the join once, under a session or an exchange that forms one. -/
theorem exec_hallContact_of_answer (hlist : (((Config.hallList s.boot.config).map (·.1)).filter fun p => p != s.me).contains p = true)
    (hv : v = if (u.session p false).isNone then u.startExchange p false else u) (hnew : v.hallAsked.contains (joinCmd v) = false) :
    exec (.hallContact (some p)) s = .next (State.emit
      { v with hallAsked := v.hallAsked ++ [joinCmd v], boot := { v.boot with asked := [p] } } (.hallAsk (joinCmd v))) := by
  subst hv hu
  unfold joinCmd at *
  show execHallContact (some p) s = _
  simp only [execHallContact, hjoin, hptp, hdue, hlist, hnew, bne_self_eq_false, Bool.not_true, Bool.or_self, Bool.true_and, Bool.false_eq_true, if_false]

end

theorem exec_hallFound_of_sole (hrole : s.awaitsRole = true) (hasked : s.hallAsked = []) (hsole : s.soleMember = true)
    (hu : u = (s.setMember s.me memberLive (imageRole s.boot.config) (s.f F.hallStatusSite) 0 1 (Config.deviceId.setWidth 64).toNat).setLed 0x03120000 4 1) :
    exec .hallFound s = .next (((u.seedBeats.showHall).raise 0x4051 748).reachRole) := by
  subst hu
  show execHallFound s = _
  simp only [execHallFound, hrole, hasked, hsole, List.isEmpty_nil, Bool.true_or, Bool.not_true, Bool.or_self, Bool.false_eq_true, if_false]

/-! #### Jobs -/

/-- A part that holds a role and no job installs an image that checks, where the hall can hold it. -/
theorem exec_jobLoad_of_checked (hu : u = s.fset F.jobCtrlLoad 0) (hnone : u.f F.jobStatusState = 0) (hrole : u.f F.bootStatusState = 3)
    (hsrc : u.jobSource (s.f F.jobCtrlSrc) reply = (u1, some img)) (hok : u1.checkImage 2 img iv = (u2, .ok)) :
    exec (.jobLoad iv reply) s = .next (if u2.layoutOk img then u2.installJob img else u2.loadFailed .aborted) := by
  subst hu
  show execJobLoad iv reply s = _
  simp only [execJobLoad, State.loadJob, hnone, hrole, hsrc, hok, ne_eq, not_true_eq_false, false_and, if_false]

theorem exec_loadedReceive_of_leader (hhove : s.inHove = false) (hlead : s.hallCommittee.head? = some s.me) (hpart : s.isMember part = true) :
    exec (.loadedReceive part mark) s = .next (State.weighLoaded { s with boot := { s.boot with
      loaded := s.boot.loaded.filter (fun (l : Nat × LoadedMark) => l.1 != part) ++ [(part, mark)]
      firstLoaded := if s.boot.firstLoaded.isNone then some s.now else s.boot.firstLoaded } }) := by
  show execLoadedReceive part mark s = _
  simp only [execLoadedReceive, hhove, hlead, hpart, bne_self_eq_false, Bool.not_true, Bool.or_self, Bool.false_eq_true, if_false]

theorem exec_jstart_of_due {c : HallCmd × Nat} (hhove : s.inHove = false) (hdue : s.dueStart = some c) :
    exec .jstart s = .next (State.applyHall { s with hallPending := s.hallPending.erase c } c.1) := by
  show execJstart s = _
  simp only [execJstart, hdue, hhove, Bool.false_eq_true, if_false]

theorem exec_jstartTimeout_of_late (hfirst : s.boot.firstLoaded = some t) (hlate : t + 60000000 ≤ s.now) (hidle : s.jobRuns = false) :
    exec .jstartTimeout s = .next s.refuseStart := by
  show execJstartTimeout s = _
  simp only [execJstartTimeout, hfirst, hlate, hidle, Bool.not_false, and_self, if_true]

theorem exec_jobStop_of_loaded (hu : u = s.fset F.jobCtrlStop 0) (hjob : u.f F.jobStatusState ≠ 0)
    (hnew : u.hallAsked.contains HallCmd.jobStop = false) (hidle : u.jobRuns = false) :
    exec .jobStop s = .next (State.emit { u with hallAsked := u.hallAsked ++ [HallCmd.jobStop] } (.hallAsk .jobStop)) := by
  subst hu
  show execJobStop s = _
  simp only [execJobStop, State.askStop, hjob, hnew, hidle, Bool.false_eq_true, if_false]

/-- A higher version of the running job with equal fixed parts is staged. -/
theorem exec_jobUpdate_of_higher (hu : u = s.fset F.jobCtrlUpdate 0) (hruns : u.f F.jobStatusState = 3) (hfree : u.boot.staged = [])
    (hsrc : u.jobSource (s.f F.jobCtrlSrc) reply = (u1, some img)) (hok : u1.checkImage 2 img iv = (u2, .ok))
    (hid : imageJobId img = imageJobId u2.boot.job) (hver : imageVersion u2.boot.job < imageVersion img) (hfix : fixedEqual img u2.boot.job = true) :
    exec (.jobUpdate iv reply) s = .next (State.markLoaded { u2 with boot := { u2.boot with staged := img } } img true) := by
  subst hu
  show execJobUpdate iv reply s = _
  simp only [execJobUpdate, State.stageJob, hruns, hfree, hsrc, hok, hid, hver, hfix, List.isEmpty_nil, ne_eq, not_true_eq_false, Bool.not_true,
    Bool.false_eq_true, or_self, and_self, if_false, if_true]

/-- Settles O44: each clause is what one command answers in its case. -/
theorem imagesJobsAndTheHallStart : Obligations.ImagesJobsAndTheHallStart := by
  refine ⟨?write, ?erase, ?programmed, ?contact, ?found, ?load, ?loaded, ?start, ?timeout, ?stop, ?update⟩
  case write => exact fun _ _ _ _ _ _ _ => exec_cfgWrite_of_accepted
  case erase => exact fun _ _ _ => exec_cfgErase_of_ready
  case programmed => exact fun _ _ _ _ _ hu => ⟨exec_slotProgrammingEnd_of_erase hu, exec_slotProgrammingEnd_of_write hu⟩
  case contact =>
    exact fun _ _ _ _ hjoin hptp hdue hu =>
      ⟨exec_hallContact_of_silent hjoin hptp hdue hu, exec_hallContact_of_answer hjoin hptp hdue hu⟩
  case found => exact fun _ _ => exec_hallFound_of_sole
  case load => exact fun _ _ _ _ _ _ _ => exec_jobLoad_of_checked
  case loaded => exact fun _ _ _ => exec_loadedReceive_of_leader
  case start => exact fun _ _ _ _ => exec_jstart_of_due
  case timeout => exact fun _ _ => exec_jstartTimeout_of_late
  case stop => exact fun _ _ => exec_jobStop_of_loaded
  case update => exact fun _ _ _ _ _ _ _ => exec_jobUpdate_of_higher

end Sys2Proof.Proofs
end

section

/-! ### Handshakes and sessions (R483 to R486) -/

namespace Sys2Proof.Proofs

open Sys2Proof.Machine

variable {s : State} {h : Handshake} {x : Exchange} {ses : Session} {peer : Nat} {feeder ok : Bool}

/-! #### HELLO -/

/-- The REPLY of a responder that has drawn its nonce and the coins of the encapsulation (Table 15.8). -/
def replyTo (h : Handshake) (nonce coins : BitVec 256) (u : State) : List Byte :=
  let body := leBytes 8 h.sid.toNat ++ leBytes 32 nonce.toNat ++ (Config.kemEncap (sliceAt h.bytes 40 1568) coins).1 ++
    u.quote (BitVec.ofNat 256 (leAt h.bytes 8 32)) ++ Config.certChain u.akInput
  body ++ Config.falconSign u.akInput (transcript h.bytes body)

/-- The exchange that a responder keeps with the keys of its REPLY (R484). -/
def responderExchange (h : Handshake) (coins : BitVec 256) (reply : List Byte) (u : State) : Exchange :=
  let ss := (Config.kemEncap (sliceAt h.bytes 40 1568) coins).2
  { peer := h.peer, feeder := h.feeder, initiator := false, sid := h.sid, since := u.now, rekey := (u.session h.peer h.feeder).isSome
    confirm := confirmOf ss (transcript h.bytes reply), keys := keysFrom ss (transcript h.bytes reply) false }

section
variable (hak : s.akReady = true) (hpeer : h.feeder = false) (hown : (s.exchange h.peer h.feeder).any (·.initiator) = false)
include hak hpeer hown

/-- A part that can answer and has sent no HELLO of its own takes one in. -/
theorem hello_admitted : (!s.akReady || h.feeder || ((s.exchange h.peer h.feeder).any (·.initiator) && decide (s.me < h.peer))) = false := by
  rw [hown, hak, hpeer]
  rfl

theorem exec_helloReceive_of_distrusted (hbad : s.trusts h none = false) : exec (.helloReceive h) s = .next (s.refuseExchange h.peer h.feeder) := by
  show execHelloReceive h s = _
  simp only [execHelloReceive, hello_admitted hak hpeer hown, hbad, Bool.not_false, Bool.false_eq_true, if_false, if_true]

theorem exec_helloReceive_of_trusted {d u : State} {reply : List Byte} (hgood : s.trusts h none = true) (hd : d = s.dropExchange h.peer h.feeder)
    (hu : u = d.draw.2.draw.2) (hreply : reply = replyTo h d.draw.1 d.draw.2.draw.1 u) : exec (.helloReceive h) s =
      .next (State.emit { u with exchanges := u.exchanges ++ [responderExchange h d.draw.2.draw.1 reply u] } (.handshakeReply h.peer h.feeder reply)) := by
  subst hreply hu hd
  show execHelloReceive h s = _
  simp only [execHelloReceive, hello_admitted hak hpeer hown, hgood, Bool.not_true, Bool.false_eq_true, if_false]
  rfl

end

/-! #### REPLY and FINISH -/

section
variable (hx : s.exchange h.peer h.feeder = some x) (hsid : x.sid = h.sid)
include hx hsid

/-- The REPLY to the HELLO of this part gives both sides the keys (R484). -/
theorem exec_replyReceive_of_trusted (hinit : x.initiator = true) (hgood : s.trusts h (some x.nonce) = true) : exec (.replyReceive h) s =
    .next ((s.emit (.finish h.peer h.feeder (leBytes 8 x.sid.toNat ++
      leBytes 32 (confirmOf (Config.kemDecap x.seed (sliceAt h.bytes 40 1568)) (transcript x.hello h.bytes)).toNat))).formSession h.peer h.feeder
        (keysFrom (Config.kemDecap x.seed (sliceAt h.bytes 40 1568)) (transcript x.hello h.bytes) true)) := by
  show execReplyReceive h s = _
  simp only [execReplyReceive, hx, hsid, hinit, hgood, Option.filter_some, beq_self_eq_true, Bool.and_self, Bool.not_true, Bool.false_eq_true, if_false, if_true]

theorem exec_replyReceive_of_distrusted (hinit : x.initiator = true) (hbad : s.trusts h (some x.nonce) = false) :
    exec (.replyReceive h) s = .next (s.refuseExchange h.peer h.feeder) := by
  show execReplyReceive h s = _
  simp only [execReplyReceive, hx, hsid, hinit, hbad, Option.filter_some, beq_self_eq_true, Bool.and_self, Bool.not_false, if_true]

theorem exec_finishReceive_of_responder (hresp : x.initiator = false) : exec (.finishReceive h) s =
    .next (if h.confirm = x.confirm then s.formSession h.peer h.feeder x.keys else s.refuseExchange h.peer h.feeder) := by
  show execFinishReceive h s = _
  simp only [execFinishReceive, hx, hsid, hresp, Option.filter_some, beq_self_eq_true, Bool.not_false, Bool.and_self, if_true, apply_ite Host.Outcome.next]

end

/-! #### Time-outs, new keys and the end of a session -/

theorem exec_handshakeTimeout_of_exchange (hx : s.exchange peer feeder = some x) : exec (.handshakeTimeout peer feeder) s =
    .next (if x.since + 50000 ≤ s.now then s.refuseExchange peer feeder else s) := by
  show execHandshakeTimeout peer feeder s = _
  simp only [execHandshakeTimeout, hx, apply_ite Host.Outcome.next]

theorem exec_rekey_of_due (hses : s.session peer feeder = some ses) (hdue : s.rekeyDue ses = true) (hnone : s.exchange peer feeder = none) :
    exec (.rekey peer feeder ok) s = .next (if ok then s.startExchange peer feeder else s.refuseExchange peer feeder) := by
  show execRekey peer feeder ok s = _
  simp only [execRekey, hses, hdue, hnone, Option.isSome_none, Bool.not_true, Bool.or_self, Bool.false_eq_true, if_false, apply_ite Host.Outcome.next]

theorem exec_sessionTxcLimit_of_reached (hses : s.session peer feeder = some ses) (hlimit : 2 ^ 40 ≤ ses.txc) :
    exec (.sessionTxcLimit peer feeder) s = .next (s.endSession peer feeder) := by
  show execSessionTxcLimit peer feeder s = _
  simp only [execSessionTxcLimit, hses, hlimit, if_true]

/-- Settles O38: each clause is what one command answers in its case. -/
theorem handshakesFormSessionsAndSessionsEnd : Obligations.HandshakesFormSessionsAndSessionsEnd := by
  refine ⟨?hello, ?answers, ?timeout, ?rekey, ?limit⟩
  case hello =>
    exact fun _ _ hak hpeer hown => ⟨exec_helloReceive_of_distrusted hak hpeer hown,
      fun hgood => ⟨_, _, _, rfl, rfl, rfl, rfl, rfl, exec_helloReceive_of_trusted hak hpeer hown hgood rfl rfl rfl⟩⟩
  case answers =>
    exact fun _ _ _ hx => ⟨fun hinit hsid => exec_replyReceive_of_trusted hx hsid hinit,
      fun hinit hsid => exec_replyReceive_of_distrusted hx hsid hinit, fun hresp hsid => exec_finishReceive_of_responder hx hsid hresp⟩
  case timeout => exact fun _ _ _ _ => exec_handshakeTimeout_of_exchange
  case rekey => exact fun _ _ _ _ _ => exec_rekey_of_due
  case limit => exact fun _ _ _ _ => exec_sessionTxcLimit_of_reached

end Sys2Proof.Proofs
end

section

/-! ### The SPDM responder (R480, R488 to R490, R494) -/

namespace Sys2Proof.Proofs

open Sys2Proof.Machine

variable {s : State} {tr : Transport} {c : SpdmConn} {offset len block : Nat} {nonce : BitVec 256} {key context : List Byte} {ok : Bool}

/-! #### The connection's start -/

section
variable (hopen : s.spdmOpen = true)
include hopen

theorem exec_getVersion_of_open : exec (.getVersion tr) s = .next ((s.setSpdm tr { phase := 1 }).spdmReply tr [0x13]) := if_pos hopen

variable (hc : c = s.spdmConn tr)
include hc

theorem exec_getCapabilities_of_phase (hphase : 1 ≤ c.phase) :
    exec (.getCapabilities tr) s = .next ((s.setSpdm tr { c with phase := max c.phase 2 }).spdmReply tr []) := by
  subst hc
  exact if_pos (by simp [hopen, hphase])

theorem exec_negotiateAlgorithms_of_phase (hphase : 2 ≤ c.phase) :
    exec (.negotiateAlgorithms tr true) s = .next ((s.setSpdm tr { c with phase := 3 }).spdmReply tr []) := by
  subst hc
  exact if_pos (by simp [hopen, hphase])

end

/-- Algorithms that the part does not have are refused in every state. -/
theorem exec_negotiateAlgorithms_false : exec (.negotiateAlgorithms tr false) s = .next (s.spdmRefuse tr) := if_neg (by simp)

/-! #### A negotiated connection -/

section
variable (hready : s.spdmReady tr = true)
include hready

theorem exec_getDigests_of_ready : exec (.getDigests tr) s = .next (s.spdmReply tr (sha3Sum384 (Config.certChain s.akInput))) := if_pos hready

theorem exec_getCertificate_of_ready (hoff : offset < (Config.certChain s.akInput).length) :
    exec (.getCertificate tr offset len) s = .next (s.spdmReply tr (((Config.certChain s.akInput).drop offset).take len)) :=
  if_pos (by simp [hready, hoff])

theorem exec_challenge_of_ready : exec (.challenge tr nonce) s =
    .next (s.spdmSigned tr (sha3Sum384 (Config.certChain s.akInput) ++ leBytes 32 nonce.toNat)) := if_pos hready

theorem exec_kemx_of_ready (hkey : key.length = 1568) : exec (.kemx tr key) s =
    .next ((s.draw.2.setSpdm tr { s.draw.2.spdmConn tr with psk := some (Config.kemEncap key s.draw.1).2 }).spdmSigned tr (Config.kemEncap key s.draw.1).1) :=
  if_pos (by simp [hready, hkey])

theorem exec_pskExchange_of_psk (hpsk : (s.spdmConn tr).psk.isSome = true) : exec (.pskExchange tr context) s =
    .next ((s.draw.2.setSpdm tr { s.draw.2.spdmConn tr with session := 1, updates := 0 }).spdmReply tr (context ++ leBytes 32 s.draw.1.toNat)) :=
  if_pos (by simp [hready, hpsk])

/-- The requester's MAC decides whether the handshake ends in a session. -/
theorem exec_pskFinish_of_handshake (hses : (s.spdmConn tr).session = 1) : exec (.pskFinish tr ok) s =
    .next (if ok then (s.setSpdm tr { s.spdmConn tr with session := 2 }).spdmReply tr []
      else (s.setSpdm tr { s.spdmConn tr with session := 0 }).spdmRefuse tr) :=
  (if_pos (by simp [hready, hses])).trans (apply_ite Host.Outcome.next _ _ _).symm

end

section
variable (hready : s.spdmReady tr = false)
include hready

/-- A connection that is not negotiated is answered by an error. -/
theorem exec_spdm_of_not_ready : exec (.getDigests tr) s = .next (s.spdmRefuse tr) ∧ exec (.getCertificate tr offset len) s = .next (s.spdmRefuse tr) ∧
    exec (.challenge tr nonce) s = .next (s.spdmRefuse tr) ∧ exec (.kemx tr key) s = .next (s.spdmRefuse tr) ∧
    exec (.pskExchange tr context) s = .next (s.spdmRefuse tr) ∧ exec (.pskFinish tr ok) s = .next (s.spdmRefuse tr) := by
  refine ⟨if_neg ?_, if_neg ?_, if_neg ?_, if_neg ?_, if_neg ?_, if_neg ?_⟩ <;> simp [hready]

end

/-! #### Measurements -/

section
variable (hlevel : s.dbgLevel ≠ 2) (hready : s.spdmReady tr = true)
include hlevel hready

/-- Below level 2 a negotiated connection is served by the block asked for. -/
theorem exec_getMeasurements_of_ready : exec (.getMeasurements tr block nonce) s =
    if block = 0 then .next (s.spdmReply tr [9])
    else if block ≤ 9 then .next (s.spdmReply tr (s.measBlock nonce block))
    else if block = 0xFF then .next (s.spdmReply tr ((List.range 9).flatMap fun n => s.measBlock nonce (n + 1)))
    else .next (s.spdmRefuse tr) := by
  show execGetMeasurements tr block nonce s = _
  simp only [execGetMeasurements, hlevel, hready, Bool.not_true, Bool.false_eq_true, if_false]

theorem exec_getMeasurements_zero : exec (.getMeasurements tr 0 nonce) s = .next (s.spdmReply tr [9]) :=
  exec_getMeasurements_of_ready hlevel hready

theorem exec_getMeasurements_block (hlo : 1 ≤ block) (hhi : block ≤ 9) :
    exec (.getMeasurements tr block nonce) s = .next (s.spdmReply tr (s.measBlock nonce block)) := by
  rw [exec_getMeasurements_of_ready hlevel hready, if_neg (by omega), if_pos hhi]

theorem exec_getMeasurements_all :
    exec (.getMeasurements tr 0xFF nonce) s = .next (s.spdmReply tr ((List.range 9).flatMap fun n => s.measBlock nonce (n + 1))) :=
  exec_getMeasurements_of_ready hlevel hready

end

/-- At level 2 a negotiated connection is served the unsigned quote alone (R494). -/
theorem exec_getMeasurements_of_level2 (hlevel : s.dbgLevel = 2) (hphase : (s.spdmConn tr).phase = 3) : exec (.getMeasurements tr block nonce) s =
    .next (if block = 9 then s.spdmReply tr (s.quote nonce) else s.spdmRefuse tr) := by
  show execGetMeasurements tr block nonce s = _
  simp only [execGetMeasurements, hlevel, hphase, and_true, if_true, apply_ite Host.Outcome.next]

/-! #### Sessions and link IDE -/

section
variable (hsec : s.spdmSecured tr = true)
include hsec

theorem exec_keyUpdate_of_secured : exec (.keyUpdate tr) s =
    .next ((s.setSpdm tr { s.spdmConn tr with updates := (s.spdmConn tr).updates + 1 }).spdmReply tr []) := if_pos hsec

theorem exec_heartbeat_of_secured : exec (.heartbeat tr) s = .next (s.spdmReply tr []) := if_pos hsec

theorem exec_endSession_of_secured : exec (.endSession tr) s =
    .next ((s.setSpdm tr { s.spdmConn tr with psk := none, session := 0, updates := 0 }).spdmReply tr []) := if_pos hsec

end

/-- Inside a session over DOE, IDE_KM starts the stream or ends it. -/
theorem exec_ideKm_doe_of_secured (hsec : s.spdmSecured .doe = true) : exec (.ideKm .doe ok) s =
    .next (if ok then (s.fset F.secStatusIde 1).spdmReply .doe [] else s.endIde.spdmReply .doe []) :=
  (if_pos (by simp [hsec])).trans (apply_ite Host.Outcome.next _ _ _).symm

theorem exec_ideKm_mctp : exec (.ideKm .mctp ok) s = .next (s.spdmRefuse .mctp) := if_neg (by simp)

/-- Outside a session its requests are answered by an error. -/
theorem exec_spdm_of_not_secured (hsec : s.spdmSecured tr = false) : exec (.keyUpdate tr) s = .next (s.spdmRefuse tr) ∧
    exec (.heartbeat tr) s = .next (s.spdmRefuse tr) ∧ exec (.endSession tr) s = .next (s.spdmRefuse tr) ∧
    exec (.ideKm tr ok) s = .next (s.spdmRefuse tr) := by
  refine ⟨if_neg ?_, if_neg ?_, if_neg ?_, if_neg ?_⟩ <;> simp [hsec]

/-- Settles O48: each clause is what one request answers in its phase. -/
theorem spdmRequestsAnswerInTheirPhase : Obligations.SpdmRequestsAnswerInTheirPhase := by
  refine ⟨?start, ?ready, ?notReady, ?level2, ?sessions⟩
  case start =>
    exact fun _ _ _ hopen hc => ⟨exec_getVersion_of_open hopen, exec_getCapabilities_of_phase hopen hc,
      fun hphase => ⟨exec_negotiateAlgorithms_of_phase hopen hc hphase, exec_negotiateAlgorithms_false⟩⟩
  case ready =>
    exact fun _ _ _ _ _ _ _ _ hready => ⟨exec_getDigests_of_ready hready, exec_getCertificate_of_ready hready, exec_challenge_of_ready hready,
      fun hlevel => ⟨exec_getMeasurements_zero hlevel hready, exec_getMeasurements_block hlevel hready, exec_getMeasurements_all hlevel hready⟩,
      exec_kemx_of_ready hready, exec_pskExchange_of_psk hready,
      fun hses => ⟨exec_pskFinish_of_handshake hready hses, exec_pskFinish_of_handshake hready hses⟩⟩
  case notReady => exact fun _ _ _ _ _ _ _ _ => exec_spdm_of_not_ready
  case level2 =>
    exact fun _ _ _ hlevel hphase => ⟨exec_getMeasurements_of_level2 hlevel hphase,
      fun _ hblock => (exec_getMeasurements_of_level2 hlevel hphase).trans (congrArg _ (if_neg hblock))⟩
  case sessions =>
    exact fun _ _ _ => ⟨fun hsec => ⟨exec_keyUpdate_of_secured hsec, exec_heartbeat_of_secured hsec, exec_endSession_of_secured hsec⟩,
      fun hsec => ⟨exec_ideKm_doe_of_secured hsec, exec_ideKm_doe_of_secured hsec⟩, exec_ideKm_mctp, exec_spdm_of_not_secured, rfl⟩

end Sys2Proof.Proofs
end

section

/-! ### Debug access, the test port and self-test sessions (R491 to R494, R547 to R554) -/

namespace Sys2Proof.Proofs

open Sys2Proof.Machine

variable {s u v : State} {l : List Byte} {sigOk : Bool} {kind target level ir t : Nat} {act : State → State}

/-! #### Tokens and levels -/

/-- A token that JTAG submitted in the tick bars that of SRAM (R492). -/
theorem exec_dbgSubmit_of_jtag (hu : u = s.fset F.dbgCtrlSubmit 0) (hj : u.jtagEdge.contains 0 = true) :
    exec (.dbgSubmit sigOk) s = .next (u.refuseToken .aborted) := by
  subst hu
  exact if_pos hj

theorem exec_dbgSubmit_of_read (hu : u = s.fset F.dbgCtrlSubmit 0) (hj : u.jtagEdge.contains 0 = false)
    (hread : u.readBytes .sram (u.f F.dbgTokenBase) (u.f F.dbgTokenLen) = (v, some l)) :
    exec (.dbgSubmit sigOk) s = .next (v.submitToken l sigOk) := by
  subst hu
  show execDbgSubmit sigOk s = _
  simp only [execDbgSubmit, hj, hread, Bool.false_eq_true, if_false]

theorem exec_dbgClose_of_level1 (hu : u = s.fset F.dbgCtrlClose 0) (hlevel : u.dbgLevel = 1)
    (hv : v = ((u.fset F.dbgStatusLevel 0).fset F.dbgStatusGroups 0).fset F.tmSelEn 0) :
    exec .dbgClose s = .next { (v.fset F.tmStatusDriving 0).fset F.tmStatusGroup 0 with dbgOut := 0, muxNext := none } := by
  subst hv hu
  exact if_pos hlevel

theorem exec_fullDebugOpen_of_due (hfull : s.fullDebug = some t) (hdue : t + 2000 ≤ s.now) (hlevel : s.dbgLevel ≠ 2) :
    exec .fullDebugOpen s = .next (s.zeroFill.fset F.dbgStatusLevel 2) := by
  show execFullDebugOpen s = _
  simp only [execFullDebugOpen, hfull, hdue, hlevel, ne_eq, not_false_eq_true, and_self, if_true]

/-! #### The test access port -/

theorem selectAt_of_open (h : level ≤ s.dbgLevel) : s.selectAt level ir act = act (s.select ir) := if_pos h

/-- An instruction closed at the current level leaves the bypass register selected (R548). -/
theorem selectAt_of_closed (h : s.dbgLevel < level) : s.selectAt level ir act = s.select 0xFF := if_neg (Nat.not_le.2 h)

section
variable {boundary : Nat} {bits : List Bool} {value : Word}

/-- The instructions of level 2 act at that level. -/
theorem exec_tap_of_level2 (h : s.dbgLevel = 2) :
    exec (.extest boundary) s = .next { s.select 0x00 with jtag := { (s.select 0x00).jtag with boundary := boundary % 2 ^ 79, driving := true } } ∧
    exec .clamp s = .next ((s.select 0x03).select 0x03 true) ∧
    exec .highz s = .next ((s.select 0x04).select 0x04 true) ∧
    exec (.ijtag bits) s = .next { s.select 0x30 with jtag := { (s.select 0x30).jtag with segments := (s.select 0x30).openSegments bits } } ∧
    exec (.bistctl value) s = .next (if getBits value 0 1 = 1 then
      ((s.select 0x31).jtagActs 2).startBist (getBits value 60 4) (getBits value 32 12) else s.select 0x31) :=
  have hopen : 2 ≤ s.dbgLevel := h.ge
  ⟨congrArg _ (selectAt_of_open hopen), congrArg _ (selectAt_of_open hopen), congrArg _ (selectAt_of_open hopen), congrArg _ (selectAt_of_open hopen),
    congrArg _ (selectAt_of_open hopen)⟩

/-- Below level 2 each of them selects BYPASS. -/
theorem exec_tap_below_level2 (h : s.dbgLevel < 2) :
    exec (.extest boundary) s = .next (s.select 0xFF) ∧ exec .clamp s = .next (s.select 0xFF) ∧ exec .highz s = .next (s.select 0xFF) ∧
    exec (.ijtag bits) s = .next (s.select 0xFF) ∧ exec (.bistctl value) s = .next (s.select 0xFF) :=
  ⟨congrArg _ (selectAt_of_closed h), congrArg _ (selectAt_of_closed h), congrArg _ (selectAt_of_closed h), congrArg _ (selectAt_of_closed h),
    congrArg _ (selectAt_of_closed h)⟩

theorem exec_tmSelWrite : exec (.tmSelWrite value) s =
    .next (if s.jtagEdge.contains 1 then s.fadd F.tmStatusRefused else s.selectGroup value) := (apply_ite Host.Outcome.next _ _ _).symm

end

/-! #### Self-test sessions -/

theorem exec_bistStart (hu : u = s.fset F.tmBistCtrlStart 0) : exec .bistStart s = .next (if u.jtagEdge.contains 2 then u.fadd F.tmStatusRefused
    else u.startBist (u.f F.tmBistCtrlKind) (u.f F.tmBistCtrlTarget)) := by
  subst hu
  exact (apply_ite Host.Outcome.next _ _ _).symm

section
variable (hrun : s.bist.contains (kind, target) = true) (hu : u = State.showBist { s with bist := s.bist.filter fun b => b != (kind, target) })
include hrun hu

theorem exec_bistSessionEnd_of_pass : exec (.bistSessionEnd kind target true) s =
    .next (((u.fset F.tmBistStatusResult Status.ok.code).fset F.tmBistStatusKind kind).fset F.tmBistStatusTarget target) := by
  subst hu
  exact if_neg (by rw [hrun]; decide)

/-- A failed session is counted and posts its record with the target's domain (R552). -/
theorem exec_bistSessionEnd_of_fail : exec (.bistSessionEnd kind target false) s =
    .next (((((u.fset F.tmBistStatusResult Status.aborted.code).fset F.tmBistStatusKind kind).fset F.tmBistStatusTarget target).fadd F.tmBistStatusFails).error
      0x3001 sevUncorrectable (bistDomain kind target) (if kind = 2 then target else 0xFF) 0 0 Status.aborted.code) := by
  subst hu
  exact if_neg (by rw [hrun]; decide)

end

/-- Settles O49: each clause is what one command answers in its case. -/
theorem debugOpensByTokenAndClosesAndTestPortActs : Obligations.DebugOpensByTokenAndClosesAndTestPortActs := by
  refine ⟨fun _ => rfl, ?submit, ?close, ?full, ?always, ?levels, ?start, ?session⟩
  case submit => exact fun _ _ _ _ _ hu => ⟨exec_dbgSubmit_of_jtag hu, exec_dbgSubmit_of_read hu⟩
  case close => exact fun _ _ _ => exec_dbgClose_of_level1
  case full => exact fun _ _ => exec_fullDebugOpen_of_due
  case always => exact fun _ _ _ _ => ⟨rfl, rfl, rfl, rfl, rfl, rfl, rfl⟩
  case levels => exact fun _ _ _ _ => ⟨exec_tap_of_level2, exec_tap_below_level2, rfl, exec_tmSelWrite⟩
  case start => exact fun _ _ => exec_bistStart
  case session => exact fun _ _ _ _ hrun hu => ⟨exec_bistSessionEnd_of_pass hrun hu, exec_bistSessionEnd_of_fail hrun hu⟩

end Sys2Proof.Proofs
end

section

/-! ### Commands that only look (R488, R491, R500, R512, R515, R547, R548) -/

namespace Sys2Proof.Proofs

open Sys2Proof.Machine Sys2Proof.Statements

/-! #### The work of a part

A change of fields outside `work` leaves it alone by `rfl`; the lemmas here are for the functions whose branches or loops have to be walked. -/

/-- What `SameWork` compares, as one value: two states do the same work where it is equal. -/
def work (s : State) :=
  (s.mem, s.errs, s.poison, s.flags, s.queues, s.execs, s.groups, s.moves, s.units, s.step, s.boot)

theorem sameWork_iff {s t : State} : SameWork s t ↔ work t = work s := by
  simp only [SameWork, work, Prod.mk.injEq]

section
variable (s : State)

theorem work_fset (f : Fld) (v i j : Nat) : work (s.fset f v i j) = work s := rfl
theorem work_draw : work s.draw.2 = work s := rfl
theorem work_shiftOut (bits width : Nat) : work (s.shiftOut bits width) = work s := rfl

theorem work_setSpdm (tr : Transport) (c : SpdmConn) : work (s.setSpdm tr c) = work s := by cases tr <;> rfl

theorem work_fclear (f : Fld) (i : Nat) : work (s.fclear f i) = work s := by
  unfold State.fclear
  split <;> rfl

theorem work_endIde : work s.endIde = work s := by
  unfold State.endIde
  split <;> rfl

theorem work_raiseVector (v : Nat) : work (s.raiseVector v) = work s := by
  unfold State.raiseVector
  split_ifs <;> rfl

theorem work_writeHostWin (v : Word) : work (s.writeHostWin v) = work s := by
  unfold State.writeHostWin
  split <;> rfl

theorem work_selectGroup (v : Word) : work (s.selectGroup v) = work s := by
  unfold State.selectGroup
  split <;> rfl

theorem work_selectAt (level ir : Nat) (act : State → State) (hact : ∀ u, work (act u) = work u) : work (s.selectAt level ir act) = work s := by
  unfold State.selectAt
  split
  · exact hact _
  · rfl

theorem work_foldl {α : Type} {f : State → α → State} (l : List α) (hf : ∀ u x, work (f u x) = work u) : work (l.foldl f s) = work s := by
  induction l generalizing s with
  | nil => rfl
  | cons x l ih => exact (ih _).trans (hf s x)

/-- A new challenge is a draw, shown in four registers. -/
theorem work_newChallenge : work s.newChallenge = work s := by
  unfold State.newChallenge
  exact (work_foldl _ _ fun _ _ => work_fset ..).trans (work_draw s)

end

/-! #### Commands -/

/-- A next state of the outcome does the work of the state before. -/
def KeepsWork (s : State) (o : Host.Outcome State Fault Refusal) : Prop := ∀ t, o = .next t → SameWork s t

section
variable {s u : State} {a b : Host.Outcome State Fault Refusal}

theorem KeepsWork.next (h : work u = work s) : KeepsWork s (.next u) := fun _ e => by
  cases e
  exact sameWork_iff.2 h

theorem KeepsWork.ite {c : Prop} [Decidable c] (ha : KeepsWork s a) (hb : KeepsWork s b) : KeepsWork s (if c then a else b) := by
  split
  · exact ha
  · exact hb

end

section
variable (s : State) (tr : Transport)

/-- A request is served, or refused by an error message. -/
theorem keepsWork_of_served {c : Prop} [Decidable c] {u : State} (h : work u = work s) :
    KeepsWork s (if c then .next u else .next (s.spdmRefuse tr)) := .ite (.next h) (.next rfl)

/-- A request that changes its connection and is answered. -/
theorem work_spdmReply_setSpdm (c : SpdmConn) (l : List Byte) : work ((s.setSpdm tr c).spdmReply tr l) = work s := work_setSpdm s tr c

theorem keepsWork_getMeasurements (block : Nat) (nonce : BitVec 256) : KeepsWork s (exec (.getMeasurements tr block nonce) s) :=
  .ite (keepsWork_of_served s tr rfl) (.ite (.next rfl) (.ite (.next rfl) (.ite (.next rfl) (keepsWork_of_served s tr rfl))))

theorem keepsWork_kemx (key : List Byte) : KeepsWork s (exec (.kemx tr key) s) := keepsWork_of_served s tr ((work_setSpdm ..).trans (work_draw s))

theorem keepsWork_pskExchange (context : List Byte) : KeepsWork s (exec (.pskExchange tr context) s) :=
  keepsWork_of_served s tr ((work_setSpdm ..).trans (work_draw s))

theorem keepsWork_pskFinish (ok : Bool) : KeepsWork s (exec (.pskFinish tr ok) s) :=
  .ite (.ite (.next (work_setSpdm s tr _)) (.next (work_setSpdm s tr _))) (.next rfl)

theorem keepsWork_ideKm (ok : Bool) : KeepsWork s (exec (.ideKm tr ok) s) :=
  .ite (.ite (.next rfl) (.next (work_endIde s))) (.next rfl)

theorem keepsWork_msixMessage (n : Nat) : KeepsWork s (exec (.msixMessage n) s) :=
  .ite (.next rfl) (.ite (.next (work_raiseVector _ n)) (.next rfl))

end

/-- Settles O58: every function that these commands are made of leaves `work` alone. -/
theorem lookingCommandsLeaveTheWorkAlone : Obligations.LookingCommandsLeaveTheWorkAlone := by
  simp only [Obligations.LookingCommandsLeaveTheWorkAlone, or_imp, forall_and]
  refine ⟨⟨?idcode, ?bypass, ?clamp, ?highz, ?dbgstatus, ?reset, ?newChal, ?jtagChallenge⟩, ⟨?sample, ?extest, ?ijtag, ?muxsel, ?tmSel⟩,
    ⟨?version, ?capabilities, ?algorithms, ?digests, ?certificate, ?challenge, ?measurements, ?kemx, ?psk, ?pskFinish, ?keyUpdate, ?heartbeat,
      ?endSession, ?ide⟩,
    ⟨?hostWin, ?ledgerWin, ?ledgerWindow, ?badAccess, ?eoi, ?pending, ?msix⟩, ⟨?arp, ?neighbour, ?delayResp, ?delayReq⟩⟩
  case idcode | bypass | dbgstatus | reset => exact fun _ => KeepsWork.next rfl
  case clamp | highz => exact fun s => KeepsWork.next (work_selectAt s _ _ _ fun _ => rfl)
  case newChal => exact fun s => KeepsWork.next (work_newChallenge (s.fset F.dbgCtrlNewChal 0))
  case jtagChallenge => exact fun s => KeepsWork.next ((work_shiftOut ..).trans (work_newChallenge (s.select 0x10)))
  case sample => exact fun _ _ _ _ => KeepsWork.next rfl
  case extest | ijtag => exact fun _ _ _ s => KeepsWork.next (work_selectAt s _ _ _ fun _ => rfl)
  case muxsel => exact fun _ value _ s => KeepsWork.next (work_selectAt s _ _ _ fun u => work_selectGroup (u.jtagActs 1) value)
  case tmSel => exact fun _ value _ s => KeepsWork.ite (.next rfl) (.next (work_selectGroup s value))
  case digests | certificate | challenge | heartbeat => exact fun tr _ _ _ _ _ s => keepsWork_of_served s tr rfl
  case version | capabilities | algorithms | keyUpdate | endSession =>
    exact fun tr _ _ _ _ _ s => keepsWork_of_served s tr (work_spdmReply_setSpdm s tr _ _)
  case measurements => exact fun tr block _ _ nonce _ s => keepsWork_getMeasurements s tr block nonce
  case kemx => exact fun tr _ _ _ _ key s => keepsWork_kemx s tr key
  case psk => exact fun tr _ _ _ _ key s => keepsWork_pskExchange s tr key
  case pskFinish => exact fun tr _ _ ok _ _ s => keepsWork_pskFinish s tr ok
  case ide => exact fun tr _ _ ok _ _ s => keepsWork_ideKm s tr ok
  case hostWin => exact fun _ value s => KeepsWork.ite (.next rfl) (.next (work_writeHostWin s value))
  case ledgerWin | eoi => exact fun _ _ _ => KeepsWork.ite (.next rfl) (.next rfl)
  case ledgerWindow | badAccess => exact fun _ _ _ => KeepsWork.next rfl
  case pending => exact fun n _ s => KeepsWork.ite (.next rfl) (.next (work_fclear s _ n))
  case msix => exact fun n _ s => keepsWork_msixMessage s n
  case arp | neighbour | delayResp | delayReq => exact fun _ _ _ _ => KeepsWork.ite (.next rfl) (.next rfl)

end Sys2Proof.Proofs
end
